-- ==== Sys2Proof/Word.lean ====
section
/-!
DEFINITION. The machine's two word types. A byte is the unit of every memory (R18, R112); a word is the
64 bits of a node instruction word, a lane, a tag and a register (R23, R51).
-/

namespace Sys2Proof

/-- One byte of a memory. -/
abbrev Byte := BitVec 8

/-- One 64-bit word: a lane, a tag, a node instruction word, a global register. -/
abbrev Word := BitVec 64

end Sys2Proof
end

