-- ==== Sys2Proof/Syntax.lean ====
section
/-!
DEFINITION. The instructions and events of the ZQ9: one constructor of `Instr` for every row of the opcode
table. A row that the spec encodes as a node instruction word (R51, R78) carries the word's fields (`Niw`); a
row that the spec describes as an event of the machine (it has no encoding) carries the element it happens at.
-/

namespace Sys2Proof

/-- The two fabric dies (R1, R12). -/
inductive Die where
  | w
  | e
  deriving DecidableEq, Repr

/-- A fabric tile: die, column 0 to 27, row 0 to 23 (R12). -/
structure TileId where
  die : Die
  col : Nat
  row : Nat
  deriving DecidableEq, Repr

/-- The sixteen element formats, in the order of their codes (R75). -/
inductive Fmt where
  | s8 | s16 | s32 | s64 | z8 | z16 | z32 | z64
  | t6 | t8 | e4m3 | e5m2 | bf16 | f16 | f32 | f64
  deriving DecidableEq, Repr

/-- The rounding modes, in the order of their codes 000 to 110 (R76). -/
inductive Rnd where
  | rne | rtz | rup | rdn | rna | sto | ctx
  deriving DecidableEq, Repr

/-- The firing conditions, in the order of their codes: none, .IFT, .IFF, .BUB (R34). -/
inductive Prd where
  | always | ift | iff | bub
  deriving DecidableEq, Repr

/-- An operand slot (R53). -/
inductive Slot where
  | a | b | c | p
  deriving DecidableEq, Repr

/-- A valid target: a slot and a route-table index or block instruction index (R53). -/
structure Target where
  slot : Slot
  dest : BitVec 9
  deriving DecidableEq, Repr

/-- The fields of a node instruction word besides its opcode (R51). A target with V = 0 is `none`. -/
structure Niw where
  fmt : Fmt
  rnd : Rnd
  prd : Prd
  ari : BitVec 2
  xw  : Bool
  imm : BitVec 8
  t0  : Option Target
  t1  : Option Target
  t2  : Option Target
  deriving DecidableEq, Repr

/-- What issues an instruction: a compute tile (R30), or instruction `n` of the block in a block context (R44). -/
inductive Issuer where
  | tile (t : TileId)
  | block (region bc n : Nat)
  deriving DecidableEq, Repr

/-- An element that holds state of a context and receives its round marker (R221). -/
inductive Element where
  | tile (t : TileId)
  | block (region bc : Nat)
  | port (region : Nat)
  | carder (die : Die)
  | lace (array : Nat)
  deriving DecidableEq, Repr

/-- Where an uncorrectable error in committed data stands (R233): a 16-byte group of main memory, or a byte
offset within a memory tile. -/
inductive ErrorPlace where
  | memory (pa : Nat)
  | tile (t : TileId) (offset : Nat)
  deriving DecidableEq, Repr

/-- What is zeroed before a new context can reach it (R118). -/
inductive Zeroed where
  | tile (t : TileId)
  | partition (t : TileId) (ctx : Nat)
  | skein (ctx : Nat)
  | frame (pa : Nat)
  | row (t : TileId) (row : Nat)
  deriving DecidableEq, Repr

/-- The tables that firmware loads at boot and reloads at recovery (R185, R193, R234): the port toward each node, the
privileged host nodes, the node of each gang rank, the node at each port's other end, and the port dependencies: the pairs of
a port and a port that routes of traffic arriving on the first lead to (R229). -/
structure RoutingTables where
  ports : List (Nat × Nat)
  privileged : List Nat
  gangs : List ((Nat × Nat) × Nat)
  peers : List (Nat × Nat)
  relays : List (Nat × Nat)
  deriving DecidableEq, Repr

/-- A firmware image as the boot ROM sees it: whether each of its two signatures verifies (R194), and the digests
that an attestation report carries (R195). -/
structure Firmware where
  rsaOk : Bool
  slhOk : Bool
  digest : BitVec 384
  pagerDigest : BitVec 384
  fuseDigest : BitVec 384
  deriving DecidableEq, Repr

/-- One constructor per row of the opcode table, in the table's order. -/
inductive Instr where
  /-- At power-on the boot ROM verifies both firmware signatures, then trains ports, zeroes memory, loads the pager configuration and accepts FEAT, or else enters the recovery state. (R194) -/
  | powerOnBoot
  /-- A die reaching its thermal trip point stops every context and takes the module's Gwynlink ports down. (R196) -/
  | thermalTrip (die : Die)
  /-- An uncorrectable ECC error in committed data raises machine check 0x380 and stops the context. (R233) -/
  | uncorrectableCommittedError (ctx : Nat) (place : ErrorPlace)
  /-- An uncorrectable error in a speculative LINE row marks the row bad and posts event 0x381 without trapping. (R124) -/
  | speculativeRowError (t : TileId) (row : Nat)
  /-- An uncorrectable matching-store error records 0x382 and stops the context. (R232) -/
  | matchingStoreEcc (t : TileId) (ctx : Nat)
  /-- An uncorrectable configuration-memory error records 0x383 and stops every context that has a plane in the region. (R232) -/
  | configurationMemoryEcc (region : Nat)
  /-- A failed die-bridge lane reports 0x2C0 for each flit that it loses, and no spare lane replaces it. (R184) -/
  | bridgeLaneFail (toward : Die) (lane : Nat)
  /-- Each cycle a router sorts its flits by age and ejects, forwards productively, deflects, or leaves the local candidate uninjected. (R178) -/
  | routerArbitrate (t : TileId)
  /-- A reassembly slot that is still incomplete 65,536 cycles after it was claimed is freed, and 0x2C2 is recorded. (R180) -/
  | reassemblyTimeout (t : TileId)
  /-- At the end of each 1,024-cycle window, a router whose deflection count exceeded TH is throttled for the next window. (R182) -/
  | throttleWindowEnd (t : TileId)
  /-- A Gwynlink port takes a 256-byte link flit, checks its CRC and sequence, acknowledges it or answers with NAK, and delivers its payload. (R187) -/
  | linkFlitReceive (port : Nat)
  /-- Sixteen consecutive replays of one flit take the port down, lose its replay buffer and record 0x2C1 on the affected contexts. (R187) -/
  | gwynlinkPortDown (port : Nat)
  /-- A port that receives no link flit for 100 µs goes down and records 0x2C1. (R234) -/
  | linkSilenceTimeout (port : Nat)
  /-- An LTYPE 4 gang marker arriving on a port marks the local member on first receipt, is forwarded on every port, and closes capture on that port. (R228) -/
  | gangMarkerReceive (port : Nat)
  /-- Firmware loads or reloads the routing, privileged-host and gang tables of the module. (R234) -/
  | routingTableLoad (tables : RoutingTables)
  /-- A FEAT message is answered with the acknowledged feature vector, which is fixed from the first FEAT after reset. (R191) -/
  | hostFeat
  /-- A CFGW message without LOAD writes its words into tier 1 from PA onward. (R189) -/
  | hostCfgw
  /-- A CFGW message with LOAD has the named control tile perform CFGLD of the image at PA into RSET for the given context. (R189) -/
  | hostCfgwLoad
  /-- A host LAUNCH message reads its descriptor and image by physical address and performs a program load or a fabric load. (R189) -/
  | hostLaunch
  /-- An ATTACH message sets an endpoint's range in a node's memory and returns its position to 0. (R190) -/
  | hostAttach
  /-- A module whose memory holds an attached range answers an EPDATA read request as a host does. (R190) -/
  | epdataReadRequest
  /-- EPDATA read data echoing a RID completes the waiting HIN. (R190) -/
  | epdataReadData
  /-- EPDATA write data is written into a range that the module holds, and an acknowledgement is returned. (R190) -/
  | epdataWriteData
  /-- An EPDATA write acknowledgement lets the waiting HOUT or endpoint SNAP emit. (R190) -/
  | epdataWriteAck
  /-- An ATTEST nonce is answered with the signed 16,808-byte attestation report, sent as a run of ATTEST messages. (R195) -/
  | hostAttest
  /-- An END message marks a running context and ends it once Frozen, or ends a Frozen or Stopped context at once. (R189) -/
  | hostEnd
  /-- A host message of an undefined kind is dropped, and a COMPL with cause 0x041 is returned. (R188) -/
  | hostMessageUnknown
  /-- The region arbiter grants the head launch, or a disjoint one, reserving shadow planes and assigning the lowest free context number. (R218) -/
  | arbiterGrant
  /-- Once the configuration-complete wave has crossed every region, the launch's seeds are injected in the order written. (R49) -/
  | seedInjection (ctx : Nat)
  /-- The matching store accepts one token per cycle and fills, allocates, merges or spills its (tag, node) entry. (R29) -/
  | tokenMatch (t : TileId)
  /-- A partial entry fetched back from the Skein table is merged and joins the issue order or takes a way. (R144) -/
  | skeinRefill (t : TileId)
  /-- A compute tile issues its oldest ready entry into the six-stage pipeline, which emits its results to up to three targets. (R30) -/
  | issue (who : Issuer)
  /-- A tile receiving a loop's kill mark discards tokens above it and frees the waiting entries of killed iterations within 256 cycles. (R38) -/
  | killMarkReceive (t : TileId)
  /-- The region store buffer performs a held store once its wave-chain predecessors are done and earlier iterations have continued. (R129) -/
  | storeBufferRelease (region : Nat)
  /-- A node that has received the drain on every awaited slot and holds no entry of the context passes it once to each of its targets. (R47) -/
  | drainPass (t : TileId) (node : Nat)
  /-- The Spindle swaps a region's planes in one region cycle once the drain has passed every node and nothing of the context remains. (R47) -/
  | planeSwap (region : Nat)
  /-- Under SPLICE, a tile switches planes on its own once the predecessor's drain has passed all of its nodes. (R48) -/
  | spliceTileSwitch (t : TileId)
  /-- A gated bank wakes within 1.2 µs, reading as zero, and the accesses held during the wake are then answered. (R117) -/
  | bankWake (t : TileId)
  /-- A token on channel 12 + g starts address generator g from its position counter, or is dropped with 0x107 if EN = 0. (R106) -/
  | generatorStart (t : TileId) (g : Nat)
  /-- A generator that has moved its last element resets its positions and returns a completion token with the element count. (R106) -/
  | generatorStop (t : TileId) (g : Nat)
  /-- A writer held by back-pressure on a full buffer or a full FIFO proceeds once room frees. (R108) -/
  | heldWriteResume (t : TileId)
  /-- A COMMIT command on channel 11 retires committed slots, promotes up to c speculative rows, discards the rest and returns c. (R109) -/
  | lineCommit (t : TileId)
  /-- On a translation-cache miss the port walks the page table, then fills the cache, faults with 0x141, or parks the access. (R122) -/
  | pageWalk (region : Nat)
  /-- The pager answers a fault flit by allocating and zeroing a frame, waiting for a migration, or recording 0x140. (R123) -/
  | pagerFaultService (die : Die)
  /-- When the pager's answer returns, the parked node issues again. (R122) -/
  | parkedAccessReissue (region : Nat)
  /-- The pager moves a page between tiers by marking it in transit, invalidating, copying, writing the new leaf and releasing parked accesses. (R123) -/
  | pageMigration (ctx : Nat) (page : Nat)
  /-- A threshold-cell read reply reaches a verdict slot and sets θ if its epoch matches the descriptor's. (R154) -/
  | verdictCellReply (t : TileId)
  /-- A waiting SANRM or SAEVC proceeds once the row's add count reaches its required count. (R164) -/
  | sanrmCountReached (t : TileId)
  /-- The matrix block runs a queued MMA or MMAZ for 8 or 16 cycles, writes Q once, empties the buffers and emits completion. (R297) -/
  | mmaExecute (t : TileId)
  /-- The block fetcher loads and checks a block at its address before any instruction fires, or stops the block context with a fault. (R43) -/
  | blockFetch (region bc : Nat)
  /-- When all SM stores, WM registers and one exit are counted, the block releases its stores in LSID order, writes registers and fetches the next block. (R45) -/
  | blockCommit (region bc : Nat)
  /-- 65,536 cycles without firing stop the block context with 0x341 and discard its held stores and writes. (R45) -/
  | blockStallTimeout (region bc : Nat)
  /-- An element receiving the round marker freezes, drains or saves its state of the context as its row gives. (R222) -/
  | markerDelivery (ctx : Nat) (el : Element)
  /-- An element becomes quiet once its sources' markers and counted tokens have arrived and its requests are answered. (R223) -/
  | elementQuiet (ctx : Nat) (el : Element)
  /-- A control tile accepts an event, Lace or fault record into its event queue, or holds or drops it when the queue is full. (R230) -/
  | eventRecordEnqueue (region : Nat)
  /-- Consumes its operands and emits nothing. (R300) -/
  | nop (n : Niw)
  /-- Copies its operand to up to three targets. (R298) -/
  | mov (n : Niw)
  /-- Emits a constant word at template entry, at block start or on slot p. (R256) -/
  | const (n : Niw)
  /-- Emits null tokens to instructions of a block. (R301) -/
  | nullTok (n : Niw)
  /-- Sends its operand to TGT0 or TGT1 according to a predicate. (R325) -/
  | steer (n : Niw)
  /-- Admits loop iterations within the window on slot a and counts retire tokens on slot b. (R275) -/
  | gate (n : Niw)
  /-- Resolves an iteration as continuing, releases a held EXITL, and emits under the incremented field. (R338) -/
  | wave (n : Niw)
  /-- Opens a loop instance with window k and pushes an iteration field of 0. (R249) -/
  | bound (n : Niw)
  /-- Leaves a loop once earlier iterations have continued, sets the kill mark, pops the field and emits. (R262) -/
  | exitl (n : Niw)
  /-- Pushes a tag field and emits under the new tag. (R306) -/
  | pushf (n : Niw)
  /-- Pops the innermost tag field and emits under the shorter tag. (R306) -/
  | popf (n : Niw)
  /-- Emits a field, CTX, DEPTH or the whole tag of its operand. (R330) -/
  | tagrd (n : Niw)
  /-- Emits its operand under a tag with a field, CTX or the whole tag rewritten. (R331) -/
  | tagwr (n : Niw)
  /-- Pushes a call-site field and emits to the callee's entry. (R250) -/
  | call (n : Niw)
  /-- Pops the call-site field s and emits to route entry D + s. (R308) -/
  | ret (n : Niw)
  /-- Emits slot a's value once all its slots are full. (R284) -/
  | join (n : Niw)
  /-- The counting form gathers n leaves under an aggregate tag and emits a merged completion word. (R285) -/
  | joinCount (n : Niw)
  /-- In fabric mode, sends a drain token to each valid target. (R259) -/
  | drainFabric (n : Niw)
  /-- In block mode, sends drains to a launch's seed slots and emits the launch number once every Spindle of its set has swapped. (R174) -/
  | drainBlock (n : Niw)
  /-- Emits its operand with the predicate set by a test. (R304) -/
  | pchk (n : Niw)
  /-- Exits the block to the address in slot a. (R246) -/
  | br (n : Niw)
  /-- Exits to slot a or slot b according to condition c. (R246) -/
  | brc (n : Niw)
  /-- Exits to a target and pushes a return address at commit. (R246) -/
  | bcall (n : Niw)
  /-- Exits to the top of the return stack and pops it at commit. (R246) -/
  | bret (n : Niw)
  /-- Emits a global register as last committed. (R276) -/
  | grd (n : Niw)
  /-- Counts a register and writes it at commit. (R278) -/
  | gwr (n : Niw)
  /-- Adds integer elements, optionally saturating. (R245) -/
  | add (n : Niw)
  /-- Subtracts integer elements, optionally saturating. (R326) -/
  | sub (n : Niw)
  /-- Gives the low half of integer products. (R299) -/
  | mul (n : Niw)
  /-- Gives the high half of integer products. (R299) -/
  | mulh (n : Niw)
  /-- Forms a·b + c modulo 2^w. (R293) -/
  | mad (n : Niw)
  /-- Gives the truncated quotient or remainder, faulting 0x0C2 on division by zero. (R258) -/
  | div (n : Niw)
  /-- Takes the smaller integer element. (R295) -/
  | min (n : Niw)
  /-- Takes the larger integer element. (R295) -/
  | max (n : Niw)
  /-- Bitwise AND of elements. (R245) -/
  | andI (n : Niw)
  /-- Bitwise OR of elements. (R302) -/
  | orI (n : Niw)
  /-- Bitwise XOR of elements. (R340) -/
  | xorI (n : Niw)
  /-- Bitwise a AND NOT b of elements. (R245) -/
  | andn (n : Niw)
  /-- Shifts elements left. (R314) -/
  | shl (n : Niw)
  /-- Shifts elements right logically. (R314) -/
  | shr (n : Niw)
  /-- Shifts elements right arithmetically. (R314) -/
  | sar (n : Niw)
  /-- Counts leading zeros of each element. (R254) -/
  | clz (n : Niw)
  /-- Counts set bits of each element. (R305) -/
  | popc (n : Niw)
  /-- Compares integers and sets the predicate. (R255) -/
  | cmp (n : Niw)
  /-- Selects a or b per element by c. (R320) -/
  | sel (n : Niw)
  /-- Extracts and extends a bit field. (R263) -/
  | ext (n : Niw)
  /-- Forms a + (b << s) on whole lanes. (R292) -/
  | lea (n : Niw)
  /-- Float add, rounded once. (R266) -/
  | fadd (n : Niw)
  /-- Float subtract, rounded once. (R266) -/
  | fsub (n : Niw)
  /-- Float multiply, rounded once. (R266) -/
  | fmul (n : Niw)
  /-- Fused multiply-add, rounded once. (R266) -/
  | ffma (n : Niw)
  /-- Float divide, rounded once. (R266) -/
  | fdiv (n : Niw)
  /-- Correctly rounded square root. (R271) -/
  | fsqrt (n : Niw)
  /-- Correctly rounded reciprocal. (R271) -/
  | frcp (n : Niw)
  /-- Correctly rounded reciprocal square root. (R271) -/
  | frsq (n : Niw)
  /-- IEEE minimumNumber of two floats. (R270) -/
  | fmin (n : Niw)
  /-- IEEE maximumNumber of two floats. (R270) -/
  | fmax (n : Niw)
  /-- Negates, takes the absolute value of, or copies a sign onto a float by its bits. (R274) -/
  | fsgn (n : Niw)
  /-- Compares floats and sets the predicate. (R268) -/
  | fcmp (n : Niw)
  /-- Classifies elements and tests the classes. (R267) -/
  | fcls (n : Niw)
  /-- Converts between any two formats. (R269) -/
  | fcvt (n : Niw)
  /-- Rounds to an integral value in the same format. (R272) -/
  | frnd (n : Niw)
  /-- Multiplies by a power of two, rounded once. (R273) -/
  | fscl (n : Niw)
  /-- Broadcasts one lane to all sixteen lanes. (R248) -/
  | bcst (n : Niw)
  /-- Permutes the lanes of a vector. (R321) -/
  | shuf (n : Niw)
  /-- Gathers one element from each lane into consecutive positions. (R303) -/
  | pack (n : Niw)
  /-- Spreads elements into lanes, one per lane. (R335) -/
  | unpk (n : Niw)
  /-- Reduces the elements of one token by the canonical tree. (R337) -/
  | vred (n : Niw)
  /-- Forms the running prefix of a token's elements. (R315) -/
  | scan (n : Niw)
  /-- Combines tokens of one aggregate tag along the canonical tree and emits the root or partials. (R334) -/
  | tred (n : Niw)
  /-- Draws 64 Philox bits per lane. (R309) -/
  | rng (n : Niw)
  /-- Loads one element from main memory or a memory tile. (R290) -/
  | ld (n : Niw)
  /-- Stores one element to main memory or a memory tile. (R324) -/
  | st (n : Niw)
  /-- Loads a 128-byte vector. (R290) -/
  | ldv (n : Niw)
  /-- Stores a 128-byte vector. (R324) -/
  | stv (n : Niw)
  /-- Gathers up to sixteen elements through the Carder. (R277) -/
  | gth (n : Niw)
  /-- Scatters elements through the Carder. (R317) -/
  | sct (n : Niw)
  /-- Scatters ranked elements against a bound, stopping resumably with 0x106. (R318) -/
  | sctCompact (n : Niw)
  /-- Reads a write-once word, deferring while it is empty. (R282) -/
  | ird (n : Niw)
  /-- Writes a write-once word and answers its queued readers, or faults 0x104 if full. (R282) -/
  | iwr (n : Niw)
  /-- Resets a full write-once word to empty. (R282) -/
  | irst (n : Niw)
  /-- Reads bytes from a host endpoint at its position. (R280) -/
  | hin (n : Niw)
  /-- Writes bytes to a host endpoint at its position. (R280) -/
  | hout (n : Niw)
  /-- Atomic add returning the old word. (R242) -/
  | aadd (n : Niw)
  /-- Atomic minimum returning the old word. (R242) -/
  | amin (n : Niw)
  /-- Atomic maximum returning the old word. (R242) -/
  | amax (n : Niw)
  /-- Atomic logical operation returning the old word. (R242) -/
  | alog (n : Niw)
  /-- Atomic exchange returning the old word. (R242) -/
  | axch (n : Niw)
  /-- Atomic compare-and-swap returning the old word. (R242) -/
  | acas (n : Niw)
  /-- Contributes a leaf to a canonical-tree reduction into a memory word at the combine store. (R307) -/
  | red (n : Niw)
  /-- Queues a multiply of two operand buffers into an accumulator tile. (R297) -/
  | mma (n : Niw)
  /-- Queues a multiply into a zeroed accumulator tile. (R297) -/
  | mmaz (n : Niw)
  /-- Reads an accumulator tile out as 16 row tokens. (R243) -/
  | acrd (n : Niw)
  /-- Writes one row of an accumulator tile. (R244) -/
  | acwr (n : Niw)
  /-- Forms, decodes or multiplies E8M0 block scales. (R316) -/
  | scle (n : Niw)
  /-- Corner-turns a 16 × 16 block, emitting columns once all rows arrive. (R257) -/
  | ctrn (n : Niw)
  /-- Claims a verdict slot, reads the threshold cell and emits the first wanted block index. (R148) -/
  | vopen (n : Niw)
  /-- Adds a block term, runs the bound test and emits the next block index. (R149) -/
  | vacc (n : Niw)
  /-- Emits the sum or abandoned value and frees the verdict slot. (R151) -/
  | vclose (n : Niw)
  /-- Tests whether a value is an abandoned value. (R336) -/
  | vchk (n : Niw)
  /-- Raises a threshold cell at the combine store. (R153) -/
  | vthrRaise (n : Niw)
  /-- Resets a threshold cell and increments its epoch, after its JOIN. (R153) -/
  | vthrReset (n : Niw)
  /-- Merges an input into a top-k list, optionally streams thresholds, and emits the list at count n. (R155) -/
  | vtopk (n : Niw)
  /-- Adds values exactly into a stream accumulator row. (R162) -/
  | saadd (n : Niw)
  /-- Reads columns of a row through the RMS-normalising port. (R164) -/
  | sanrm (n : Niw)
  /-- Returns a row's count and flags. (R165) -/
  | sacnt (n : Niw)
  /-- Defines and zeroes a row. (R161) -/
  | sazro (n : Niw)
  /-- Writes a row image and optionally evicts the row. (R167) -/
  | saevc (n : Niw)
  /-- Loads a row from a checked image. (R168) -/
  | salod (n : Niw)
  /-- Binds a stream to an array, loading the graph if needed. (R197) -/
  | lbind (n : Niw)
  /-- Feeds symbols to a stream and replies with its feed status. (R289) -/
  | lfeed (n : Niw)
  /-- Computes the next-class mask, following forced tokens. (R208) -/
  | lqry (n : Niw)
  /-- Saves a stream image and releases or keeps the slot. (R289) -/
  | lsusp (n : Niw)
  /-- Restores a stream from a save image into a free slot. (R211) -/
  | lresm (n : Niw)
  /-- Frees a stream and its configurations. (R212) -/
  | ldrop (n : Niw)
  /-- Loads an image into the shadow planes of a region set. (R251) -/
  | cfgld (n : Niw)
  /-- Asks for and waits on the plane swap of a region set. (R253) -/
  | cfgsw (n : Niw)
  /-- Chains the shadow configuration behind a running context. (R323) -/
  | splice (n : Niw)
  /-- Starts a context from a launch handle through the arbiter. (R286) -/
  | launch (n : Niw)
  /-- Injects one further seed token into a running context. (R319) -/
  | seed (n : Niw)
  /-- Takes the oldest selected record of a launch from the event queue. (R261) -/
  | evwait (n : Niw)
  /-- Posts an event record to the home control tile. (R260) -/
  | evpost (n : Niw)
  /-- Marks a context with a round and delivers the round marker. (R294) -/
  | markFreeze (n : Niw)
  /-- Marks the leader's member and starts a gang switch. (R294) -/
  | markGang (n : Niw)
  /-- Resumes a Frozen context in place. (R294) -/
  | markResume (n : Niw)
  /-- Writes the image of a Frozen or Stopped context, optionally ending it. (R322) -/
  | snap (n : Niw)
  /-- Restores a context from an image into a region set. (R310) -/
  | rstr (n : Niw)
  /-- Invalidates translations of a range and repatches generators. (R339) -/
  | xlinv (n : Niw)
  /-- Reads the throttling state of a router or region, optionally clearing TWIN. (R183) -/
  | throt (n : Niw)
  /-- Reads a system register. (R329) -/
  | sysrd (n : Niw)
  /-- Reads SYS.FLTDROP and clears it. (R230) -/
  | sysrdFltdrop (n : Niw)
  /-- Writes the context mode word, which later loads and fetches resolve. (R99) -/
  | syswrMode (n : Niw)
  /-- Writes SYS.THROTWIN from a system configuration, effective at each router's next window. (R182) -/
  | syswrThrotwin (n : Niw)
  /-- A write to any other system register is refused with 0x103. (R327) -/
  | syswr (n : Niw)
  /-- Records software fault 0x3C0 + n, optionally stopping the context. (R332) -/
  | trap (n : Niw)
  /-- Counts the block's exit, leaving the block context idle at commit. (R279) -/
  | halt (n : Niw)
  /-- Firmware retrains a Gwynlink port that went down, and the port carries link flits again. (R187) -/
  | gwynlinkPortRetrain (port : Nat)
  /-- The zeroing of a memory tile, partition, Skein table, frame or accumulator row ends, and the accesses held during it are answered with zeros. (R118) -/
  | zeroingEnd (what : Zeroed)
  /-- A module in the recovery state accepts a new firmware image over its Gwynlink ports. (R194) -/
  | newFirmwareImage (image : Firmware)
  deriving DecidableEq, Repr

end Sys2Proof
end

