-- ==== Sys2Proof/Machine/Encoding.lean ====
section
/-!
DEFINITION. The encoding tables: what the opcode map and each instruction's entry allow in each field of a node
instruction word (R51 to R55, R77, R78, R239 to R340), and which constructor a word's fields name.
-/

namespace Sys2Proof

/-- The code of a format (R75). -/
def Fmt.code : Fmt → Nat
  | .s8 => 0 | .s16 => 1 | .s32 => 2 | .s64 => 3 | .z8 => 4 | .z16 => 5 | .z32 => 6 | .z64 => 7
  | .t6 => 8 | .t8 => 9 | .e4m3 => 10 | .e5m2 => 11 | .bf16 => 12 | .f16 => 13 | .f32 => 14 | .f64 => 15

/-- The format of a code (R75). -/
def Fmt.ofCode (k : Nat) : Fmt :=
  match k % 16 with
  | 0 => .s8 | 1 => .s16 | 2 => .s32 | 3 => .s64 | 4 => .z8 | 5 => .z16 | 6 => .z32 | 7 => .z64
  | 8 => .t6 | 9 => .t8 | 10 => .e4m3 | 11 => .e5m2 | 12 => .bf16 | 13 => .f16 | 14 => .f32 | _ => .f64

/-- The width of an element in bits (R75). -/
def Fmt.width : Fmt → Nat
  | .s8 | .z8 | .t8 | .e4m3 | .e5m2 => 8
  | .s16 | .z16 | .bf16 | .f16 => 16
  | .s32 | .z32 | .f32 => 32
  | .s64 | .z64 | .f64 => 64
  | .t6 => 6

/-- Elements in one 64-bit lane: 64/w, and ten for T6 (R86, R89). -/
def Fmt.perLane (f : Fmt) : Nat := 64 / f.width

/-- The signed integer formats. -/
def Fmt.signed (f : Fmt) : Bool := f.code < 4

/-- The float and tapered formats, codes 0x8 to 0xF. -/
def Fmt.isFloat (f : Fmt) : Bool := 8 ≤ f.code

/-- The code of a rounding mode (R76). -/
def Rnd.code : Rnd → Nat
  | .rne => 0 | .rtz => 1 | .rup => 2 | .rdn => 3 | .rna => 4 | .sto => 5 | .ctx => 6

/-- The rounding mode of a code; 111 is reserved (R76). -/
def Rnd.ofCode : Nat → Option Rnd
  | 0 => some .rne | 1 => some .rtz | 2 => some .rup | 3 => some .rdn | 4 => some .rna | 5 => some .sto
  | 6 => some .ctx | _ => none

/-- The code of a firing condition (R34). -/
def Prd.code : Prd → Nat
  | .always => 0 | .ift => 1 | .iff => 2 | .bub => 3

/-- The firing condition of a code (R34). -/
def Prd.ofCode (k : Nat) : Prd :=
  match k % 4 with
  | 0 => .always | 1 => .ift | 2 => .iff | _ => .bub

/-- The code of a slot (R53). -/
def Slot.code : Slot → Nat
  | .a => 0 | .b => 1 | .c => 2 | .p => 3

/-- The slot of a code (R53). -/
def Slot.ofCode (k : Nat) : Slot :=
  match k % 4 with
  | 0 => .a | 1 => .b | 2 => .c | _ => .p

/-- What an instruction lets the RND field hold (R51, R96, R264): `exact` requires 000; `any` takes every mode;
`noSto` refuses 101; `floatNoSto` is `exact` for integer formats and `noSto` for float ones; `f64NoSto` is
`noSto` for F64 and `exact` for F32 (R244). -/
inductive RndRule where
  | exact | any | noSto | floatNoSto | f64NoSto
  deriving DecidableEq, Repr

/-- What an opcode's entry allows: modes; accepted formats as a bit map by code; rounding; the allowed pairs of ARI
and XW in fabric and in block mode; the used bits of IMM8 without constant index and LSID; whether IMM8[2:0] is a
constant index in block mode; whether it is a memory instruction (0x70 to 0x86); the most targets in each mode. -/
structure Rule where
  fab : Bool
  blk : Bool
  fmts : Nat
  rnd : RndRule
  formsF : List (Nat × Bool)
  formsB : List (Nat × Bool)
  imm : Nat
  bconst : Bool
  mem : Bool
  tgtF : Nat
  tgtB : Nat
  deriving DecidableEq, Repr

/-- The opcode map with each entry's field table (R78); an opcode without a row is reserved. -/
def rule : Nat → Option Rule
  | 0x00 => some ⟨true, true, 0x0001, .exact, [(0, false), (1, false), (2, false), (3, false)], [(0, false), (1, false), (2, false), (3, false)], 0x00, false, false, 0, 0⟩  -- NOP
  | 0x01 => some ⟨true, true, 0x0001, .exact, [(1, false)], [(1, false)], 0x00, false, false, 3, 3⟩  -- MOV
  | 0x02 => some ⟨true, true, 0x0001, .exact, [(0, true)], [(0, true)], 0x00, true, false, 3, 3⟩  -- CONST
  | 0x03 => some ⟨false, true, 0x0001, .exact, [(0, false), (1, false)], [(0, false), (1, false)], 0x00, false, false, 3, 3⟩  -- NULL
  | 0x04 => some ⟨true, true, 0x0001, .exact, [(1, false)], [(1, false)], 0x00, false, false, 2, 2⟩  -- STEER
  | 0x05 => some ⟨true, false, 0x0001, .exact, [(1, false), (2, false)], [(1, false), (2, false)], 0x00, false, false, 3, 3⟩  -- GATE
  | 0x06 => some ⟨true, false, 0x0001, .exact, [(1, false)], [(1, false)], 0x00, false, false, 3, 3⟩  -- WAVE
  | 0x07 => some ⟨true, false, 0x0001, .exact, [(1, false)], [(1, false)], 0xFF, false, false, 3, 3⟩  -- BOUND
  | 0x08 => some ⟨true, false, 0x0001, .exact, [(1, false)], [(1, false)], 0x00, false, false, 3, 3⟩  -- EXITL
  | 0x09 => some ⟨true, false, 0x0001, .exact, [(1, false), (2, false)], [(1, false), (2, false)], 0xFF, false, false, 3, 3⟩  -- PUSHF
  | 0x0A => some ⟨true, false, 0x0001, .exact, [(1, false)], [(1, false)], 0x00, false, false, 3, 3⟩  -- POPF
  | 0x0B => some ⟨true, false, 0x0001, .exact, [(1, false)], [(1, false)], 0x3F, false, false, 3, 3⟩  -- TAGRD
  | 0x0C => some ⟨true, false, 0x0001, .exact, [(2, false)], [(2, false)], 0x3F, false, false, 3, 3⟩  -- TAGWR
  | 0x0D => some ⟨true, false, 0x0001, .exact, [(1, false)], [(1, false)], 0xFF, false, false, 3, 3⟩  -- CALL
  | 0x0E => some ⟨true, false, 0x0001, .exact, [(1, false)], [(1, false)], 0x00, false, false, 1, 3⟩  -- RET
  | 0x0F => some ⟨true, true, 0x0001, .exact, [(1, false), (2, false), (3, false)], [(1, false), (2, false), (3, false)], 0xFF, false, false, 3, 3⟩  -- JOIN
  | 0x10 => some ⟨true, true, 0x0001, .exact, [(1, false)], [(1, false)], 0x00, false, false, 3, 3⟩  -- DRAIN
  | 0x11 => some ⟨true, true, 0x0001, .exact, [(1, false)], [(1, false)], 0x07, false, false, 3, 3⟩  -- PCHK
  | 0x12 => some ⟨false, true, 0x0001, .exact, [(1, false)], [(1, false)], 0x00, false, false, 3, 0⟩  -- BR
  | 0x13 => some ⟨false, true, 0x0001, .exact, [(3, false)], [(3, false)], 0x00, false, false, 3, 0⟩  -- BRC
  | 0x14 => some ⟨false, true, 0x0001, .exact, [(2, false)], [(2, false)], 0x00, false, false, 3, 0⟩  -- BCALL
  | 0x15 => some ⟨false, true, 0x0001, .exact, [(0, false)], [(0, false)], 0x00, false, false, 3, 0⟩  -- BRET
  | 0x16 => some ⟨false, true, 0x0001, .exact, [(0, false)], [(0, false)], 0x3F, false, false, 3, 3⟩  -- GRD
  | 0x17 => some ⟨false, true, 0x0001, .exact, [(1, false)], [(1, false)], 0x3F, false, false, 3, 0⟩  -- GWR
  | 0x20 => some ⟨true, true, 0x00FF, .exact, [(2, false), (1, true)], [(2, false), (1, true)], 0x80, true, false, 3, 3⟩  -- ADD
  | 0x21 => some ⟨true, true, 0x00FF, .exact, [(2, false), (1, true)], [(2, false), (1, true)], 0x80, true, false, 3, 3⟩  -- SUB
  | 0x22 => some ⟨true, true, 0x00FF, .exact, [(2, false), (1, true)], [(2, false), (1, true)], 0x00, true, false, 3, 3⟩  -- MUL
  | 0x23 => some ⟨true, true, 0x00FF, .exact, [(2, false), (1, true)], [(2, false), (1, true)], 0x00, true, false, 3, 3⟩  -- MULH
  | 0x24 => some ⟨true, true, 0x00FF, .exact, [(3, false), (2, true)], [(3, false), (2, true)], 0x00, true, false, 3, 3⟩  -- MAD
  | 0x25 => some ⟨true, true, 0x00FF, .exact, [(2, false), (1, true)], [(2, false)], 0x03, false, false, 3, 3⟩  -- DIV
  | 0x26 => some ⟨true, true, 0x00FF, .exact, [(2, false), (1, true)], [(2, false), (1, true)], 0x00, true, false, 3, 3⟩  -- MIN
  | 0x27 => some ⟨true, true, 0x00FF, .exact, [(2, false), (1, true)], [(2, false), (1, true)], 0x00, true, false, 3, 3⟩  -- MAX
  | 0x28 => some ⟨true, true, 0x00FF, .exact, [(2, false), (1, true)], [(2, false), (1, true)], 0x00, true, false, 3, 3⟩  -- AND
  | 0x29 => some ⟨true, true, 0x00FF, .exact, [(2, false), (1, true)], [(2, false), (1, true)], 0x00, true, false, 3, 3⟩  -- OR
  | 0x2A => some ⟨true, true, 0x00FF, .exact, [(2, false), (1, true)], [(2, false), (1, true)], 0x00, true, false, 3, 3⟩  -- XOR
  | 0x2B => some ⟨true, true, 0x00FF, .exact, [(2, false), (1, true)], [(2, false), (1, true)], 0x00, true, false, 3, 3⟩  -- ANDN
  | 0x2C => some ⟨true, true, 0x00FF, .exact, [(2, false), (1, true)], [(2, false), (1, true)], 0x00, true, false, 3, 3⟩  -- SHL
  | 0x2D => some ⟨true, true, 0x00FF, .exact, [(2, false), (1, true)], [(2, false), (1, true)], 0x00, true, false, 3, 3⟩  -- SHR
  | 0x2E => some ⟨true, true, 0x00FF, .exact, [(2, false), (1, true)], [(2, false), (1, true)], 0x00, true, false, 3, 3⟩  -- SAR
  | 0x2F => some ⟨true, true, 0x00FF, .exact, [(1, false)], [(1, false)], 0x00, false, false, 3, 3⟩  -- CLZ
  | 0x30 => some ⟨true, true, 0x00FF, .exact, [(1, false)], [(1, false)], 0x00, false, false, 3, 3⟩  -- POPC
  | 0x31 => some ⟨true, true, 0x00FF, .exact, [(2, false), (1, true)], [(2, false), (1, true)], 0x38, true, false, 3, 3⟩  -- CMP
  | 0x32 => some ⟨true, true, 0x00FF, .exact, [(3, false), (2, true)], [(3, false), (2, true)], 0x00, true, false, 3, 3⟩  -- SEL
  | 0x33 => some ⟨true, true, 0x00FF, .exact, [(2, false), (1, true)], [(2, false), (1, true)], 0x00, true, false, 3, 3⟩  -- EXT
  | 0x34 => some ⟨true, true, 0x0001, .exact, [(2, false), (1, true)], [(2, false)], 0x3F, false, false, 3, 3⟩  -- LEA
  | 0x40 => some ⟨true, true, 0xFF00, .any, [(2, false), (1, true)], [(2, false), (1, true)], 0x00, true, false, 3, 3⟩  -- FADD
  | 0x41 => some ⟨true, true, 0xFF00, .any, [(2, false), (1, true)], [(2, false), (1, true)], 0x00, true, false, 3, 3⟩  -- FSUB
  | 0x42 => some ⟨true, true, 0xFF00, .any, [(2, false), (1, true)], [(2, false), (1, true)], 0x00, true, false, 3, 3⟩  -- FMUL
  | 0x43 => some ⟨true, true, 0xFF00, .any, [(3, false), (2, true)], [(3, false), (2, true)], 0x00, true, false, 3, 3⟩  -- FFMA
  | 0x44 => some ⟨true, true, 0xFF00, .any, [(2, false), (1, true)], [(2, false), (1, true)], 0x00, true, false, 3, 3⟩  -- FDIV
  | 0x45 => some ⟨true, true, 0xFF00, .any, [(1, false)], [(1, false)], 0x00, false, false, 3, 3⟩  -- FSQRT
  | 0x46 => some ⟨true, true, 0xFF00, .any, [(1, false)], [(1, false)], 0x00, false, false, 3, 3⟩  -- FRCP
  | 0x47 => some ⟨true, true, 0xFF00, .any, [(1, false)], [(1, false)], 0x00, false, false, 3, 3⟩  -- FRSQ
  | 0x48 => some ⟨true, true, 0xFF00, .exact, [(2, false), (1, true)], [(2, false), (1, true)], 0x00, true, false, 3, 3⟩  -- FMIN
  | 0x49 => some ⟨true, true, 0xFF00, .exact, [(2, false), (1, true)], [(2, false), (1, true)], 0x00, true, false, 3, 3⟩  -- FMAX
  | 0x4A => some ⟨true, true, 0xFF00, .exact, [(1, false), (2, false), (1, true)], [(1, false), (2, false), (1, true)], 0x18, true, false, 3, 3⟩  -- FSGN
  | 0x4B => some ⟨true, true, 0xFF00, .exact, [(2, false), (1, true)], [(2, false), (1, true)], 0x38, true, false, 3, 3⟩  -- FCMP
  | 0x4C => some ⟨true, true, 0xFF00, .exact, [(1, false)], [(1, false)], 0xFF, false, false, 3, 3⟩  -- FCLS
  | 0x4D => some ⟨true, true, 0xFFFF, .any, [(1, false)], [(1, false)], 0xFF, false, false, 3, 3⟩  -- FCVT
  | 0x4E => some ⟨true, true, 0xFF00, .any, [(1, false)], [(1, false)], 0x00, false, false, 3, 3⟩  -- FRND
  | 0x4F => some ⟨true, true, 0xFF00, .any, [(2, false), (1, true)], [(2, false), (1, true)], 0x00, true, false, 3, 3⟩  -- FSCL
  | 0x60 => some ⟨true, false, 0x0001, .exact, [(1, false)], [(1, false)], 0x0F, false, false, 3, 3⟩  -- BCST
  | 0x61 => some ⟨true, false, 0x0001, .exact, [(1, false), (2, false)], [(1, false), (2, false)], 0xFF, false, false, 3, 3⟩  -- SHUF
  | 0x62 => some ⟨true, false, 0xFFFF, .exact, [(1, false)], [(1, false)], 0x01, false, false, 3, 3⟩  -- PACK
  | 0x63 => some ⟨true, false, 0xFFFF, .exact, [(1, false)], [(1, false)], 0x00, false, false, 3, 3⟩  -- UNPK
  | 0x64 => some ⟨true, false, 0xF0FF, .floatNoSto, [(1, false)], [(1, false)], 0x03, false, false, 3, 3⟩  -- VRED
  | 0x65 => some ⟨true, false, 0xF0FF, .floatNoSto, [(1, false)], [(1, false)], 0x07, false, false, 3, 3⟩  -- SCAN
  | 0x66 => some ⟨true, false, 0xF0FF, .floatNoSto, [(2, false), (1, true)], [(2, false)], 0x03, false, false, 3, 3⟩  -- TRED
  | 0x67 => some ⟨true, true, 0x0001, .exact, [(1, false)], [(1, false)], 0xFF, false, false, 3, 3⟩  -- RNG
  | 0x70 => some ⟨true, true, 0xFEFF, .exact, [(1, true)], [(1, false)], 0x00, false, true, 3, 3⟩  -- LD
  | 0x71 => some ⟨true, true, 0xFEFF, .exact, [(2, true)], [(2, false)], 0x00, false, true, 3, 0⟩  -- ST
  | 0x72 => some ⟨true, false, 0xFEFF, .exact, [(1, true), (2, true)], [(1, false), (2, false)], 0x00, false, true, 3, 3⟩  -- LDV
  | 0x73 => some ⟨true, false, 0xFEFF, .exact, [(2, true), (3, true)], [(2, false), (3, false)], 0x00, false, true, 3, 3⟩  -- STV
  | 0x74 => some ⟨true, false, 0xFEFF, .exact, [(2, true)], [(2, false)], 0x3F, false, true, 3, 3⟩  -- GTH
  | 0x75 => some ⟨true, false, 0xFEFF, .exact, [(3, true)], [(3, false)], 0x7F, false, true, 3, 3⟩  -- SCT
  | 0x76 => some ⟨true, true, 0x8088, .exact, [(1, true)], [(1, false)], 0x00, false, true, 3, 3⟩  -- IRD
  | 0x77 => some ⟨true, true, 0x8088, .exact, [(2, true)], [(2, false)], 0x00, false, true, 3, 0⟩  -- IWR
  | 0x78 => some ⟨true, true, 0x0001, .exact, [(1, true)], [(1, false)], 0x00, false, true, 3, 0⟩  -- IRST
  | 0x79 => some ⟨true, true, 0xFEFF, .exact, [(1, true)], [(1, false)], 0x80, false, true, 3, 3⟩  -- HIN
  | 0x7A => some ⟨true, true, 0xFEFF, .exact, [(2, true)], [(2, false)], 0x80, false, true, 3, 0⟩  -- HOUT
  | 0x80 => some ⟨true, true, 0x0088, .exact, [(2, true)], [(2, false)], 0x00, false, true, 3, 3⟩  -- AADD
  | 0x81 => some ⟨true, true, 0x0088, .exact, [(2, true)], [(2, false)], 0x00, false, true, 3, 3⟩  -- AMIN
  | 0x82 => some ⟨true, true, 0x0088, .exact, [(2, true)], [(2, false)], 0x00, false, true, 3, 3⟩  -- AMAX
  | 0x83 => some ⟨true, true, 0x0088, .exact, [(2, true)], [(2, false)], 0x60, false, true, 3, 3⟩  -- ALOG
  | 0x84 => some ⟨true, true, 0x0088, .exact, [(2, true)], [(2, false)], 0x00, false, true, 3, 3⟩  -- AXCH
  | 0x85 => some ⟨true, true, 0x0088, .exact, [(3, true)], [(3, false)], 0x00, false, true, 3, 3⟩  -- ACAS
  | 0x86 => some ⟨true, true, 0xC088, .floatNoSto, [(3, true)], [(3, false)], 0x60, false, true, 3, 0⟩  -- RED
  | 0x90 => some ⟨true, false, 0x3F00, .exact, [(2, false)], [(2, false)], 0x07, false, false, 3, 3⟩  -- MMA
  | 0x91 => some ⟨true, false, 0x3F00, .exact, [(2, false)], [(2, false)], 0x07, false, false, 3, 3⟩  -- MMAZ
  | 0x92 => some ⟨true, false, 0xC000, .exact, [(1, false)], [(1, false)], 0x07, false, false, 3, 3⟩  -- ACRD
  | 0x93 => some ⟨true, false, 0xC000, .f64NoSto, [(1, false)], [(1, false)], 0x07, false, false, 3, 3⟩  -- ACWR
  | 0x94 => some ⟨true, false, 0x0F00, .exact, [(1, false), (2, false)], [(1, false), (2, false)], 0x03, false, false, 3, 3⟩  -- SCLE
  | 0x95 => some ⟨true, false, 0xF0EE, .exact, [(1, false)], [(1, false)], 0x00, false, false, 3, 3⟩  -- CTRN
  | 0xA0 => some ⟨true, false, 0x0001, .exact, [(2, false)], [(2, false)], 0x00, false, false, 3, 3⟩  -- VOPEN
  | 0xA1 => some ⟨true, false, 0x4000, .exact, [(2, false)], [(2, false)], 0x00, false, false, 3, 3⟩  -- VACC
  | 0xA2 => some ⟨true, false, 0x4000, .exact, [(1, false)], [(1, false)], 0x00, false, false, 3, 3⟩  -- VCLOSE
  | 0xA3 => some ⟨true, false, 0x4000, .exact, [(1, false)], [(1, false)], 0x00, false, false, 3, 3⟩  -- VCHK
  | 0xA4 => some ⟨true, true, 0x4000, .exact, [(2, false)], [(2, false)], 0x01, false, false, 3, 3⟩  -- VTHR
  | 0xA5 => some ⟨true, false, 0x4000, .exact, [(2, false)], [(2, false)], 0xFF, false, false, 3, 3⟩  -- VTOPK
  | 0xB8 => some ⟨true, false, 0xFE08, .noSto, [(2, false)], [(2, false)], 0x00, false, false, 3, 3⟩  -- SAADD
  | 0xB9 => some ⟨true, false, 0xFF00, .noSto, [(3, false)], [(3, false)], 0x01, false, false, 3, 3⟩  -- SANRM
  | 0xBA => some ⟨true, true, 0x0001, .exact, [(1, false)], [(1, false)], 0x00, false, false, 3, 3⟩  -- SACNT
  | 0xBB => some ⟨true, true, 0x0001, .exact, [(2, false)], [(2, false)], 0x00, false, false, 3, 3⟩  -- SAZRO
  | 0xBC => some ⟨true, true, 0x0001, .exact, [(3, false)], [(3, false)], 0x01, false, false, 3, 3⟩  -- SAEVC
  | 0xBD => some ⟨true, true, 0x0001, .exact, [(2, false)], [(2, false)], 0x00, false, false, 3, 3⟩  -- SALOD
  | 0xC0 => some ⟨true, true, 0x0001, .exact, [(2, false)], [(2, false)], 0x00, false, false, 3, 3⟩  -- LBIND
  | 0xC1 => some ⟨true, true, 0x0020, .exact, [(2, false)], [(2, false)], 0x3F, false, false, 3, 3⟩  -- LFEED
  | 0xC2 => some ⟨true, true, 0x0001, .exact, [(3, false)], [(3, false)], 0x00, false, false, 3, 3⟩  -- LQRY
  | 0xC3 => some ⟨true, true, 0x0001, .exact, [(3, false)], [(3, false)], 0x01, false, false, 3, 3⟩  -- LSUSP
  | 0xC4 => some ⟨true, true, 0x0001, .exact, [(3, false)], [(3, false)], 0x00, false, false, 3, 3⟩  -- LRESM
  | 0xC5 => some ⟨true, true, 0x0001, .exact, [(1, false)], [(1, false)], 0x00, false, false, 3, 3⟩  -- LDROP
  | 0xE0 => some ⟨false, true, 0x0001, .exact, [(2, false)], [(2, false)], 0x00, false, false, 3, 3⟩  -- CFGLD
  | 0xE1 => some ⟨false, true, 0x0001, .exact, [(1, false)], [(1, false)], 0x00, false, false, 3, 3⟩  -- CFGSW
  | 0xE2 => some ⟨false, true, 0x0001, .exact, [(2, false)], [(2, false)], 0x00, false, false, 3, 3⟩  -- SPLICE
  | 0xE3 => some ⟨false, true, 0x0001, .exact, [(2, false)], [(2, false)], 0xFF, false, false, 3, 3⟩  -- LAUNCH
  | 0xE4 => some ⟨false, true, 0x0001, .exact, [(2, false)], [(2, false)], 0x00, false, false, 3, 3⟩  -- SEED
  | 0xE5 => some ⟨false, true, 0x0001, .exact, [(1, false)], [(1, false)], 0x01, false, false, 3, 3⟩  -- EVWAIT
  | 0xE6 => some ⟨true, true, 0x0001, .exact, [(1, false)], [(1, false)], 0xFF, false, false, 3, 3⟩  -- EVPOST
  | 0xE7 => some ⟨false, true, 0x0001, .exact, [(2, false)], [(2, false)], 0x03, false, false, 3, 3⟩  -- MARK
  | 0xE8 => some ⟨false, true, 0x0001, .exact, [(3, false)], [(3, false)], 0x03, false, false, 3, 3⟩  -- SNAP
  | 0xE9 => some ⟨false, true, 0x0001, .exact, [(2, false)], [(2, false)], 0x00, false, false, 3, 3⟩  -- RSTR
  | 0xEA => some ⟨false, true, 0x0001, .exact, [(3, false)], [(3, false)], 0x00, false, false, 3, 3⟩  -- XLINV
  | 0xEB => some ⟨true, true, 0x0001, .exact, [(1, false)], [(1, false)], 0x01, false, false, 3, 3⟩  -- THROT
  | 0xEC => some ⟨true, true, 0x0001, .exact, [(0, false), (1, false)], [(0, false), (1, false)], 0xFF, false, false, 3, 3⟩  -- SYSRD
  | 0xED => some ⟨false, true, 0x0001, .exact, [(1, false)], [(1, false)], 0xFF, false, false, 3, 3⟩  -- SYSWR
  | 0xEE => some ⟨true, true, 0x0001, .exact, [(1, false), (2, false)], [(1, false), (2, false)], 0x7F, false, false, 3, 3⟩  -- TRAP
  | 0xEF => some ⟨false, true, 0x0001, .exact, [(1, false)], [(1, false)], 0x00, false, false, 3, 0⟩  -- HALT
  | _ => none

/-- The constructor that an opcode and its fields name. An opcode whose forms the opcode table lists in several rows
is split by the field that tells them apart. -/
def build (fabric : Bool) (opc : Nat) (n : Niw) : Option Instr :=
  match opc with
  | 0x00 => some (.nop n)
  | 0x01 => some (.mov n)
  | 0x02 => some (.const n)
  | 0x03 => some (.nullTok n)
  | 0x04 => some (.steer n)
  | 0x05 => some (.gate n)
  | 0x06 => some (.wave n)
  | 0x07 => some (.bound n)
  | 0x08 => some (.exitl n)
  | 0x09 => some (.pushf n)
  | 0x0A => some (.popf n)
  | 0x0B => some (.tagrd n)
  | 0x0C => some (.tagwr n)
  | 0x0D => some (.call n)
  | 0x0E => some (.ret n)
  | 0x0F => some (if n.imm.getLsbD 7 then .joinCount n else .join n)
  | 0x10 => some (if fabric then .drainFabric n else .drainBlock n)
  | 0x11 => some (.pchk n)
  | 0x12 => some (.br n)
  | 0x13 => some (.brc n)
  | 0x14 => some (.bcall n)
  | 0x15 => some (.bret n)
  | 0x16 => some (.grd n)
  | 0x17 => some (.gwr n)
  | 0x20 => some (.add n)
  | 0x21 => some (.sub n)
  | 0x22 => some (.mul n)
  | 0x23 => some (.mulh n)
  | 0x24 => some (.mad n)
  | 0x25 => some (.div n)
  | 0x26 => some (.min n)
  | 0x27 => some (.max n)
  | 0x28 => some (.andI n)
  | 0x29 => some (.orI n)
  | 0x2A => some (.xorI n)
  | 0x2B => some (.andn n)
  | 0x2C => some (.shl n)
  | 0x2D => some (.shr n)
  | 0x2E => some (.sar n)
  | 0x2F => some (.clz n)
  | 0x30 => some (.popc n)
  | 0x31 => some (.cmp n)
  | 0x32 => some (.sel n)
  | 0x33 => some (.ext n)
  | 0x34 => some (.lea n)
  | 0x40 => some (.fadd n)
  | 0x41 => some (.fsub n)
  | 0x42 => some (.fmul n)
  | 0x43 => some (.ffma n)
  | 0x44 => some (.fdiv n)
  | 0x45 => some (.fsqrt n)
  | 0x46 => some (.frcp n)
  | 0x47 => some (.frsq n)
  | 0x48 => some (.fmin n)
  | 0x49 => some (.fmax n)
  | 0x4A => some (.fsgn n)
  | 0x4B => some (.fcmp n)
  | 0x4C => some (.fcls n)
  | 0x4D => some (.fcvt n)
  | 0x4E => some (.frnd n)
  | 0x4F => some (.fscl n)
  | 0x60 => some (.bcst n)
  | 0x61 => some (.shuf n)
  | 0x62 => some (.pack n)
  | 0x63 => some (.unpk n)
  | 0x64 => some (.vred n)
  | 0x65 => some (.scan n)
  | 0x66 => some (.tred n)
  | 0x67 => some (.rng n)
  | 0x70 => some (.ld n)
  | 0x71 => some (.st n)
  | 0x72 => some (.ldv n)
  | 0x73 => some (.stv n)
  | 0x74 => some (.gth n)
  | 0x75 => some (if n.imm.getLsbD 6 then .sctCompact n else .sct n)
  | 0x76 => some (.ird n)
  | 0x77 => some (.iwr n)
  | 0x78 => some (.irst n)
  | 0x79 => some (.hin n)
  | 0x7A => some (.hout n)
  | 0x80 => some (.aadd n)
  | 0x81 => some (.amin n)
  | 0x82 => some (.amax n)
  | 0x83 => some (.alog n)
  | 0x84 => some (.axch n)
  | 0x85 => some (.acas n)
  | 0x86 => some (.red n)
  | 0x90 => some (.mma n)
  | 0x91 => some (.mmaz n)
  | 0x92 => some (.acrd n)
  | 0x93 => some (.acwr n)
  | 0x94 => some (.scle n)
  | 0x95 => some (.ctrn n)
  | 0xA0 => some (.vopen n)
  | 0xA1 => some (.vacc n)
  | 0xA2 => some (.vclose n)
  | 0xA3 => some (.vchk n)
  | 0xA4 => some (if n.imm.getLsbD 0 then .vthrReset n else .vthrRaise n)
  | 0xA5 => some (.vtopk n)
  | 0xB8 => some (.saadd n)
  | 0xB9 => some (.sanrm n)
  | 0xBA => some (.sacnt n)
  | 0xBB => some (.sazro n)
  | 0xBC => some (.saevc n)
  | 0xBD => some (.salod n)
  | 0xC0 => some (.lbind n)
  | 0xC1 => some (.lfeed n)
  | 0xC2 => some (.lqry n)
  | 0xC3 => some (.lsusp n)
  | 0xC4 => some (.lresm n)
  | 0xC5 => some (.ldrop n)
  | 0xE0 => some (.cfgld n)
  | 0xE1 => some (.cfgsw n)
  | 0xE2 => some (.splice n)
  | 0xE3 => some (.launch n)
  | 0xE4 => some (.seed n)
  | 0xE5 => some (.evwait n)
  | 0xE6 => some (.evpost n)
  | 0xE7 => some (if n.imm = 0 then .markFreeze n else if n.imm = 1 then .markGang n else .markResume n)
  | 0xE8 => some (.snap n)
  | 0xE9 => some (.rstr n)
  | 0xEA => some (.xlinv n)
  | 0xEB => some (.throt n)
  | 0xEC => some (if n.imm = 5 then .sysrdFltdrop n else .sysrd n)
  | 0xED => some (if n.imm = 0 then .syswrMode n else if n.imm = 3 then .syswrThrotwin n else .syswr n)
  | 0xEE => some (.trap n)
  | 0xEF => some (.halt n)
  | _ => none

/-- The opcode and the fields of an instruction; an event of the machine has neither. -/
def Instr.parts : Instr → Option (Nat × Niw)
  | .powerOnBoot => none
  | .thermalTrip _ => none
  | .uncorrectableCommittedError _ _ => none
  | .speculativeRowError _ _ => none
  | .matchingStoreEcc _ _ => none
  | .configurationMemoryEcc _ => none
  | .bridgeLaneFail _ _ => none
  | .routerArbitrate _ => none
  | .reassemblyTimeout _ => none
  | .throttleWindowEnd _ => none
  | .linkFlitReceive _ => none
  | .gwynlinkPortDown _ => none
  | .linkSilenceTimeout _ => none
  | .gangMarkerReceive _ => none
  | .routingTableLoad _ => none
  | .hostFeat => none
  | .hostCfgw => none
  | .hostCfgwLoad => none
  | .hostLaunch => none
  | .hostAttach => none
  | .epdataReadRequest => none
  | .epdataReadData => none
  | .epdataWriteData => none
  | .epdataWriteAck => none
  | .hostAttest => none
  | .hostEnd => none
  | .hostMessageUnknown => none
  | .arbiterGrant => none
  | .seedInjection _ => none
  | .tokenMatch _ => none
  | .skeinRefill _ => none
  | .issue _ => none
  | .killMarkReceive _ => none
  | .storeBufferRelease _ => none
  | .drainPass _ _ => none
  | .planeSwap _ => none
  | .spliceTileSwitch _ => none
  | .bankWake _ => none
  | .generatorStart _ _ => none
  | .generatorStop _ _ => none
  | .heldWriteResume _ => none
  | .lineCommit _ => none
  | .pageWalk _ => none
  | .pagerFaultService _ => none
  | .parkedAccessReissue _ => none
  | .pageMigration _ _ => none
  | .verdictCellReply _ => none
  | .sanrmCountReached _ => none
  | .mmaExecute _ => none
  | .blockFetch _ _ => none
  | .blockCommit _ _ => none
  | .blockStallTimeout _ _ => none
  | .markerDelivery _ _ => none
  | .elementQuiet _ _ => none
  | .eventRecordEnqueue _ => none
  | .nop n => some (0x00, n)
  | .mov n => some (0x01, n)
  | .const n => some (0x02, n)
  | .nullTok n => some (0x03, n)
  | .steer n => some (0x04, n)
  | .gate n => some (0x05, n)
  | .wave n => some (0x06, n)
  | .bound n => some (0x07, n)
  | .exitl n => some (0x08, n)
  | .pushf n => some (0x09, n)
  | .popf n => some (0x0A, n)
  | .tagrd n => some (0x0B, n)
  | .tagwr n => some (0x0C, n)
  | .call n => some (0x0D, n)
  | .ret n => some (0x0E, n)
  | .join n => some (0x0F, n)
  | .joinCount n => some (0x0F, n)
  | .drainFabric n => some (0x10, n)
  | .drainBlock n => some (0x10, n)
  | .pchk n => some (0x11, n)
  | .br n => some (0x12, n)
  | .brc n => some (0x13, n)
  | .bcall n => some (0x14, n)
  | .bret n => some (0x15, n)
  | .grd n => some (0x16, n)
  | .gwr n => some (0x17, n)
  | .add n => some (0x20, n)
  | .sub n => some (0x21, n)
  | .mul n => some (0x22, n)
  | .mulh n => some (0x23, n)
  | .mad n => some (0x24, n)
  | .div n => some (0x25, n)
  | .min n => some (0x26, n)
  | .max n => some (0x27, n)
  | .andI n => some (0x28, n)
  | .orI n => some (0x29, n)
  | .xorI n => some (0x2A, n)
  | .andn n => some (0x2B, n)
  | .shl n => some (0x2C, n)
  | .shr n => some (0x2D, n)
  | .sar n => some (0x2E, n)
  | .clz n => some (0x2F, n)
  | .popc n => some (0x30, n)
  | .cmp n => some (0x31, n)
  | .sel n => some (0x32, n)
  | .ext n => some (0x33, n)
  | .lea n => some (0x34, n)
  | .fadd n => some (0x40, n)
  | .fsub n => some (0x41, n)
  | .fmul n => some (0x42, n)
  | .ffma n => some (0x43, n)
  | .fdiv n => some (0x44, n)
  | .fsqrt n => some (0x45, n)
  | .frcp n => some (0x46, n)
  | .frsq n => some (0x47, n)
  | .fmin n => some (0x48, n)
  | .fmax n => some (0x49, n)
  | .fsgn n => some (0x4A, n)
  | .fcmp n => some (0x4B, n)
  | .fcls n => some (0x4C, n)
  | .fcvt n => some (0x4D, n)
  | .frnd n => some (0x4E, n)
  | .fscl n => some (0x4F, n)
  | .bcst n => some (0x60, n)
  | .shuf n => some (0x61, n)
  | .pack n => some (0x62, n)
  | .unpk n => some (0x63, n)
  | .vred n => some (0x64, n)
  | .scan n => some (0x65, n)
  | .tred n => some (0x66, n)
  | .rng n => some (0x67, n)
  | .ld n => some (0x70, n)
  | .st n => some (0x71, n)
  | .ldv n => some (0x72, n)
  | .stv n => some (0x73, n)
  | .gth n => some (0x74, n)
  | .sct n => some (0x75, n)
  | .sctCompact n => some (0x75, n)
  | .ird n => some (0x76, n)
  | .iwr n => some (0x77, n)
  | .irst n => some (0x78, n)
  | .hin n => some (0x79, n)
  | .hout n => some (0x7A, n)
  | .aadd n => some (0x80, n)
  | .amin n => some (0x81, n)
  | .amax n => some (0x82, n)
  | .alog n => some (0x83, n)
  | .axch n => some (0x84, n)
  | .acas n => some (0x85, n)
  | .red n => some (0x86, n)
  | .mma n => some (0x90, n)
  | .mmaz n => some (0x91, n)
  | .acrd n => some (0x92, n)
  | .acwr n => some (0x93, n)
  | .scle n => some (0x94, n)
  | .ctrn n => some (0x95, n)
  | .vopen n => some (0xA0, n)
  | .vacc n => some (0xA1, n)
  | .vclose n => some (0xA2, n)
  | .vchk n => some (0xA3, n)
  | .vthrRaise n => some (0xA4, n)
  | .vthrReset n => some (0xA4, n)
  | .vtopk n => some (0xA5, n)
  | .saadd n => some (0xB8, n)
  | .sanrm n => some (0xB9, n)
  | .sacnt n => some (0xBA, n)
  | .sazro n => some (0xBB, n)
  | .saevc n => some (0xBC, n)
  | .salod n => some (0xBD, n)
  | .lbind n => some (0xC0, n)
  | .lfeed n => some (0xC1, n)
  | .lqry n => some (0xC2, n)
  | .lsusp n => some (0xC3, n)
  | .lresm n => some (0xC4, n)
  | .ldrop n => some (0xC5, n)
  | .cfgld n => some (0xE0, n)
  | .cfgsw n => some (0xE1, n)
  | .splice n => some (0xE2, n)
  | .launch n => some (0xE3, n)
  | .seed n => some (0xE4, n)
  | .evwait n => some (0xE5, n)
  | .evpost n => some (0xE6, n)
  | .markFreeze n => some (0xE7, n)
  | .markGang n => some (0xE7, n)
  | .markResume n => some (0xE7, n)
  | .snap n => some (0xE8, n)
  | .rstr n => some (0xE9, n)
  | .xlinv n => some (0xEA, n)
  | .throt n => some (0xEB, n)
  | .sysrd n => some (0xEC, n)
  | .sysrdFltdrop n => some (0xEC, n)
  | .syswrMode n => some (0xED, n)
  | .syswrThrotwin n => some (0xED, n)
  | .syswr n => some (0xED, n)
  | .trap n => some (0xEE, n)
  | .halt n => some (0xEF, n)
  | .gwynlinkPortRetrain _ => none
  | .zeroingEnd _ => none
  | .newFirmwareImage _ => none

/-- Whether the RND field obeys the entry: 0x041 otherwise (R51, R96). -/
def rndCause (k : RndRule) (f : Fmt) (r : Rnd) : Option Nat :=
  let plain := if r = .rne then none else some 0x041
  let noSto := if r = .sto then some 0x041 else none
  match k with
  | .exact => plain
  | .any => none
  | .noSto => noSto
  | .floatNoSto => if f.isFloat then noSto else plain
  | .f64NoSto => if f = .f64 then noSto else plain

/-- Whether ARI and XW are a pair that the entry allows (R51, R52). In block mode a constant is taken only where
IMM8[2:0] is its index: XW = 1 is 0x041 where IMM8 has another use (R52, R239) and 0x046 where it has none (R51, log
52). -/
def formCause (r : Rule) (fabric : Bool) (ari : Nat) (xw : Bool) : Option Nat :=
  let forms := if fabric then r.formsF else r.formsB
  if (ari, xw) ∈ forms then none
  else if !fabric && xw && !r.bconst && (r.mem || r.imm != 0) then some 0x041
  else if !xw && (ari, true) ∈ forms then some 0x047
  else some 0x046

/-- The mask of IMM8 bits that the entry uses (R51, R52, R17). -/
def immUsed (r : Rule) (fabric xw : Bool) : Nat :=
  if fabric then r.imm
  else if r.mem then (r.imm &&& 0x60) ||| 0x1F
  else if r.bconst && xw then r.imm ||| 7
  else r.imm

/-- A swizzle mode and its argument (R58). -/
def swizzleCause (mode arg : Nat) : Option Nat :=
  if 5 < mode then some 0x041
  else if mode = 4 then (if 3 < arg then some 0x041 else none)
  else if mode = 2 ∨ mode = 3 then none
  else if arg = 0 then none else some 0x041

/-- The limits that single entries set on IMM8. -/
def immCause (fabric : Bool) (opc : Nat) (n : Niw) : Option Nat :=
  let i := n.imm.toNat
  let bad (c : Bool) : Option Nat := if c then some 0x041 else none
  match opc with
  | 0x09 => bad (n.ari.toNat = 2 && i != 0)                                        -- PUSHF, R306
  | 0x0B => bad (i / 16 % 4 != 0 && i % 16 != 0)                                   -- TAGRD, R330
  | 0x0C => bad ((i / 16 % 4 != 0 && i % 16 != 0) || i / 16 % 4 = 2)               -- TAGWR, R331
  | 0x0F =>                                                                        -- JOIN, R284, R285
      if 128 ≤ i then (if !fabric then some 0x041 else if n.ari.toNat = 1 then none else some 0x046)
      else if n.ari.toNat = 0 then some 0x046 else bad (i != 0)
  | 0x25 => if (i / 2 % 2 = 1) = (n.fmt.signed = true) then none else some 0x042   -- DIV, R258
  | 0x31 => bad (6 ≤ i / 8 % 8)                                                    -- CMP, R255
  | 0x4A =>                                                                        -- FSGN, R274
      match i / 8 % 4 with
      | 3 => some 0x041
      | 2 => if n.ari.toNat = 1 && !n.xw then some 0x047 else none
      | _ => if n.ari.toNat = 1 && !n.xw then none else some 0x046
  | 0x4D =>                                                                        -- FCVT, R269
      let ws := n.fmt.perLane
      let wd := (Fmt.ofCode i).perLane
      bad (ws ≤ i / 32 * min ws wd)
  | 0x61 => if n.ari.toNat = 1 then swizzleCause (i / 16) (i % 16) else bad (i != 0) -- SHUF, R321
  | 0x62 => bad (i = 1 && n.fmt.isFloat)                                           -- PACK, R303
  | 0x64 | 0x65 | 0x66 => bad (i % 4 = 3)                                          -- VRED, SCAN, TRED
  | 0x86 => bad (i / 32 % 4 = 3)                                                   -- RED, R307
  | 0x94 =>                                                                        -- SCLE, R316
      if i % 4 = 3 then some 0x041
      else if n.ari.toNat = (if i % 4 = 2 then 2 else 1) then none else some 0x046
  | 0xE7 => bad (i % 4 = 3)                                                        -- MARK
  | 0xEB => bad (fabric && i % 2 = 1)                                              -- THROT, R183
  | 0xEC | 0xED => bad (8 ≤ i)                                                     -- SYSRD, SYSWR, R327
  | _ => none

/-- The targets: at most as many as the entry permits (R51), a DEST of at most 31 in a block (R53), and a valid TGT0
for RET (R308). -/
def targetCause (r : Rule) (fabric : Bool) (opc : Nat) (n : Niw) : Option Nat :=
  let most := if fabric then r.tgtF else r.tgtB
  let one (k : Nat) (t : Option Target) : Option Nat :=
    match t with
    | none => if opc = 0x0E && k = 0 then some 0x045 else none
    | some t => if most ≤ k then some 0x041 else if !fabric && 31 < t.dest.toNat then some 0x045 else none
  (one 0 n.t0).or ((one 1 n.t1).or (one 2 n.t2))

/-- The first field, from the top of the word, whose value the entry does not allow, with its cause (R51). -/
def fieldCause (fabric : Bool) (opc : Nat) (n : Niw) : Option Nat :=
  match rule opc with
  | none => some 0x040
  | some r =>
    if !(if fabric then r.fab else r.blk) then some 0x044
    else if !r.fmts.testBit n.fmt.code then some 0x042
    else (rndCause r.rnd n.fmt n.rnd).or <|
      (if opc = 0xA4 && n.imm.getLsbD 0 && n.prd != .ift then some 0x203 else none).or <|
      (formCause r fabric n.ari.toNat n.xw).or <|
      (if n.imm.toNat &&& (255 - immUsed r fabric n.xw) != 0 then some 0x041 else none).or <|
      (immCause fabric opc n).or (targetCause r fabric opc n)

end Sys2Proof
end

