-- ==== Sys2Proof/WellFormed.lean ====
section
/-!
DEFINITION. Which instructions are well formed: those that the configuration loader accepts at an instruction
position of a compute tile, or the block fetcher at one of a block, as far as the word by itself decides (R43,
R46, R51). The checks that need the tile or the block around the word are the loader's and the fetcher's.
-/

namespace Sys2Proof

/-- The instruction is one that its word can stand for in the mode, and no field of it is refused. -/
def Instr.wellFormed (fabric : Bool) (i : Instr) : Bool :=
  match i.parts with
  | none => false
  | some (opc, n) => (fieldCause fabric opc n).isNone && build fabric opc n == some i

/-- An event of the machine has no encoding: it is well formed as an event. -/
def Instr.isEvent (i : Instr) : Bool := i.parts.isNone

end Sys2Proof
end

