-- ==== Sys2Proof/Decode.lean ====
section
/-!
DEFINITION. The decoder of node instruction words, total on every 64 bits, and the encoder (R51, R53, R79). A word
that is no instruction is refused with the cause that the loader or the block fetcher reports.
-/

namespace Sys2Proof

/-- `len` bits of a word from bit `lo` upward. -/
def fieldOf (w : BitVec 64) (lo len : Nat) : Nat := w.toNat / 2 ^ lo % 2 ^ len

/-- The target in 12 bits; V = 0 with another bit set is refused with 0x041 (R53). -/
def targetOf (v : Nat) : Except Nat (Option Target) :=
  if v / 2048 % 2 = 1 then .ok (some ⟨Slot.ofCode (v / 512), BitVec.ofNat 9 v⟩)
  else if v % 2048 = 0 then .ok none
  else .error 0x041

/-- The fields of a word below its opcode, or the cause of the first one that has no meaning: RND 111 (0x043), then
the targets. Which of several bad fields of one word is reported is the model's choice (log 53). -/
def fieldsOf (w : BitVec 64) : Except Nat Niw := do
  let rnd ← match Rnd.ofCode (fieldOf w 49 3) with
    | some r => Except.ok r
    | none => Except.error 0x043
  let t0 ← targetOf (fieldOf w 24 12)
  let t1 ← targetOf (fieldOf w 12 12)
  let t2 ← targetOf (fieldOf w 0 12)
  return { fmt := Fmt.ofCode (fieldOf w 52 4), rnd := rnd, prd := Prd.ofCode (fieldOf w 47 2),
           ari := BitVec.ofNat 2 (fieldOf w 45 2), xw := fieldOf w 44 1 = 1,
           imm := BitVec.ofNat 8 (fieldOf w 36 8), t0 := t0, t1 := t1, t2 := t2 }

/-- The opcode, mode and format checks come before those of the fields below them, in word order (R51, R68). -/
def headCause (fabric : Bool) (w : BitVec 64) : Option Nat :=
  match rule (fieldOf w 56 8) with
  | none => some 0x040
  | some r =>
    if !(if fabric then r.fab else r.blk) then some 0x044
    else if !r.fmts.testBit (fieldOf w 52 4) then some 0x042
    else none

/-- The instruction that a word is at an instruction position of a compute tile (`fabric`) or of a block, or the
cause with which the word is refused (R43, R46, R79). The order of a word's field checks, which decides the cause of a
word with several bad fields, is the model's choice (log 53). -/
def decodeWord (fabric : Bool) (w : BitVec 64) : Except Nat Instr :=
  match headCause fabric w with
  | some c => .error c
  | none =>
    match fieldsOf w with
    | .error c => .error c
    | .ok n =>
      match fieldCause fabric (fieldOf w 56 8) n with
      | some c => .error c
      | none =>
        match build fabric (fieldOf w 56 8) n with
        | some i => .ok i
        | none => .error 0x040

/-- A target as 12 bits (R53). -/
def targetBits : Option Target → Nat
  | none => 0
  | some t => 2048 + 512 * t.slot.code + t.dest.toNat

/-- The word of an opcode and its fields (R51). -/
def niwBits (opc : Nat) (n : Niw) : BitVec 64 :=
  BitVec.ofNat 64 (2 ^ 56 * opc + 2 ^ 52 * n.fmt.code + 2 ^ 49 * n.rnd.code + 2 ^ 47 * n.prd.code
    + 2 ^ 45 * n.ari.toNat + 2 ^ 44 * n.xw.toNat + 2 ^ 36 * n.imm.toNat
    + 2 ^ 24 * targetBits n.t0 + 2 ^ 12 * targetBits n.t1 + targetBits n.t2)

/-- The word of an instruction; an event has none. -/
def encode (i : Instr) : Option (BitVec 64) := i.parts.map fun p => niwBits p.1 p.2

/-- The instruction of a word as the opcode table numbers bits: an instruction is one 64-bit word, little-endian,
so bit 0 is the word's bit 0 (R51, R66). The word is read as a fabric node first, and as a block instruction where
it is valid in block mode only. -/
def decodeTableWord (nbits w : Nat) : Option Instr :=
  let word := BitVec.ofNat 64 (w % 2 ^ nbits)
  match decodeWord true word with
  | .ok i => some i
  | .error _ =>
    match decodeWord false word with
    | .ok i => some i
    | .error _ => none

end Sys2Proof
end

