-- ==== Sys2Proof/Machine/Bits.lean ====
section
/-!
DEFINITION. Bit fields, byte order, lists by position, tables by key, the check word (R68) and the random draw
(R96). Everything here is structurally recursive, so the kernel evaluates it.
-/

namespace Sys2Proof.Machine

/-- `len` bits of a number from bit `lo` upward. -/
def bits (v lo len : Nat) : Nat := v / 2 ^ lo % 2 ^ len

/-- The little-endian bytes of a number, `n` of them (R18). -/
def bytesOf : Nat → Nat → List Byte
  | 0, _ => []
  | n + 1, v => BitVec.ofNat 8 v :: bytesOf n (v / 256)

/-- The number of little-endian bytes. -/
def ofBytes : List Byte → Nat
  | [] => 0
  | b :: bs => b.toNat + 256 * ofBytes bs

/-- A word of a number, modulo 2^64. -/
def word (v : Nat) : Word := BitVec.ofNat 64 v

/-- Little-endian words of bytes, eight to a word; the last word is completed with zero bytes. -/
def wordsOf : Nat → List Byte → List Word
  | 0, _ => []
  | n + 1, bs => word (ofBytes (bs.take 8)) :: wordsOf n (bs.drop 8)

/-- Bytes of words (R66). -/
def wordBytes (ws : List Word) : List Byte := ws.flatMap fun w => bytesOf 8 w.toNat

/-- The element at a position, or a default. -/
def nth {α : Type} (d : α) (l : List α) (i : Nat) : α := (l[i]?).getD d

/-- Replace the element at a position; the list keeps its length. -/
def setNth {α : Type} : List α → Nat → α → List α
  | [], _, _ => []
  | _ :: l, 0, b => b :: l
  | a :: l, i + 1, b => a :: setNth l i b

/-- Apply a function to the element at a position. -/
def modifyNth {α : Type} (f : α → α) : List α → Nat → List α
  | [], _ => []
  | a :: l, 0 => f a :: l
  | a :: l, i + 1 => a :: modifyNth f l i

/-- The value of a key in a table. -/
def look {κ α : Type} [DecidableEq κ] (k : κ) : List (κ × α) → Option α
  | [] => none
  | (k', a) :: l => if k' = k then some a else look k l

/-- The value of a key, or the default of an unlisted key. -/
def lookD {κ α : Type} [DecidableEq κ] (d : α) (k : κ) (l : List (κ × α)) : α := (look k l).getD d

/-- The table with a key's value set: in place, or as a new last row. -/
def put {κ α : Type} [DecidableEq κ] (k : κ) (a : α) : List (κ × α) → List (κ × α)
  | [] => [(k, a)]
  | (k', a') :: l => if k' = k then (k, a) :: l else (k', a') :: put k a l

/-- The table without a key. -/
def erase {κ α : Type} [DecidableEq κ] (k : κ) (l : List (κ × α)) : List (κ × α) := l.filter fun r => r.1 ≠ k

/-- The first element that meets a test, and the list without it. -/
def takeFirst {α : Type} (p : α → Bool) : List α → Option (α × List α)
  | [] => none
  | a :: l => if p a then some (a, l) else (takeFirst p l).map fun r => (r.1, a :: r.2)

/-- Insert into a list sorted by a key, after the elements of an equal key. -/
def insertBy {α : Type} (lt : α → α → Bool) (a : α) : List α → List α
  | [] => [a]
  | b :: l => if lt a b then a :: b :: l else b :: insertBy lt a l

/-- Insertion sort, stable. -/
def sortBy {α : Type} (lt : α → α → Bool) : List α → List α
  | [] => []
  | a :: l => insertBy (fun x y => !lt y x) a (sortBy lt l)

/-- The first of the least elements. -/
def leastBy {α : Type} (lt : α → α → Bool) : List α → Option α
  | [] => none
  | a :: l =>
    match leastBy lt l with
    | none => some a
    | some b => if lt b a then some b else some a

/-- The least element of those that meet a test, and the list without it. -/
def takeLeast {α : Type} [DecidableEq α] (lt : α → α → Bool) (p : α → Bool) (l : List α) : Option (α × List α) :=
  (leastBy lt (l.filter p)).bind fun a => takeFirst (· = a) l

/-- The numbers below `n` whose bit is set in a map. -/
def setBits (map n : Nat) : List Nat := (List.range n).filter fun i => map.testBit i

/-- ⌈log₂ n⌉ for n ≥ 1. -/
def clog2 (n : Nat) : Nat := if n ≤ 1 then 0 else Nat.log2 (n - 1) + 1

/-- The signed value of the low `w` bits of a number. -/
def signedOf (w v : Nat) : Int :=
  let u := v % 2 ^ w
  if 2 ^ (w - 1) ≤ u then (u : Int) - (2 ^ w : Nat) else u

/-- The low `w` bits of an integer in two's complement. -/
def wrapInt (w : Nat) (v : Int) : Nat := (v % ((2 ^ w : Nat) : Int)).toNat

/-- ⌊√n⌋ by binary digits, from bit `k` down. -/
def isqrtAux : Nat → Nat → Nat → Nat
  | 0, _, r => r
  | k + 1, n, r => let t := r + 2 ^ k; isqrtAux k n (if t * t ≤ n then t else r)

/-- ⌊√n⌋. -/
def isqrt (n : Nat) : Nat := isqrtAux (Nat.log2 n / 2 + 1) n 0

/-- One bit of the reflected CRC-64/XZ register. -/
def crcBit (c : Nat) : Nat := if c % 2 = 1 then (c / 2) ^^^ 0xC96C5795D7870F42 else c / 2

/-- One byte into the register. -/
def crcByte (c : Nat) (b : Byte) : Nat :=
  crcBit (crcBit (crcBit (crcBit (crcBit (crcBit (crcBit (crcBit (c ^^^ b.toNat))))))))

/-- CRC-64 with the CRC-64/XZ parameters (R68): the polynomial 0x42F0_E1EB_A9EA_3693 reflected, initial value and
final XOR all ones. -/
def crc64 (bs : List Byte) : Word := word (bs.foldl crcByte 0xFFFFFFFFFFFFFFFF ^^^ 0xFFFFFFFFFFFFFFFF)

/-- The check word over words (R68). -/
def crcWords (ws : List Word) : Word := crc64 (wordBytes ws)

/-- One round of Philox-4x32 (log 11). -/
def philoxRound (k0 k1 : Nat) (c : Nat × Nat × Nat × Nat) : Nat × Nat × Nat × Nat :=
  let (c0, c1, c2, c3) := c
  let p0 := 0xD2511F53 * c0
  let p1 := 0xCD9E8D57 * c2
  ((p1 / 2 ^ 32 ^^^ c1) ^^^ k0, p1 % 2 ^ 32, (p0 / 2 ^ 32 ^^^ c3) ^^^ k1, p0 % 2 ^ 32)

/-- `n` rounds, the keys advanced between rounds. -/
def philoxRounds : Nat → Nat → Nat → Nat × Nat × Nat × Nat → Nat × Nat × Nat × Nat
  | 0, _, _, c => c
  | n + 1, k0, k1, c =>
    philoxRounds n ((k0 + 0x9E3779B9) % 2 ^ 32) ((k1 + 0xBB67AE85) % 2 ^ 32) (philoxRound k0 k1 c)

/-- Philox-4x32-10 keyed by a 64-bit seed (R96, R309). Its multipliers and key increments are those of the published
generator that the spec names (log 11, PRESUMED). -/
def philox (seed : Word) (c0 c1 c2 c3 : Nat) : Nat × Nat × Nat × Nat :=
  philoxRounds 10 (bits seed.toNat 0 32) (bits seed.toNat 32 32)
    (c0 % 2 ^ 32, c1 % 2 ^ 32, c2 % 2 ^ 32, c3 % 2 ^ 32)

end Sys2Proof.Machine
end

