-- ==== Sys2Proof/Machine/Numbers.lean ====
section
/-!
DEFINITION. The element formats and the one rounding (R86 to R98): decoding to an exact value, exact arithmetic,
rounding to a format, conversion, and classification.
-/

namespace Sys2Proof.Machine

/-- An exact value: NaN (NaR included), an infinity, a signed rational n/d with d > 0 (n = 0 is a signed zero), or
the positive or negative square root of n/d. -/
inductive Exact where
  | nan
  | inf (neg : Bool)
  | rat (neg : Bool) (n d : Nat)
  | root (neg : Bool) (n d : Nat)
  deriving DecidableEq, Repr

/-- Bits of the fraction field (R87). -/
def fracBits : Fmt → Nat
  | .f64 => 52 | .f32 => 23 | .bf16 => 7 | .f16 => 10 | .e5m2 => 2 | .e4m3 => 3 | _ => 0

/-- The exponent bias (R87). -/
def biasOf : Fmt → Nat
  | .f64 => 1023 | .f32 => 127 | .bf16 => 127 | .f16 => 15 | .e5m2 => 15 | .e4m3 => 7 | _ => 0

/-- The tapered formats (R89). -/
def tapered : Fmt → Bool
  | .t6 | .t8 => true | _ => false

/-- The magnitude code of the largest finite value (R87, R89). -/
def maxCode : Fmt → Nat
  | .f64 => 0x7FEFFFFFFFFFFFFF | .f32 => 0x7F7FFFFF | .bf16 => 0x7F7F | .f16 => 0x7BFF | .e5m2 => 0x7B
  | .e4m3 => 0x7E | .t8 => 0x7F | .t6 => 0x1F | _ => 0

/-- The canonical NaN; NaR in the tapered formats (R87, R88, R98). -/
def nanCode : Fmt → Nat
  | .f64 => 0x7FF8000000000000 | .f32 => 0x7FC00000 | .bf16 => 0x7FC0 | .f16 => 0x7E00 | .e5m2 => 0x7E
  | .e4m3 => 0x7F | .t8 => 0x80 | .t6 => 0x20 | _ => 0

/-- The sign bit of a format set or clear. -/
def signBit (f : Fmt) (neg : Bool) : Nat := if neg then 2 ^ (f.width - 1) else 0

/-- A rational with its power of two: (−1)^neg · m · 2^e. -/
def pow2Rat (neg : Bool) (m : Nat) (e : Int) : Exact :=
  if 0 ≤ e then .rat neg (m * 2 ^ e.toNat) 1 else .rat neg m (2 ^ (-e).toNat)

/-- The length of the run of bits equal to the top bit, in the low `k` bits of `m` (R89). -/
def runLength (b : Bool) (m : Nat) : Nat → Nat
  | 0 => 0
  | k + 1 => if m.testBit k = b then 1 + runLength b m k else 0

/-- Exponent and scaled significand of a tapered magnitude of `w` bits, not zero: value sig · 2^(exp) (R89). -/
def taperParts (w m : Nat) : Nat × Int :=
  let b := m.testBit (w - 1)
  let run := runLength b m w
  let k : Int := if b then (run : Int) - 1 else -(run : Int)
  let left := w - run - 1
  let rest := m % 2 ^ left
  if run = w ∨ left = 0 then (1, 2 * k)
  else
    let e := rest / 2 ^ (left - 1)
    let fb := left - 1
    (2 ^ fb + rest % 2 ^ fb, 2 * k + e - fb)

/-- The value of an element's bits (R87, R89). A NaR decodes as NaN (R98). -/
def decodeElem (f : Fmt) (v : Nat) : Exact :=
  let w := f.width
  let neg := v.testBit (w - 1)
  let m := v % 2 ^ (w - 1)
  if tapered f then
    if m = 0 then (if neg then .nan else .rat false 0 1)
    else let p := taperParts (w - 1) m; pow2Rat neg p.1 p.2
  else
    let fb := fracBits f
    let e := m / 2 ^ fb
    let fr := m % 2 ^ fb
    if f = .e4m3 then
      if m = 0x7F then .nan
      else if e = 0 then pow2Rat neg fr (1 - biasOf f - fb) else pow2Rat neg (2 ^ fb + fr) (e - biasOf f - fb)
    else if maxCode f < m then (if fr = 0 then .inf neg else .nan)
    else if e = 0 then pow2Rat neg fr (1 - biasOf f - fb)
    else pow2Rat neg (2 ^ fb + fr) (e - biasOf f - fb)

/-- A NaR code (R89). -/
def isNaR (f : Fmt) (v : Nat) : Bool := tapered f && v % 2 ^ f.width = 2 ^ (f.width - 1)

/-- One of the three abandoned values (R93), as bits of a binary32 element. -/
def isAbandoned (v : Nat) : Bool := 0x7FB00000 ≤ v && v ≤ 0x7FB00002

/-- An abandoned value in an element of this format (R93). -/
def abandonedElem (f : Fmt) (v : Nat) : Bool := f = .f32 && isAbandoned v

/-- An element that is not a finite value: ±∞, NaN or NaR (R101). -/
def nonFinite (f : Fmt) (v : Nat) : Bool :=
  match decodeElem f v with
  | .nan | .inf _ => true
  | _ => false

/-- The sign of an exact value. -/
def Exact.neg : Exact → Bool
  | .nan => false
  | .inf s | .rat s _ _ | .root s _ _ => s

/-- Not NaN and not infinite. -/
def Exact.finite : Exact → Bool
  | .nan | .inf _ => false
  | _ => true

/-- Zero of either sign. -/
def Exact.isZero : Exact → Bool
  | .rat _ n _ | .root _ n _ => n = 0
  | _ => false

/-- The value negated. -/
def Exact.negate : Exact → Exact
  | .nan => .nan
  | .inf s => .inf !s
  | .rat s n d => .rat (!s) n d
  | .root s n d => .root (!s) n d

/-- The exact sum; an exact zero sum of operands of opposite sign has the sign that the mode gives (R94). -/
def Exact.add (rdn : Bool) : Exact → Exact → Exact
  | .nan, _ | _, .nan => .nan
  | .inf s, .inf t => if s = t then .inf s else .nan
  | .inf s, _ => .inf s
  | _, .inf t => .inf t
  | .rat s n d, .rat t m e =>
    if s = t then .rat s (n * e + m * d) (d * e)
    else if m * d < n * e then .rat s (n * e - m * d) (d * e)
    else if n * e < m * d then .rat t (m * d - n * e) (d * e)
    else .rat rdn 0 1
  | _, _ => .nan

/-- The exact product (R266). -/
def Exact.mul : Exact → Exact → Exact
  | .nan, _ | _, .nan => .nan
  | .inf s, y => if y.isZero then .nan else .inf (s != y.neg)
  | x, .inf t => if x.isZero then .nan else .inf (x.neg != t)
  | .rat s n d, .rat t m e => .rat (s != t) (n * m) (d * e)
  | _, _ => .nan

/-- The exact quotient (R266). -/
def Exact.div : Exact → Exact → Exact
  | .nan, _ | _, .nan => .nan
  | .inf _, .inf _ => .nan
  | .inf s, y => .inf (s != y.neg)
  | x, .inf t => .rat (x.neg != t) 0 1
  | .rat s n d, .rat t m e =>
    if m = 0 then (if n = 0 then .nan else .inf (s != t)) else .rat (s != t) (n * e) (d * m)
  | _, _ => .nan

/-- The exact square root (R271). -/
def Exact.sqrt : Exact → Exact
  | .rat s n d => if n = 0 then .rat s 0 1 else if s then .nan else .root false n d
  | .inf false => .inf false
  | _ => .nan

/-- The exact reciprocal square root (R271). -/
def Exact.rsqrt : Exact → Exact
  | .rat s n d => if n = 0 then .inf s else if s then .nan else .root false d n
  | .inf false => .rat false 0 1
  | _ => .nan

/-- A comparison of magnitudes with a/b. -/
def Exact.cmpMag (x : Exact) (a b : Nat) : Ordering :=
  match x with
  | .rat _ n d => compare (n * b) (a * d)
  | .root _ n d => compare (n * (b * b)) (a * a * d)
  | .inf _ => .gt
  | .nan => .lt

/-- The order of two values, none when unordered; −0 equals +0 (R268). -/
def Exact.cmp : Exact → Exact → Option Ordering
  | .nan, _ | _, .nan => none
  | .inf s, .inf t => some (if s = t then .eq else if s then .lt else .gt)
  | .inf s, _ => some (if s then .lt else .gt)
  | _, .inf t => some (if t then .gt else .lt)
  | .rat s n d, .rat t m e =>
    let x : Int := if s then -((n * e : Nat) : Int) else (n * e : Nat)
    let y : Int := if t then -((m * d : Nat) : Int) else (m * d : Nat)
    some (compare x y)
  | _, _ => none

/-- The magnitude times 2^k. -/
def Exact.scale (x : Exact) (k : Int) : Exact :=
  match x with
  | .rat s n d => if 0 ≤ k then .rat s (n * 2 ^ k.toNat) d else .rat s n (d * 2 ^ (-k).toNat)
  | .root s n d => if 0 ≤ k then .root s (n * 4 ^ k.toNat) d else .root s n (d * 4 ^ (-k).toNat)
  | y => y

/-- ⌊|x|⌋ of a finite value. -/
def Exact.floorMag : Exact → Nat
  | .rat _ n d => n / d
  | .root _ n d => isqrt (n / d)
  | _ => 0

/-- ⌊log₂ (n/d)⌋ for n, d > 0. -/
def log2Rat (n d : Nat) : Int :=
  let e : Int := (Nat.log2 n : Int) - Nat.log2 d
  let below := if 0 ≤ e then n < d * 2 ^ e.toNat else n * 2 ^ (-e).toNat < d
  if below then e - 1 else e

/-- ⌊log₂ |x|⌋ of a finite nonzero value. -/
def Exact.log2 : Exact → Int
  | .rat _ n d => log2Rat n d
  | .root _ n d => log2Rat n d / 2
  | _ => 0

/-- Whether a rounding mode takes the neighbour farther from zero: `odd` says that the nearer-to-zero neighbour has
the odd code, `half` compares the distance with half a gap, `t` is the scaled distance of R96 and `u` the draw
(R95, R96). `exact` values are never changed. -/
def takesHi (mode : Rnd) (neg exact odd : Bool) (half : Ordering) (t u : Nat) : Bool :=
  if exact then false
  else match mode with
    | .rne | .ctx => half = .gt || (half = .eq && odd)
    | .rtz => false
    | .rup => !neg
    | .rdn => neg
    | .rna => half != .lt
    | .sto => u < t

/-- Round a finite magnitude to a whole number of units: `y` is the value in units, q its floor (R95, R96). -/
def roundUnits (mode : Rnd) (y : Exact) (u : Nat) : Nat :=
  let q := y.floorMag
  let t := (y.scale 32).floorMag - q * 2 ^ 32
  q + (takesHi mode y.neg (y.cmpMag q 1 = .eq) (q % 2 = 1) (y.cmpMag (2 * q + 1) 2) t u).toNat

/-- Round to an integer (R97, R162). -/
def roundToInt (mode : Rnd) (x : Exact) (u : Nat) : Int :=
  let m : Int := roundUnits mode x u
  if x.neg then -m else m

/-- The largest code from `k` down whose tapered value is at most |x|; 0 when none is. -/
def taperBelow (w : Nat) (x : Exact) : Nat → Nat
  | 0 => 0
  | k + 1 =>
    let p := taperParts w (k + 1)
    match pow2Rat false p.1 p.2 with
    | .rat _ n d => if x.cmpMag n d = .lt then taperBelow w x k else k + 1
    | _ => 0

/-- The value of a tapered magnitude code as a rational, 0 for code 0. -/
def taperRat (w m : Nat) : Nat × Nat :=
  if m = 0 then (0, 1)
  else
    let p := taperParts w m
    match pow2Rat false p.1 p.2 with
    | .rat _ n d => (n, d)
    | _ => (0, 1)

/-- ⌊2^32·(|x| − lo)/(hi − lo)⌋ by binary digits (R96). -/
def drawBound (x : Exact) (lo hi : Nat × Nat) : Nat → Nat → Nat
  | 0, t => t
  | k + 1, t =>
    let t' := t + 2 ^ k
    -- lo + t'·(hi − lo)/2^32 over the common denominator
    let num := lo.1 * hi.2 * 2 ^ 32 + t' * (hi.1 * lo.2 - lo.1 * hi.2)
    drawBound x lo hi k (if x.cmpMag num (lo.2 * hi.2 * 2 ^ 32) = .lt then t else t')

/-- Whether the value lies past, at or before the middle of two rationals. -/
def midCmp (x : Exact) (lo hi : Nat × Nat) : Ordering :=
  x.cmpMag (lo.1 * hi.2 + hi.1 * lo.2) (2 * lo.2 * hi.2)

/-- A finite nonzero value in a tapered format (R95, R98): adjacent codes, and saturation at both ends. -/
def toTapered (f : Fmt) (mode : Rnd) (x : Exact) (u : Nat) : Nat :=
  let w := f.width - 1
  let c := taperBelow w x (maxCode f)
  let m :=
    if c = 0 then 1
    else if c = maxCode f then c
    else
      let lo := taperRat w c
      let hi := taperRat w (c + 1)
      c + (takesHi mode x.neg (x.cmpMag lo.1 lo.2 = .eq) (c % 2 = 1) (midCmp x lo hi)
        (drawBound x lo hi 32 0) u).toNat
  signBit f x.neg + m

/-- The overflow result of a mode (R97). -/
def overflowCode (f : Fmt) (mode : Rnd) (neg sat : Bool) : Nat :=
  let max := signBit f neg + maxCode f
  if sat then max
  else if f = .e4m3 then nanCode f
  else
    let inf := signBit f neg + (maxCode f + 1)
    match mode with
    | .rtz => max
    | .rup => if neg then max else inf
    | .rdn => if neg then inf else max
    | _ => inf

/-- A finite nonzero value in a binary float format (R87, R94, R95, R97). -/
def toBinary (f : Fmt) (mode : Rnd) (sat : Bool) (x : Exact) (u : Nat) : Nat :=
  let fb := fracBits f
  let ue : Int := max x.log2 (1 - (biasOf f : Int))
  let y := x.scale (fb - ue)
  let base := ((ue + biasOf f - 1).toNat) * 2 ^ fb
  let code := base + roundUnits mode y u
  if maxCode f < base + y.floorMag ∨ maxCode f < code then overflowCode f mode x.neg sat
  else signBit f x.neg + code

/-- An exact value in a float or tapered format, rounded once (R94, R97, R98). -/
def roundTo (f : Fmt) (mode : Rnd) (sat : Bool) (x : Exact) (u : Nat) : Nat :=
  match x with
  | .nan => nanCode f
  | .inf s =>
    if tapered f then nanCode f
    else if f = .e4m3 then (if sat then signBit f s + maxCode f else nanCode f)
    else signBit f s + (maxCode f + 1)
  | _ =>
    if x.isZero then (if tapered f then 0 else signBit f x.neg)
    else if tapered f then toTapered f mode x u
    else toBinary f mode sat x u

/-- The least and the greatest value of an integer format (R86). -/
def intMin (f : Fmt) : Int := if f.signed then -((2 ^ (f.width - 1) : Nat) : Int) else 0

/-- The greatest value of an integer format. -/
def intMax (f : Fmt) : Int := if f.signed then (2 ^ (f.width - 1) : Nat) - 1 else (2 ^ f.width : Nat) - 1

/-- An integer element's value (R86). -/
def intOf (f : Fmt) (v : Nat) : Int := if f.signed then signedOf f.width v else (v % 2 ^ f.width : Nat)

/-- Clamp to a format's range (R86). -/
def clampInt (f : Fmt) (v : Int) : Int := max (intMin f) (min (intMax f) v)

/-- An exact value in any format by the rules of FCVT (R97, R98); none is the invalid conversion 0x0C5. -/
def convertTo (f : Fmt) (mode : Rnd) (sat : Bool) (x : Exact) (u : Nat) : Option Nat :=
  if f.isFloat then some (roundTo f mode sat x u)
  else match x with
    | .nan => if sat then some 0 else none
    | .inf s => if sat then some (wrapInt f.width (if s then intMin f else intMax f)) else none
    | _ =>
      let v := roundToInt mode x u
      if intMin f ≤ v ∧ v ≤ intMax f then some (wrapInt f.width v)
      else if sat then some (wrapInt f.width (clampInt f v)) else none

/-- The exact value of an integer. -/
def exactInt (v : Int) : Exact := .rat (v < 0) v.natAbs 1

/-- The largest code from `k` down whose tapered value is integral and at most |x| (R272). -/
def taperIntBelow (w : Nat) (x : Exact) : Nat → Nat
  | 0 => 0
  | k + 1 =>
    let r := taperRat w (k + 1)
    if r.1 % r.2 = 0 ∧ x.cmpMag r.1 r.2 ≠ .lt then k + 1 else taperIntBelow w x k

/-- The smallest code above `c`, at most `n` codes further, whose tapered value is integral. -/
def taperIntAbove (w : Nat) : Nat → Nat → Nat
  | 0, c => c
  | n + 1, c => let r := taperRat w (c + 1); if r.1 % r.2 = 0 then c + 1 else taperIntAbove w n (c + 1)

/-- The integral value that FRND chooses, as an exact value (R272). On a tie between codes of equal parity the even
integer is taken (log 12). -/
def roundIntegral (f : Fmt) (mode : Rnd) (x : Exact) (u : Nat) : Exact :=
  match x with
  | .nan => .nan
  | .inf s => .inf s
  | _ =>
    if x.isZero then x
    else if tapered f then
      let w := f.width - 1
      let c := taperIntBelow w x (maxCode f)
      let h := if c = maxCode f then c else taperIntAbove w (maxCode f) c
      let lo := taperRat w c
      let hi := taperRat w h
      let odd := if (c % 2 = 1) = (h % 2 = 1) then lo.1 / lo.2 % 2 = 1 else c % 2 = 1
      let up := c ≠ h && takesHi mode x.neg (x.cmpMag lo.1 lo.2 = .eq) odd (midCmp x lo hi)
        (drawBound x lo hi 32 0) u
      let r := if up then hi else lo
      .rat x.neg r.1 r.2
    else
      let ue : Int := max x.log2 (1 - (biasOf f : Int))
      let g : Int := max (ue - fracBits f) 0
      pow2Rat x.neg (roundUnits mode (x.scale (-g)) u) g

/-- minimumNumber and maximumNumber: which of two values is taken, with −0 below +0 (R270). -/
def pickNumber (greater : Bool) (x y : Exact) : Exact :=
  match x, y with
  | .nan, z | z, .nan => z
  | _, _ =>
    let lt := match x.cmp y with
      | some .lt => true
      | some .eq => x.neg && !y.neg
      | _ => false
    if lt = greater then y else x

/-- The class code of an element (R267). -/
def classOf (f : Fmt) (v : Nat) : Nat :=
  let neg := v.testBit (f.width - 1)
  let m := v % 2 ^ (f.width - 1)
  if abandonedElem f (v % 2 ^ f.width) then 10
  else if isNaR f v then 9
  else match decodeElem f v with
    | .nan => 8
    | .inf s => if s then 0 else 7
    | _ =>
      if m = 0 then (if neg then 3 else 4)
      else if !tapered f && m < 2 ^ fracBits f then (if neg then 2 else 5)
      else if neg then 1 else 6

/-- The kind bit of the FCLS mask for a class code (R267). -/
def classBit : Nat → Nat
  | 0 | 7 => 3 | 1 | 6 => 6 | 2 | 5 => 5 | 3 | 4 => 4 | 8 => 0 | 9 => 1 | _ => 2

end Sys2Proof.Machine
end

