-- ==== Sys2Proof/Config.lean ====
section
/-!
DEFINITION. What the spec leaves open and the model does not choose: constants without a body. A statement about
one of them holds for every value it could have. (Logs 5, 6 and 45.)
-/

namespace Sys2Proof

/-- Word `k` of what the spec leaves open in section `sec` of the image that snapshot number `id` writes: it names the
contents of every section KIND 0x11 to 0x18 (R226), and gives a layout to tokens, Lace images and block registers alone. -/
opaque Config.snapBody (id sec k : Nat) : Word

/-- The number of those words, on the same grounds; a section takes it modulo 2²⁰, so that LEN keeps its 32 bits. -/
opaque Config.snapLength (id sec : Nat) : Nat

/-- Byte `k` of the RSA-3072 signature that the module makes over the 200 bytes of a report,
numbered by the answer it belongs to: the module's own key is not in the spec (R194, R195). -/
opaque Config.rsaByte (answer k : Nat) : Byte

/-- Byte `k` of the SLH-DSA-SHA2-192s signature of the same report (R194, R195). -/
opaque Config.slhByte (answer k : Nat) : Byte

/-- How many cycles the window of a tile's router is ahead of the machine's cycle 0, modulo 1,024: routers' windows are not
aligned with one another, and the spec gives no offsets (R182, log 90). -/
opaque Config.windowPhase (die col row : Nat) : Nat

/-- Where in this module's main memory the range begins that a node's context has attached to an endpoint: the spec
gives no message that tells the module that holds it (R190, log 45). -/
opaque Config.exportBase (node ctx ep : Nat) : Nat

end Sys2Proof
end

