-- ==== Sys2Proof/Machine/State.lean ====
section
/-!
DEFINITION. Everything that the spec gives the machine, as plain data, and the machine right after reset. The
model's own fields (the issued word, the agenda, the held operations, the table of snapshots, the free-value
counter and the turn of the schedule) are marked as such; INVENTORY.md lists every field with the rule that names it.
-/

namespace Sys2Proof.Machine

/-- A value that a token carries: a scalar, or sixteen lanes with their mask (R23). -/
inductive Value where
  | scalar (w : Word)
  | vector (lanes : List Word) (mask : BitVec 16)
  deriving DecidableEq, Repr

/-- A token: tag, value, predicate, poison and NUL (R23). Its target stands in a `Parcel`. -/
structure Tok where
  tag : Word
  val : Value
  pred : Bool
  psn : Bool
  nul : Bool
  deriving DecidableEq, Repr

/-- A token on its way to a node's slot (R23). -/
structure Parcel where
  tile : TileId
  node : Nat
  slot : Slot
  tok : Tok
  /-- Sent under a successor's plane during a SPLICE (R48). -/
  succ : Bool := false
  deriving DecidableEq, Repr

/-- The modes as resolved at load or fetch (R45, R99, R100). -/
structure Mode where
  drnd : Rnd
  psn : Bool
  ntrp : Bool
  deriving DecidableEq, Repr

/-- MODEL'S OWN. An instruction word that an element has issued, with its operands. -/
structure Issued where
  site : Issuer
  word : Word
  ctx : Nat
  tag : Word
  node : Nat
  draw : Nat
  a : Option Tok
  b : Option Tok
  c : Option Tok
  p : Option Tok
  konst : Option Word
  mode : Mode
  /-- Released by a block's commit or by a returning atomic (R45, R130). -/
  released : Bool
  /-- The cause and the address of a table walk that ended its wait (R122). -/
  walk : Option (Nat × Nat)
  /-- Elements that a resumed scatter has written (R318), the bytes of a SNAP to an endpoint (R322), 1 for an EVWAIT (R261),
  a MARK (R294) or a read of a row (R164) that has waited, or one more than the mode word with which a LAUNCH fired (R99). -/
  count : Nat := 0
  /-- Slot a's token as it stood before stage 2, where that differs; a bubble carries its value (R34). -/
  raw : Option Tok := none
  /-- The tile of the mesh where it is performed, if its request travels there as a packet (R111, R198). -/
  away : Option TileId := none
  /-- The memory node, by its index, whose request a token on a memory tile's channel 11 to 15 is (R105, R129). -/
  member : Option Nat := none
  /-- The bound that an XLINV has given a stopped scatter (R318). -/
  bound : Option Nat := none
  /-- The words of the record that a SEED has read before it waits (R319). -/
  record : List Word := []
  deriving DecidableEq, Repr

/-- Why an operation waits for something outside its element. -/
inductive Wait where
  /-- EVWAIT: a record of its launch (R261). -/
  | record
  /-- CFGSW: the swap of every region of the set (R253). -/
  | swap (rset : Nat)
  /-- Block DRAIN: the swap of every region of the launch (R174). -/
  | drain (launch : Nat) (rset : Nat)
  /-- SPLICE: every tile of the set has switched (R323). -/
  | splice (launch : Nat)
  /-- MARK: the context leaves Waiting and Loading (R294). -/
  | start (launch : Nat)
  /-- MARK: the marker's delivery (R294). -/
  | delivery (launch round : Nat)
  /-- SNAP: the context leaves Freezing (R322). -/
  | frozen (launch : Nat)
  /-- SEED: the context runs (R319). -/
  | running (launch : Nat)
  /-- HIN, HOUT and SNAP to an endpoint: the answers that echo a RID (R190). -/
  | transfer (rid : Nat) (got : List Byte) (need : Nat)
  /-- RED: a free entry of the combine store of this key and physical address (R307). -/
  | reduction (key : Word) (pa : Nat)
  /-- An access to main memory that waits for a deferred write-once word (R110), held at the word. -/
  | word (pa : Nat)
  /-- VOPEN: a free verdict slot (R148). -/
  | verdict
  /-- CTRN: the buffer of another block (R257). -/
  | corner
  /-- LBIND and LRESM that found no Free slot at their array: they wait in their entry (R197, R211). -/
  | slot
  /-- A load of a block: its own stores of lower LSID (R44). -/
  | lsid
  /-- A store that its block's commit has released, behind one of lower LSID that still waits (R130). -/
  | behind
  /-- XLINV: a generator whose page is in transit, or an access that is not performed yet (R125, R136). -/
  | transit
  /-- CFGLD: a page that is not present; the planes of its set are loading (R121, R251). -/
  | page (va : Nat)
  deriving DecidableEq, Repr

/-- An operation that waits. -/
structure Held where
  op : Issued
  why : Wait
  deriving DecidableEq, Repr

/-- One input counted by a TRED: its level and position, its element values, or Absent, whether it is a vector, and its
poison (R334). -/
structure Leaf where
  level : Nat
  pos : Nat
  val : Option (List (Option Word))
  vec : Bool
  psn : Bool
  deriving DecidableEq, Repr

/-- What the one entry of a gathering node holds (R32). -/
inductive Agg where
  | none
  /-- TRED: the count word, whether some input is a vector, and the inputs present (R334). -/
  | tree (cw : Word) (vector : Bool) (leaves : List Leaf) (seen : List Nat)
  /-- JOIN: leaf index, completion word (R285). -/
  | count (leaves : List (Nat × Word)) (psn : Bool)
  /-- VTOPK: k, n, inputs counted, entries (value, index) by rank (R155). -/
  | topk (k n : Nat) (counted : Nat) (entries : List (Word × Word)) (psn : Bool)
  deriving DecidableEq, Repr

/-- A BOUND loop with a body node in a tile: the BOUND's tile and node (R37). -/
structure LoopBody where
  tile : TileId
  node : Nat
  deriving DecidableEq, Repr

/-- A matching-store entry (R29). -/
structure Entry where
  tag : Word
  node : Nat
  a : Option Tok
  b : Option Tok
  c : Option Tok
  p : Option Tok
  agg : Agg
  /-- The cycle in which it became ready (R30). -/
  ready : Option Nat
  /-- It occupies a way of its set (R29, R144). -/
  way : Bool
  /-- It is the reserved entry of this BOUND, outside every partition (R37). -/
  reserved : Option LoopBody
  /-- It holds the operands of a parked access (R122). -/
  parked : Bool
  /-- The slots of the vector operand buffer that hold its vector values (R29). -/
  vslots : List Nat
  deriving DecidableEq, Repr

/-- A configuration plane of a compute tile (R46, R67). -/
structure CPlane where
  ctx : Nat
  img : Word
  ins : List Word
  cons : List Word
  routes : List (BitVec 32)
  tpls : List (Nat × Nat)
  stages : List Word
  mode : Mode
  widths : List Nat
  bodies : List LoopBody
  /-- The slots of its nodes that have an incoming arc in the whole graph of the image (R47). -/
  feeds : List (Nat × Slot) := []
  /-- The field values that the CALLs of the whole graph push (R40, R47). -/
  sites : List Nat := []
  deriving DecidableEq, Repr

/-- An accumulator tile: sixteen rows of sixteen binary32 patterns, poison mark, format record (R296). -/
structure Acc where
  rows : List (List (BitVec 32))
  psn : Bool
  fmt : Option Fmt
  deriving DecidableEq, Repr

/-- The corner-turn buffer: the aggregate tag and the rows that have arrived (R257). -/
structure Corner where
  tag : Word
  rows : List (Nat × List Word)
  psn : Bool
  deriving DecidableEq, Repr

/-- The state of a verdict slot (R148, R149). -/
inductive VState where
  | live | complete | abandoned
  deriving DecidableEq, Repr

/-- A verdict slot (R148, R157); `opener` is the VOPEN that still waits for the first reply. -/
structure Verdict where
  tag : Word
  st : VState
  p : BitVec 32
  j : Nat
  uprev : BitVec 32
  q : BitVec 32
  m : Nat
  kind : Nat
  epoch : Nat
  theta : BitVec 32
  cell : Word
  v : Nat
  psn : Bool
  reading : Bool
  opener : Option Issued
  deriving DecidableEq, Repr

/-- A kill mark as a tile received it (R38). -/
structure Kill where
  tag : Word
  mark : Nat
  deriving DecidableEq, Repr

/-- A fault flit at the pager corner (R122); `told` once 0x140 has been recorded for it (R123). -/
structure PageFault where
  ctx : Nat
  va : Nat
  region : Nat
  told : Bool := false
  deriving DecidableEq, Repr

/-- MODEL'S OWN. What a packet stands for beside the payload bits of R70 to R72 and R230, which give TYPE 001, 010, 100 and
101 no layout and a token's source and plane no bit (logs 64 and 68). -/
inductive Cargo where
  /-- Nothing beside its bits: it came over Gwynlink, or what it stood for is gone. -/
  | bits
  /-- A token: the tile that sent it (R223), and whether under a splicing successor's plane (R48). -/
  | token (src : TileId) (succ : Bool)
  /-- TYPE 001: a request on its way to where it is performed (R111, R198). -/
  | request (op : Issued)
  /-- TYPE 010: a reply on its way back to the stage 6 of the tile that asked (R111, R198). -/
  | reply (op : Issued) (tok : Tok)
  /-- TYPE 011: the EVPOST that emits once the record is accepted (R260). -/
  | post (op : Issued)
  /-- TYPE 100: a translation fault for the pager corner (R122). -/
  | fault (f : PageFault)
  /-- TYPE 101: the marker of a context's tile, with the tokens that it has sent here (R223). -/
  | marker (ctx : Nat) (src : TileId) (count : Nat)
  deriving DecidableEq, Repr

/-- A flit: control word and 256 data bits (R70), and what its packet stands for. -/
structure Flit where
  ctl : BitVec 32
  data : BitVec 256
  cargo : Cargo
  deriving DecidableEq, Repr

/-- A reassembly slot: source and PID, last index, the flits present, TYPE, the cycle it was claimed (R179, R180), and what
its packet stands for. -/
structure Reasm where
  key : Nat
  last : Nat
  got : List (Nat × BitVec 256)
  typ : Nat
  since : Nat
  cargo : Cargo
  deriving DecidableEq, Repr

/-- A router's throttling state (R182, R183): deflections of this window and of the last, whether it is throttled, the
windows in which it was, the first cycle in which it may inject again, the start of this window, SYS.THROTWIN as the
window found it, and the first cycle in which it arbitrates next (R178). -/
structure Router where
  now : Nat
  last : Nat
  throttled : Bool
  twin : Nat
  injects : Nat
  start : Nat
  win : Word
  arb : Nat
  deriving DecidableEq, Repr

/-- A compute tile. -/
structure CTile where
  active : Option CPlane
  shadow : Option CPlane
  map : List (Nat × Nat)
  own : List Parcel
  /-- Tokens on stream channels that end at this tile. -/
  stream : List Parcel
  ingress : List Parcel
  headWait : Nat
  /-- Tokens that wait for the partial entry of their key to be fetched back (R31, R144). -/
  refill : List Parcel
  entries : List Entry
  q : List Acc
  mma : List Issued
  corner : Option Corner
  verdicts : List Verdict
  drains : List (Nat × Slot)
  passed : List Nat
  kills : List Kill
  frozen : List Nat
  router : Router
  inject : List Flit
  pid : Nat
  reasm : List Reasm
  /-- The tokens of a context sent to a tile, and received from one, since its launch or restore (R223). -/
  sent : List ((Nat × TileId) × Nat)
  rcvd : List ((Nat × TileId) × Nat)
  /-- The markers of a context that have arrived: the source and its count (R223). -/
  marks : List ((Nat × TileId) × Nat)
  deriving DecidableEq, Repr

/-- A plane of a memory tile: mode word, generator descriptors, the pages patched into each generator (virtual base,
size, physical base), initial data, and the blocks of a CODE tile by offset (R62, R63, R67, R121); the bytes of the blocks
that a program load has placed stay (R50). -/
structure MPlane where
  ctx : Nat
  mode : Word
  gens : List (List Word)
  frames : List (List (Nat × Nat × Nat))
  data : List Word
  code : List (Nat × List Word)
  /-- Offset and bytes of each block of the tile that is in place already (R50, log 31). -/
  keep : List (Nat × Nat) := []
  deriving DecidableEq, Repr

/-- The state of a write-once word; an unlisted word is empty (R110). -/
inductive WState where
  | full | deferred
  deriving DecidableEq, Repr

/-- A LINE row slot in logical order (R109, R124). -/
structure Line where
  slot : Nat
  written : Bool
  bad : Bool
  deriving DecidableEq, Repr

/-- A row record of an SACC tile (R158). Its elements stand in the banks. -/
structure Row where
  num : Nat
  home : Nat
  n : Nat
  eps : Word
  trap : Bool
  sat : Bool
  psn : Bool
  count : Nat
  base : Nat
  smask : Nat
  sigma : Nat
  deriving DecidableEq, Repr

/-- A running or waiting address generator (R63, R65, R106): its position counters, the starts that wait, the
element count moved, the pages of its extent (virtual base, size, physical base, R121), and whether an invalidation pauses it (R125). -/
structure Gen where
  pos : List Nat
  run : Option Issued
  waiting : List Issued
  moved : Nat
  frames : List (Nat × Nat × Nat)
  paused : Bool
  /-- The words of a circuit that stand in its channel, each with the POS of its element, its index and its bytes (R64, R222). -/
  chan : List (List Nat × Nat × List Byte)
  deriving DecidableEq, Repr

/-- A memory tile. -/
structure MTile where
  active : Option MPlane
  shadow : Option MPlane
  last : Option Nat
  banks : List Host.Cell
  full : List (Nat × Word)
  fill : Nat
  drain : Nat
  fifo : List (List Byte)
  lines : List Line
  wstate : List (Nat × WState)
  readers : List (Nat × Issued)
  rows : List Row
  heads : List Nat
  sink : List Parcel
  gens : List (Nat × Gen)
  waiting : List Issued
  gated : Bool
  zeroing : Bool
  deriving DecidableEq, Repr

/-- A seed record (R67, R72). -/
structure SeedRec where
  ctl : Word
  tag : Word
  val : Word
  deriving DecidableEq, Repr

/-- A record of an event queue (R230). -/
inductive Record where
  /-- KIND 0x01 (R260). -/
  | post (src seq : Nat) (value : Word) (launch ctx code : Nat) (psn : Bool) (tag : Word)
  /-- KIND 0x10 (R205). -/
  | lace (src seq pos cell count ctx : Nat)
  /-- KIND 0x20 (R231). -/
  | fault (src seq cause tkind flg die col row ctx : Nat) (tag addr detail : Word) (launch : Nat)
  /-- KIND 0x30 (R229). -/
  | marker (src seq round ctx launch : Nat)
  deriving DecidableEq, Repr

/-- A record on its way to a queue, with the operation that emits once it is accepted (R260). -/
structure Inbound where
  record : Record
  op : Option Issued
  deriving DecidableEq, Repr

/-- A translation-cache entry: context, first and last virtual address of the page, leaf, physical base (R122). -/
structure TcEntry where
  ctx : Nat
  base : Nat
  size : Nat
  leaf : Word
  deriving DecidableEq, Repr

/-- An access that waits for the pager (R122). -/
structure ParkedAcc where
  op : Issued
  va : Nat
  answered : Bool
  deriving DecidableEq, Repr

/-- A held store, atomic or register write of a block, by LSID (R45). -/
structure HeldStore where
  lsid : Nat
  op : Issued
  deriving DecidableEq, Repr

/-- The exit that a block has counted (R246, R279). -/
inductive Exit where
  | to (target : Word)
  | call (target ret : Word)
  | ret (target : Word)
  | halt
  deriving DecidableEq, Repr

/-- The block that a block context runs (R43 to R45, R56). -/
structure Block where
  addr : Word
  ins : List Word
  cons : List Word
  sm : Nat
  wm : Nat
  mode : Mode
  toks : List ((Nat × Slot) × Tok)
  fired : List Nat
  doneS : Nat
  doneW : Nat
  exit : Option Exit
  stores : List HeldStore
  writes : List (Nat × Word)
  hin : List (Nat × Nat × Nat)
  fixed : Bool
  deriving DecidableEq, Repr

/-- The state of a block context (R43, R80, R224, R279). -/
inductive BState where
  | idle
  /-- It is to fetch the block at this address. -/
  | fetch (addr : Word)
  | run (b : Block)
  | stopped
  deriving DecidableEq, Repr

/-- A block context of a control tile. -/
structure BlockCtx where
  st : BState
  ctx : Nat
  g : List Word
  stack : List Word
  commits : Nat
  lastFire : Nat
  held : Bool
  deriving DecidableEq, Repr

/-- What CFGLD or a grant has put into a region's shadow planes (R251, R323). -/
structure Loaded where
  ctx : Nat
  img : Word
  rset : Nat
  len : Nat
  byCfgld : Bool
  seeds : List SeedRec
  deriving DecidableEq, Repr

/-- A region: its Spindle, memory port, control tile and event queue. -/
structure Region where
  activeCtx : Option Nat
  shadow : Option Loaded
  reserved : Option Nat
  tc : List TcEntry
  walks : List (Issued × Nat)
  parked : List ParkedAcc
  /-- The request entries of the memory port, and of a Lace array that stands in the region (R179). -/
  requests : List Issued
  storeBuf : List Issued
  done : List ((TileId × Nat) × Word)
  bcs : List BlockCtx
  rr : Nat
  queue : List Record
  inbound : List Inbound
  drop : Nat
  deriving DecidableEq, Repr

/-- A loop-instance record (R36, R38, R249). -/
structure LoopRec where
  tag : Word
  bound : Option (TileId × Nat)
  window : Option Nat
  oldest : Nat
  admitted : List Nat
  cont : List Nat
  exited : List Nat
  tokens : List Nat
  retiring : Bool
  kill : Option Nat
  exits : List Issued
  /-- The region whose tile opened it: its swap ends the instance (R249, log 70). -/
  home : Option Nat := none
  deriving DecidableEq, Repr

/-- A host endpoint of a context (R116). -/
structure Endpoint where
  node : Nat
  ptr : Nat
  ext : Nat
  pos : Nat
  deriving DecidableEq, Repr

/-- The states of a context (R220). -/
inductive CState where
  | waiting | loading | running | freezing | frozen | stopped | ended
  deriving DecidableEq, Repr

/-- What an entry of the Skein table holds (R31, R110). -/
inductive Spilled where
  | entry (tile : TileId) (e : Entry)
  | reader (tile : TileId) (word : Nat) (op : Issued)
  deriving DecidableEq, Repr

/-- A context (R216, R220). -/
structure Ctx where
  num : Nat
  launch : Nat
  st : CState
  program : Bool
  home : Nat
  host : Option Nat
  parent : Option Nat
  handle : Word
  img : Word
  phys : Bool
  seed : Word
  part : Nat
  skl : Nat
  prio : Nat
  gang : Nat
  ten : Nat
  root : Nat
  rset : Nat
  sys : Bool
  mode : Word
  k : Nat
  arrival : Nat
  req : Option Issued
  image : Option Nat
  seeds : List SeedRec
  round : Nat
  issuer : Option Nat
  markers : List Element
  quiet : List Element
  stopAfter : Bool
  endAfter : Bool
  /-- The round is a gang's: it is reported once every port has brought the gang marker (R228, R229). -/
  gangMark : Bool
  loops : List LoopRec
  skein : List Spilled
  endpoints : List (Nat × Endpoint)
  sections : List (Nat × Word × Word)
  splice : Option Loaded
  /-- The tiles that have switched under a SPLICE (R48). -/
  switched : List TileId
  /-- Under a SPLICE the loop instances of the predecessor: `loops` are then the successor's, and each lot ends with its own
  drain (R48, R249). -/
  former : List LoopRec := []
  /-- The templates that a seed tag has entered, by tile and base (R30). -/
  entered : List (TileId × Nat × Word)
  deriving DecidableEq, Repr

/-- A leaf of a reduction in a combine store with its completion (R307). -/
structure RedLeaf where
  index : Nat
  val : Option Word
  op : Issued
  cause : Nat
  deriving DecidableEq, Repr

/-- An open reduction (R307). -/
structure Reduction where
  ctx : Nat
  va : Word
  pa : Nat
  n : Nat
  word : Word
  rnd : Rnd
  leaves : List RedLeaf
  psn : Bool
  deriving DecidableEq, Repr

/-- A compacting scatter stopped at its bound (R115, R318). -/
structure Scatter where
  die : Die
  op : Issued
  bound : Nat
  written : Nat
  deriving DecidableEq, Repr

/-- The payload of a link flit as the module builds it (R186): slots of mesh carriage, a host message, a marker. -/
inductive LinkLoad where
  | idle
  | mesh (slots : List (Nat × Flit))
  | host (bytes : List Byte)
  | control
  | marker (gang round : Nat)
  deriving DecidableEq, Repr

/-- A Gwynlink port (R185 to R187, R228). -/
structure Port where
  up : Bool
  rxSeq : Nat
  txSeq : Nat
  nak : Bool
  replay : List (Nat × LinkLoad)
  /-- How often in a row each flit of the replay buffer has been replayed (R187). -/
  replays : List Nat
  rx : List (List Byte)
  tx : List (List Byte)
  lastRx : Nat
  /-- Gang markers (gang, round) that have been received and wait to be acted on, and those that were (R228). -/
  marks : List (Nat × Nat)
  marked : List (Nat × Nat)
  deriving DecidableEq, Repr

/-- A state cell of a Lace graph (R74). -/
structure Cell where
  sact : Nat
  ssym : Nat
  cset : Nat
  rpt : Nat
  rule : Nat
  acc : Bool
  sbase : Nat
  scnt : Nat
  deriving DecidableEq, Repr

/-- A Lace graph (R73). -/
structure Graph where
  cells : List Cell
  sets : List Nat
  table : List Word
  stb : Nat
  stn : Nat
  check : Word
  deriving DecidableEq, Repr

/-- An active configuration: a cell, or none for the pre-start one, and its stack from the bottom, each node as its
push position and symbol (R201). -/
structure Conf where
  cell : Option Nat
  stack : List (Nat × Nat)
  deriving DecidableEq, Repr

/-- The states of a stream slot (R200). -/
inductive SState where
  | free | bound | held
  deriving DecidableEq, Repr

/-- A stream slot (R199, R201). -/
structure Stream where
  st : SState
  bid : Nat
  ctx : Nat
  bind : Word
  confs : List Conf
  pos : Nat
  seq : Nat
  /-- The CTX that its handle carries: another context's number after a RSTR (log 34). -/
  hctx : Nat
  deriving DecidableEq, Repr

/-- A record that still holds an array (R205, R206). -/
inductive LaceOut where
  | event (region : Nat) (r : Record)
  | fifo (tile : TileId) (bytes : List Byte)
  deriving DecidableEq, Repr

/-- What an operation at a Lace array has still to do: it has not begun; symbols that LFEED has still to step (R207); a
query's descriptor words, the tokens forced so far and the symbols of the last one still to step (R208). -/
inductive LaceWork where
  | start
  | feed (syms : List Nat)
  | query (desc : List Word) (forced : Nat) (syms : List Nat)
  /-- The mask of a query's turn: the classes whose rows are still to be read, the bytes of the first that have been, and
  what they give so far (R208). -/
  | mask (desc : List Word) (forced : Nat) (classes : List Nat) (off m : Nat)
  deriving DecidableEq, Repr

/-- An operation that has reached a Lace array (R213). -/
structure LaceOp where
  op : Issued
  work : LaceWork
  /-- It waits for a table walk or for a page, and goes on when that ends (R122). -/
  away : Bool
  /-- Its block runs no more: the operation is not undone, and its reply has no taker (R198). -/
  mute : Bool
  deriving DecidableEq, Repr

/-- A Lace array (R197, R200): its graph and slots, the records of its last step that still hold it (R205, R206), the
operations that have reached it, in the order of their arrival (R213), and the slot of the stream that it stepped last
(R202). -/
structure LaceArray where
  graph : Option Graph
  slots : List Stream
  out : List LaceOut
  ops : List LaceOp
  last : Nat
  deriving DecidableEq, Repr

/-- A page that the pager moves: the context, its virtual base and size, and its new frame (R123). -/
structure PageMove where
  ctx : Nat
  base : Nat
  size : Nat
  frame : Nat
  deriving DecidableEq, Repr

/-- The pager's own data (R123): fault flits, the free ranges (base, bytes) of each tier, and the pages that it moves. -/
structure Pager where
  faults : List (Die × PageFault)
  free1 : List (Nat × Nat)
  free2 : List (Nat × Nat)
  moving : List PageMove
  deriving DecidableEq, Repr

/-- The boot phase (R194). -/
inductive Boot where
  | off | recovery | running
  deriving DecidableEq, Repr

/-- A message on Gwynlink between the module and another node (R188): the node, and header and body. -/
structure Msg where
  node : Nat
  bytes : List Byte
  /-- A CFGW with LOAD that waits for a page: its planes are loading (R121, R251). -/
  waits : Bool := false
  deriving DecidableEq, Repr

/-- MODEL'S OWN. What a snapshot holds, beside the words it has in memory (log 6). -/
structure Snapshot where
  id : Nat
  ctx : Ctx
  words : List Word
  ctiles : List (TileId × CTile)
  mtiles : List (TileId × MTile)
  regions : List (Nat × Region)
  streams : List (Nat × Nat × Stream × Option Graph)
  reds : List Reduction
  scatters : List Scatter
  held : List Held
  readers : List (Nat × Issued)
  /-- The operations of the context at Lace arrays, and the records that a full FIFO tile holds back (R215), by 16 times the
  array plus the slot of their stream. -/
  laceOps : List (Nat × LaceOp) := []
  laceOut : List (Nat × List LaceOut) := []
  deriving DecidableEq, Repr

/-- MODEL'S OWN. One entry of the agenda (log 2): an instruction row as an event, cycles that pass, or something that a part
of the machine does on its own. -/
inductive Move where
  | run (i : Instr)
  | cycles (n : Nat)
  | element (t : TileId) (g : Nat)
  /-- A region's port takes up its next request (R111). -/
  | serve (r : Nat)
  /-- A Lace array goes on (R202). -/
  | lace (a : Nat)
  /-- An input: an error that cannot be corrected on the flit at an input of a router (R180). -/
  | strike (t : TileId) (port : Nat)
  deriving DecidableEq, Repr

/-- The main memory: bytes by physical address, states of write-once words, readers, head bits (R67, R110, R112). -/
structure Main where
  cells : List Host.Cell
  wstate : List (Nat × WState)
  readers : List (Nat × Issued)
  heads : List Nat
  deriving DecidableEq, Repr

/-- The state of the machine. -/
structure State where
  boot : Boot
  flash : Firmware
  node : Nat
  tables : RoutingTables
  feat : Option (BitVec 128)
  throtwin : Word
  fuse : List TileId
  tier2 : List (Nat × Nat)
  cycle : Nat
  nextLaunch : Nat
  seqs : List (Nat × Nat)
  ctxs : List Ctx
  regions : List (Nat × Region)
  ctiles : List (TileId × CTile)
  mtiles : List (TileId × MTile)
  main : Main
  reds : List Reduction
  scatters : List Scatter
  flits : List (TileId × Nat × Flit)
  next : List (TileId × Nat × Flit)
  late : List (Nat × TileId × Nat × Flit)
  failed : List (Die × Nat)
  ports : List (Nat × Port)
  hostIn : List Msg
  hostOut : List Msg
  lace : List (Nat × LaceArray)
  pager : Pager
  issue : Option Issued
  agenda : List Move
  held : List Held
  images : List Snapshot
  rid : Nat
  counter : Nat
  turn : Nat
  deriving DecidableEq, Repr

/-- The reasons for which the machine itself stops. The spec gives every event of the machine an effect, its
exceptions included, so none is raised by an instruction row. -/
inductive Fault where
  /-- Raised by `step` alone: the issued word stands for no instruction in its element's mode. No run reaches it
  (the loader and the fetcher refuse such a word, R79); safe: no effect is invented. -/
  | undecodable
  deriving DecidableEq, Repr

/-- The reasons for which the model refuses an instruction. -/
inductive Refusal where
  /-- Raised by `exec` for an instruction row that has no meaning yet; safe: no effect is invented. -/
  | notModelled (mnemonic : String)
  deriving DecidableEq, Repr

/-- A router at reset. -/
def Router.reset : Router := ⟨0, 0, false, 0, 0, 0, 0x2200, 0⟩

/-- An accumulator tile zeroed (R118, R296). -/
def Acc.zero : Acc := ⟨List.replicate 16 (List.replicate 16 0), false, none⟩

/-- A compute tile with both planes empty. -/
def CTile.reset : CTile :=
  { active := none, shadow := none, map := [], own := [], stream := [], ingress := [], headWait := 0, refill := [],
    entries := [],
    q := List.replicate 8 Acc.zero, mma := [], corner := none, verdicts := [], drains := [], passed := [],
    kills := [], frozen := [], router := Router.reset, inject := [], pid := 0, reasm := [], sent := [], rcvd := [],
    marks := [] }

/-- A memory tile with both planes empty: gated (R117), its banks zero. -/
def MTile.reset : MTile :=
  { active := none, shadow := none, last := none, banks := [], full := [], fill := 0, drain := 0, fifo := [],
    lines := [], wstate := [], readers := [], rows := [], heads := [], sink := [], gens := [], waiting := [],
    gated := true, zeroing := false }

/-- An idle block context. -/
def BlockCtx.reset : BlockCtx :=
  { st := .idle, ctx := 0, g := List.replicate 64 0, stack := [], commits := 0, lastFire := 0, held := false }

/-- A region with empty planes and an empty queue. -/
def Region.reset : Region :=
  { activeCtx := none, shadow := none, reserved := none, tc := [], walks := [], parked := [], requests := [],
    storeBuf := [],
    done := [], bcs := List.replicate 4 BlockCtx.reset, rr := 0, queue := [], inbound := [], drop := 0 }

/-- A port that is down until the firmware trains it (R194). -/
def Port.reset : Port :=
  { up := false, rxSeq := 0, txSeq := 0, nak := false, replay := [], replays := [], rx := [], tx := [], lastRx := 0,
    marks := [], marked := [] }

/-- A free stream slot. -/
def Stream.reset : Stream := ⟨.free, 0, 0, 0, [], 0, 0, 0⟩

/-- A Lace array without a graph. -/
def LaceArray.reset : LaceArray := ⟨none, List.replicate 16 Stream.reset, [], [], 15⟩

/-- The machine right after reset: powered, nothing booted (R194). Values that the spec does not state are named in
logs 3, 4, 5 and 7. -/
def State.reset : State :=
  { boot := .off
    flash := ⟨true, true, 0, 0, 0⟩
    node := 0
    tables := ⟨[], [], [], [], []⟩
    feat := none
    throtwin := 0x2200
    fuse := []
    tier2 := []
    cycle := 0
    nextLaunch := 1
    seqs := []
    ctxs := []
    regions := []
    ctiles := []
    mtiles := []
    main := ⟨[], [], [], []⟩
    reds := []
    scatters := []
    flits := []
    next := []
    late := []
    failed := []
    ports := []
    hostIn := []
    hostOut := []
    lace := []
    pager := ⟨[], [], [], []⟩
    issue := none
    agenda := []
    held := []
    images := []
    rid := 0
    counter := 0
    turn := 0 }

end Sys2Proof.Machine
end

