-- ==== Sys2Proof/Machine/Flags.lean ====
section
/-!
DEFINITION. Tags and their order (R24 to R26), the completion word (R127), the predicates and poison that results
carry (R34, R101), and the mode word (R99).
-/

namespace Sys2Proof.Machine

/-- CTX of a tag (R24). -/
def tagCtx (t : Word) : Nat := bits t.toNat 52 12

/-- DEPTH of a tag (R24). -/
def tagDepth (t : Word) : Nat := bits t.toNat 48 4

/-- The field area of a tag (R24). -/
def tagArea (t : Word) : Nat := bits t.toNat 0 48

/-- A tag from its parts. -/
def mkTag (ctx depth area : Nat) : Word := word (ctx % 4096 * 2 ^ 52 + depth % 16 * 2 ^ 48 + area % 2 ^ 48)

/-- The tag of a context at depth 0, which every token of a block carries (R44). -/
def ctxTag (ctx : Nat) : Word := mkTag ctx 0 0

/-- Tag order: CTX, then the field area, then the lower DEPTH (R26). -/
def tagLt (s t : Word) : Bool :=
  let key (u : Word) := (tagCtx u * 2 ^ 48 + tagArea u) * 16 + tagDepth u
  key s < key t

/-- The widths of the first `k` fields summed. -/
def widthSum (ws : List Nat) (k : Nat) : Nat := (ws.take k).foldl (· + ·) 0

/-- The width of field `k`, counted from 0 (R24). -/
def widthOf (ws : List Nat) (k : Nat) : Nat := nth 4 ws k

/-- The tag with a field of value `v` pushed; none is 0x081 (R25, R306). -/
def pushField (ws : List Nat) (t : Word) (v : Nat) : Option Word :=
  let d := tagDepth t
  let w := widthOf ws d
  if 12 ≤ d ∨ 48 < widthSum ws (d + 1) ∨ 2 ^ w ≤ v then none
  else some (mkTag (tagCtx t) (d + 1) (tagArea t + v * 2 ^ (48 - widthSum ws (d + 1))))

/-- The innermost field's value. -/
def innermost (ws : List Nat) (t : Word) : Nat :=
  let d := tagDepth t
  bits t.toNat (48 - widthSum ws d) (widthOf ws (d - 1))

/-- The tag with its innermost field popped; none is 0x082 (R25). -/
def popField (ws : List Nat) (t : Word) : Option Word :=
  let d := tagDepth t
  if d = 0 then none
  else
    let low := 48 - widthSum ws (d - 1)
    some (mkTag (tagCtx t) (d - 1) (tagArea t / 2 ^ low * 2 ^ low))

/-- Field `k` of a tag counted from the outermost, 0 first. -/
def fieldAt (ws : List Nat) (t : Word) (k : Nat) : Nat :=
  bits t.toNat (48 - widthSum ws (k + 1)) (widthOf ws k)

/-- The tag with field `k` (from the outermost) replaced. -/
def setField (ws : List Nat) (t : Word) (k v : Nat) : Word :=
  let low := 48 - widthSum ws (k + 1)
  mkTag (tagCtx t) (tagDepth t) (tagArea t - fieldAt ws t k * 2 ^ low + v * 2 ^ low)

/-- The tag cut to its first `k` fields. -/
def cutTag (ws : List Nat) (t : Word) (k : Nat) : Word :=
  let low := 48 - widthSum ws k
  mkTag (tagCtx t) k (tagArea t / 2 ^ low * 2 ^ low)

/-- A tag obeys a width list: DEPTH at most 12, the fields within 48 bits, and nothing below the last (R24). -/
def tagFits (ws : List Nat) (t : Word) : Bool :=
  let d := tagDepth t
  d ≤ 12 && widthSum ws d ≤ 48 && tagArea t % 2 ^ (48 - widthSum ws d) = 0

/-- The twelve widths of an image: the declared ones, the last repeated; width 4 throughout when none is declared
(R24, R66). -/
def fullWidths (ws : List Nat) : List Nat :=
  match ws.getLast? with
  | none => List.replicate 12 4
  | some l => ws ++ List.replicate (12 - ws.length) l

/-- Scope codes of a completion word (R128). -/
inductive Scope where
  | tile | region | die | whole | system
  deriving DecidableEq, Repr

/-- The code of a scope (R128). -/
def Scope.code : Scope → Nat
  | .tile => 0 | .region => 1 | .die => 2 | .whole => 3 | .system => 4

/-- The completion word (R127). -/
def completion (count : Nat) (scope : Scope) (noef : Bool) (cause : Nat) : Word :=
  word (count % 2 ^ 32 + scope.code * 2 ^ 32 + noef.toNat * 2 ^ 35 + cause % 1024 * 2 ^ 36)

/-- The mode that a mode word resolves to (R99, R100). -/
def Mode.ofWord (w : Word) : Mode :=
  { drnd := match Rnd.ofCode (bits w.toNat 0 3) with
      | some .ctx | none => .rne
      | some r => r
    psn := w.getLsbD 3
    ntrp := w.getLsbD 4 }

/-- A SYSWR to SYS.MODE is refused: a reserved DRND or a nonzero reserved bit (R99). -/
def modeWordBad (w : Word) : Bool := 6 ≤ bits w.toNat 0 3 || bits w.toNat 5 59 ≠ 0

/-- The rounding mode of a node: its RND, with 110 resolved (R45). -/
def Mode.resolve (m : Mode) (r : Rnd) : Rnd := if r = .ctx then m.drnd else r

/-- A scalar token. -/
def Tok.scalar (tag w : Word) (pred psn : Bool) : Tok := ⟨tag, .scalar w, pred, psn, false⟩

/-- What a missing operand reads as: no run issues a word without the operands its fields name. -/
def Tok.zero : Tok := ⟨0, .scalar 0, true, false, false⟩

/-- Bits [63:0] of a token. -/
def Tok.word (t : Tok) : Word :=
  match t.val with
  | .scalar w => w
  | .vector ls _ => nth 0 ls 0

/-- VEC (R23). -/
def Tok.isVec (t : Tok) : Bool :=
  match t.val with
  | .scalar _ => false
  | .vector _ _ => true

/-- The tokens that fired an operation, by slot; slot p is not an operand of the ARI count (R34). -/
def Issued.operands (op : Issued) : List Tok := op.a.toList ++ op.b.toList ++ op.c.toList

/-- Slot a, b and c of an operation. -/
def Issued.ta (op : Issued) : Tok := op.a.getD Tok.zero
/-- Slot b. -/
def Issued.tb (op : Issued) : Tok := op.b.getD Tok.zero
/-- Slot c. -/
def Issued.tc (op : Issued) : Tok := op.c.getD Tok.zero

/-- A token that any poisoned operand fed is poisoned (R101); slot p feeds the node too. -/
def Issued.poisoned (op : Issued) : Bool := op.operands.any (·.psn) || op.p.any (·.psn)

/-- Every operand has predicate 1 (R34). -/
def Issued.allTrue (op : Issued) : Bool := op.operands.all (·.pred)

/-- Some slot received a null token (R44). -/
def Issued.anyNull (op : Issued) : Bool := op.operands.any (·.nul) || op.p.any (·.nul)

/-- What becomes of an operation's firing (R34, R44, R82). -/
inductive Firing where
  | run | consumed | bubble | null
  deriving DecidableEq, Repr

/-- The test of PRD 01 and 10 on slot p fails; a null token in slot p carries no predicate to test (R44, R82). -/
def testFails (prd : Prd) (op : Issued) : Bool :=
  op.p.any fun t => !t.nul && match prd with
    | .ift => !t.pred
    | .iff => t.pred
    | .always | .bub => false

/-- The firing test of PRD (R34, R82). The spec does not rank R82 and R44 where both apply: a test that fails consumes the
operands although one of them is null, and under PRD 11 a null operand nulls the instruction although an operand's
predicate is 0 (log 60). -/
def firing (prd : Prd) (op : Issued) : Firing :=
  if testFails prd op then .consumed
  else if op.anyNull then .null
  else if prd = .bub && !op.allTrue then .bubble
  else .run

end Sys2Proof.Machine
end

