-- ==== Sys2Proof/Machine/Ops.lean ====
section
/-!
DEFINITION. The named operations over the machine's parts: places of tiles and regions, reading and writing each
part of the state, main memory and tile banks, translation, taking an exception (recording a fault and stopping
what it stops) and returning from one (resuming a frozen context), and marking a context.
-/

namespace Sys2Proof.Machine

/-- The outcome type of the machine's meanings. -/
abbrev Out := Host.Outcome State Fault Refusal

/- Places (R1, R2, R12, R159, R170). -/

/-- A compute tile stands where column plus row is even (R12). -/
def isCompute (t : TileId) : Bool := (t.col + t.row) % 2 = 0

/-- A tile of the pager corner (R2). -/
def inPagerCorner (t : TileId) : Bool := t.col ≤ 1 && t.row ≤ 1

/-- The number of a die, 0 for W. -/
def dieNum : Die → Nat
  | .w => 0 | .e => 1

/-- The die of a number. -/
def dieOf (n : Nat) : Die := if n = 0 then .w else .e

/-- The destination of a flit (R70). -/
def Flit.dst (f : Flit) : TileId :=
  let c := f.ctl.toNat
  ⟨dieOf (bits c 31 1), bits c 26 5, bits c 21 5⟩

/-- TYPE (R70). -/
def Flit.typ (f : Flit) : Nat := bits f.ctl.toNat 2 3

/-- The region, 0 to 41, that a tile lies in; region n of E is 21 + n (R12, R19). -/
def regionOf (t : TileId) : Nat := 21 * dieNum t.die + t.row / 8 * 7 + t.col / 4

/-- The first tile of a region (R159). -/
def firstTile (r : Nat) : TileId := ⟨dieOf (r / 21), r % 21 % 7 * 4, r % 21 / 7 * 8⟩

/-- Tile number p of a region, by rows (R159). -/
def tileAt (r p : Nat) : TileId :=
  let f := firstTile r
  ⟨f.die, f.col + p % 4, f.row + p / 4⟩

/-- Memory tile t of a region: of tiles 2t and 2t + 1 the one with odd column plus row (R159). -/
def memTile (r t : Nat) : TileId :=
  let p := tileAt r (2 * t)
  if isCompute p then tileAt r (2 * t + 1) else p

/-- The number t of a memory tile in its region (R159). -/
def memIndex (t : TileId) : Nat := (t.col % 4 + 4 * (t.row % 8)) / 2

/-- The tile at a port: N, E, S, W; none off the die (R54, R170). -/
def neighbour (t : TileId) (port : Nat) : Option TileId :=
  match port with
  | 0 => if t.row = 0 then none else some { t with row := t.row - 1 }
  | 1 => if 27 ≤ t.col then none else some { t with col := t.col + 1 }
  | 2 => if 23 ≤ t.row then none else some { t with row := t.row + 1 }
  | _ => if t.col = 0 then none else some { t with col := t.col - 1 }

/-- The port opposite to a port. -/
def opposite (port : Nat) : Nat := (port + 2) % 4

/-- The regions of a region set (R19, R66). -/
def regionsOf (rset : Nat) : List Nat := setBits rset 42

/-- The tiles of a region. -/
def tilesOf (r : Nat) : List TileId := (List.range 32).map (tileAt r)

/-- The region that an issuer belongs to. -/
def siteRegion : Issuer → Nat
  | .tile t => regionOf t
  | .block r _ _ => r

/-- The issuer is an instruction of a block. -/
def siteIsBlock : Issuer → Bool
  | .tile _ => false
  | .block _ _ _ => true

/- Parts of the state. -/

/-- A compute tile. -/
def State.ctile (s : State) (t : TileId) : CTile := lookD CTile.reset t s.ctiles
/-- Change a compute tile. -/
def State.setCtile (s : State) (t : TileId) (c : CTile) : State := { s with ctiles := put t c s.ctiles }
/-- A memory tile. -/
def State.mtile (s : State) (t : TileId) : MTile := lookD MTile.reset t s.mtiles
/-- Change a memory tile. -/
def State.setMtile (s : State) (t : TileId) (m : MTile) : State := { s with mtiles := put t m s.mtiles }
/-- A region. -/
def State.region (s : State) (r : Nat) : Region := lookD Region.reset r s.regions
/-- Change a region. -/
def State.setRegion (s : State) (r : Nat) (g : Region) : State := { s with regions := put r g s.regions }
/-- A port. -/
def State.port (s : State) (p : Nat) : Port := lookD Port.reset p s.ports
/-- Change a port. -/
def State.setPort (s : State) (p : Nat) (q : Port) : State := { s with ports := put p q s.ports }
/-- A Lace array. -/
def State.array (s : State) (a : Nat) : LaceArray := lookD LaceArray.reset a s.lace
/-- Change a Lace array. -/
def State.setArray (s : State) (a : Nat) (l : LaceArray) : State := { s with lace := put a l s.lace }
/-- The context of a number that has not ended. -/
def State.ctx? (s : State) (n : Nat) : Option Ctx :=
  s.ctxs.find? fun c => c.num = n && c.st != .ended && c.st != .waiting
/-- The context that a launch number started on this module. -/
def State.launched? (s : State) (ln : Nat) : Option Ctx := s.ctxs.find? fun c => c.launch = ln
/-- Change the context of a launch number. -/
def State.mapCtx (s : State) (ln : Nat) (f : Ctx → Ctx) : State :=
  { s with ctxs := s.ctxs.map fun c => if c.launch = ln then f c else c }
/-- Change the live context of a context number. -/
def State.mapNum (s : State) (n : Nat) (f : Ctx → Ctx) : State :=
  match s.ctx? n with
  | some c => s.mapCtx c.launch f
  | none => s
/-- A block context of a region's control tile. -/
def State.bctx (s : State) (r bc : Nat) : BlockCtx := nth BlockCtx.reset (s.region r).bcs bc
/-- Change a block context. -/
def State.setBctx (s : State) (r bc : Nat) (b : BlockCtx) : State :=
  let g := s.region r
  s.setRegion r { g with bcs := setNth g.bcs bc b }
/-- The block that a block context runs. -/
def State.block? (s : State) (r bc : Nat) : Option Block :=
  match (s.bctx r bc).st with
  | .run b => some b
  | _ => none
/-- Change the running block. -/
def State.mapBlock (s : State) (r bc : Nat) (f : Block → Block) : State :=
  let x := s.bctx r bc
  match x.st with
  | .run b => s.setBctx r bc { x with st := .run (f b) }
  | _ => s
/-- The active plane of an operation's tile. -/
def State.plane? (s : State) (site : Issuer) : Option CPlane :=
  match site with
  | .tile t => (s.ctile t).active
  | .block _ _ _ => none
/-- The tag widths that an operation's element works with. -/
def State.widths (s : State) (op : Issued) : List Nat :=
  match s.plane? op.site with
  | some p => fullWidths p.widths
  | none => fullWidths []
/-- The operation waits. -/
def State.hold (s : State) (op : Issued) (why : Wait) : State := { s with held := s.held ++ [⟨op, why⟩] }
/-- The next sequence number of a source (R230). -/
def State.takeSeq (s : State) (src : Nat) : Nat × State :=
  let n := lookD 0 src s.seqs
  (n, { s with seqs := put src ((n + 1) % 2 ^ 32) s.seqs })
/-- The issuing context is a system context (R66). -/
def State.isSystem (s : State) (ctx : Nat) : Bool := (s.ctx? ctx).any (·.sys)
/-- A feature bit is acknowledged (R191). -/
def State.hasFeature (s : State) (k : Nat) : Bool := s.feat.any (·.getLsbD k)

/- Memory: one canonical form (strictly rising addresses, no entry equal to what an unlisted address reads as). -/

/-- What an address without an entry reads as: zero, since firmware zeroes memory at boot (R194). -/
def unlisted : Byte := 0

/-- The byte at an address. -/
def cellGet : List Host.Cell → Nat → Byte
  | [], _ => unlisted
  | (k, b) :: l, a => if k = a then b else cellGet l a

/-- Write one byte, keeping the canonical form. -/
def cellPut : List Host.Cell → Nat → Byte → List Host.Cell
  | [], a, v => if v = unlisted then [] else [(a, v)]
  | (k, b) :: l, a, v =>
    if a < k then (if v = unlisted then (k, b) :: l else (a, v) :: (k, b) :: l)
    else if a = k then (if v = unlisted then l else (k, v) :: l)
    else (k, b) :: cellPut l a v

/-- Write consecutive bytes. -/
def cellsPut (l : List Host.Cell) (a : Nat) : List Byte → List Host.Cell
  | [] => l
  | b :: bs => cellsPut (cellPut l a b) (a + 1) bs

/-- Read consecutive bytes. -/
def cellsGet (l : List Host.Cell) (a n : Nat) : List Byte := (List.range n).map fun i => cellGet l (a + i)

/-- Every byte of a range becomes zero. -/
def cellsZero (l : List Host.Cell) (a n : Nat) : List Host.Cell := l.filter fun c => c.1 < a || a + n ≤ c.1

/-- The canonical form of a memory. -/
def cellsWf : List Host.Cell → Bool
  | [] => true
  | [(_, b)] => b != unlisted
  | (a, b) :: (a', b') :: l => b != unlisted && a < a' && cellsWf ((a', b') :: l)

/-- The canonical form holds of main memory. -/
def Memory.wf (s : State) : Bool := cellsWf s.main.cells

/-- A byte of main memory by physical address. -/
def State.byteAt (s : State) (pa : Nat) : Byte := cellGet s.main.cells pa

/-- Bytes of main memory by physical address. -/
def State.readMain (s : State) (pa n : Nat) : List Byte := cellsGet s.main.cells pa n

/-- A word of main memory. -/
def State.wordAt (s : State) (pa : Nat) : Word := word (ofBytes (s.readMain pa 8))

/-- The lines that a write reaches lose their head bits (R67). -/
def clearHeads (heads : List Nat) (pa n : Nat) : List Nat :=
  heads.filter fun l => l < pa / 64 || (pa + n - 1) / 64 < l

/-- Write bytes of main memory: every write but the loader's own clears head bits (R67). -/
def State.writeMain (s : State) (pa : Nat) (bs : List Byte) : State :=
  { s with main := { s.main with cells := cellsPut s.main.cells pa bs, heads := clearHeads s.main.heads pa bs.length } }

/-- Write bytes at listed physical addresses, in order. -/
def State.writeList (s : State) : List (Nat × List Byte) → State
  | [] => s
  | (pa, bs) :: l => (s.writeMain pa bs).writeList l

/-- Tier 1 (R112). -/
def inTier1 (pa : Nat) : Bool := pa < 2 ^ 39

/-- A populated range of tier 2 (R112). -/
def State.inTier2 (s : State) (pa n : Nat) : Bool :=
  s.tier2.any fun r => r.1 ≤ pa && pa + n ≤ r.1 + r.2 && 2 ^ 40 ≤ pa && pa + n ≤ 5 * 2 ^ 40

/- Translation (R119 to R122). -/

/-- What an access needs of a page (R120); the loader's own writes need no permission (log 33). -/
inductive Need where
  | read | write | both | once | exec | loader
  deriving DecidableEq, Repr

/-- How a read of the page table ends (R120, R122). -/
inductive Walk where
  | page (base size : Nat) (leaf : Word)
  | fault (cause : Nat)
  | park
  deriving DecidableEq, Repr

/-- The pages of a run code at a level, none where the code is not listed (R120). -/
def runOf (level code : Nat) : Option Nat :=
  match level, code with
  | 2, 0 => some 1
  | 1, 0 => some 1 | 1, 1 => some 4 | 1, 2 => some 16 | 1, 3 => some 128
  | 0, 0 => some 1 | 0, 1 => some 4 | 0, 2 => some 16 | 0, 3 => some 64 | 0, 4 => some 256
  | _, _ => none

/-- The physical base of a leaf's page. -/
def leafBase (leaf : Word) : Nat := bits leaf.toNat 12 40 * 4096

/-- A run code that the table does not list for the level; L4 and L3 list none, and 000 stands in their entries (R120). -/
def runBad (level code : Nat) : Bool := code ≠ 0 && (runOf level code).isNone

/-- One entry met at a level with the lowest address bit `low`. An entry that is not present and that PST calls a page is held
to the same form as a present leaf (R120, log 78). -/
def walkEntry (s : State) (level low va : Nat) (w : Word) : Sum Walk Nat :=
  let v := w.toNat
  let leaf := v.testBit 1
  let run := runOf level (bits v 2 3)
  if !v.testBit 0 then
    let pst := bits v 60 4
    if bits v 10 2 ≠ 0 then .inl (.fault 0x142)
    else if pst = 0 then .inl (.fault 0x141)
    else if 3 ≤ pst ∨ !leaf ∨ run.isNone then .inl (.fault 0x142) else .inl .park
  else if bits v 10 2 ≠ 0 then .inl (.fault 0x142)
  else if leaf then
    match run with
    | none => .inl (.fault 0x142)
    | some n =>
      let size := n * 2 ^ low
      let pa := leafBase w
      if pa % size ≠ 0 then .inl (.fault 0x142)
      else if v.testBit 9 then
        (if !s.inTier2 pa size then .inl (.fault 0x142)
         else if !s.hasFeature 0 then .inl (.fault 0x303)
         else .inl (.page (va / size * size) size w))
      else if pa + size ≤ 2 ^ 39 then .inl (.page (va / size * size) size w) else .inl (.fault 0x142)
  else if level = 0 ∨ runBad level (bits v 2 3) ∨ v.testBit 9 ∨ !inTier1 (leafBase w) then .inl (.fault 0x142)
  else .inr (leafBase w)

/-- The walk through the levels that remain: level number, lowest bit, index bits. -/
def walkFrom (s : State) (va : Nat) : List (Nat × Nat × Nat) → Nat → Walk
  | [], _ => .fault 0x142
  | (level, low, n) :: ls, table =>
    match walkEntry s level low va (s.wordAt (table + 8 * bits va low n)) with
    | .inl r => r
    | .inr next => walkFrom s va ls next

/-- Walk the table of a context for an address; a root outside tier 1 is no table (R120, log 78). -/
def State.walk (s : State) (root va : Nat) : Walk :=
  if !inTier1 root then .fault 0x142 else walkFrom s va [(4, 48, 8), (3, 39, 9), (2, 30, 9), (1, 21, 9), (0, 12, 9)] root

/-- The last entry that a walk reads: its address, its level, the lowest bit of its index, and its word (R120). -/
def leafFrom (s : State) (va : Nat) : List (Nat × Nat × Nat) → Nat → Option (Nat × Nat × Nat × Word)
  | [], _ => none
  | (level, low, n) :: ls, table =>
    let pa := table + 8 * bits va low n
    let w := s.wordAt pa
    if !w.getLsbD 0 || w.getLsbD 1 || ls = [] then some (pa, level, low, w) else leafFrom s va ls (leafBase w)

/-- The last entry of a walk. -/
def State.leafAt (s : State) (root va : Nat) : Option (Nat × Nat × Nat × Word) :=
  leafFrom s va [(4, 48, 8), (3, 39, 9), (2, 30, 9), (1, 21, 9), (0, 12, 9)] root

/-- The entries of a page's run, and the page's size (R120). -/
def runSize (level low : Nat) (w : Word) : Nat × Nat :=
  let n := (runOf level (bits w.toNat 2 3)).getD 1
  (n, n * 2 ^ low)

/-- The page of an address: its base and size, as the last entry of its walk gives them. -/
def State.pageOf (s : State) (root va : Nat) : Nat × Nat :=
  let size := match s.leafAt root va with
    | some (_, level, low, w) => (runSize level low w).2
    | none => 4096
  (va / size * size, size)

/-- Two ranges, each given by its start and its length, have an address in common. -/
def spansMeet (a n b m : Nat) : Bool := a < b + m && b < a + n

/-- The leaf allows the access (R120). -/
def permits (leaf : Word) : Need → Bool
  | .read => leaf.getLsbD 5
  | .write => leaf.getLsbD 6
  | .both => leaf.getLsbD 5 && leaf.getLsbD 6
  | .once => leaf.getLsbD 7
  | .exec => leaf.getLsbD 8
  | .loader => true

/-- The address checks that need no table: canonical form, range end, alignment, system half and code windows
(R119, R247), in the order of R242. -/
def addrCause (system : Bool) (va size align : Nat) : Option Nat :=
  let top := bits va 55 9
  if top ≠ 0 ∧ top ≠ 511 then some 0x100
  else if (top = 0 ∧ 2 ^ 55 < va + size) ∨ 2 ^ 64 < va + size then some 0x101
  else if va % align ≠ 0 then some 0x102
  else if top = 511 then (if system then none else some 0x103)
  else if 0x007FFF0000000000 < va + size ∧ va < 0x007FFF0000000000 + 42 * 2 ^ 24 then some 0x103
  else none

/-- A result that can end in a cause with the values of the record's fields, or wait for a table walk. -/
inductive Res (α : Type) where
  | ok (a : α)
  | fault (cause : Nat) (addr detail : Word)
  | miss (va : Nat)
  deriving Repr

/-- One computation after another. -/
def Res.bind {α β : Type} (x : Res α) (f : α → Res β) : Res β :=
  match x with
  | .ok a => f a
  | .fault c a d => .fault c a d
  | .miss va => .miss va

/-- The translation-cache entry of an address (R122). -/
def State.tcFind (s : State) (r ctx va : Nat) : Option TcEntry :=
  (s.region r).tc.find? fun e => e.ctx = ctx && e.base ≤ va && va < e.base + e.size

/-- The physical address of one byte for an operation, through the translation cache of its region's port. -/
def State.xlate (s : State) (op : Issued) (need : Need) (va : Nat) : Res Nat :=
  match op.walk with
  | some (c, v) =>
    if c ≠ 0 ∧ v = va then .fault c (word va) 0
    else match s.tcFind (siteRegion op.site) op.ctx va with
      | some e =>
        if permits e.leaf need then .ok (leafBase e.leaf + (va - e.base)) else .fault 0x103 (word va) 0
      | none => .miss va
  | none =>
    match s.tcFind (siteRegion op.site) op.ctx va with
    | some e =>
      if permits e.leaf need then .ok (leafBase e.leaf + (va - e.base)) else .fault 0x103 (word va) 0
    | none => .miss va

/-- The physical addresses of the bytes of several pieces (address, bytes), each within one page. -/
def State.xlateAll (s : State) (op : Issued) (need : Need) : List (Nat × Nat) → Res (List (Nat × Nat))
  | [] => .ok []
  | (va, n) :: l =>
    (s.xlate op need va).bind fun pa => (s.xlateAll op need l).bind fun r => .ok ((pa, n) :: r)

/-- A range of bytes cut into pieces of at most 8 bytes, none crossing an aligned 8-byte word. -/
def pieces : Nat → Nat → Nat → List (Nat × Nat)
  | 0, _, _ => []
  | k + 1, va, n =>
    if n = 0 then []
    else let m := min n (8 - va % 8); (va, m) :: pieces k (va + m) (n - m)

/-- The pieces of a range. -/
def piecesOf (va n : Nat) : List (Nat × Nat) := pieces (n / 8 + 2) va n

/-- Check an address and translate every byte of a range (R119, R120, R122). -/
def State.range (s : State) (op : Issued) (need : Need) (va n align : Nat) : Res (List (Nat × Nat)) :=
  match addrCause (s.isSystem op.ctx) va n align with
  | some c => .fault c (word va) 0
  | none => s.xlateAll op need (piecesOf va n)

/-- The bytes of translated pieces. -/
def State.readPieces (s : State) (ps : List (Nat × Nat)) : List Byte := ps.flatMap fun p => s.readMain p.1 p.2

/-- Bytes put into translated pieces, in order. -/
def State.writePieces (s : State) : List (Nat × Nat) → List Byte → State
  | [], _ => s
  | p :: ps, bs => (s.writeMain p.1 (bs.take p.2)).writePieces ps (bs.drop p.2)

/-- Read bytes at a virtual address for an operation. -/
def State.readVirt (s : State) (op : Issued) (va n align : Nat) : Res (List Byte) :=
  (s.range op .read va n align).bind fun ps => .ok (s.readPieces ps)

/-- A virtual address translated by walking the table at once, as the loader and the block fetcher do. -/
def State.walkByte (s : State) (root : Nat) (need : Need) (va : Nat) : Res Nat :=
  match s.walk root va with
  | .page base _ leaf => if permits leaf need then .ok (leafBase leaf + (va - base)) else .fault 0x103 (word va) 0
  | .fault c => .fault c (word va) 0
  | .park => .miss va

/-- Every piece of a range translated by walks. -/
def State.walkPieces (s : State) (root : Nat) (need : Need) : List (Nat × Nat) → Res (List (Nat × Nat))
  | [] => .ok []
  | (va, n) :: l =>
    (s.walkByte root need va).bind fun pa => (s.walkPieces root need l).bind fun r => .ok ((pa, n) :: r)

/-- The set of the translation cache, 0 to 127, that a page falls in (R122; which one, log 80). -/
def tcSet (base size : Nat) : Nat := base / size % 128

/-- Fill the translation cache: of the eight ways of a set that are in use the oldest goes (R122, log 80). -/
def State.tcFill (s : State) (r ctx base size : Nat) (leaf : Word) : State :=
  let g := s.region r
  let l := g.tc.filter fun e => !(e.ctx = ctx && e.base = base)
  let full := (l.filter fun e => tcSet e.base e.size = tcSet base size).length
  let l := if full < 8 then l
    else match takeFirst (fun e => tcSet e.base e.size = tcSet base size) l with
      | some (_, rest) => rest
      | none => l
  s.setRegion r { g with tc := l ++ [⟨ctx, base, size, leaf⟩] }

/- Records and faults (R230 to R233). -/

/-- The element that detects a fault. -/
inductive Place where
  | tile (t : TileId) | control (r : Nat) | lace (a : Nat) (slot : Option Nat) | carder (d : Die)
  | router (t : TileId) | channel (c : Nat) | port (p : Nat) | loader (r : Nat) | pager (d : Die) | bridge (d : Die)
  deriving DecidableEq, Repr

/-- SRC of a fabric tile (R230). -/
def tileSrc (t : TileId) : Nat := 16384 * dieNum t.die + 512 * t.col + 16 * t.row

/-- SRC, TKIND, DIE, COL and ROW of a record's element (R230, R231). The bridge has no SRC of its own: the row 0
tile at its end stands for it (log 4). -/
def Place.fields : Place → Nat × Nat × Nat × Nat × Nat
  | .tile t => (tileSrc t, if isCompute t then 0 else 1, dieNum t.die, t.col, t.row)
  | .control r => (0x8000 + r, 2, r / 21, r % 21, 0)
  | .lace a none => (0xC800 + a, 3, a / 4, a, 0)
  | .lace a (some k) => (0xC000 + 16 * a + k, 3, a / 4, a, 0)
  | .carder d => (0x8100 + dieNum d, 4, dieNum d, 0, 0)
  | .router t => (tileSrc t, 5, dieNum t.die, t.col, t.row)
  | .channel c => (0x8200 + c, 6, if c < 96 then c / 48 else (c - 96) / 2, c, 0)
  | .port p => (0x8300 + p, 7, p / 8, p, 0)
  | .loader r => (0x8400 + r, 8, r / 21, r % 21, 0)
  | .pager d => (0x8500 + dieNum d, 9, dieNum d, 0, 0)
  | .bridge d => (tileSrc ⟨d, if d = .w then 27 else 0, 0⟩, 10, dieNum d, 0, 0)

/-- The region whose control tile takes a record that names no context (R230). -/
def Place.region : Place → Nat
  | .tile t | .router t => regionOf t
  | .control r | .loader r => r
  | .lace a _ => if a < 4 then 0 else 21
  | .carder d | .pager d | .bridge d => 21 * dieNum d
  | .channel c => if c < 48 || c = 96 || c = 97 then 0 else 21
  | .port p => if p < 8 then 0 else 21

/-- A fault as it is raised: cause, where, whose, and the fields that the rule names. `fromHost` marks a fault of a host
command and a TRAP with STOP = 1, whose copies go to the host (R231, R332). -/
structure Flt where
  cause : Nat
  place : Place
  ctx : Nat
  tag : Word
  addr : Word
  detail : Word
  stop : Bool
  fromHost : Bool
  deriving DecidableEq, Repr

/-- The causes of which a copy goes to the host (R231). -/
def hostCopied (f : Flt) : Bool :=
  f.cause / 64 = 5 || f.cause = 0x2C1 || f.cause = 0x2C2 || (f.fromHost && 0x300 ≤ f.cause && f.cause ≤ 0x304)
    || f.cause = 0x380 || f.cause = 0x382 || f.cause = 0x383 || (f.fromHost && 0x3C0 ≤ f.cause && f.cause ≤ 0x3FF)

/-- The host of a context: of the host LAUNCH that started it or its launcher (R50, R189). -/
def hostNode (ctxs : List Ctx) : Nat → Ctx → Option Nat
  | 0, c => c.host
  | n + 1, c =>
    match c.host with
    | some h => some h
    | none => (c.parent.bind fun ln => ctxs.find? (·.launch = ln)).bind (hostNode ctxs n)

/-- Eight bytes of header and a body (R188). -/
def message (kind seq : Nat) (body : List Byte) : List Byte :=
  bytesOf 1 kind ++ bytesOf 1 0 ++ bytesOf 2 body.length ++ bytesOf 4 seq ++ body

/- Link flits (R186). -/

/-- LTYPE of a payload (R186). -/
def LinkLoad.ltype : LinkLoad → Nat
  | .idle => 0 | .mesh _ => 1 | .host _ => 2 | .control => 3 | .marker _ _ => 4

/-- A slot of mesh carriage: destination node and V, the flit's control word and data (R186). -/
def slotBytes (x : Nat × Flit) : List Byte :=
  bytesOf 4 (x.1 % 2 ^ 13 + 2 ^ 13) ++ bytesOf 4 x.2.ctl.toNat ++ bytesOf 32 x.2.data.toNat

/-- The payload bytes of a link flit (R186); the spec gives a marker's payload no layout (log 10). -/
def LinkLoad.bytes : LinkLoad → List Byte
  | .idle | .control => []
  | .mesh l => (l.take 6).flatMap slotBytes
  | .host bs => bs
  | .marker g r => bytesOf 4 g ++ bytesOf 4 r

/-- Bytes cut or completed with zeros to a length. -/
def fitBytes (n : Nat) (bs : List Byte) : List Byte := (bs ++ List.replicate (n - bs.length) 0).take n

/-- A link flit of 256 bytes (R186). -/
def frame (load : LinkLoad) (seq ack : Nat) (nak : Bool) : List Byte :=
  let head := bytesOf 8 (load.ltype + seq % 4096 * 2 ^ 4 + ack % 4096 * 2 ^ 16 + nak.toNat * 2 ^ 28)
  let body := head ++ fitBytes 240 load.bytes
  body ++ bytesOf 8 (crc64 body).toNat

/-- The highest sequence number that a port has received in order (R186). -/
def Port.ack (q : Port) : Nat := (q.rxSeq + 4095) % 4096

/-- Send a link flit on a port; it is kept for replay until it is acknowledged, and goes out at once while the replay
buffer of 256 has room (R187). A port that is down sends nothing. -/
def State.sendLink (s : State) (p : Nat) (load : LinkLoad) : State :=
  let q := s.port p
  if !q.up then s
  else s.setPort p { q with txSeq := (q.txSeq + 1) % 4096, replay := q.replay ++ [(q.txSeq, load)], replays := q.replays ++ [0]
                            tx := if q.replay.length < 256 then q.tx ++ [frame load q.txSeq q.ack false] else q.tx }

/-- The port toward a node, by the routing table (R185). -/
def State.portOf (s : State) (node : Nat) : Option Nat := look node s.tables.ports

/-- Send a host message on the port toward its node; its SEQ counts the module's messages (R188). -/
def State.sendMsg (s : State) (node kind : Nat) (body : List Byte) : State :=
  let (n, s) := s.takeSeq 0x20000
  let bs := message kind n body
  let s := { s with hostOut := s.hostOut ++ [(⟨node, bs, false⟩ : Msg)] }
  match s.portOf node with
  | some p => s.sendLink p (.host bs)
  | none => s

/-- Send a COMPL (R192). -/
def State.sendCompl (s : State) (node region kind launch cause : Nat) (value : Word) : State :=
  let (n, s) := s.takeSeq (0x10000 + region)
  s.sendMsg node 6 (bytesOf 2 s.node ++ bytesOf 1 region ++ bytesOf 1 kind ++ bytesOf 4 n ++ bytesOf 4 launch
    ++ bytesOf 2 cause ++ bytesOf 2 0 ++ bytesOf 8 value.toNat ++ bytesOf 8 0)

/-- Entries that a record takes: a fault record takes two (R230). -/
def Record.size : Record → Nat
  | .fault _ _ _ _ _ _ _ _ _ _ _ _ _ => 2
  | .post _ _ _ _ _ _ _ _ | .lace _ _ _ _ _ _ | .marker _ _ _ _ _ => 1

/-- Entries in use. -/
def queueSize (q : List Record) : Nat := (q.map Record.size).foldl (· + ·) 0

/-- A record sets out for a control tile's event queue. -/
def State.postRecord (s : State) (r : Nat) (rec' : Record) (op : Option Issued) : State :=
  let g := s.region r
  s.setRegion r { g with inbound := g.inbound ++ [⟨rec', op⟩] }

/-- The elements that hold state of a context and receive its marker (R221). -/
def State.elements (s : State) (c : Ctx) : List Element :=
  let tiles := (regionsOf c.rset).flatMap tilesOf
  let held (t : TileId) : Bool :=
    if isCompute t then (s.ctile t).active.any (·.ctx = c.num) else (s.mtile t).active.any (·.ctx = c.num)
  (tiles.filter held).map .tile
    ++ ((List.range 42).flatMap fun r => ((List.range 4).filter fun b =>
          (s.bctx r b).ctx = c.num && (s.bctx r b).st != .idle).map (Element.block r))
    ++ (regionsOf c.rset).map .port ++ [.carder .w, .carder .e]
    ++ ((List.range 8).filter fun a => (s.array a).slots.any fun k => k.st != .free && k.ctx = c.num).map .lace

/-- Mark a context: it is Freezing, and every element of it awaits the marker (R221, R294). -/
def State.markCtx (s : State) (ln round : Nat) (issuer : Option Nat) (stop endIt : Bool) : State :=
  s.mapCtx ln fun c =>
    { c with st := .freezing, round := round, issuer := issuer, markers := s.elements c, quiet := s.elements c,
             stopAfter := c.stopAfter || stop, endAfter := c.endAfter || endIt, gangMark := false }

/-- A stopping fault marks its context with round 0; the context then becomes Stopped (R233). -/
def State.stopCtx (s : State) (num : Nat) : State :=
  match s.ctx? num with
  | some c =>
    match c.st with
    | .running | .loading => s.markCtx c.launch 0 none true false
    | .freezing => s.mapCtx c.launch fun c => { c with stopAfter := true }
    | .frozen => s.mapCtx c.launch fun c => { c with st := .stopped }
    | _ => s
  | none => s

/-- TAKING AN EXCEPTION: record a fault in the event queue of its owner's home, or of the detecting element's region
where it has none, copy it to the host where R231 says so (to the privileged hosts where it has no owner, log 71), and stop the context where R233 says so. -/
def State.recordFault (s : State) (f : Flt) (owner : Option Ctx) : State :=
  let (src, tkind, die, col, row) := f.place.fields
  let (n, s) := s.takeSeq src
  let home := match owner with | some c => c.home | none => f.place.region
  let launch := match owner with | some c => c.launch | none => 0
  let stops := f.cause = 0x2C1 || f.cause = 0x380 || f.cause = 0x382 || f.cause = 0x383
  let copy := hostCopied f
  let flg := (f.stop || stops).toNat + 2 * (f.cause = 0x106 : Bool).toNat + 4 * copy.toNat
  let s := s.postRecord home (.fault src n f.cause tkind flg die col row f.ctx f.tag f.addr f.detail launch) none
  let hosts := match owner with
    | some c => (hostNode s.ctxs s.ctxs.length c).toList
    | none => s.tables.privileged
  let s := if copy then hosts.foldl (fun s h => s.sendCompl h home 1 launch f.cause f.detail) s else s
  if stops then s.stopCtx f.ctx else s

/-- An exception of the context that it names, if that is alive (R230). -/
def State.takeFault (s : State) (f : Flt) : State := s.recordFault f (s.ctx? f.ctx)

/-- An element has received the marker of a context that has not resumed: it is frozen (R222). -/
def State.frozenAt (s : State) (n : Nat) (el : Element) : Bool :=
  (s.ctx? n).any fun c => (c.st = .freezing || c.st = .frozen || c.st = .stopped) && !(c.markers.contains el)

/-- An operation that outlives its block: what it emits reaches no instruction any more, and a fault of it is only
recorded (R45, log 42). -/
def Issued.detach (op : Issued) : Issued :=
  { op with word := Machine.word (op.word.toNat / 2 ^ 36 * 2 ^ 36), released := true }

/-- An operation of a Lace instruction (R198). -/
def Issued.atLace (op : Issued) : Bool := let o := bits op.word.toNat 56 8; 0xC0 ≤ o && o ≤ 0xC5

/-- The operations, readers and waiting launches of a block context are dropped with its block (R283, R287); a CFGLD that has
begun stays where the block is discarded at a marker (R252). A Lace operation that has reached its array is not undone: it
goes on without a taker (R198). -/
def State.dropBlockOps (s : State) (r bc : Nat) (keepLoads : Bool) : State :=
  let mine (op : Issued) : Bool := match op.site with
    | .block r' b' _ => r' = r && b' = bc
    | .tile _ => false
  let g := s.region r
  let stays (op : Issued) : Option Issued :=
    if !mine op then some op else if op.atLace then some op.detach else none
  let s := s.setRegion r { g with
    walks := g.walks.filterMap fun w => (stays w.1).map fun op => (op, w.2)
    parked := g.parked.filterMap fun p => (stays p.op).map fun op => { p with op := op } }
  let quiet (i : Inbound) : Inbound := if i.op.any mine then { i with op := none } else i
  let lace (x : LaceOp) : LaceOp := if mine x.op then { x with op := x.op.detach, mute := true } else x
  { s with
    regions := s.regions.map fun (x : Nat × Region) => (x.1, { x.2 with inbound := x.2.inbound.map quiet })
    lace := s.lace.map fun (x : Nat × LaceArray) => (x.1, { x.2 with ops := x.2.ops.map lace })
    held := s.held.filter fun h => !(mine h.op) || (keepLoads && match h.why with | .page _ => true | _ => false)
    main := { s.main with readers := s.main.readers.filter (!mine ·.2) }
    mtiles := s.mtiles.map fun (m : TileId × MTile) => (m.1, { m.2 with waiting := m.2.waiting.filter (!mine ·) })
    ctxs := s.ctxs.map fun c =>
      if c.st = .waiting && c.req.any mine then { c with st := .ended, req := none }
      else if c.req.any mine then { c with req := none } else c }

/-- Stop a block context: its block's held stores and register writes are discarded and nothing commits (R45). -/
def State.stopBlock (s : State) (r bc : Nat) : State :=
  let s := s.dropBlockOps r bc false
  let x := s.bctx r bc
  s.setBctx r bc { x with st := .stopped, held := false }

/-- The opcode of an operation's word. -/
def Issued.opc (op : Issued) : Nat := bits op.word.toNat 56 8

/-- The place of an operation's element. -/
def Issued.place (op : Issued) : Place :=
  match op.site with
  | .tile t => .tile t
  | .block r _ _ => .control r

/-- An operation of a block that still runs: none that a commit has released (R45). -/
def Issued.inBlock (op : Issued) : Option (Nat × Nat) :=
  match op.site with
  | .tile _ => none
  | .block r bc _ => if op.released then none else some (r, bc)

/-- A fault of an operation, detected at some element: the record, and in block mode the stop of the block context (R45,
R232). -/
def State.faultAt (s : State) (op : Issued) (place : Place) (cause : Nat) (addr detail : Word) : State :=
  let s := s.takeFault ⟨cause, place, op.ctx, op.tag, addr, detail, op.inBlock.isSome, false⟩
  match op.inBlock with
  | none => s
  | some (r, bc) => s.stopBlock r bc

/-- A fault of an operation at its own element. -/
def State.opFault (s : State) (op : Issued) (cause : Nat) (addr detail : Word) : State :=
  s.faultAt op op.place cause addr detail

/-- A fault that is only recorded, in either mode: 0x0C1 at a sink, and faults of released stores (R45). -/
def State.opRecord (s : State) (op : Issued) (cause : Nat) (addr detail : Word) : State :=
  s.takeFault ⟨cause, op.place, op.ctx, op.tag, addr, detail, false, false⟩

/-- RETURN FROM A FREEZE: every element of a Frozen context unfreezes, and tokens that SINK tiles and ingress
queues hold are delivered again in append order, those captured as they left a tile at the tiles that they are bound for
(R294, log 89). -/
def State.unfreeze (s : State) (c : Ctx) : State :=
  let back (m : TileId × MTile) : List Parcel := m.2.sink.filter fun p => tagCtx p.tok.tag = c.num
  let stray (t : TileId) (p : Parcel) : Bool := tagCtx p.tok.tag = c.num && p.tile ≠ t
  let parcels := s.mtiles.flatMap back ++ s.ctiles.flatMap fun (t : TileId × CTile) => t.2.ingress.filter (stray t.1)
  let s := { s with
    mtiles := s.mtiles.map fun (m : TileId × MTile) => (m.1, { m.2 with sink := m.2.sink.filter fun p => tagCtx p.tok.tag ≠ c.num })
    ctiles := s.ctiles.map fun (t : TileId × CTile) =>
      (t.1, { t.2 with frozen := t.2.frozen.filter (· ≠ c.num)
                       marks := t.2.marks.filter (·.1.1 ≠ c.num)
                       ingress := (parcels.filter fun (p : Parcel) => p.tile = t.1)
                         ++ t.2.ingress.filter (!stray t.1 ·) }) }
  let s := (List.range 42).foldl (fun s r =>
    (List.range 4).foldl (fun s b =>
      let x := s.bctx r b
      if x.ctx = c.num && x.held then s.setBctx r b { x with held := false } else s) s) s
  s.mapCtx c.launch fun c => { c with st := .running, markers := [], quiet := [] }

end Sys2Proof.Machine
end

