-- ==== Sys2Proof/Machine/Emit.lean ====
section
/-!
DEFINITION. Stage 6 and what lies behind it: the output swizzle (R58, R61), routes (R54), tokens as words and flits
(R70 to R72), delivery inside a block (R44), and the completion tokens of memory instructions (R105, R127).
-/

namespace Sys2Proof.Machine

/-- The source lane L(n) of a swizzle mode (R58). -/
def swizzleLane (mode arg n : Nat) : Nat :=
  match mode with
  | 1 => 15 - n
  | 2 => (n + arg) % 16
  | 3 => arg
  | 4 => n ^^^ 2 ^ arg
  | 5 => 4 * (n % 4) + n / 4
  | _ => n

/-- A mask as a number from a test of each lane. -/
def maskOf (p : Nat → Bool) : BitVec 16 :=
  BitVec.ofNat 16 (((List.range 16).map fun i => (p i).toNat * 2 ^ i).foldl (· + ·) 0)

/-- A value swizzled; a scalar passes through (R58). -/
def swizzle (mode arg : Nat) : Value → Value
  | .scalar w => .scalar w
  | .vector ls m =>
    .vector ((List.range 16).map fun n => nth 0 ls (swizzleLane mode arg n))
      (maskOf fun n => m.getLsbD (swizzleLane mode arg n))

/-- Stage word `k`, 1 to 6, of a plane (R58). -/
def CPlane.stage (p : CPlane) (k : Nat) : Nat := (nth 0 p.stages (k - 1)).toNat

/-- The output swizzle of stage 6 on a token (R61). -/
def stage6 (p : CPlane) (t : Tok) : Tok :=
  let w := p.stage 6
  { t with val := swizzle (bits w 60 4) (bits w 56 4) t.val }

/-- A token as the little-endian words of a TYPE 000 payload (R72). -/
def tokenWords (p : Parcel) : List Word :=
  let target := dieNum p.tile.die * 2 ^ 63 + p.tile.col * 2 ^ 58 + p.tile.row * 2 ^ 53 + p.node * 2 ^ 44
    + p.slot.code * 2 ^ 42
  let flags := p.tok.pred.toNat * 2 ^ 37 + p.tok.psn.toNat * 2 ^ 36 + p.tok.nul.toNat * 2 ^ 35
  match p.tok.val with
  | .scalar w => [word (target + flags), p.tok.tag, w]
  | .vector ls m => word (target + 2 ^ 38 + flags + m.toNat * 2 ^ 19) :: p.tok.tag :: ls

/-- The parcel of a token control word, a tag word and value words (R72). -/
def parcelOf (ctl tag : Word) (vs : List Word) : Parcel :=
  let c := ctl.toNat
  { tile := ⟨dieOf (bits c 63 1), bits c 58 5, bits c 53 5⟩
    node := bits c 44 9
    slot := Slot.ofCode (bits c 42 2)
    tok :=
      { tag := tag
        val := if c.testBit 38 then .vector ((List.range 16).map (nth 0 vs)) (BitVec.ofNat 16 (bits c 19 16))
          else .scalar (nth 0 vs 0)
        pred := c.testBit 37, psn := c.testBit 36, nul := c.testBit 35 } }

/-- A flit control word (R70). -/
def flitCtl (dst : TileId) (age fidx flast typ : Nat) : BitVec 32 :=
  BitVec.ofNat 32 (dieNum dst.die * 2 ^ 31 + dst.col * 2 ^ 26 + dst.row * 2 ^ 21 + age * 2 ^ 11 + fidx * 2 ^ 8
    + flast * 2 ^ 5 + typ * 4)

/-- The flits of a packet: one flit for at most 256 payload bits, else 224 payload bits in each (R71). -/
def flitsOf (src dst : TileId) (pid typ : Nat) (cargo : Cargo) (ws : List Word) : List Flit :=
  let v := ofBytes (wordBytes ws)
  if ws.length ≤ 4 then [⟨flitCtl dst 0 0 0 typ, BitVec.ofNat 256 v, cargo⟩]
  else
    let n := (64 * ws.length + 223) / 224
    let head := dieNum src.die * 2 ^ 255 + src.col * 2 ^ 250 + src.row * 2 ^ 245 + pid % 256 * 2 ^ 237
    (List.range n).map fun k => ⟨flitCtl dst 0 k (n - 1) typ, BitVec.ofNat 256 (head + bits v (224 * k) 224), cargo⟩

/-- Offer flits for injection at a tile's local input (R177); a multi-flit packet takes a PID (R71). -/
def State.inject (s : State) (t dst : TileId) (typ : Nat) (cargo : Cargo) (ws : List Word) : State :=
  let c := s.ctile t
  s.setCtile t { c with inject := c.inject ++ flitsOf t dst c.pid typ cargo ws,
                        pid := if ws.length ≤ 4 then c.pid else (c.pid + 1) % 256 }

/-- An operation whose tokens may leave the module: TRED and RED, the partial results of their trees (R187). -/
def Issued.mayLeave (op : Issued) : Bool := op.opc = 0x66 || op.opc = 0x86

/-- A token bound for a gang member on another module (R193). DESIGN CHOICE: a token that does not leave the module for R187 is
dropped with 0x303, as one without a gang is (log 91). -/
def State.sendRemote (s : State) (op : Issued) (rank : Nat) (p : Parcel) : State :=
  let gang := match s.ctx? op.ctx with | some c => c.gang | none => 0
  match (if gang = 0 || !op.mayLeave then none else look (gang, rank) s.tables.gangs) with
  | none => s.takeFault ⟨0x303, op.place, op.ctx, p.tok.tag, 0, 0, false, false⟩
  | some node =>
    match s.portOf node with
    | none => s.takeFault ⟨0x2C1, op.place, op.ctx, p.tok.tag, 0, 0, true, false⟩
    | some q =>
      if !(s.port q).up then s.takeFault ⟨0x2C1, .port q, op.ctx, p.tok.tag, 0, 0, true, false⟩
      else
      let ws := tokenWords p
      match op.site with
      | .block _ _ _ => s
      | .tile t =>
        let c := s.ctile t
        let s := s.setCtile t { c with pid := if ws.length ≤ 4 then c.pid else (c.pid + 1) % 256 }
        s.sendLink q (.mesh ((flitsOf t p.tile c.pid 0 .bits ws).map fun f => (node, f)))

/-- Change a memory tile's generator. -/
def MTile.setGen (m : MTile) (g : Nat) (x : Gen) : MTile := { m with gens := put g x m.gens }

/-- A generator that has not been started. -/
def Gen.idle : Gen := ⟨[0, 0, 0, 0], none, [], 0, [], false, []⟩

/-- A memory tile's generator. -/
def MTile.gen (m : MTile) (g : Nat) : Gen := lookD Gen.idle g m.gens

/-- The mode number of a memory tile's active plane (R62). -/
def MTile.mode? (m : MTile) : Option Nat := m.active.map fun p => bits p.mode.toNat 60 4

/-- The route-table entry that a target of an operation names (R54). -/
def State.routeOf (s : State) (op : Issued) (t : Option Target) : Option (BitVec 32) :=
  match t, s.plane? op.site with
  | some t, some p => p.routes[t.dest.toNat]?
  | _, _ => none

/-- KIND of an entry. -/
def routeKind (e : BitVec 32) : Nat := bits e.toNat 30 2

/-- The memory tile and channel that an entry leads to, when it is a KIND 01 route to a memory tile (R54, R105). -/
def tileRoute (t : TileId) (e : BitVec 32) : Option (TileId × Nat) :=
  if routeKind e = 1 then
    match neighbour t (bits e.toNat 20 2) with
    | some m => if isCompute m then none else some (m, bits e.toNat 16 4)
    | none => none
  else none

/-- The memory tile and channel of an operation's TGT0 (R105). -/
def State.homeTile (s : State) (op : Issued) (n : Niw) : Option (TileId × Nat) :=
  match op.site with
  | .tile t => (s.routeOf op n.t0).bind (tileRoute t)
  | .block _ _ _ => none

/-- A token that stage 6 sends to a memory tile: a start of generator g on channel 12 + g, a command on channel 11,
and a drain on any; the tile takes it up in its own turn. Any other token waits there to be refused (R106, R107,
R109, R172, R174). -/
def State.toMemTile (s : State) (op : Issued) (m : TileId) (ch : Nat) (tok : Tok) : State :=
  let x := s.mtile m
  let op := { op with a := some tok, tag := tok.tag, node := 1024 + ch }
  if 12 ≤ ch && !tok.nul then
    let g := x.gen (ch - 12)
    s.setMtile m (x.setGen (ch - 12) { g with waiting := g.waiting ++ [op] })
  else s.setMtile m { x with waiting := x.waiting ++ [op] }

/-- A tile runs the successor's plane while a SPLICE is under way (R48). -/
def State.succeeds (s : State) (ctx : Nat) (t : TileId) : Bool :=
  match s.ctx? ctx with
  | some c => c.splice.isSome && t ∈ c.switched
  | none => false

/-- A tag lies under an entering tag, one level deeper or more: the iteration that it belongs to (R143). -/
def iterationOf (ws : List Nat) (entering tag : Word) : Option Nat :=
  let d := tagDepth entering
  if tagDepth tag ≤ d then none
  else if cutTag ws tag d = entering then some (fieldAt ws tag d) else none

/-- A token of this tag lies above a kill mark of its context (R38). -/
def killed (ws : List Nat) (c : Ctx) (tag : Word) : Bool :=
  c.loops.any fun r => match r.kill, iterationOf ws r.tag tag with
    | some k, some i => k < i
    | _, _ => false

/-- Under a SPLICE an element runs the predecessor until its tile has switched (R48). -/
def Ctx.behind (c : Ctx) : Issuer → Bool
  | .tile t => c.splice.isSome && !(c.switched.contains t)
  | .block _ _ _ => false

/-- Predecessor and successor change places. -/
def Ctx.turned (c : Ctx) : Ctx := { c with loops := c.former, former := c.loops }

/-- A context as an element sees it: with the loop instances of the configuration that it runs (R48, R249). -/
def Ctx.seen (c : Ctx) (site : Issuer) : Ctx := if c.behind site then c.turned else c

/-- A change to the loop instances of the predecessor, or of the context's own configuration. -/
def Ctx.mapGen (c : Ctx) (old : Bool) (f : Ctx → Ctx) : Ctx := if old then (f c.turned).turned else f c

/-- A token that reaches a route of a tile's plane is discarded: its tag lies above a kill mark (R38). Drains move on
(R259). -/
def State.cut (s : State) (t : TileId) (p : CPlane) (tok : Tok) : Bool :=
  !tok.nul && (s.ctx? (tagCtx tok.tag)).any fun c => killed (fullWidths p.widths) (c.seen (.tile t)) tok.tag

/- Tokens of a frozen context. -/

/-- The bytes that parcels take in the form of R72. -/
def parcelBytes (l : List Parcel) : Nat := (l.map fun q => 8 * (tokenWords q).length).foldl (· + ·) 0

/-- The lowest-numbered SINK tile of a region with room for one more token (R159, R222). -/
def State.sinkFor (s : State) (r : Nat) (q : Parcel) : Option TileId :=
  match ((List.range 16).map (memTile r)).find? fun t => (s.mtile t).mode? = some 6 with
  | none => none
  | some t => if parcelBytes ((s.mtile t).sink ++ [q]) ≤ 2 ^ 20 then some t else none

/-- A token of a context that is frozen at a tile goes to the SINK tile, or into the tile's ingress queue (R222). -/
def State.capture (s : State) (t : TileId) (q : Parcel) : State :=
  match s.sinkFor (regionOf t) q with
  | some m => let x := s.mtile m; s.setMtile m { x with sink := x.sink ++ [q] }
  | none => let c := s.ctile t; s.setCtile t { c with ingress := c.ingress ++ [q] }

/-- One more in a list of counts. -/
def bump (k : Nat × TileId) (l : List ((Nat × TileId) × Nat)) : List ((Nat × TileId) × Nat) := put k (lookD 0 k l + 1) l

/-- A tile has sent a token of its context to another tile (R223). -/
def State.sends (s : State) (t dst : TileId) (tok : Tok) : State :=
  let c := s.ctile t
  s.setCtile t { c with sent := bump (tagCtx tok.tag, dst) c.sent }

/-- A tile has received a token that another one sent (R223). -/
def State.receives (s : State) (t src : TileId) (tok : Tok) : State :=
  let c := s.ctile t
  s.setCtile t { c with rcvd := bump (tagCtx tok.tag, src) c.rcvd }

/-- The 32 bytes of a record that takes one entry of an event queue, KIND 0x01 or 0x30, as its four words (R229, R230,
R260); a Lace or fault record does not travel as a packet. -/
def recordWords : Record → List Word
  | .post src seq v launch ctx code psn tag =>
    [word (src + 2 ^ 16 + seq * 2 ^ 32), v, word (launch + ctx * 2 ^ 32 + code * 2 ^ 48 + psn.toNat * 2 ^ 56), tag]
  | .marker src seq round ctx launch => [word (src + 0x30 * 2 ^ 16 + seq * 2 ^ 32), word (round + ctx * 2 ^ 32), word launch, 0]
  | .lace _ _ _ _ _ _ | .fault _ _ _ _ _ _ _ _ _ _ _ _ _ => []

/-- The record of four words; none for a KIND that does not travel as a packet. -/
def recordOf (ws : List Word) : Option Record :=
  let w (k : Nat) : Nat := (nth 0 ws k).toNat
  match bits (w 0) 16 8 with
  | 0x01 => some (.post (bits (w 0) 0 16) (bits (w 0) 32 32) (nth 0 ws 1) (bits (w 2) 0 32) (bits (w 2) 32 12)
      (bits (w 2) 48 8) ((w 2).testBit 56) (nth 0 ws 3))
  | 0x30 => some (.marker (bits (w 0) 0 16) (bits (w 0) 32 32) (bits (w 1) 0 32) (bits (w 1) 32 12) (bits (w 2) 0 32))
  | _ => none

/-- A record sets out as a TYPE 011 packet for the control tile of a region, which stands behind the router of the region's
first tile (R260, log 68). -/
def State.sendRecord (s : State) (from' to' : TileId) (r : Record) (cargo : Cargo) : State :=
  s.inject from' to' 3 cargo (recordWords r)

/-- A token for another compute tile of this module leaves a tile; one that leaves a tile where its context is frozen is
captured there, so that the counts of R223 stand as the marker gave them (R222, R223, log 89). -/
def State.leaveTile (s : State) (t : TileId) (q : Parcel) (go : State → State) : State :=
  if (s.ctile t).frozen.contains (tagCtx q.tok.tag) then s.capture t q else go (s.sends t q.tile q.tok)

/-- Send a token along one route entry with the slot of its target; one above a kill mark is discarded at the route
(R27, R38, R54). -/
def State.route (s : State) (op : Issued) (t : TileId) (idx : Nat) (slot : Slot) (tok : Tok) : State :=
  match (s.ctile t).active with
  | none => s
  | some p =>
    match if s.cut t p tok then none else p.routes[idx]? with
    | none => s
    | some e =>
      let v := e.toNat
      match routeKind e with
      | 0 =>
        let c := s.ctile t
        s.setCtile t { c with own := c.own ++ [⟨t, bits v 13 9, slot, tok, false⟩] }
      | 1 =>
        match neighbour t (bits v 20 2) with
        | none => s
        | some m =>
          if isCompute m then
            let q : Parcel := ⟨m, bits v 7 9, slot, tok, s.succeeds op.ctx t⟩
            s.leaveTile t q fun s =>
              let s := s.receives m t tok
              let c := s.ctile m
              s.setCtile m { c with stream := c.stream ++ [q] }
          else s.toMemTile op m (bits v 16 4) tok
      | 2 =>
        let dst : TileId := ⟨dieOf (bits v 21 1), bits v 16 5, bits v 11 5⟩
        let q : Parcel := ⟨dst, bits v 2 9, slot, tok, s.succeeds op.ctx t⟩
        if v.testBit 1 then
          let rank := match p.routes[idx + 1]? with | some x => bits x.toNat 0 13 | none => 0
          s.sendRemote op rank q
        else s.leaveTile t q fun s => s.inject t dst 0 (.token t q.succ) (tokenWords q)
      | _ => s

/-- A token for a slot of an instruction of the same block; a slot already filled, or an instruction that has
fired, is a duplicate (R32, R44). -/
def State.blockPut (s : State) (op : Issued) (r bc idx : Nat) (slot : Slot) (tok : Tok) : State :=
  match s.block? r bc with
  | none => s
  | some b =>
    match look (idx, slot) b.toks with
    | some old => s.opFault op 0x080 old.word tok.word
    | none =>
      if idx ∈ b.fired then s.opFault op 0x080 0 tok.word
      else s.mapBlock r bc fun b => { b with toks := b.toks ++ [((idx, slot), tok)] }

/-- Send a token to one target as it stands. -/
def State.send1 (s : State) (op : Issued) (t : Option Target) (tok : Tok) : State :=
  match t with
  | none => s
  | some t =>
    match op.site with
    | .tile u => s.route op u t.dest.toNat t.slot tok
    | .block r bc _ => s.blockPut op r bc t.dest.toNat t.slot tok

/-- Send a token to each target in order as it stands. -/
def State.sendTo (s : State) (op : Issued) : List (Option Target) → Tok → State
  | [], _ => s
  | t :: ts, tok => (s.send1 op t tok).sendTo op ts tok

/-- A token as stage 6 of an operation's element hands it on (R61). -/
def State.staged (s : State) (op : Issued) (tok : Tok) : Tok :=
  match s.plane? op.site with
  | some p => stage6 p tok
  | none => tok

/-- Emit a token to one target (R239). -/
def State.emit1 (s : State) (op : Issued) (t : Option Target) (tok : Tok) : State := s.send1 op t (s.staged op tok)

/-- Emit to each target in order. -/
def State.emitTo (s : State) (op : Issued) : List (Option Target) → Tok → State
  | [], _ => s
  | t :: ts, tok => (s.emit1 op t tok).emitTo op ts tok

/-- The targets of a reply: TGT1 and TGT2 when TGT0 names a memory tile, else all three (R105). -/
def State.replyTargets (s : State) (op : Issued) (n : Niw) : List (Option Target) :=
  match s.homeTile op n with
  | some _ => [n.t1, n.t2]
  | none => [n.t0, n.t1, n.t2]

/-- The targets of a result: all three, or TGT0 alone when it names a memory tile, whose completion goes to the others
(R106, R109, R172, log 46). -/
def State.resultTargets (s : State) (op : Issued) (n : Niw) : List (Option Target) :=
  match s.homeTile op n with
  | some _ => [n.t0]
  | none => [n.t0, n.t1, n.t2]

/-- The targets to which a node passes a drain itself: a memory tile that TGT0 names passes it on to TGT1 and TGT2, but
for a generator channel of an OPSTORE tile (R174). -/
def State.drainTargets (s : State) (op : Issued) (n : Niw) : List (Option Target) :=
  match s.homeTile op n with
  | some (m, ch) => if 12 ≤ ch && (s.mtile m).mode? = some 0 then [n.t0, n.t1, n.t2] else [n.t0]
  | none => [n.t0, n.t1, n.t2]

/-- Hand a result to its targets. The reply of an operation that is performed elsewhere on the mesh returns first as a TYPE
010 packet to the tile that asked (R111, R198, log 68). -/
def State.hand (s : State) (op : Issued) (ts : List (Option Target)) (tok : Tok) : State :=
  match op.away, op.site with
  | some home, .tile t => s.inject home t 2 (.reply op tok) (tokenWords ⟨t, op.node, .a, tok, false⟩)
  | _, _ => s.emitTo op ts tok

/-- Emit a token of an operation to the targets of its result. -/
def State.emit (s : State) (op : Issued) (n : Niw) (tok : Tok) : State := s.hand op (s.resultTargets op n) tok

/-- Emit a scalar under the operation's tag with its poison (R101, R239). -/
def State.emitWord (s : State) (op : Issued) (n : Niw) (w : Word) (pred : Bool) : State :=
  s.emit op n (Tok.scalar op.tag w pred op.poisoned)

/-- Emit a value under the operation's tag. -/
def State.emitVal (s : State) (op : Issued) (n : Niw) (v : Value) (pred psn : Bool) : State :=
  s.emit op n ⟨op.tag, v, pred, psn, false⟩

/-- A fabric member is done in its wave chain (R129). -/
def State.markDone (s : State) (op : Issued) : State :=
  match op.site with
  | .tile t =>
    let g := s.region (regionOf t)
    let node := op.member.getD op.node
    if ((t, node), op.tag) ∈ g.done then s
    else s.setRegion (regionOf t) { g with done := g.done ++ [((t, node), op.tag)] }
  | .block _ _ _ => s

/-- A reply or completion of a memory instruction (R105, R127). -/
def State.reply (s : State) (op : Issued) (n : Niw) (v : Value) (psn : Bool) : State :=
  let s := s.markDone op
  s.hand op (s.replyTargets op n) ⟨op.tag, v, true, psn, false⟩

/-- The completion word as a reply. -/
def State.complete (s : State) (op : Issued) (n : Niw) (count : Nat) (scope : Scope) (noef : Bool) (cause : Nat) :
    State :=
  s.reply op n (.scalar (completion count scope noef cause)) op.poisoned

/-- A bubble to every target: predicate 0, the operation's tag, and slot a's value unchanged, that is, as it stood before
stage 2 and past the stages that the bubble gates (R34). A memory tile that TGT0 names takes no bubble and answers
none: it holds no token stream in which a bubble would keep a place (R105, log 46). -/
def State.bubble (s : State) (op : Issued) (n : Niw) : State :=
  s.sendTo op (s.replyTargets op n) ⟨op.tag, (op.raw.getD op.ta).val, false, op.poisoned, false⟩

/-- Nulls to every target (R44). -/
def State.nulls (s : State) (op : Issued) (n : Niw) : State := s.emit op n ⟨op.tag, .scalar 0, true, false, true⟩

/-- The instruction's firing restarts the count of cycles without firing (R45, R82). -/
def State.touch (s : State) (op : Issued) : State :=
  match op.inBlock with
  | none => s
  | some (r, bc) => let x := s.bctx r bc; s.setBctx r bc { x with lastFire := s.cycle }

/-- An operation that commit does not undo keeps its block from being discarded at a marker (R224). -/
def State.fix (s : State) (op : Issued) : State :=
  match op.inBlock with
  | none => s
  | some (r, bc) => s.mapBlock r bc fun b => { b with fixed := true }

/-- Take the issued word, test its firing, and run the body (R34, R44, R82). Where nothing has been issued there is
nothing to run (log 1). -/
def fire (s : State) (n : Niw) (body : Issued → State → State) : Out :=
  match s.issue with
  | none => .next s
  | some op =>
    let s := { s with issue := none }
    match firing n.prd op with
    | .consumed => .next s
    | .null => .next ((s.touch op).nulls op n)
    | .bubble => .next ((s.touch op).bubble op n)
    | .run => .next (body op (s.touch op))

/-- As `fire`, for an instruction with its own rule for nulls and predicates (R30, R246, R278, R325). -/
def fireRaw (s : State) (body : Issued → State → State) : Out :=
  match s.issue with
  | none => .next s
  | some op => .next (body op { s with issue := none })

end Sys2Proof.Machine
end

