-- ==== Sys2Proof/Machine/Operands.lean ====
section
/-!
DEFINITION. Operand forms: lanes and masks (R23), element packing (R86, R89), constants (R52, R55), the decode
override of stage 2 (R59), the fused conversion of stage 5 (R60), and the shapes that the integer, float and lane
classes share (R240, R264, R265).
-/

namespace Sys2Proof.Machine

/-- The lanes of a value, none where the mask is clear; a scalar is one lane. -/
def lanesOf : Value → List (Option Nat)
  | .scalar w => [some w.toNat]
  | .vector ls m => (List.range 16).map fun i => if m.getLsbD i then some (nth 0 ls i).toNat else none

/-- The value is a vector. -/
def Value.isVec : Value → Bool
  | .scalar _ => false
  | .vector _ _ => true

/-- A value's lane for an operation on lane `i`: a scalar is broadcast (R23). -/
def laneAt (v : Value) (i : Nat) : Option Nat :=
  match v with
  | .scalar w => some w.toNat
  | .vector ls m => if m.getLsbD i then some (nth 0 ls i).toNat else none

/-- The operands' lanes side by side: one lane when all are scalars, else sixteen; a lane takes part only if its
mask bit is set in every vector operand (R23). -/
def alignLanes (vs : List Value) : List (Option (List Nat)) :=
  let n := if vs.any (·.isVec) then 16 else 1
  (List.range n).map fun i => vs.mapM fun v => laneAt v i

/-- A value of result lanes: a scalar for one lane of scalars; unmasked lanes are zero (R23). -/
def ofLanes (vec : Bool) (rs : List (Option Nat)) : Value :=
  if vec then
    .vector ((List.range 16).map fun i => word (((rs[i]?).getD none).getD 0))
      (maskOf fun i => ((rs[i]?).getD none).isSome)
  else .scalar (word (((rs[0]?).getD none).getD 0))

/-- The elements of a lane (R86, R89). -/
def elems (f : Fmt) (lane : Nat) : List Nat := (List.range f.perLane).map fun j => bits lane (f.width * j) f.width

/-- A lane of elements from position 0 upward; the rest of the lane is zero. -/
def packLane (f : Fmt) (es : List Nat) : Nat :=
  match es with
  | [] => 0
  | e :: es => e % 2 ^ f.width + 2 ^ f.width * packLane f es

/-- A constant word as one element in every position (R240, R264). -/
def splat (f : Fmt) (w : Word) : Word := word (packLane f (List.replicate f.perLane (w.toNat % 2 ^ f.width)))

/-- The values of an instruction's operand slots: the ARI token slots, then the constant (R9, R52). -/
def operandVals (op : Issued) (n : Niw) (k : Word → Word) : List Value :=
  ([op.ta, op.tb, op.tc].take n.ari.toNat).map (·.val)
    ++ (if n.xw then [Value.scalar (k (op.konst.getD 0))] else [])

/-- A cause with the DETAIL of its record. -/
abbrev Bad := Nat × Nat

/-- Every lane that takes part, with its number; a failing lane stops the whole token (R265). -/
def mapLanes {α : Type} (g : Nat → List Nat → Except Bad α) :
    Nat → List (Option (List Nat)) → Except Bad (List (Option α))
  | _, [] => .ok []
  | i, none :: ls => do let r ← mapLanes g (i + 1) ls; return none :: r
  | i, some xs :: ls => do let x ← g i xs; let r ← mapLanes g (i + 1) ls; return some x :: r

/-- Several elements at one position of a lane. -/
def column (xs : List (List Nat)) (j : Nat) : List Nat := xs.map fun l => nth 0 l j

/-- Apply a function to each element position (R240). -/
def mapElems {α : Type} (g : Nat → List Nat → Except Bad α) (xs : List (List Nat)) :
    Nat → Except Bad (List α)
  | 0 => .ok []
  | k + 1 => do let r ← mapElems g xs k; let x ← g k (column xs k); return r ++ [x]

/-- What an operation computes: the result value, its predicate and whether it sets poison. -/
structure Result where
  val : Value
  pred : Bool
  psn : Bool
  deriving DecidableEq, Repr

/-- An element-wise integer operation (R240): results have the operands' layout and mask. -/
def integerOp (n : Niw) (op : Issued) (g : Nat → List Nat → Except Bad Nat) : Except Bad Result := do
  let vs := operandVals op n (splat n.fmt)
  let f := n.fmt
  let rs ← mapLanes (fun _ ls => do
    let es ← mapElems g (ls.map (elems f)) f.perLane
    return packLane f es) 0 (alignLanes vs)
  return ⟨ofLanes (vs.any (·.isVec)) rs, true, false⟩

/-- The predicate of a comparison: some element takes part and each that does holds nonzero (R255). -/
def allHold (f : Fmt) (v : Value) : Bool :=
  let ls := (lanesOf v).filterMap id
  !ls.isEmpty && ls.all fun l => (elems f l).all (· ≠ 0)

/-- Emit a result, or take its fault (R239). -/
def State.finish (s : State) (op : Issued) (n : Niw) (r : Except Bad Result) : State :=
  match r with
  | .ok r => s.emitVal op n r.val r.pred (op.poisoned || r.psn)
  | .error (c, d) => s.opFault op c 0 (word d)

/-- A vector token in a slot that takes a Z64 value raises 0x042 (R239). -/
def State.scalars (s : State) (op : Issued) (ts : List Tok) (k : State → State) : State :=
  if ts.any (·.isVec) then s.opFault op 0x042 0 0 else k s

/-- What the float class works with at one node: formats by slot, the slot that a constant fills, result format, mode,
whether stage 5 converts, seed and counters (R59, R60, R96, R100, R264). -/
structure FloatEnv where
  fmt : Fmt
  fmtA : Fmt
  fmtB : Fmt
  dest : Fmt
  kon : Option Nat
  rnd : Rnd
  sat : Bool
  cve : Bool
  nneg : Bool
  psn : Bool
  ntrp : Bool
  seed : Word
  c0 : Nat
  c1 : Nat
  draw : Nat
  deriving DecidableEq, Repr

/-- The launch seed and the counter words c0 and c1 of a draw (R96). -/
def State.drawKey (s : State) (op : Issued) : Word × Nat × Nat :=
  let seed := match s.ctx? op.ctx with | some c => c.seed | none => 0
  match op.site with
  | .tile _ => (seed, bits op.tag.toNat 0 32, bits op.tag.toNat 32 32)
  | .block r bc _ => (seed, (s.bctx r bc).commits % 2 ^ 32, 0xFFFFFFFF)

/-- The environment of a float node; `dest` is its own result format and `sat` its own saturate bit. With CVE = 1
the stage 5 word replaces both (R60, R94). NNEG = 1 replaces negative results with CVE = 0 too, where no conversion
follows the replacement (log 54). -/
def State.floatEnv (s : State) (op : Issued) (n : Niw) (dest : Fmt) (sat : Bool) : FloatEnv :=
  let (w2, w5) := match s.plane? op.site with
    | some p => (p.stage 2, p.stage 5)
    | none => (0, 0)
  let k := s.drawKey op
  let fuse := w5.testBit 63 && dest.isFloat
  { fmt := n.fmt
    fmtA := if w2.testBit 52 then Fmt.ofCode (bits w2 48 4) else n.fmt
    fmtB := if w2.testBit 47 then Fmt.ofCode (bits w2 43 4) else n.fmt
    dest := if fuse then Fmt.ofCode (bits w5 59 4) else dest
    kon := if n.xw then some n.ari.toNat else none
    rnd := op.mode.resolve n.rnd
    sat := if fuse then w5.testBit 58 else sat
    cve := fuse
    nneg := w5.testBit 57 && dest.isFloat
    psn := op.mode.psn, ntrp := op.mode.ntrp
    seed := k.1, c0 := k.2.1, c1 := k.2.2, draw := op.draw }

/-- The draw of element `j` of lane `i` (R96). -/
def FloatEnv.u (e : FloatEnv) (i j : Nat) : Nat := (philox e.seed e.c0 e.c1 (e.draw + 65536 * j) i).1

/-- The draws of a result under a tag that is not the operation's own (R3, R96). -/
def FloatEnv.under (e : FloatEnv) (tag : Word) : FloatEnv :=
  { e with c0 := bits tag.toNat 0 32, c1 := bits tag.toNat 32 32 }

/-- RND 110 resolves to STO at an instruction that accepts RND 101 for no format, and this one rounds: it raises 0x041 as it
fires (R96). The spec names the rejection of the field alone. -- DESIGN CHOICE: log 87. -/
def stoBad (op : Issued) (n : Niw) (rounds : Bool) : Bool := rounds && op.mode.resolve n.rnd = .sto

/-- A reduction by operation `o` rounds: it adds floats. -/
def addsFloat (n : Niw) (o : Nat) : Bool := n.fmt.isFloat && o = 0

/-- An element decoded in stage 2: abandoned values raise 0x0C0, a NaR in trap mode 0x0C3 (R265). -/
def FloatEnv.read (e : FloatEnv) (f : Fmt) (v : Nat) : Except Bad Exact :=
  if abandonedElem f v then .error (0x0C0, 0)
  else if e.ntrp && isNaR f v then .error (0x0C3, 0)
  else .ok (decodeElem f v)

/-- Stage 5: the exact result rounded once into its destination, with the poison of R101; what is not finite poisons in
a tapered destination whatever the operands were (R98). -/
def FloatEnv.place (e : FloatEnv) (i j : Nat) (finite : Bool) (x : Exact) : Except Bad (Nat × Bool) :=
  let x := if e.nneg && x.neg then Exact.rat false 0 1 else x
  match convertTo e.dest e.rnd e.sat x (e.u i j) with
  | none => .error (0x0C5, 0)
  | some c => .ok (c, e.psn && (finite || tapered e.dest) && e.dest.isFloat && nonFinite e.dest c)

/-- The format in which operand `k` is read. -/
def FloatEnv.fmtOf (e : FloatEnv) (k : Nat) : Fmt :=
  if k = 0 then e.fmtA else if k = 1 then e.fmtB else e.fmt

/-- The element of operand `k` at position `j` of a lane: an overridden slot is read in its own format, zero where that
format does not reach, and a constant is one element in every position (R59, R264). -/
def FloatEnv.elemAt (e : FloatEnv) (k lane j : Nat) : Nat :=
  let f := e.fmtOf k
  if e.kon = some k then bits lane 0 f.width
  else if j < f.perLane then bits lane (f.width * j) f.width else 0

/-- The elements of operand `k` of a float node: positions are those of FMT (R59). -/
def FloatEnv.elems (e : FloatEnv) (k : Nat) (lane : Nat) : List Nat :=
  (List.range e.fmt.perLane).map (e.elemAt k lane)

/-- Decode the elements at one position, operand by operand. -/
def FloatEnv.readAll (e : FloatEnv) : Nat → List Nat → Except Bad (List Exact)
  | _, [] => .ok []
  | k, v :: vs => do let x ← e.read (e.fmtOf k) v; let xs ← e.readAll (k + 1) vs; return x :: xs

/-- The elements of every operand of a lane. -/
def FloatEnv.lanes (e : FloatEnv) : Nat → List Nat → List (List Nat)
  | _, [] => []
  | k, l :: ls => e.elems k l :: e.lanes (k + 1) ls

/-- The result of a float node whose element `j` of lane `i` the function gives from the operands' elements, with its
poison; an element beyond what the destination packs in a lane is dropped (R60, R265). -/
def FloatEnv.placeLanes (e : FloatEnv) (vs : List Value) (g : Nat → Nat → List Nat → Except Bad (Nat × Bool)) :
    Except Bad Result := do
  let rs ← mapLanes (fun i ls => do
    let es ← mapElems (g i) (e.lanes 0 ls) e.fmt.perLane
    return (packLane e.dest ((es.take e.dest.perLane).map (·.1)), es.any (·.2))) 0 (alignLanes vs)
  return ⟨ofLanes (vs.any (·.isVec)) (rs.map fun r => r.map (·.1)), true, rs.any fun r => r.any (·.2)⟩

/-- An element-wise float operation with one rounding (R264, R265). -/
def FloatEnv.apply (e : FloatEnv) (op : Issued) (n : Niw) (g : Nat → Nat → List Exact → Exact) :
    Except Bad Result := do
  e.placeLanes (operandVals op n id) fun i j vs => do
    let xs ← e.readAll 0 vs
    e.place i j (xs.all (·.finite)) (g i j xs)

/-- The exact operand at a position, NaN where there is none. -/
def arg (xs : List Exact) (k : Nat) : Exact := nth .nan xs k

/-- Stage 5 on an element that the node has already formed as bits of FMT (R60, R96): with CVE = 1 it is decoded and
converted once, also into FMT itself; without, NNEG alone replaces it and every other element keeps its bits. -/
def FloatEnv.fuseElem (e : FloatEnv) (i j v : Nat) : Except Bad (Nat × Bool) :=
  let x := decodeElem e.fmt v
  if e.cve then e.place i j x.finite x
  else .ok (if e.nneg && x.neg then 0 else v, false)

/-- Stage 5 on a value that a lane, matrix or stream node has already rounded to FMT (R60). -/
def FloatEnv.fuse (e : FloatEnv) (v : Value) : Except Bad Result :=
  if !e.cve && !e.nneg then .ok ⟨v, true, false⟩
  else { e with fmtA := e.fmt, kon := none }.placeLanes [v] fun i j vs => e.fuseElem i j (nth 0 vs 0)

/-- The reply of a memory instruction whose FMT names the elements that it brings: a float or tapered result passes stage 5
of the tile that asked, whose own fault is then the instruction's, and any other passes unchanged (R60, log 29). -/
def State.replyData (s : State) (op : Issued) (n : Niw) (v : Value) (psn : Bool) : State :=
  match (s.floatEnv op n n.fmt false).fuse v with
  | .ok r => s.reply op n r.val (psn || r.psn)
  | .error (c, d) => (s.markDone op).opFault op c 0 (word d)

/-- Combine two values of a reduction: add, minimum or maximum, integers by R240 and R295, floats by R265 and R270
(R103, R334). A rounding of an add is never STO (R96). -/
def combine (f : Fmt) (rnd : Rnd) (o a b : Nat) : Nat :=
  if f.isFloat then
    let x := decodeElem f a
    let y := decodeElem f b
    match o with
    | 0 => roundTo f rnd false (x.add (rnd = .rdn) y) 0
    | 1 => roundTo f .rne false (pickNumber false x y) 0
    | _ => roundTo f .rne false (pickNumber true x y) 0
  else
    let x := intOf f a
    let y := intOf f b
    wrapInt f.width (match o with
      | 0 => x + y
      | 1 => min x y
      | _ => max x y)

/-- Combine two children of the tree: an absent one passes the other unchanged (R103, R307, R334). -/
def combine? (f : Fmt) (rnd : Rnd) (o : Nat) : Option Nat → Option Nat → Option Nat
  | some a, some b => some (combine f rnd o a b)
  | some a, none => some a
  | none, b => b

/-- One level of the canonical tree. -/
def treeLevel {α : Type} (c : α → α → α) : List α → List α
  | [] => []
  | [a] => [a]
  | a :: b :: l => c a b :: treeLevel c l

/-- The canonical binary tree over leaves in index order (R103). -/
def tree {α : Type} (c : α → α → α) : Nat → List α → List α
  | 0, l => l
  | k + 1, l => tree c k (treeLevel c l)

/-- The root of the tree over n leaves, given as options; none when every leaf is Absent (R103). -/
def treeRoot (f : Fmt) (rnd : Rnd) (o : Nat) (l : List (Option Nat)) : Option Nat :=
  match tree (combine? f rnd o) (clog2 l.length) l with
  | r :: _ => r
  | [] => none

end Sys2Proof.Machine
end

