-- ==== Sys2Proof/Machine/Integer.lean ====
section
/-!
DEFINITION. The integer class, 0x20 to 0x34 (R240, R245, R254, R255, R258, R263, R292, R293, R295, R299, R302, R305,
R314, R320, R326, R340). Each meaning is one element function over the shared operation `integerOp`.
-/

namespace Sys2Proof.Machine

/-- Run an element function at an issue and emit its result. -/
def execInteger (n : Niw) (s : State) (g : List Nat → Except Bad Nat) : Out :=
  fire s n fun op s => s.finish op n (integerOp n op fun _ xs => g xs)

/-- Operand `k` of an element position. -/
def el (xs : List Nat) (k : Nat) : Nat := nth 0 xs k

/-- An integer narrowed to the format: clamped where SAT is set, else wrapped (R86, R245). -/
def narrow (n : Niw) (v : Int) : Nat := wrapInt n.fmt.width (if n.imm.getLsbD 7 then clampInt n.fmt v else v)

/-- Element result of ADD (R245). -/
def elemAdd (n : Niw) (xs : List Nat) : Nat := narrow n (intOf n.fmt (el xs 0) + intOf n.fmt (el xs 1))
/-- Element result of SUB (R326). -/
def elemSub (n : Niw) (xs : List Nat) : Nat := narrow n (intOf n.fmt (el xs 0) - intOf n.fmt (el xs 1))
/-- Element result of MUL: the low half of the product (R299). -/
def elemMul (n : Niw) (xs : List Nat) : Nat := wrapInt n.fmt.width (intOf n.fmt (el xs 0) * intOf n.fmt (el xs 1))
/-- Element result of MULH: bits [2w − 1 : w] of the product (R299). -/
def elemMulh (n : Niw) (xs : List Nat) : Nat :=
  let w := n.fmt.width
  wrapInt (2 * w) (intOf n.fmt (el xs 0) * intOf n.fmt (el xs 1)) / 2 ^ w
/-- Element result of MAD (R293). -/
def elemMad (n : Niw) (xs : List Nat) : Nat :=
  wrapInt n.fmt.width (intOf n.fmt (el xs 0) * intOf n.fmt (el xs 1) + intOf n.fmt (el xs 2))
/-- Element result of DIV: quotient truncated toward zero, or remainder with the sign of a; b = 0 raises 0x0C2
(R258). -/
def elemDiv (n : Niw) (xs : List Nat) : Except Bad Nat :=
  let a := intOf n.fmt (el xs 0)
  let b := intOf n.fmt (el xs 1)
  if b = 0 then .error (0x0C2, 0)
  else .ok (wrapInt n.fmt.width (if n.imm.getLsbD 0 then a.tmod b else a.tdiv b))
/-- Element result of MIN (R295). -/
def elemMin (n : Niw) (xs : List Nat) : Nat :=
  wrapInt n.fmt.width (min (intOf n.fmt (el xs 0)) (intOf n.fmt (el xs 1)))
/-- Element result of MAX (R295). -/
def elemMax (n : Niw) (xs : List Nat) : Nat :=
  wrapInt n.fmt.width (max (intOf n.fmt (el xs 0)) (intOf n.fmt (el xs 1)))
/-- Element result of AND (R245). -/
def elemAnd (xs : List Nat) : Nat := el xs 0 &&& el xs 1
/-- Element result of OR (R302). -/
def elemOr (xs : List Nat) : Nat := el xs 0 ||| el xs 1
/-- Element result of XOR (R340). -/
def elemXor (xs : List Nat) : Nat := el xs 0 ^^^ el xs 1
/-- Element result of ANDN: a AND NOT b (R245). -/
def elemAndn (n : Niw) (xs : List Nat) : Nat := el xs 0 &&& (2 ^ n.fmt.width - 1 - el xs 1)
/-- Element result of SHL; a count of w or more gives 0 (R314). -/
def elemShl (n : Niw) (xs : List Nat) : Nat :=
  if n.fmt.width ≤ el xs 1 then 0 else el xs 0 * 2 ^ el xs 1 % 2 ^ n.fmt.width
/-- Element result of SHR (R314). -/
def elemShr (n : Niw) (xs : List Nat) : Nat := if n.fmt.width ≤ el xs 1 then 0 else el xs 0 / 2 ^ el xs 1
/-- Element result of SAR: copies of bit w − 1 enter at the top, in every format (R314). -/
def elemSar (n : Niw) (xs : List Nat) : Nat :=
  let w := n.fmt.width
  wrapInt w (signedOf w (el xs 0) / ((2 ^ min (el xs 1) w : Nat) : Int))
/-- Element result of CLZ: zeros above the highest set bit, w for zero (R254). -/
def elemClz (n : Niw) (xs : List Nat) : Nat :=
  if el xs 0 = 0 then n.fmt.width else n.fmt.width - 1 - Nat.log2 (el xs 0)
/-- Element result of POPC (R305). -/
def elemPopc (n : Niw) (xs : List Nat) : Nat := (setBits (el xs 0) n.fmt.width).length
/-- Condition c of a comparison (R255). -/
def holds (c : Nat) (o : Ordering) : Bool :=
  match c with
  | 0 => o = .eq | 1 => o ≠ .eq | 2 => o = .lt | 3 => o ≠ .gt | 4 => o = .gt | _ => o ≠ .lt
/-- Element result of CMP (R255). -/
def elemCmp (n : Niw) (xs : List Nat) : Nat :=
  (holds (bits n.imm.toNat 3 3) (compare (intOf n.fmt (el xs 0)) (intOf n.fmt (el xs 1)))).toNat
/-- Element result of SEL: a when element c is nonzero, else b (R320). -/
def elemSel (xs : List Nat) : Nat := if el xs 2 = 0 then el xs 1 else el xs 0
/-- Element result of EXT: the field that the descriptor names, extended as the format says (R263). -/
def elemExt (n : Niw) (a d : Nat) : Nat :=
  let w := n.fmt.width
  let p := bits d 0 6
  let l := bits d 6 6 + 1
  if w ≤ p then 0
  else
    let k := min (p + l) w - p
    let v := bits a p k
    if n.fmt.signed then wrapInt w (signedOf k v) else v
/-- Lane result of LEA: (a + (b << s)) mod 2^64 (R292). -/
def laneLea (n : Niw) (xs : List Nat) : Nat := (el xs 0 + el xs 1 * 2 ^ bits n.imm.toNat 0 6) % 2 ^ 64

/-- ADD (R245). -/
def execAdd (n : Niw) (s : State) : Out := execInteger n s fun xs => .ok (elemAdd n xs)
/-- SUB (R326). -/
def execSub (n : Niw) (s : State) : Out := execInteger n s fun xs => .ok (elemSub n xs)
/-- MUL (R299). -/
def execMul (n : Niw) (s : State) : Out := execInteger n s fun xs => .ok (elemMul n xs)
/-- MULH (R299). -/
def execMulh (n : Niw) (s : State) : Out := execInteger n s fun xs => .ok (elemMulh n xs)
/-- MAD (R293). -/
def execMad (n : Niw) (s : State) : Out := execInteger n s fun xs => .ok (elemMad n xs)
/-- DIV (R258). -/
def execDiv (n : Niw) (s : State) : Out := execInteger n s fun xs => elemDiv n xs
/-- MIN (R295). -/
def execMin (n : Niw) (s : State) : Out := execInteger n s fun xs => .ok (elemMin n xs)
/-- MAX (R295). -/
def execMax (n : Niw) (s : State) : Out := execInteger n s fun xs => .ok (elemMax n xs)
/-- AND (R245). -/
def execAndI (n : Niw) (s : State) : Out := execInteger n s fun xs => .ok (elemAnd xs)
/-- OR (R302). -/
def execOrI (n : Niw) (s : State) : Out := execInteger n s fun xs => .ok (elemOr xs)
/-- XOR (R340). -/
def execXorI (n : Niw) (s : State) : Out := execInteger n s fun xs => .ok (elemXor xs)
/-- ANDN (R245). -/
def execAndn (n : Niw) (s : State) : Out := execInteger n s fun xs => .ok (elemAndn n xs)
/-- SHL (R314). -/
def execShl (n : Niw) (s : State) : Out := execInteger n s fun xs => .ok (elemShl n xs)
/-- SHR (R314). -/
def execShr (n : Niw) (s : State) : Out := execInteger n s fun xs => .ok (elemShr n xs)
/-- SAR (R314). -/
def execSar (n : Niw) (s : State) : Out := execInteger n s fun xs => .ok (elemSar n xs)
/-- CLZ (R254). -/
def execClz (n : Niw) (s : State) : Out := execInteger n s fun xs => .ok (elemClz n xs)
/-- POPC (R305). -/
def execPopc (n : Niw) (s : State) : Out := execInteger n s fun xs => .ok (elemPopc n xs)
/-- SEL (R320). -/
def execSel (n : Niw) (s : State) : Out := execInteger n s fun xs => .ok (elemSel xs)

/-- CMP: the predicate is the conjunction over the elements that take part (R255). -/
def execCmp (n : Niw) (s : State) : Out :=
  fire s n fun op s => s.finish op n do
    let r ← integerOp n op fun _ xs => .ok (elemCmp n xs)
    return { r with pred := allHold n.fmt r.val }

/-- The result of EXT. Slot b is one field descriptor: a scalar, the constant, or a lane of its own lane, read whole
because its twelve bits need not fit an element (R263, log 13). -/
def extResult (n : Niw) (op : Issued) : Except Bad Result := do
  let vs := operandVals op n id
  let rs ← mapLanes (fun _ ls => do
    let es ← mapElems (fun _ xs => .ok (elemExt n (el xs 0) (el ls 1))) [elems n.fmt (el ls 0)] n.fmt.perLane
    return packLane n.fmt es) 0 (alignLanes vs)
  return ⟨ofLanes (vs.any (·.isVec)) rs, true, false⟩

/-- EXT (R263). -/
def execExt (n : Niw) (s : State) : Out := fire s n fun op s => s.finish op n (extResult n op)

/-- LEA, on whole lanes (R292). -/
def execLea (n : Niw) (s : State) : Out :=
  fire s n fun op s => s.finish op n do
    let vs := operandVals op n id
    let rs ← mapLanes (fun _ ls => .ok (laneLea n ls)) 0 (alignLanes vs)
    return ⟨ofLanes (vs.any (·.isVec)) rs, true, false⟩

end Sys2Proof.Machine
end

