-- ==== Sys2Proof/Machine/Float.lean ====
section
/-!
DEFINITION. The float class, 0x40 to 0x4F (R264 to R274): exact results over the shared operation
`FloatEnv.apply`, and the four instructions that act on bits or compare.
-/

namespace Sys2Proof.Machine

/-- Compute, round once and emit. -/
def execFloat (n : Niw) (s : State) (g : FloatEnv → Nat → Nat → List Exact → Exact) : Out :=
  fire s n fun op s =>
    let e := s.floatEnv op n n.fmt false
    s.finish op n (e.apply op n (g e))

/-- The mode is RDN, in which an exact zero sum is −0 (R94). -/
def FloatEnv.rdn (e : FloatEnv) : Bool := e.rnd = .rdn

/-- FADD (R266). -/
def execFadd (n : Niw) (s : State) : Out := execFloat n s fun e _ _ xs => (arg xs 0).add e.rdn (arg xs 1)
/-- FSUB (R266). -/
def execFsub (n : Niw) (s : State) : Out := execFloat n s fun e _ _ xs => (arg xs 0).add e.rdn (arg xs 1).negate
/-- FMUL (R266). -/
def execFmul (n : Niw) (s : State) : Out := execFloat n s fun _ _ _ xs => (arg xs 0).mul (arg xs 1)
/-- FFMA: one rounding of a·b + c (R266). -/
def execFfma (n : Niw) (s : State) : Out :=
  execFloat n s fun e _ _ xs => ((arg xs 0).mul (arg xs 1)).add e.rdn (arg xs 2)
/-- FDIV (R266). -/
def execFdiv (n : Niw) (s : State) : Out := execFloat n s fun _ _ _ xs => (arg xs 0).div (arg xs 1)
/-- FSQRT (R271). -/
def execFsqrt (n : Niw) (s : State) : Out := execFloat n s fun _ _ _ xs => (arg xs 0).sqrt
/-- FRCP (R271). -/
def execFrcp (n : Niw) (s : State) : Out := execFloat n s fun _ _ _ xs => (Exact.rat false 1 1).div (arg xs 0)
/-- FRSQ (R271). -/
def execFrsq (n : Niw) (s : State) : Out := execFloat n s fun _ _ _ xs => (arg xs 0).rsqrt
/-- FMIN (R270). -/
def execFmin (n : Niw) (s : State) : Out := execFloat n s fun _ _ _ xs => pickNumber false (arg xs 0) (arg xs 1)
/-- FMAX (R270). -/
def execFmax (n : Niw) (s : State) : Out := execFloat n s fun _ _ _ xs => pickNumber true (arg xs 0) (arg xs 1)
/-- FRND (R272). -/
def execFrnd (n : Niw) (s : State) : Out :=
  execFloat n s fun e i j xs => roundIntegral n.fmt e.rnd (arg xs 0) (e.u i j)

/-- The exponent of FSCL, cut to ±8,192: no format tells a power of two beyond that apart from it, and 2^n for a 64-bit n
could not be written down (R273, log 47). -/
def cutExponent (k : Int) : Int := max (-8192) (min 8192 k)

/-- FSCL: slot b is a signed integer of the element width, in FMT's own positions; a·2^n rounded once (R273). -/
def fsclResult (e : FloatEnv) (op : Issued) (n : Niw) : Except Bad Result :=
  { e with fmtB := n.fmt }.placeLanes (operandVals op n id) fun i j vs => do
    let x ← e.read e.fmtA (nth 0 vs 0)
    e.place i j x.finite (x.scale (cutExponent (signedOf n.fmt.width (nth 0 vs 1))))

/-- FSCL (R273). -/
def execFscl (n : Niw) (s : State) : Out :=
  fire s n fun op s => s.finish op n (fsclResult (s.floatEnv op n n.fmt false) op n)

/-- The sign operation `o` on the bits of an element of format `fa`, with the sign of an element of format `fb`; the
tapered zero and NaR stay as they are (R274). -/
def elemSign (fa fb : Fmt) (o a b : Nat) : Nat :=
  let top := 2 ^ (fa.width - 1)
  let m := a % top
  if tapered fa && m = 0 then a
  else m + (if (match o with
    | 0 => !a.testBit (fa.width - 1)
    | 1 => false
    | _ => b.testBit (fb.width - 1)) then top else 0)

/-- FSGN: each slot's elements are read in the format that stage 2 names, and the bits formed stand in FMT's element,
of which a wider override keeps the low bits (R59, R274, log 55); stage 5 may convert the result (R60). -/
def fsgnResult (e : FloatEnv) (op : Issued) (n : Niw) : Except Bad Result :=
  e.placeLanes (operandVals op n id) fun i j vs =>
    e.fuseElem i j (elemSign e.fmtA e.fmtB (bits n.imm.toNat 3 2) (nth 0 vs 0) (nth 0 vs 1) % 2 ^ e.fmt.width)

/-- FSGN (R274). -/
def execFsgn (n : Niw) (s : State) : Out :=
  fire s n fun op s => s.finish op n (fsgnResult (s.floatEnv op n n.fmt false) op n)

/-- A condition of FCMP on two decoded values (R268). -/
def fcmpHolds (c : Nat) (x y : Exact) : Bool :=
  match c, x.cmp y with
  | 0, o => o = some .eq
  | 1, o => o ≠ some .eq
  | 2, o => o = some .lt
  | 3, o => o = some .lt || o = some .eq
  | 4, o => o = some .gt
  | 5, o => o = some .gt || o = some .eq
  | 6, o => o = none
  | _, o => o ≠ none

/-- FCMP: integers 1 or 0 in FMT's positions, and the predicate of R255 (R268). -/
def execFcmp (n : Niw) (s : State) : Out :=
  fire s n fun op s =>
    let e := s.floatEnv op n n.fmt false
    s.finish op n do
      let vs := operandVals op n id
      let rs ← mapLanes (fun _ ls => do
        let es ← mapElems (fun _ vs => do
          let xs ← e.readAll 0 vs
          return (fcmpHolds (bits n.imm.toNat 3 3) (arg xs 0) (arg xs 1)).toNat) (e.lanes 0 ls) n.fmt.perLane
        return packLane n.fmt es) 0 (alignLanes vs)
      let v := ofLanes (vs.any (·.isVec)) rs
      return ⟨v, allHold n.fmt v, false⟩

/-- An element with class code `c` meets the test m (R267). -/
def fclsMeets (m c : Nat) : Bool := m.testBit (classBit c) && (!m.testBit 7 || c ≤ 3)

/-- FCLS: class codes in FMT's positions, of elements read in the format that stage 2 names, and the predicate that
every element meets the test (R59, R267). -/
def execFcls (n : Niw) (s : State) : Out :=
  fire s n fun op s => s.finish op n do
    let e := { s.floatEnv op n n.fmt false with dest := n.fmt }
    let r ← e.placeLanes (operandVals op n id) fun _ _ vs => .ok (classOf e.fmtA (nth 0 vs 0), false)
    let ls := (lanesOf r.val).filterMap id
    return { r with pred := !ls.isEmpty && ls.all fun l => (elems n.fmt l).all (fclsMeets n.imm.toNat) }

/-- One element of FCVT, read in the format of slot a: integer to integer by truncation or clamping, every other pair
through its exact value (R59, R97, R98, R269). -/
def cvtElem (e : FloatEnv) (i j v : Nat) : Except Bad (Nat × Bool) := do
  let f := e.fmtA
  if !f.isFloat && !e.dest.isFloat then
    return (wrapInt e.dest.width (if e.sat then clampInt e.dest (intOf f v) else intOf f v), false)
  let x ← if f.isFloat then e.read f v else pure (exactInt (intOf f v))
  e.place i j x.finite x

/-- FCVT: elements h·c to h·c + c − 1 of each lane go to positions 0 to c − 1 (R269). The j of a draw is that position and not
the source's: R96 says "the element's index within its lane" and not of which lane. -- DESIGN CHOICE: log 87. -/
def fcvtResult (e : FloatEnv) (d : Fmt) (n : Niw) (op : Issued) : Except Bad Result := do
  let vs := operandVals op n id
  let c := min n.fmt.perLane d.perLane
  let h := bits n.imm.toNat 5 3
  let rs ← mapLanes (fun i ls => do
    let src := ((e.elems 0 (el ls 0)).drop (h * c)).take c
    let es ← mapElems (fun j vs => cvtElem e i j (nth 0 vs 0)) [src] c
    return (packLane e.dest ((es.take e.dest.perLane).map (·.1)), es.any (·.2))) 0 (alignLanes vs)
  return ⟨ofLanes (vs.any (·.isVec)) (rs.map fun r => r.map (·.1)), true, rs.any fun r => r.any (·.2)⟩

/-- FCVT: the destination format D is IMM8[3:0] and S is IMM8[4] (R269). -/
def execFcvt (n : Niw) (s : State) : Out :=
  fire s n fun op s =>
    let d := Fmt.ofCode (bits n.imm.toNat 0 4)
    s.finish op n (fcvtResult (s.floatEnv op n d (n.imm.getLsbD 4)) d n op)

end Sys2Proof.Machine
end

