-- ==== Sys2Proof/Machine/Lane.lean ====
section
/-!
DEFINITION. The lane class, 0x60 to 0x67 without TRED's gathering (R248, R303, R309, R315, R321, R334, R335, R337).
-/

namespace Sys2Proof.Machine

/-- BCST: every lane of the result holds lane l, those that the mask clears too (R248, log 14). -/
def bcstVal (l : Nat) : Value → Value
  | .scalar w => .vector (List.replicate 16 w) 0xFFFF
  | .vector ls m =>
    if m.getLsbD l then .vector (List.replicate 16 (nth 0 ls l)) m else .vector (List.replicate 16 0) 0

/-- BCST (R248). -/
def execBcst (n : Niw) (s : State) : Out :=
  fire s n fun op s => s.finish op n (.ok ⟨bcstVal (bits n.imm.toNat 0 4) op.ta.val, true, false⟩)

/-- Masked lanes of a vector read as zero (R23). -/
def cleanLanes : Value → Value
  | .scalar w => .scalar w
  | .vector ls m => .vector ((List.range 16).map fun i => if m.getLsbD i then nth 0 ls i else 0) m

/-- SHUF by the indices in slot b (R321). -/
def shufIndex (ls : List Word) (m : BitVec 16) (js : List Word) (mb : BitVec 16) : Value :=
  let src (n : Nat) : Nat := bits (nth 0 js n).toNat 0 4
  cleanLanes (.vector ((List.range 16).map fun n => nth 0 ls (src n))
    (maskOf fun n => mb.getLsbD n && m.getLsbD (src n)))

/-- The lanes of an index operand: a scalar is broadcast (R23, R321). -/
def indexLanes : Value → List Word × BitVec 16
  | .scalar w => (List.replicate 16 w, 0xFFFF)
  | .vector js mb => (js, mb)

/-- SHUF (R58, R321). -/
def shufResult (n : Niw) (op : Issued) : Except Bad Result :=
  if n.ari.toNat = 1 then
    .ok ⟨cleanLanes (swizzle (bits n.imm.toNat 4 4) (bits n.imm.toNat 0 4) op.ta.val), true, false⟩
  else
    match op.ta.val with
    | .scalar w => if op.tb.isVec then .error (0x042, 0) else .ok ⟨.scalar w, true, false⟩
    | .vector ls m => let i := indexLanes op.tb.val; .ok ⟨shufIndex ls m i.1 i.2, true, false⟩

/-- SHUF. -/
def execShuf (n : Niw) (s : State) : Out := fire s n fun op s => s.finish op n (shufResult n op)

/-- The element that PACK takes from a lane: its low w bits, or its 64-bit value clamped (R303). -/
def packElem (n : Niw) (l : Nat) : Nat :=
  if n.imm.getLsbD 0 then
    wrapInt n.fmt.width (clampInt n.fmt (if n.fmt.signed then signedOf 64 l else (l : Int)))
  else l % 2 ^ n.fmt.width

/-- Sixteen elements laid into lanes from lane 0 upward; a lane's mask bit is set when it holds an element that takes
part (R303). -/
def packLanes (f : Fmt) (es : List (Option Nat)) : Value :=
  let k := f.perLane
  .vector ((List.range 16).map fun i => word (packLane f (((es.drop (k * i)).take k).map (·.getD 0))))
    (maskOf fun i => ((es.drop (k * i)).take k).any (·.isSome))

/-- PACK (R303). -/
def packVal (n : Niw) : Value → Value
  | .scalar w => .scalar (word (packElem n w.toNat))
  | v => packLanes n.fmt ((lanesOf v).map fun l => l.map (packElem n))

/-- PACK; a float format passes stage 5 (R60, log 29). -/
def execPack (n : Niw) (s : State) : Out :=
  fire s n fun op s => s.finish op n ((s.floatEnv op n n.fmt false).fuse (packVal n op.ta.val))

/-- The element positions of a token with whether each takes part, p = lane·(64/w) + j (R315). -/
def positions (f : Fmt) (v : Value) : List (Option Nat) :=
  (lanesOf v).flatMap fun l =>
    match l with
    | none => List.replicate f.perLane none
    | some x => (elems f x).map some

/-- UNPK: element p becomes lane p, sign-extended for S formats (R335). -/
def unpkVal (n : Niw) (v : Value) : Value :=
  let es := positions n.fmt v
  ofLanes true ((List.range 16).map fun p => ((es[p]?).getD none).map fun e =>
    if n.fmt.signed then wrapInt 64 (signedOf n.fmt.width e) else e)

/-- UNPK; a float format passes stage 5 (R60, log 29). -/
def execUnpk (n : Niw) (s : State) : Out :=
  fire s n fun op s => s.finish op n ((s.floatEnv op n n.fmt false).fuse (unpkVal n op.ta.val))

/-- An abandoned value among the elements that take part (R93). -/
def anyAbandoned (f : Fmt) (es : List (Option Nat)) : Bool := es.any fun e => e.any (abandonedElem f)

/-- A float reduction of finite elements that ends non-finite, in poison mode (R101). -/
def reductionPoison (e : FloatEnv) (f : Fmt) (es : List (Option Nat)) (r : Nat) : Bool :=
  e.psn && f.isFloat && nonFinite f r && es.all fun x => x.all fun v => !nonFinite f v

/-- VRED: the canonical tree over the positions of one token (R337). -/
def vredResult (e : FloatEnv) (n : Niw) (op : Issued) : Except Bad Result := do
  if stoBad op n (addsFloat n (bits n.imm.toNat 0 2)) then throw (0x041, 0)
  let es := positions n.fmt op.ta.val
  if anyAbandoned n.fmt es then throw (0x0C0, 0)
  match treeRoot n.fmt e.rnd (bits n.imm.toNat 0 2) es with
  | none => return ⟨.scalar 0, false, false⟩
  | some r =>
    let x ← e.fuse (.scalar (word r))
    let v := match x.val with | .scalar w => w.toNat % 2 ^ e.dest.width | .vector _ _ => 0
    return ⟨.scalar (word v), true, x.psn || reductionPoison e n.fmt es r⟩

/-- VRED. -/
def execVred (n : Niw) (s : State) : Out :=
  fire s n fun op s => s.finish op n (vredResult (s.floatEnv op n n.fmt false) n op)

/-- The identity of a SCAN operation (R315). -/
def scanIdentity (f : Fmt) (o : Nat) : Nat :=
  if f.isFloat then
    match o with
    | 0 => 0
    | 1 => maxCode f + 1
    | _ => signBit f true + (maxCode f + 1)
  else wrapInt f.width (match o with
    | 0 => 0
    | 1 => intMax f
    | _ => intMin f)

/-- The running prefix over positions (R315). -/
def scanFrom (f : Fmt) (rnd : Rnd) (o : Nat) (excl : Bool) : Nat → List (Option Nat) → List Nat
  | _, [] => []
  | acc, none :: es => 0 :: scanFrom f rnd o excl acc es
  | acc, some x :: es =>
    let acc' := combine f rnd o acc x
    (if excl then acc else acc') :: scanFrom f rnd o excl acc' es

/-- Positions back into the operand's layout and mask. -/
def relayout (f : Fmt) (v : Value) (es : List Nat) : Value :=
  let k := f.perLane
  ofLanes v.isVec (((lanesOf v).zipIdx).map fun l =>
    l.1.map fun _ => packLane f ((es.drop (k * l.2)).take k))

/-- SCAN (R315). -/
def scanResult (e : FloatEnv) (n : Niw) (op : Issued) : Except Bad Result := do
  if stoBad op n (addsFloat n (bits n.imm.toNat 0 2)) then throw (0x041, 0)
  let es := positions n.fmt op.ta.val
  if anyAbandoned n.fmt es then throw (0x0C0, 0)
  let o := bits n.imm.toNat 0 2
  let ys := scanFrom n.fmt e.rnd o (n.imm.getLsbD 2) (scanIdentity n.fmt o) es
  let bad := e.psn && n.fmt.isFloat && (es.all fun x => x.all fun v => !nonFinite n.fmt v) && ys.any (nonFinite n.fmt)
  let x ← e.fuse (relayout n.fmt op.ta.val ys)
  return { x with psn := x.psn || bad }

/-- SCAN. -/
def execScan (n : Niw) (s : State) : Out :=
  fire s n fun op s => s.finish op n (scanResult (s.floatEnv op n n.fmt false) n op)

/-- The 64 bits that RNG draws for a lane (R309). -/
def rngLane (seed : Word) (c0 c1 c2 lane : Nat) : Nat :=
  let r := philox seed c0 c1 c2 lane
  r.1 + 2 ^ 32 * r.2.1

/-- RNG: one draw for each lane that takes part; in block mode slot a's value is the counter (R309). -/
def rngVal (s : State) (n : Niw) (op : Issued) : Value :=
  let key := s.drawKey op
  let a := op.ta.word.toNat
  let (c0, c1) := if siteIsBlock op.site then (bits a 0 32, bits a 32 32) else key.2
  let c2 := 2 ^ 31 + 256 * op.draw + n.imm.toNat
  ofLanes op.ta.isVec (((lanesOf op.ta.val).zipIdx).map fun l => l.1.map fun _ => rngLane key.1 c0 c1 c2 l.2)

/-- RNG. -/
def execRng (n : Niw) (s : State) : Out :=
  fire s n fun op s => s.finish op n (.ok ⟨rngVal s n op, true, false⟩)

/-- The count word of TRED: N, LI, H (R333); none outside its limits. -/
def countWord (w : Word) : Option (Nat × Nat × Nat) :=
  let v := w.toNat
  let n := bits v 0 21
  let li := bits v 21 5
  let h := bits v 26 5
  if bits v 31 33 ≠ 0 ∨ n = 0 ∨ 2 ^ 20 < n ∨ 20 < li ∨ 20 < h ∨ (h ≠ 0 ∧ h ≤ li) then none else some (n, li, h)

/-- The height of the subtrees that a node produces (R334). -/
def topOf (n li h : Nat) : Nat := if h = 0 then max li (clog2 n) else h

/-- Combine two subtrees position by position; one that is Absent passes the other (R334). -/
def combineLeaf (f : Fmt) (rnd : Rnd) (o : Nat) (x y : Option (List (Option Nat))) : Option (List (Option Nat)) :=
  match x, y with
  | none, v | v, none => v
  | some a, some b =>
    some ((List.range (max a.length b.length)).map fun i =>
      combine? f rnd o ((a[i]?).getD none) ((b[i]?).getD none))

/-- Sizes of the positions below N in the subtree q of height top, at level LI: the first and how many (R334). -/
def subtreeSpan (n li top q : Nat) : Nat × Nat :=
  let per := 2 ^ (top - li)
  let total := (n + 2 ^ li - 1) / 2 ^ li
  (q * per, min per (total - q * per))

/-- The values of a token's positions as a leaf: Absent for predicate 0; elements of lanes that take no part are
Absent (R334). -/
def leafOf (f : Fmt) (t : Tok) : Option (List (Option Nat)) := if t.pred then some (positions f t.val) else none

/-- A combined subtree as a value with its predicate: Absent positions give zero and mask off their lanes (R334). -/
def leafValue (f : Fmt) (vector : Bool) (x : Option (List (Option Nat))) : Value × Bool :=
  let es := x.getD []
  let k := f.perLane
  let lane (i : Nat) : List (Option Nat) := (es.drop (k * i)).take k
  let some? (i : Nat) : Bool := (lane i).any (·.isSome)
  let v := ofLanes vector ((List.range (if vector then 16 else 1)).map fun i =>
    if vector && !some? i then none else some (packLane f ((lane i).map (·.getD 0))))
  (v, (List.range (if vector then 16 else 1)).any some?)

end Sys2Proof.Machine
end

