-- ==== Sys2Proof/Machine/Match.lean ====
section
/-!
DEFINITION. The matching store and the Skein table (R28 to R32, R144), and the loop-instance table (R35 to R38,
R142, R143, R249).
-/

namespace Sys2Proof.Machine

/-- The opcode and fields of the node at an index of a plane; none where the index holds no instruction. -/
def CPlane.node? (p : CPlane) (i : Nat) : Option (Nat × Niw) :=
  match p.ins[i]? with
  | none => none
  | some w =>
    match decodeWord true w with
    | .ok x => x.parts
    | .error _ => none

/-- The template that holds a node: base and count (R28, R67). -/
def CPlane.template? (p : CPlane) (i : Nat) : Option (Nat × Nat) := p.tpls.find? fun t => t.1 ≤ i && i < t.1 + t.2

/-- The constant word of a fabric node: the index stands in the route-table entry that TGT0 names (R52, R54). -/
def CPlane.konst? (p : CPlane) (n : Niw) : Option Word :=
  if !n.xw then none
  else n.t0.bind fun t => (p.routes[t.dest.toNat]?).bind fun e => p.cons[bits e.toNat 23 7]?

/-- GATE's opcode. -/
def isGate (x : Nat × Niw) : Bool := x.1 = 0x05

/-- The slots that a node takes: those of its ARI, and p under PRD 01 and 10 (R30, R53). -/
def takes (x : Nat × Niw) : List Slot :=
  ([Slot.a, .b, .c].take x.2.ari.toNat) ++ (if x.2.prd = .ift ∨ x.2.prd = .iff then [.p] else [])

/-- The slots that take part in readiness: slot b of a GATE does not (R30, R275). -/
def awaits (x : Nat × Niw) : List Slot := if isGate x then (takes x).filter (· ≠ .b) else takes x

/-- The token in a slot of an entry. -/
def Entry.at (e : Entry) : Slot → Option Tok
  | .a => e.a | .b => e.b | .c => e.c | .p => e.p

/-- Fill a slot. -/
def Entry.fill (e : Entry) (k : Slot) (t : Tok) : Entry :=
  match k with
  | .a => { e with a := some t }
  | .b => { e with b := some t }
  | .c => { e with c := some t }
  | .p => { e with p := some t }

/-- A new entry. -/
def Entry.new (tag : Word) (node : Nat) : Entry :=
  ⟨tag, node, none, none, none, none, .none, none, false, none, false, []⟩

/-- Every slot that takes part in readiness holds a token (R30). -/
def Entry.full (e : Entry) (x : Nat × Niw) : Bool := (awaits x).all fun k => (e.at k).isSome

/-- Vector values that an entry keeps in the vector operand buffer; a VTOPK list takes ⌈k/16⌉ slots (R29, R155). A TRED
entry with a vector input takes one slot, however many partial results it holds: the spec counts none (log 59). -/
def Entry.vectors (e : Entry) : Nat :=
  ([e.a, e.b, e.c, e.p].filter fun t => t.any (·.isVec)).length +
    match e.agg with
    | .topk k _ _ _ _ => (k + 15) / 16
    | .tree _ true _ _ => 1
    | _ => 0

/-- The set index of a key: the XOR of the tag's bytes, node[7:0], and node[8] at bit 7 (R29). -/
def setIndex (tag : Word) (node : Nat) : Nat :=
  (bytesOf 8 tag.toNat).foldl (fun x b => x ^^^ b.toNat) (bits node 0 8 ^^^ (bits node 8 1 * 128))

/-- The context has room for one more entry of its Skein table (R31, R140). -/
def Ctx.skeinRoom (c : Ctx) : Bool := c.skein.length + c.loops.length + c.former.length < 2 ^ c.skl

/-- The BOUNDs of which a tag belongs to the oldest admitted iteration of an instance, so that their reserved entries may
take it (R37, R143). -/
def reservedFor (ws : List Nat) (c : Ctx) (p : CPlane) (tag : Word) : List LoopBody :=
  p.bodies.filter fun b => c.loops.any fun r =>
    r.bound = some (b.tile, b.node) && iterationOf ws r.tag tag = some r.oldest && r.oldest ∈ r.admitted

/-- Vector values of an entry that no slot of the vector operand buffer holds yet. -/
def Entry.vneed (e : Entry) : Nat := e.vectors - e.vslots.length

/-- The slots of the vector operand buffer, of 128, that are free for an entry: held neither by those of the store nor by
the entry itself (R29). -/
def CTile.vfree (t : CTile) (e : Entry) : List Nat :=
  (List.range 128).filter fun i => !((e :: t.entries).any fun x => x.vslots.contains i)

/-- The vector operand buffer has room for an entry's values (R29, R31). -/
def CTile.vroom (t : CTile) (e : Entry) : Bool := e.vneed ≤ (t.vfree e).length

/-- An entry put into the store, its vector values into free slots of the vector operand buffer. The last value of an
entry that becomes ready with no slot free needs none: it goes with the entry that issues (R29, R30, log 62). -/
def CTile.insert (t : CTile) (e : Entry) : CTile :=
  { t with entries := t.entries ++ [{ e with vslots := (e.vslots ++ (t.vfree e).take e.vneed).take e.vectors }] }

/-- Why an entry cannot take a way: its set is full, its context's partition is reached, or the vector operand buffer is
full for its values (R31). -/
def CTile.noWay (t : CTile) (c : Ctx) (e : Entry) : Bool :=
  let ways := t.entries.filter (·.way)
  8 ≤ (ways.filter fun x => setIndex x.tag x.node = setIndex e.tag e.node).length
    || c.part ≤ (ways.filter fun x => tagCtx x.tag = c.num).length
    || !t.vroom e

/-- Spill a partial entry to its context's Skein table, or 0x083 where that has no room (R31). -/
def State.spill (s : State) (t : TileId) (c : Ctx) (e : Entry) : State :=
  if c.skeinRoom then
    s.mapCtx c.launch fun c =>
      { c with skein := c.skein ++ [.entry t { e with way := false, reserved := none, vslots := [] }] }
  else s.takeFault ⟨0x083, .tile t, c.num, e.tag, 0, 0, false, false⟩

/-- Put an incomplete entry into the matching store: a free way; where the set or the partition would force a spill, a
free reserved entry of its loops; else a spill (R29, R31, R37). -/
def State.allocate (s : State) (t : TileId) (c : Ctx) (p : CPlane) (e : Entry) : State :=
  let x := s.ctile t
  let free (b : LoopBody) : Bool := !(x.entries.any (·.reserved = some b))
  if !x.noWay c e then s.setCtile t (x.insert { e with way := true, reserved := none })
  else if !x.vroom e then s.spill t c e
  else
    match (reservedFor (fullWidths p.widths) (c.seen (.tile t)) p e.tag).find? free with
    | some b => s.setCtile t (x.insert { e with way := false, reserved := some b })
    | none => s.spill t c e

/-- The spilled entry of a key, and the table without it (R31). -/
def Ctx.findSpilled (c : Ctx) (t : TileId) (p : Entry → Bool) : Option (Entry × List Spilled) :=
  match takeFirst (fun x => match x with | .entry u e => u = t && p e | .reader _ _ _ => false) c.skein with
  | some (.entry _ e, l) => some (e, l)
  | _ => none

/-- Put an entry with its readiness decided: a ready entry joins the issue order without a way unless it already has
one; any other takes a way, and one that the vector operand buffer cannot hold spills (R29, R31, R144). -/
def State.settle (s : State) (t : TileId) (c : Ctx) (p : CPlane) (e : Entry) (ready : Bool) : State :=
  if ready then
    let x := s.ctile t
    s.setCtile t (x.insert { e with ready := some s.cycle })
  else if e.way || e.reserved.isSome then
    let x := s.ctile t
    if x.vroom e then s.setCtile t (x.insert e) else s.spill t c e
  else s.allocate t c p e

/-- A loop-instance record as GATE, WAVE or EXITL first meets it (R249). -/
def LoopRec.new (tag : Word) : LoopRec := ⟨tag, none, none, 0, [], [], [], [], false, none, [], none⟩

/-- The instance of an entering tag. -/
def Ctx.loop (c : Ctx) (tag : Word) : LoopRec := (c.loops.find? (·.tag = tag)).getD (LoopRec.new tag)

/-- A record belongs to the region whose tile opened it (log 70). -/
def LoopRec.opened (r : LoopRec) (region : Nat) : LoopRec := { r with home := some (r.home.getD region) }

/-- Write an instance back, creating it where it is absent (R249). -/
def Ctx.putLoop (c : Ctx) (r : LoopRec) : Ctx :=
  if c.loops.any (·.tag = r.tag) then
    { c with loops := c.loops.map fun x => if x.tag = r.tag then r else x }
  else { c with loops := c.loops ++ [r] }

/-- The table has room for the instance of an entering tag, or holds it already (R35, R249). -/
def Ctx.instanceRoom (c : Ctx) (tag : Word) : Bool := c.loops.any (·.tag = tag) || c.skeinRoom

/-- The fields of an operation's own word; the all-zero fields where the word is none, which no run issues. -/
def Issued.niw (op : Issued) : Niw :=
  match decodeWord (!siteIsBlock op.site) op.word with
  | .ok i => match i.parts with
    | some p => p.2
    | none => ⟨.s8, .rne, .always, 0, false, 0, none, none, none⟩
  | .error _ => ⟨.s8, .rne, .always, 0, false, 0, none, none, none⟩

/-- A token put on a tile's stream of arrivals, as a control tile sends seeds and drains (R49, R174). -/
def State.deliver (s : State) (q : Parcel) : State :=
  let c := s.ctile q.tile
  s.setCtile q.tile { c with stream := c.stream ++ [q] }

/-- Iteration i has resolved (R36). -/
def LoopRec.resolved (r : LoopRec) (i : Nat) : Bool := i ∈ r.cont || i ∈ r.exited

/-- Iteration i has retired: resolved, at or below the kill mark, and with its retire token where the GATE takes
retire tokens (R36, R38). -/
def LoopRec.retired (r : LoopRec) (i : Nat) : Bool :=
  r.resolved i && (!r.retiring || i ∈ r.tokens) && r.kill.all (i ≤ ·)

/-- Advance o past retired iterations (R36, R275). -/
def LoopRec.advance (r : LoopRec) : Nat → LoopRec
  | 0 => r
  | k + 1 => if r.retired r.oldest then { r with oldest := r.oldest + 1 }.advance k else r

/-- GATE admits iteration i (R36). -/
def LoopRec.admits (r : LoopRec) (i : Nat) : Bool :=
  (match r.window with | none => true | some k => i < r.oldest + k) && r.kill.all (i ≤ ·)

/-- Record an admission. -/
def LoopRec.enter (r : LoopRec) (i : Nat) : LoopRec :=
  if i ∈ r.admitted then r else { r with admitted := i :: r.admitted }

/-- The GATE entries of an instance that wait for admission, spilled ones first fetched back, become admitted in
increasing order of i when the window has moved (R142, R275). -/
def State.readmit (s : State) (t : TileId) (c : Ctx) (p : CPlane) (tag : Word) : State :=
  let ws := fullWidths p.widths
  let mine (e : Entry) : Bool :=
    (p.node? e.node).any isGate && e.a.isSome && e.ready = none && e.agg = .none && !e.parked
      && popField ws e.tag = some tag
  let back := c.skein.filterMap fun x => match x with
    | .entry u e => if u = t && mine e then some e else none
    | .reader _ _ _ => none
  let x := s.ctile t
  let waiting := (x.entries.filter mine) ++ back
  let order := sortBy (fun (a b : Entry) => innermost ws a.tag < innermost ws b.tag) waiting
  let r := (c.seen (.tile t)).loop tag
  let (go, r) := order.foldl (fun (acc : List Entry × LoopRec) e =>
    let i := innermost ws e.tag
    if acc.2.admits i then (acc.1 ++ [e], acc.2.enter i) else acc) ([], r)
  let s := s.mapCtx c.launch fun c =>
    ({ c with skein := c.skein.filter fun x => match x with
        | .entry u e => !(u = t && e ∈ go)
        | .reader _ _ _ => true }).mapGen (c.behind (.tile t)) (·.putLoop r)
  let s := s.setCtile t { x with entries := x.entries.filter fun e => !(e ∈ go) }
  go.foldl (fun s e =>
    match p.node? e.node, s.launched? c.launch with
    | some n, some c => s.settle t c p e (e.full n)
    | _, _ => s) s

/-- An instance has changed, of the predecessor's where `old`: write it back, advance o, and let in what waits in every tile
that runs its configuration and where the context is not frozen (R36, R48, R142, R222, R275). -/
def State.loopChanged (s : State) (old : Bool) (c : Ctx) (r : LoopRec) : State :=
  let r := r.advance (r.cont.length + r.exited.length + 1)
  let s := s.mapCtx c.launch (·.mapGen old (·.putLoop r))
  s.ctiles.foldl (fun s u =>
    match (s.ctile u.1).active, s.launched? c.launch with
    | some p, some c =>
      if p.ctx = c.num && !(u.2.frozen.contains c.num) && c.behind (.tile u.1) = old then s.readmit u.1 c p r.tag else s
    | _, _ => s) s

/-- A context runs again: what its loop instances admit meanwhile is let in (R222, R275, R294). -/
def State.readmitAll (s : State) (num : Nat) : State :=
  match s.ctx? num with
  | none => s
  | some c =>
    let go (old : Bool) (s : State) (r : LoopRec) : State :=
      match s.ctx? num with
      | some c => s.loopChanged old c ((if old then c.turned else c).loop r.tag)
      | none => s
    c.former.foldl (go true) (c.loops.foldl (go false) s)

/-- A token on slot a of a GATE: it opens the instance where there is none, is discarded above the kill mark, and is
admitted or waits (R275). Whether it is admitted is the answer's first part. An instance whose GATEs have both ARI 1 and
ARI 2 is left open by the spec, which speaks of one GATE per iteration: every iteration of the instance needs a retire token
once an ARI 2 GATE of it has been met. -- DESIGN CHOICE: log 88. -/
def State.gateToken (s : State) (t : TileId) (c : Ctx) (ws : List Nat) (n : Niw) (tag : Word) : Option (Bool × State) :=
  (popField ws tag).map fun g =>
    let i := innermost ws tag
    let r := (c.seen (.tile t)).loop g
    let r := { r.opened (regionOf t) with retiring := r.retiring || n.ari.toNat = 2 }
    let put (r : LoopRec) : State := s.mapCtx c.launch (·.mapGen (c.behind (.tile t)) (·.putLoop r))
    if r.admits i then (true, put (r.enter i)) else (false, put r)

/-- A retire token on slot b of a GATE (R35, R142, R275). -/
def State.retireToken (s : State) (t : TileId) (c : Ctx) (ws : List Nat) (tag : Word) : State :=
  match popField ws tag with
  | none => s.takeFault ⟨0x082, .tile t, c.num, tag, 0, 0, false, false⟩
  | some g =>
    let i := innermost ws tag
    let r := (c.seen (.tile t)).loop g
    if r.kill.any (· < i) then s
    else if !(i ∈ r.admitted) || i ∈ r.tokens then s.takeFault ⟨0x085, .tile t, c.num, tag, 0, 0, false, false⟩
    else s.loopChanged (c.behind (.tile t)) c { r with tokens := i :: r.tokens, retiring := true }

/-- The entry of a key that a token can meet. -/
def Entry.keyed (tag : Word) (node : Nat) (e : Entry) : Bool :=
  e.tag = tag && e.node = node && e.agg = .none && !e.parked

/-- A GATE's entry has been admitted (R275); any other node needs no admission. -/
def State.admitted (s : State) (t : TileId) (launch : Nat) (ws : List Nat) (x : Nat × Niw) (e : Entry) : Bool :=
  if isGate x then (s.launched? launch).any fun c =>
    match popField ws e.tag with
    | some g => innermost ws e.tag ∈ ((c.seen (.tile t)).loop g).admitted
    | none => false
  else true

/-- The nodes that gather several tokens of one tag and slot: TRED, the counting JOIN and VTOPK. Each of their inputs is
matched on its own, and a repeated one meets the node's own rule (R32, R176, R285, R334, log 61). -/
def gathers (x : Nat × Niw) : Bool := x.1 = 0x66 || (x.1 = 0x0F && x.2.imm.getLsbD 7) || x.1 = 0xA5

/-- The tag under which a token is matched: its own, but that an order token of another context in slot p of an atomic
meets the atomic under the plane's own context, which then raises 0x181 (R134). -/
def CPlane.keyTag (p : CPlane) (x : Nat × Niw) (q : Parcel) : Word :=
  let tag := q.tok.tag
  if 0x80 ≤ x.1 && x.1 ≤ 0x86 && x.2.prd = .ift && q.slot = .p && tagCtx tag ≠ p.ctx then
    mkTag p.ctx (tagDepth tag) (tagArea tag)
  else tag

/-- An entry of a token's key that the token can meet: at a gathering node one whose slot is empty (R32, R176). -/
def Entry.meets (x : Nat × Niw) (tag : Word) (q : Parcel) (e : Entry) : Bool :=
  e.keyed tag q.node && !(gathers x && (e.at q.slot).isSome)

/-- A token meets its key in the store: it fills the entry present, waits for a spilled one to be fetched back, joins the
issue order by itself, or takes a way (R29, R31, R32, R144). A vector token that fills a present entry while the vector
operand buffer is full spills that entry; where the Skein table has no room either, the token is dropped with 0x083 and the
entry stays as it was (R31). -/
def State.matchKey (s : State) (t : TileId) (c : Ctx) (p : CPlane) (x : Nat × Niw) (q : Parcel) : State :=
  let u := s.ctile t
  let ws := fullWidths p.widths
  let tag := p.keyTag x q
  match takeFirst (Entry.meets x tag q) u.entries with
  | some (e, rest) =>
    match e.at q.slot with
    | some old => s.takeFault ⟨0x080, .tile t, c.num, tag, old.word, q.tok.word, false, false⟩
    | none =>
      let f := e.fill q.slot q.tok
      let ready := f.full x && s.admitted t c.launch ws x f
      if !ready && !({ u with entries := rest } : CTile).vroom f && !c.skeinRoom then
        s.takeFault ⟨0x083, .tile t, c.num, tag, 0, 0, false, false⟩
      else (s.setCtile t { u with entries := rest }).settle t c p f ready
  | none =>
    match c.findSpilled t (Entry.meets x tag q) with
    | some _ => s.setCtile t { u with refill := u.refill ++ [q] }
    | none =>
      let e := (Entry.new tag q.node).fill q.slot q.tok
      s.settle t c p e (e.full x && s.admitted t c.launch ws x e)

/-- The partial entry of a waiting token is fetched back from the Skein table and merged with it (R31, R144). At a GATE the
window is tested again: it may have risen while the token waited (R142, R275). -/
def State.refill (s : State) (t : TileId) (c : Ctx) (p : CPlane) (x : Nat × Niw) (q : Parcel) : State :=
  let tag := p.keyTag x q
  match c.findSpilled t (Entry.meets x tag q) with
  | none => s.matchKey t c p x q
  | some (e, skein) =>
    match e.at q.slot with
    | some old => s.takeFault ⟨0x080, .tile t, c.num, tag, old.word, q.tok.word, false, false⟩
    | none =>
      let ws := fullWidths p.widths
      let e := e.fill q.slot q.tok
      let s := s.mapCtx c.launch fun c => { c with skein := skein }
      let s := match s.launched? c.launch with
        | some c => if isGate x && e.a.isSome then (s.gateToken t c ws x.2 tag).elim s (·.2) else s
        | none => s
      match s.launched? c.launch with
      | some c => s.settle t c p e (e.full x && s.admitted t c.launch ws x e)
      | none => s

/-- A killed token probes the Skein table: the spilled entries of its key are freed (R38). -/
def State.freeSpilled (s : State) (t : TileId) (launch : Nat) (q : Parcel) : State :=
  s.mapCtx launch fun c => { c with skein := c.skein.filter fun x => match x with
    | .entry u e => !(u = t && e.keyed q.tok.tag q.node)
    | .reader _ _ _ => true }

/- Operations back in an entry. -/

/-- The entry of an operation that waits (R122, R148, R197). -/
def parkedEntry (op : Issued) : Entry :=
  { Entry.new op.tag op.node with a := op.a, b := op.b, c := op.c, p := op.p, parked := true }

/-- The parked entries of a tile, in its store and spilled. -/
def State.parkedCount (s : State) (t : TileId) (n : Nat) : Nat :=
  ((s.ctile t).entries.filter (·.parked)).length +
    match s.ctx? n with
    | none => 0
    | some c => (c.skein.filter fun x => match x with | .entry _ e => e.parked | .reader _ _ _ => false).length

/-- An operation that waits takes an entry again, which may spill; without room for it the operation is dropped with 0x083
(R31, R122, R148, R197). An instruction of a block has no entry. -/
def State.reenter (s : State) (op : Issued) (wait dropped : State → State) : State :=
  match op.site with
  | .block _ _ _ => wait s
  | .tile t =>
    match (s.ctile t).active, s.ctx? op.ctx with
    | some p, some c =>
      let u := s.allocate t c p (parkedEntry op)
      if u.parkedCount t op.ctx = s.parkedCount t op.ctx then dropped u else wait u
    | _, _ => s

/-- The entry of an operation that goes on is freed (R122). -/
def State.unparkEntry (s : State) (op : Issued) : State :=
  match op.site with
  | .block _ _ _ => s
  | .tile t =>
    let mine (e : Entry) : Bool := e.parked && e.tag = op.tag && e.node = op.node
    let u := s.ctile t
    match takeFirst mine u.entries with
    | some (_, rest) => s.setCtile t { u with entries := rest }
    | none =>
      match s.ctx? op.ctx with
      | none => s
      | some c => match c.findSpilled t mine with
        | some (_, l) => s.mapCtx c.launch fun c => { c with skein := l }
        | none => s

/-- The gathering entry of an aggregate tag at a node, wherever it stands, and the state without it (R32, R33). -/
def State.takeAgg (s : State) (t : TileId) (c : Ctx) (tag : Word) (node : Nat) : Option Entry × State :=
  let u := s.ctile t
  let mine (e : Entry) : Bool := e.tag = tag && e.node = node && e.agg ≠ .none
  match takeFirst mine u.entries with
  | some (e, rest) => (some e, s.setCtile t { u with entries := rest })
  | none =>
    match c.findSpilled t mine with
    | some (e, skein) => (some { e with way := false, reserved := none },
        s.mapCtx c.launch fun c => { c with skein := skein })
    | none => (none, s)

/-- Put a gathering entry back (R33). -/
def State.putAgg (s : State) (t : TileId) (launch : Nat) (e : Entry) : State :=
  match (s.ctile t).active, s.launched? launch with
  | some p, some c => s.settle t c p e false
  | _, _ => s

end Sys2Proof.Machine
end

