-- ==== Sys2Proof/Machine/Gather.lean ====
section
/-!
DEFINITION. The nodes that gather several tokens in one matching-store entry and emit once: TRED (R33, R333, R334)
and the counting JOIN (R285). Each input issues under its own tag and merges into the entry of its aggregate tag.
-/

namespace Sys2Proof.Machine

/-- An entry that holds a gathering. -/
def Entry.gather (tag : Word) (node : Nat) (a : Agg) : Entry := { Entry.new tag node with agg := a }

/-- The positions of subtree q that have arrived are all those below N (R334). -/
def subtreeFull (n li top q : Nat) (seen : List Nat) : Bool :=
  let span := subtreeSpan n li top q
  (List.range span.2).all fun i => (span.1 + i) ∈ seen

/-- The value of subtree q, combined by the canonical tree over its positions (R103, R334). -/
def subtreeValue (f : Fmt) (rnd : Rnd) (o n li top q : Nat) (leaves : List Leaf) : Option (List (Option Nat)) :=
  let span := subtreeSpan n li top q
  let ls := (List.range span.2).map fun i =>
    match leaves.find? fun l => l.pos = span.1 + i with
    | some l => l.val.map fun es => es.map fun e => e.map (·.toNat)
    | none => none
  match tree (combineLeaf f rnd o) (top - li) ls with
  | r :: _ => r
  | [] => none

/-- The inputs of subtree q (R334). -/
def subtreeLeaves (n li top q : Nat) (leaves : List Leaf) : List Leaf :=
  let span := subtreeSpan n li top q
  leaves.filter fun l => span.1 ≤ l.pos && l.pos < span.1 + span.2

/-- A float subtree that ends non-finite although every input of it is finite, in poison mode (R101). -/
def treePoison (e : FloatEnv) (f : Fmt) (n li top q : Nat) (leaves : List Leaf) (x : Option (List (Option Nat))) :
    Bool :=
  e.psn && f.isFloat && ((x.getD []).any fun v => v.any (nonFinite f))
    && (subtreeLeaves n li top q leaves).all fun l => (l.val.getD []).all fun v => v.all fun w => !nonFinite f w.toNat

/-- Stage 5 and the emission of a root or a partial under a tag. The draws of a stochastic conversion are those of that tag,
since which input arrives last may not change the bits (R3, R60, R96, R334). -- DEDUCED: log 87. -/
def State.emitTree (s : State) (op : Issued) (n : Niw) (e : FloatEnv) (tag : Word) (vector : Bool)
    (x : Option (List (Option Nat))) (psn : Bool) : State :=
  let (v, pred) := leafValue n.fmt vector x
  match (e.under tag).fuse v with
  | .error (c, d) => s.opFault op c 0 (word d)
  | .ok r => s.emit op n ⟨tag, r.val, pred, psn || r.psn, false⟩

/-- TRED takes one input with its count word. A value emitted is a vector, and poisoned, as the inputs of its own subtree
are (R101, R334). The entry is freed once every position of the node's level has been counted: for H = 0 that is when
the root goes out, and for H ≠ 0, where the spec states no freeing, when the last partial does (log 58). -/
def State.tredInput (s : State) (op : Issued) (n : Niw) (t : TileId) (c : Ctx) (cw : Word) : State :=
  let ws := s.widths op
  let e := s.floatEnv op n n.fmt false
  if stoBad op n (addsFloat n (bits n.imm.toNat 0 2)) then s.opFault op 0x041 0 0
  else match countWord cw with
  | none => s.opFault op 0x041 0 0
  | some (total, li, h) =>
    match popField ws op.tag with
    | none => s.opFault op 0x082 0 0
    | some g =>
      let j := innermost ws op.tag
      let old := s.takeAgg t c g op.node
      let (cw', vec, leaves, seen) := match old.1 with
        | some { agg := .tree cw' vec leaves seen, .. } => (cw', vec, leaves, seen)
        | _ => (cw, false, [], [])
      if cw' ≠ cw ∨ total ≤ j * 2 ^ li ∨ j ∈ seen then s.opFault op 0x180 0 0
      else
        let x := leafOf n.fmt op.ta
        if anyAbandoned n.fmt (x.getD []) then s.opFault op 0x0C0 0 0
        else
          let top := topOf total li h
          let leaf : Leaf := ⟨li, j, x.map fun es => es.map fun v => v.map word, op.ta.isVec, op.poisoned⟩
          let leaves := leaf :: leaves
          let seen := j :: seen
          let s := old.2
          let q := j / 2 ^ (top - li)
          let full := subtreeFull total li top q seen
          let all := (List.range ((total + 2 ^ li - 1) / 2 ^ li)).all (· ∈ seen)
          let s := if all then s else s.putAgg t c.launch (Entry.gather g op.node (.tree cw (vec || op.ta.isVec) leaves seen))
          if !full then s
          else
            let v := subtreeValue n.fmt e.rnd (bits n.imm.toNat 0 2) total li top q leaves
            let mine := subtreeLeaves total li top q leaves
            let vec := mine.any (·.vec)
            let psn := mine.any (·.psn) || treePoison e n.fmt total li top q leaves v
            if h = 0 then s.emitTree op n e g vec v psn
            else match pushField ws g q with
              | none => s.opFault op 0x081 0 0
              | some tag => s.emitTree op n e tag vec v psn

/-- TRED (R333, R334). -/
def execTred (n : Niw) (s : State) : Out :=
  fire s n fun op s =>
    match op.site, s.ctx? op.ctx with
    | .tile t, some c =>
      if n.ari.toNat = 2 then s.scalars op [op.tb] fun s => s.tredInput op n t c op.tb.word
      else s.tredInput op n t c (op.konst.getD 0)
    | _, _ => s

/-- The word that a counting JOIN emits, from its leaves by index (R285). -/
def joinWord (n : Nat) (leaves : List (Nat × Word)) : Word :=
  let ls := sortBy (fun (x y : Nat × Word) => x.1 < y.1) leaves
  let scope := (ls.map fun l => bits l.2.toNat 32 3).foldl max 0
  let noef := ls.any fun l => l.2.getLsbD 35
  let cause := match ls.find? fun l => bits l.2.toNat 36 10 ≠ 0 with
    | some l => bits l.2.toNat 36 10
    | none => 0
  word (n + scope * 2 ^ 32 + noef.toNat * 2 ^ 35 + cause * 2 ^ 36)

/-- The counting JOIN takes one leaf (R285). -/
def State.joinLeaf (s : State) (op : Issued) (n : Niw) (t : TileId) (c : Ctx) : State :=
  let ws := s.widths op
  let count := bits n.imm.toNat 0 7 + 1
  match popField ws op.tag with
  | none => s.opFault op 0x082 0 0
  | some g =>
    let i := innermost ws op.tag
    let old := s.takeAgg t c g op.node
    let (leaves, psn) := match old.1 with
      | some { agg := .count ls p, .. } => (ls, p)
      | _ => ([], false)
    if count ≤ i ∨ leaves.any (·.1 = i) then s.opFault op 0x180 0 0
    else
      let leaves := (i, op.ta.word) :: leaves
      let psn := psn || op.poisoned
      if leaves.length < count then old.2.putAgg t c.launch (Entry.gather g op.node (.count leaves psn))
      else old.2.emit op n (Tok.scalar g (joinWord count leaves) true psn)

/-- JOIN in its counting form (R285). -/
def execJoinCount (n : Niw) (s : State) : Out :=
  fire s n fun op s =>
    match op.site, s.ctx? op.ctx with
    | .tile t, some c => s.joinLeaf op n t c
    | _, _ => s

end Sys2Proof.Machine
end

