-- ==== Sys2Proof/Machine/Control.lean ====
section
/-!
DEFINITION. The control class, 0x00 to 0x17: moves, loops, tags and calls, joins, drains, predicates, block exits and
global registers (R35 to R40, R44, R45, R82, R174, R246, R249, R250, R256, R259, R262, R275, R276, R278, R284, R298,
R300, R301, R304, R306, R308, R325, R330, R331, R338).
-/

namespace Sys2Proof.Machine

/-- NOP consumes its operands (R300). -/
def execNop (n : Niw) (s : State) : Out := fire s n fun _ s => s

/-- MOV (R298). -/
def execMov (n : Niw) (s : State) : Out :=
  fire s n fun op s => s.emitVal op n op.ta.val true op.poisoned

/-- PRD 11 behaves as 00 (R256, R301, R325). -/
def noBubble (n : Niw) : Niw := if n.prd = .bub then { n with prd := .always } else n

/-- CONST (R256). -/
def execConst (n : Niw) (s : State) : Out :=
  fire s (noBubble n) fun op s => s.emitWord op n (op.konst.getD 0) true

/-- NULL (R301). -/
def execNullTok (n : Niw) (s : State) : Out := fire s (noBubble n) fun op s => s.nulls op n

/-- The condition of STEER (R325). -/
def steerCond (prd : Prd) (op : Issued) : Bool :=
  match prd with
  | .always | .bub => op.ta.pred
  | .ift => op.p.all (·.pred)
  | .iff => op.p.all (!·.pred)

/-- STEER (R325). -/
def execSteer (n : Niw) (s : State) : Out :=
  fireRaw s fun op s =>
    let s := s.touch op
    let tok : Tok := ⟨op.tag, op.ta.val, true, op.poisoned, op.ta.nul⟩
    if op.p.any (·.nul) then s.emitTo op [n.t0, n.t1] ⟨op.tag, .scalar 0, true, false, true⟩
    else s.emit1 op (if steerCond n.prd op then n.t0 else n.t1) tok

/-- GATE passes an admitted token to the body; its admission is the matching store's (R275). -/
def execGate (n : Niw) (s : State) : Out :=
  fire s n fun op s => s.emitVal op n op.ta.val true op.poisoned

/-- Every iteration below e has resolved by continuing (R38). -/
def LoopRec.mayExit (r : LoopRec) (e : Nat) : Bool := (List.range e).all (· ∈ r.cont)

/-- The kill mark e reaches every tile that runs the configuration of the instance (R38, R48). -/
def State.broadcastKill (s : State) (old : Bool) (c : Ctx) (tag : Word) (e : Nat) : State :=
  { s with ctiles := s.ctiles.map fun (u : TileId × CTile) =>
      if u.2.active.any (·.ctx = c.num) && c.behind (.tile u.1) = old then (u.1, { u.2 with kills := u.2.kills ++ [⟨tag, e⟩] }) else u }

/-- An EXITL of iteration e takes effect: the kill mark, its broadcast, the end of held exits above it, the pop and
the emission (R38). -/
def State.takeExit (s : State) (old : Bool) (c : Ctx) (r : LoopRec) (e : Nat) (op : Issued) : State :=
  let s := s.loopChanged old c { r with kill := some e, exits := [] }
  let s := s.broadcastKill old c r.tag e
  s.emit op op.niw ⟨r.tag, op.ta.val, true, op.poisoned, false⟩

/-- The instance has changed: a held EXITL whose earlier iterations have all continued takes effect (R38, R338). -/
def State.resolveLoop (s : State) (old : Bool) (c : Ctx) (r : LoopRec) : State :=
  let ready (o : Issued) : Bool := r.mayExit (innermost (s.widths o) o.tag)
  match r.exits.find? ready with
  | some o => s.takeExit old c r (innermost (s.widths o) o.tag) o
  | none => s.loopChanged old c r

/-- WAVE and EXITL share their checks: depth, one resolution for an iteration, the kill mark, and room for the record
(R35, R38, R262, R338). -/
def State.withLoop (s : State) (op : Issued) (k : Ctx → LoopRec → Nat → State) : State :=
  let ws := s.widths op
  match popField ws op.tag, s.ctx? op.ctx with
  | none, _ => s.opFault op 0x082 0 0
  | some _, none => s
  | some g, some c =>
    let i := innermost ws op.tag
    let r := ((c.seen op.site).loop g).opened (siteRegion op.site)
    if r.resolved i then s.opFault op 0x085 0 0
    else if r.kill.any (· < i) then s
    else if !(c.seen op.site).instanceRoom g then s.opFault op 0x083 0 0
    else k c r i

/-- WAVE (R338). -/
def execWave (n : Niw) (s : State) : Out :=
  fire s n fun op s =>
    let ws := s.widths op
    let d := tagDepth op.tag
    s.withLoop op fun c r i =>
      if 2 ^ widthOf ws (d - 1) ≤ i + 1 then s.opFault op 0x081 0 0
      else
        let s := s.resolveLoop (c.behind op.site) c { r with cont := i :: r.cont }
        s.emit op n ⟨setField ws op.tag (d - 1) (i + 1), op.ta.val, true, op.poisoned, false⟩

/-- BOUND (R35, R249). -/
def execBound (n : Niw) (s : State) : Out :=
  fire s n fun op s =>
    let ws := s.widths op
    match op.site, s.ctx? op.ctx with
    | .tile t, some c =>
      if n.imm = 0 ∨ (c.seen op.site).loops.any (·.tag = op.tag) then s.opFault op 0x085 0 0
      else
        match pushField ws op.tag 0 with
        | none => s.opFault op 0x081 0 0
        | some tag =>
          if !c.skeinRoom then s.opFault op 0x083 0 0
          else
            let r := { LoopRec.new op.tag with bound := some (t, op.node), window := some n.imm.toNat, home := some (regionOf t) }
            let s := s.mapCtx c.launch (·.mapGen (c.behind op.site) (·.putLoop r))
            s.emit op n ⟨tag, op.ta.val, true, op.poisoned, false⟩
    | _, _ => s

/-- EXITL (R38, R262). -/
def execExitl (n : Niw) (s : State) : Out :=
  fire s n fun op s =>
    s.withLoop op fun c r e =>
      let r := { r with exited := e :: r.exited }
      let old := c.behind op.site
      if r.mayExit e then s.takeExit old c r e op else s.loopChanged old c { r with exits := r.exits ++ [op] }

/-- Emit slot a's value under another tag (R23). -/
def State.retag (s : State) (op : Issued) (n : Niw) (tag : Word) : State :=
  s.emit op n ⟨tag, op.ta.val, true, op.poisoned, false⟩

/-- Push a field and emit, or 0x081 (R25, R306). -/
def State.pushTag (s : State) (op : Issued) (n : Niw) (v : Nat) : State :=
  match pushField (s.widths op) op.tag v with
  | none => s.opFault op 0x081 0 0
  | some tag => s.retag op n tag

/-- PUSHF (R306). -/
def execPushf (n : Niw) (s : State) : Out :=
  fire s n fun op s =>
    if n.ari.toNat = 2 then s.scalars op [op.tb] fun s => s.pushTag op n op.tb.word.toNat
    else s.pushTag op n n.imm.toNat

/-- POPF (R306). -/
def execPopf (n : Niw) (s : State) : Out :=
  fire s n fun op s =>
    match popField (s.widths op) op.tag with
    | none => s.opFault op 0x082 0 0
    | some tag => s.retag op n tag

/-- What TAGRD reads; none is 0x082 (R330). -/
def tagPart (ws : List Nat) (imm : Nat) (tag : Word) : Option Word :=
  match bits imm 4 2 with
  | 0 =>
    let d := tagDepth tag
    let k := bits imm 0 4
    if d ≤ k then none else some (word (fieldAt ws tag (d - 1 - k)))
  | 1 => some (word (tagCtx tag))
  | 2 => some (word (tagDepth tag))
  | _ => some tag

/-- TAGRD (R330). -/
def execTagrd (n : Niw) (s : State) : Out :=
  fire s n fun op s =>
    match tagPart (s.widths op) n.imm.toNat op.tag with
    | none => s.opFault op 0x082 0 0
    | some w => s.emitWord op n w true

/-- The tag that TAGWR writes, or its cause (R331). -/
def tagWith (ws : List Nat) (imm : Nat) (system : Bool) (tag b : Word) : Except Nat Word :=
  match bits imm 4 2 with
  | 0 =>
    let d := tagDepth tag
    let k := bits imm 0 4
    if d ≤ k then .error 0x082
    else if 2 ^ widthOf ws (d - 1 - k) ≤ b.toNat then .error 0x081
    else .ok (setField ws tag (d - 1 - k) b.toNat)
  | 1 =>
    if !system then .error 0x103
    else if 4096 ≤ b.toNat then .error 0x081
    else .ok (mkTag b.toNat (tagDepth tag) (tagArea tag))
  | _ => if !system then .error 0x103 else if tagFits ws b then .ok b else .error 0x081

/-- TAGWR (R331). -/
def execTagwr (n : Niw) (s : State) : Out :=
  fire s n fun op s => s.scalars op [op.tb] fun s =>
    match tagWith (s.widths op) n.imm.toNat (s.isSystem op.ctx) op.tag op.tb.word with
    | .error c => s.opFault op c 0 0
    | .ok tag => s.retag op n tag

/-- CALL (R250). -/
def execCall (n : Niw) (s : State) : Out := fire s n fun op s => s.pushTag op n n.imm.toNat

/-- RET emits to route entry D + s with the slot of TGT0 (R40, R308). -/
def execRet (n : Niw) (s : State) : Out :=
  fire s n fun op s =>
    let ws := s.widths op
    match popField ws op.tag, n.t0, op.site, s.plane? op.site with
    | none, _, _, _ => s.opFault op 0x082 0 0
    | some tag, some t0, .tile u, some p =>
      let k := t0.dest.toNat + innermost ws op.tag
      if p.routes.length ≤ k then s.opFault op 0x045 0 0
      else s.route op u k t0.slot (stage6 p ⟨tag, op.ta.val, true, op.poisoned, false⟩)
    | some _, _, _, _ => s

/-- JOIN with CNT = 0 (R284). -/
def execJoin (n : Niw) (s : State) : Out :=
  fire s n fun op s => s.emitVal op n op.ta.val true op.poisoned

/-- A drain token (R259). -/
def drainTok (tag : Word) : Tok := ⟨tag, .scalar 0, true, false, true⟩

/-- DRAIN in fabric mode (R259). -/
def execDrainFabric (n : Niw) (s : State) : Out := fire s n fun op s => s.emitTo op (s.drainTargets op n) (drainTok op.tag)

/-- The distinct slots that seeds target, in table order (R174). -/
def seedSlots : List SeedRec → List (TileId × Nat × Slot)
  | [] => []
  | r :: rs =>
    let q := parcelOf r.ctl r.tag [r.val]
    let l := seedSlots rs
    if l.contains (q.tile, q.node, q.slot) then l else (q.tile, q.node, q.slot) :: l

/-- Send a drain to every distinct slot that a context's seeds target (R174, R323). -/
def State.sendDrains (s : State) (c : Ctx) : State :=
  (seedSlots c.seeds).foldl (fun s x => s.deliver ⟨x.1, x.2.1, x.2.2, drainTok (ctxTag c.num), false⟩) s

/-- DRAIN in block mode: it sends the drains and waits for the swap of the launch's regions (R174, R259). -/
def execDrainBlock (n : Niw) (s : State) : Out :=
  fire s n fun op s => s.scalars op [op.ta] fun s =>
    match s.launched? op.ta.word.toNat with
    | none => s.opFault op 0x041 0 0
    | some c =>
      if c.home ≠ siteRegion op.site then s.opFault op 0x041 0 0
      else if c.st = .ended then s.emitWord op n op.ta.word true
      else (s.sendDrains c).hold op (.drain c.launch c.rset)

/-- The outcome of PCHK's test (R304). -/
def pchkTest (imm : Nat) (op : Issued) : Bool :=
  let ls := (lanesOf op.ta.val).filterMap id
  let r := match bits imm 0 2 with
    | 0 => op.ta.pred
    | 1 => !ls.isEmpty && ls.all (· ≠ 0)
    | 2 => ls.any (· ≠ 0)
    | _ => op.ta.psn
  r != imm.testBit 2

/-- PCHK (R304). -/
def execPchk (n : Niw) (s : State) : Out :=
  fire s n fun op s => s.emitVal op n op.ta.val (pchkTest n.imm.toNat op) op.poisoned

/-- An instruction without targets whose PRD test decides whether it counts at all (R82, R246). One that a null or a
bubble ends has fired, with its slots full, and restarts the count of cycles without firing (R34, R45). -/
def fireExit (s : State) (n : Niw) (body : Issued → State → State) : Out :=
  fireRaw s fun op s =>
    match firing n.prd op with
    | .run => body op (s.touch op)
    | .null | .bubble => s.touch op
    | .consumed => s

/-- Count the block's one exit (R45). -/
def State.countExit (s : State) (op : Issued) (e : Exit) : State :=
  match op.site with
  | .tile _ => s
  | .block r bc _ =>
    match s.block? r bc with
    | none => s
    | some b =>
      if b.exit.isSome then s.opFault op 0x342 0 0
      else s.mapBlock r bc fun b => { b with exit := some e }

/-- BR (R246). -/
def execBr (n : Niw) (s : State) : Out :=
  fireExit s n fun op s => s.scalars op [op.ta] fun s => s.countExit op (.to op.ta.word)

/-- BRC (R246). -/
def execBrc (n : Niw) (s : State) : Out :=
  fireExit s n fun op s => s.scalars op [op.ta, op.tb, op.tc] fun s =>
    s.countExit op (.to (if op.tc.word ≠ 0 then op.ta.word else op.tb.word))

/-- BCALL (R246). -/
def execBcall (n : Niw) (s : State) : Out :=
  fireExit s n fun op s => s.scalars op [op.ta, op.tb] fun s => s.countExit op (.call op.ta.word op.tb.word)

/-- BRET reads the top of the return stack; an empty one raises 0x340 (R246). -/
def execBret (n : Niw) (s : State) : Out :=
  fireExit s n fun op s =>
    match op.site with
    | .tile _ => s
    | .block r bc _ =>
      match (s.bctx r bc).stack with
      | [] => s.opFault op 0x340 0 0
      | a :: _ => s.countExit op (.ret a)

/-- GRD (R276). -/
def execGrd (n : Niw) (s : State) : Out :=
  fire s (noBubble n) fun op s =>
    match op.site with
    | .tile _ => s
    | .block r bc _ => s.emitWord op n (nth 0 (s.bctx r bc).g (bits n.imm.toNat 0 6)) true

/-- Count register g of WM, or 0x344 (R45, R278). -/
def State.countWrite (s : State) (op : Issued) (g : Nat) (v : Option Word) : State :=
  match op.site with
  | .tile _ => s
  | .block r bc _ =>
    match s.block? r bc with
    | none => s
    | some b =>
      if !b.wm.testBit g || b.doneW.testBit g then s.opFault op 0x344 0 0
      else s.mapBlock r bc fun b =>
        { b with doneW := b.doneW + 2 ^ g, writes := b.writes ++ (v.toList.map fun w => (g, w)) }

/-- GWR: a null, and PRD 11 with a predicate of 0, count the register and write nothing (R82, R278). -/
def execGwr (n : Niw) (s : State) : Out :=
  fireRaw s fun op s =>
    let g := bits n.imm.toNat 0 6
    match firing n.prd op with
    | .consumed => s
    | .null | .bubble => (s.touch op).countWrite op g none
    | .run => (s.touch op).countWrite op g (some op.ta.word)

end Sys2Proof.Machine
end

