-- ==== Sys2Proof/Machine/Tiles.lean ====
section
/-!
DEFINITION. Memory tiles: the fields of the mode word (R62), operand stores (R108), FIFOs (R107), line buffers (R109),
write-once words (R110, R283), and the elements that address generators move (R63 to R65, R106, R121).
-/

namespace Sys2Proof.Machine

/-- The mode word of a tile's active plane. -/
def MTile.word (m : MTile) : Nat :=
  match m.active with
  | some p => p.mode.toNat
  | none => 0

/-- Buffers of an OPSTORE tile (R62). -/
def MTile.buffers (m : MTile) : Nat := bits m.word 56 4 + 1
/-- Bytes of an OPSTORE buffer, or the capacity of a FIFO (R62). -/
def MTile.depth (m : MTile) : Nat := bits m.word 43 13 * 256
/-- The handler node of an OPSTORE tile (R62). -/
def MTile.handler (m : MTile) : Nat := bits m.word 34 9
/-- The port toward the handler's tile (R62). -/
def MTile.handlerPort (m : MTile) : Nat := bits m.word 32 2
/-- Bytes of a FIFO element (R62). -/
def MTile.elemBytes (m : MTile) : Nat := 8 * 2 ^ bits m.word 40 3
/-- Bytes of a LINE row (R62). -/
def MTile.rowBytes (m : MTile) : Nat := bits m.word 48 8 * 64
/-- Committed rows (R62). -/
def MTile.win (m : MTile) : Nat := bits m.word 36 12
/-- Speculative rows (R62). -/
def MTile.spec (m : MTile) : Nat := bits m.word 28 8

/-- Bytes of a tile's banks. -/
def State.readBank (s : State) (t : TileId) (a n : Nat) : List Byte := cellsGet (s.mtile t).banks a n

/-- Write bytes of a tile's banks; head bits of the lines go (R67). -/
def State.writeBank (s : State) (t : TileId) (a : Nat) (bs : List Byte) : State :=
  let m := s.mtile t
  s.setMtile t { m with banks := cellsPut m.banks a bs, heads := clearHeads m.heads a bs.length }

/-- An access waits at the tile: a gated bank wakes, or zeroing goes on (R117, R118). -/
def MTile.asleep (m : MTile) : Bool := m.gated || m.zeroing

/-- A request waits at a tile. -/
def State.waitAt (s : State) (t : TileId) (op : Issued) : State :=
  let m := s.mtile t
  s.setMtile t { m with waiting := m.waiting ++ [op] }

/- Operand stores. -/

/-- A buffer of the ring is full (R108). -/
def MTile.isFull (m : MTile) (k : Nat) : Bool := m.full.any (·.1 = k)

/-- The buffer being filled becomes full under a task tag: its header goes to slot a of the handler, and filling moves
on in ring order (R42, R62, R108, R296). -/
def State.bufferFull (s : State) (t : TileId) (tag : Word) : State :=
  let m := s.mtile t
  let k := m.fill
  let s := s.setMtile t { m with full := m.full ++ [(k, tag)], fill := (k + 1) % m.buffers }
  match neighbour t m.handlerPort with
  | none => s
  | some c =>
    s.deliver ⟨c, m.handler, .a, Tok.scalar tag (word (k + 16 * opposite m.handlerPort)) true false, false⟩

/-- A buffer becomes empty; the one that empties next is the oldest full one, or the one being filled (R108). -/
def State.bufferEmpty (s : State) (t : TileId) (k : Nat) : State :=
  let m := s.mtile t
  let full := m.full.filter (·.1 ≠ k)
  s.setMtile t { m with full := full, drain := (full.head?.map (·.1)).getD m.fill }

/-- Write pieces (offset, bytes) into the buffer being filled; it becomes full when its last byte is written (R108). -/
def State.fillBuffer (s : State) (t : TileId) (tag : Word) (ps : List (Nat × List Byte)) : State :=
  let m := s.mtile t
  let s := ps.foldl (fun s p => s.writeBank t (m.fill * m.depth + p.1) p.2) s
  if ps.any fun p => p.2 ≠ [] && p.1 + p.2.length = m.depth then s.bufferFull t tag else s

/- FIFOs. -/

/-- A FIFO has room for one more element (R107). -/
def MTile.fifoRoom (m : MTile) : Bool := (m.fifo.length + 1) * m.elemBytes ≤ m.depth

/-- Bytes as one element of `n` bytes, zero-extended or cut (R324). DESIGN CHOICE: so is an element of a generator whose size is
not the FIFO's EW, of which the spec says nothing (log 84). -/
def sizedTo (n : Nat) (bs : List Byte) : List Byte := (bs ++ List.replicate (n - bs.length) 0).take n

/-- Append an element (R107, R135). -/
def State.fifoPush (s : State) (t : TileId) (bs : List Byte) : State :=
  let m := s.mtile t
  s.setMtile t { m with fifo := m.fifo ++ [sizedTo m.elemBytes bs] }

/-- Remove the oldest element (R107, R135). -/
def State.fifoPop (s : State) (t : TileId) : State :=
  let m := s.mtile t
  s.setMtile t { m with fifo := m.fifo.drop 1 }

/- Line buffers. -/

/-- The rows of a LINE tile that has just been configured or woken: every row unwritten (R109, R117). -/
def freshLines (k : Nat) : List Line := (List.range k).map fun i => ⟨i, false, false⟩

/-- The row at a logical number. -/
def MTile.line (m : MTile) (r : Nat) : Line := nth ⟨r, false, false⟩ m.lines r

/-- Bytes at a logical offset within one row: zeros where the row is unwritten (R109). DESIGN CHOICE: once a byte of a row has
been written since its slot was freed, its other bytes read as the slot held them, of which the spec says nothing (log 84). -/
def State.readLine (s : State) (t : TileId) (off n : Nat) : List Byte :=
  let m := s.mtile t
  let l := m.line (off / m.rowBytes)
  if l.written then s.readBank t (l.slot * m.rowBytes + off % m.rowBytes) n else List.replicate n 0

/-- Write bytes at a logical offset within one speculative row (R109). -/
def State.writeLine (s : State) (t : TileId) (off : Nat) (bs : List Byte) : State :=
  let m := s.mtile t
  let r := off / m.rowBytes
  let l := m.line r
  let lines := if m.lines.length ≤ r then freshLines (m.win + m.spec) else m.lines
  let s := s.setMtile t { m with lines := setNth lines r { l with written := true } }
  s.writeBank t (l.slot * m.rowBytes + off % m.rowBytes) bs

/-- The number of leading elements that meet a test. -/
def leading {α : Type} (p : α → Bool) (l : List α) : Nat := (l.takeWhile p).length

/-- COMMIT of C rows: the count c, and the rows in their new logical order: the window moves on by c rows, so that a c
above WIN retires speculative rows too (R109, log 48). -/
def commitRows (win spec : Nat) (lines : List Line) (c : Nat) : Nat × List Line :=
  let committed := lines.take win
  let specs := (lines.drop win).take spec
  let w := leading (·.written) specs
  let u := leading (!·.bad) specs
  let c := min c (min w u)
  let kept := committed ++ specs.take c
  let freed := (kept.take c ++ specs.drop c).map fun l => { l with written := false, bad := false }
  (c, kept.drop c ++ freed)

/- Write-once words. -/

/-- The state of a write-once word in a table; an unlisted word is empty. -/
def wState (l : List (Nat × WState)) (w : Nat) : Option WState := look w l

/-- Answer a deferred reader with the value, under its own tag (R110). -/
def State.answerReader (s : State) (v : Word) (op : Issued) : State := s.replyData op op.niw (.scalar v) op.poisoned

/-- Answer readers in order. -/
def State.answerAll (s : State) (v : Word) : List Issued → State
  | [] => s
  | op :: ops => (s.answerReader v op).answerAll v ops

/-- The readers of a word of a tile that have spilled to Skein tables, and the state without them (R110). -/
def State.takeSpilledReaders (s : State) (t : TileId) (w : Nat) : List Issued × State :=
  let mine (x : Spilled) : Option Issued := match x with
    | .reader t' w' op => if t' = t && w' = w then some op else none
    | .entry _ _ => none
  (s.ctxs.flatMap fun c => c.skein.filterMap mine,
   { s with ctxs := s.ctxs.map fun c => { c with skein := c.skein.filter fun x => (mine x).isNone } })

/-- IRD at a tile: the reply, or a place in the reader list, which spills at 512 readers (R110). -/
def State.tileIrd (s : State) (op : Issued) (n : Niw) (t : TileId) (w : Nat) : State :=
  let m := s.mtile t
  if wState m.wstate w = some .full then s.replyData op n (.scalar (word (ofBytes (s.readBank t (8 * w) 8)))) op.poisoned
  else
    let m := { m with wstate := put w .deferred m.wstate }
    if m.readers.length < 512 then s.setMtile t { m with readers := m.readers ++ [(w, op)] }
    else
      let s := s.setMtile t m
      match s.ctx? op.ctx with
      | some c =>
        if c.skeinRoom then s.mapCtx c.launch fun c => { c with skein := c.skein ++ [.reader t w op] }
        else s.takeFault ⟨0x083, .tile t, op.ctx, op.tag, word w, 0, false, false⟩
      | none => s

/-- IWR at a tile; false is 0x104 (R110). -/
def State.tileIwr (s : State) (t : TileId) (w : Nat) (v : Word) : Bool × State :=
  let m := s.mtile t
  if wState m.wstate w = some .full then (false, s)
  else
    let mine := (m.readers.filter (·.1 = w)).map (·.2)
    let s := s.setMtile t { m with wstate := put w .full m.wstate, readers := m.readers.filter (·.1 ≠ w) }
    let s := s.writeBank t (8 * w) (bytesOf 8 v.toNat)
    let (more, s) := s.takeSpilledReaders t w
    (true, s.answerAll v (mine ++ more))

/-- IRST at a tile (R110). -/
def State.tileIrst (s : State) (t : TileId) (w : Nat) : State :=
  let m := s.mtile t
  if wState m.wstate w = some .full then
    (s.setMtile t { m with wstate := erase w m.wstate }).writeBank t (8 * w) (bytesOf 8 0)
  else s

/-- IRD of a word of main memory at its controller (R110, R282). DESIGN CHOICE: the spec says that words of main memory behave
in the same way as a tile's; the controller's reader list has no limit here and never spills (log 84). -/
def State.mainIrd (s : State) (op : Issued) (n : Niw) (pa : Nat) : State :=
  if wState s.main.wstate pa = some .full then s.replyData op n (.scalar (s.wordAt pa)) op.poisoned
  else { s with main := { s.main with wstate := put pa .deferred s.main.wstate,
                                      readers := s.main.readers ++ [(pa, op)] } }

/-- An IRD of a block that finds the word empty after the overlay of the block's own requests is deferred; a word that is
full until a held IRST empties it keeps its state and takes the reader all the same (R110, R283). -/
def State.deferMain (s : State) (op : Issued) (n : Niw) (pa : Nat) : State :=
  if wState s.main.wstate pa = some .full then { s with main := { s.main with readers := s.main.readers ++ [(pa, op)] } }
  else s.mainIrd op n pa

/-- IWR of a word of main memory; false is 0x104 (R110, R282). -/
def State.mainIwr (s : State) (pa : Nat) (v : Word) : Bool × State :=
  if wState s.main.wstate pa = some .full then (false, s)
  else
    let mine := (s.main.readers.filter (·.1 = pa)).map (·.2)
    let s := { s with main := { s.main with wstate := put pa .full s.main.wstate,
                                            readers := s.main.readers.filter (·.1 ≠ pa) } }
    (true, (s.writeMain pa (bytesOf 8 v.toNat)).answerAll v mine)

/-- IRST of a word of main memory; a word that readers wait for is then deferred (R110, R282, R283). -/
def State.mainIrst (s : State) (pa : Nat) : State :=
  if wState s.main.wstate pa = some .full then
    let l := erase pa s.main.wstate
    let l := if s.main.readers.any (·.1 = pa) then put pa .deferred l else l
    { s with main := { s.main with wstate := l } }.writeMain pa (bytesOf 8 0)
  else s

/- Address generators. -/

/-- Word `k` of generator g's descriptor (R63). -/
def MTile.genWord (m : MTile) (g k : Nat) : Nat :=
  match m.active with
  | some p => (nth 0 (nth [] p.gens g) k).toNat
  | none => 0

/-- EN of a descriptor's words (R63). -/
def descEn (d : List Word) : Bool := (nth 0 d 1).toNat.testBit 40
/-- DIR. -/
def descOut (d : List Word) : Bool := (nth 0 d 1).toNat.testBit 41
/-- SPACE. -/
def descSpace (d : List Word) : Nat := bits (nth 0 d 1).toNat 42 2
/-- Bytes of an element. -/
def descElem (d : List Word) : Nat := 2 ^ bits (nth 0 d 1).toNat 44 4
/-- The four counts. -/
def descCounts (d : List Word) : List Nat := (List.range 4).map fun k => bits (nth 0 d 4).toNat (16 * k) 16
/-- The four strides. -/
def descStrides (d : List Word) : List Int :=
  (List.range 4).map fun k => signedOf 32 (bits (nth 0 d (2 + k / 2)).toNat (32 * (k % 2)) 32)
/-- The position counters of a new image. -/
def descPos (d : List Word) : List Nat := (List.range 4).map fun k => bits (nth 0 d 5).toNat (16 * k) 16
/-- Σ POSk·STRIDEk (R65). -/
def genOffset (d : List Word) (pos : List Nat) : Int :=
  ((List.range 4).map fun k => Int.ofNat (nth 0 pos k) * nth 0 (descStrides d) k).foldl (· + ·) 0

/-- The positions after an element: dimension 0 first, carrying; none after the last element (R65). -/
def posNext : List Nat → List Nat → Option (List Nat)
  | p :: ps, c :: cs =>
    if p + 1 < c then some ((p + 1) :: ps) else (posNext ps cs).map fun r => 0 :: r
  | _, _ => none

/-- A generator's descriptor in the active plane. -/
def MTile.desc (m : MTile) (g : Nat) : List Word :=
  match m.active with
  | some p => nth [] p.gens g
  | none => []

/-- The physical address of a virtual address through a generator's patched pages (R121). -/
def genPhys (frames : List (Nat × Nat × Nat)) (va : Nat) : Option Nat :=
  (frames.find? fun f => f.1 ≤ va && va < f.1 + f.2.1).map fun f => f.2.2 + (va - f.1)

/-- No generator reaches the storage of an SACC, CODE or SINK tile: only the six instructions, the loader and block
fetcher, and pre-emption and SNAP do (R107, R158). -/
def MTile.closed (m : MTile) : Bool :=
  match m.mode? with
  | some k => 4 ≤ k
  | none => true

/-- A tile has the next element for a generator that moves out of it (R107). -/
def MTile.canGive (m : MTile) : Bool := !m.asleep && !m.closed && (m.mode? ≠ some 1 || m.fifo ≠ [])

/-- A tile has room for the next element of a generator that moves into it (R107, R108). -/
def MTile.canTake (m : MTile) : Bool :=
  !m.asleep && !m.closed && match m.mode? with
  | some 0 => !m.isFull m.fill
  | some 1 => m.fifoRoom
  | _ => true

/-- The tile gives an element: a FIFO pops, any other mode reads its banks (R107, log 22). -/
def State.tileGive (s : State) (t : TileId) (a n : Nat) : List Byte × State :=
  let m := s.mtile t
  if m.mode? = some 1 then (sizedTo n (nth [] m.fifo 0), s.fifoPop t) else (s.readBank t a n, s)

/-- The tile takes an element: an operand store fills its buffer from byte `seq`, a FIFO appends, any other mode writes
its banks (R107, R108, log 22). -/
def State.tileTake (s : State) (t : TileId) (a seq : Nat) (tag : Word) (bs : List Byte) : State :=
  let m := s.mtile t
  match m.mode? with
  | some 0 => s.fillBuffer t tag [(seq % m.depth, bs)]
  | some 1 => s.fifoPush t bs
  | _ => s.writeBank t a bs

/-- The far tile of a circuit word: the tiles along its hops (R64). -/
def circuitEnd (t : TileId) (hops : Nat) : Nat → Option TileId
  | 0 => some t
  | k + 1 => (neighbour t (bits hops 0 2)).bind fun u => circuitEnd u (hops / 4) k

/-- The far tile of a circuit. -/
def circuitFar (t : TileId) (w : Nat) : Option TileId := circuitEnd t (bits w 0 16) (bits w 16 3 + 1)

/-- Advance a generator's positions after an element; none left is the empty list (R65). -/
def State.advanceGen (s : State) (t : TileId) (g : Nat) : State :=
  let m := s.mtile t
  let x := m.gen g
  let pos := match posNext x.pos (descCounts (m.desc g)) with | some p => p | none => []
  s.setMtile t (m.setGen g { x with pos := pos, moved := x.moved + 1 })

/-- The bytes of an element in main memory by its patched pages, byte by byte. -/
def physList (frames : List (Nat × Nat × Nat)) (va n : Nat) : Option (List Nat) :=
  (List.range n).mapM fun i => genPhys frames (va + i)

/-- The next element of a circuit enters its channel, where the source can give it: the tile itself with DIR 1, the far
tile's generator PEER with DIR 0 (R64, R107). -/
def State.circuitIn (s : State) (t far : TileId) (g : Nat) : State :=
  let m := s.mtile t
  let x := m.gen g
  let d := m.desc g
  let n := descElem d
  let put' (s : State) (bs : List Byte) : State :=
    let m := s.mtile t
    s.setMtile t (m.setGen g { m.gen g with chan := [(x.pos, x.moved, bs)] })
  if descOut d then
    if !m.canGive then s
    else let (bs, s) := s.tileGive t (genOffset d x.pos).toNat n; put' (s.advanceGen t g) bs
  else
    let peer := bits (nth 0 d 0).toNat 25 2
    let fm := s.mtile far
    let fd := fm.desc peer
    if !fm.canGive then s
    else
      let (bs, s) := s.tileGive far (((nth 0 fd 0).toNat : Int) + genOffset fd (fm.gen peer).pos).toNat n
      put' (s.advanceGen far peer) bs

/-- The word in a circuit's channel reaches its other end, where that can take it: a token for a far compute tile, an element
of the far tile's generator PEER, or one of the tile itself (R64, R107). -/
def State.circuitOut (s : State) (t far : TileId) (g : Nat) (op : Issued) (idx : Nat) (bs : List Byte) : State :=
  let m := s.mtile t
  let d := m.desc g
  let base := (nth 0 d 0).toNat
  let seq := idx * descElem d
  let gone (s : State) : State := let m := s.mtile t; s.setMtile t (m.setGen g { m.gen g with chan := [] })
  if base.testBit 24 then
    let ws := match (s.ctile far).active with | some p => fullWidths p.widths | none => fullWidths []
    gone (match pushField ws op.tag idx with
      | none => s.takeFault ⟨0x081, .tile t, op.ctx, op.tag, 0, 0, false, false⟩
      | some tag => s.deliver ⟨far, bits base 27 9, .a, Tok.scalar tag (word (ofBytes bs)) true op.poisoned, false⟩)
  else if descOut d then
    let peer := bits base 25 2
    let fm := s.mtile far
    let fd := fm.desc peer
    if !fm.canTake then s
    else gone ((s.tileTake far (((nth 0 fd 0).toNat : Int) + genOffset fd (fm.gen peer).pos).toNat seq op.tag bs).advanceGen
      far peer)
  else if !m.canTake then s
  else gone ((s.tileTake t (genOffset d (m.gen g).pos).toNat seq op.tag bs).advanceGen t g)

/-- A generator stops before an access that fails: its completion carries the cause (R119, R127). -/
def State.stopGen (s : State) (t : TileId) (g cause va : Nat) : State :=
  let m := s.mtile t
  let x := m.gen g
  match x.run with
  | none => s
  | some op =>
    (s.setMtile t (m.setGen g { x with run := some { op with walk := some (cause, va) } })).takeFault
      ⟨cause, .tile t, op.ctx, op.tag, word va, 0, false, false⟩

/-- Move the next element of a running generator, if both sides can (R64, R65, R106, R107, R121). An element of main memory off
its natural alignment raises 0x102 (R119, log 85). An element of a circuit enters its channel in one move and leaves it in
another (log 73). DESIGN CHOICE: the spec gives the elements no place in a LINE or WONCE tile, nor those that leave an operand
store; the model runs through the banks from byte 0 in element order (logs 22 and 84). -/
def State.moveElement (s : State) (t : TileId) (g : Nat) : State :=
  let m := s.mtile t
  let x := m.gen g
  let d := m.desc g
  let n := descElem d
  match x.run with
  | none => s
  | some op =>
    if x.paused || op.walk.isSome || (x.pos = [] && x.chan = []) || s.frozenAt op.ctx (.tile t) then s
    else
      let off := genOffset d x.pos
      let base := (nth 0 d 0).toNat
      let seq := x.moved * n
      match descSpace d with
      | 0 =>
        let a := ((base : Int) + off).toNat
        if descOut d then
          if !m.canGive then s
          else let (bs, s) := s.tileGive t seq n; (s.writeBank t a bs).advanceGen t g
        else if !m.canTake then s
        else (s.tileTake t seq seq op.tag (s.readBank t a n)).advanceGen t g
      | 1 =>
        let va := ((base : Int) + off).toNat
        if va % n ≠ 0 then s.stopGen t g 0x102 va
        else match physList x.frames va n with
        | none => s
        | some ps =>
          if descOut d then
            if !m.canGive then s
            else
              let (bs, s) := s.tileGive t seq n
              (s.writeList (ps.zip (bs.map fun b => [b]))).advanceGen t g
          else if !m.canTake then s
          else (s.tileTake t seq seq op.tag (ps.map s.byteAt)).advanceGen t g
      | _ =>
        match circuitFar t base with
        | none => s
        | some far =>
          match x.chan with
          | e :: _ => s.circuitOut t far g op e.2.1 e.2.2
          | [] => s.circuitIn t far g

end Sys2Proof.Machine
end

