-- ==== Sys2Proof/Machine/Access.lean ====
section
/-!
DEFINITION. What the memory instructions share: faults of an access (R127, R242), the region store buffer (R39, R129),
the counts and held stores of a block (R44, R45, R130), and the performance of each store at its home.
-/

namespace Sys2Proof.Machine

/-- An access that has performed `count` elements faults at a place: in fabric mode the record and the completion word with
NOEF and the cause; in block mode the block stops, or, once released, only the record is made (R45, R127). -/
def State.partFault (s : State) (op : Issued) (n : Niw) (count : Nat) (place : Place) (scope : Scope) (cause : Nat)
    (addr detail : Word) : State :=
  match op.site with
  | .tile _ =>
    (s.takeFault ⟨cause, place, op.ctx, op.tag, addr, detail, false, false⟩).complete op n count scope true cause
  | .block _ _ _ => if op.released then s.opRecord op cause addr detail else s.opFault op cause addr detail

/-- A single access faults at a place (R127). -/
def State.memFault (s : State) (op : Issued) (n : Niw) (place : Place) (scope : Scope) (cause : Nat)
    (addr detail : Word) : State :=
  s.partFault op n 1 place scope cause addr detail

/-- A page-table walk is to answer a miss; the operation waits at its region's port (R122). -/
def State.awaitWalk (s : State) (op : Issued) (va : Nat) : State :=
  let r := siteRegion op.site
  let g := s.region r
  s.setRegion r { g with walks := g.walks ++ [(op, va)] }

/-- Go on with the translated pieces, or fault with `count` elements performed, or wait for the walk. -/
def State.withParts {α : Type} (s : State) (op : Issued) (n : Niw) (count : Nat) (r : Res α) (k : α → State) : State :=
  match r with
  | .ok a => k a
  | .fault c a d => s.partFault op n count op.place .whole c a d
  | .miss va => s.awaitWalk op va

/-- Go on with the translated pieces of a single access. -/
def State.withPieces {α : Type} (s : State) (op : Issued) (n : Niw) (r : Res α) (k : α → State) : State :=
  s.withParts op n 1 r k

/-- The channel controller that owns a physical address: its granule's channel in tier 1, the port of its granule in
tier 2, numbered from 96 (R112). -/
def channelOf (pa : Nat) : Nat := if inTier1 pa then pa / 256 % 96 else 96 + pa / 4096 % 4

/-- The bank of a tier 1 address within its channel (R112). -/
def bankOf (pa : Nat) : Nat := pa / 256 / 96 % 16

/-- The Carder's lane, 0 to 767, of a tier 1 element within its channel's die (R114). -/
def laneOf (pa : Nat) : Nat := channelOf pa % 48 * 16 + bankOf pa

/- The die bridge. -/

/-- The bridge's Carder lane of an element: one for each bank lane of the receiving die. The 1,024 lanes are numbered in the
order of R184's table (R184, log 75). -/
def carderLane (pa : Nat) : Nat := 24 + laneOf pa

/-- The bridge's memory-port lane of a request: of the four of its channel controller the one that the region's number gives
(R184, log 75). -/
def portLane (op : Issued) (pa : Nat) : Nat := 792 + 4 * (channelOf pa % 48) + siteRegion op.site % 4

/-- A request from an operation's die to a tier 1 address of the other die crosses a failed lane (R184). -/
def State.laneDown (s : State) (op : Issued) (lane pa : Nat) : Bool :=
  let d := dieOf (channelOf pa / 48)
  inTier1 pa && d ≠ dieOf (siteRegion op.site / 21) && s.failed.contains (d, lane)

/-- The bridge loses a request: 0x2C0 is recorded, and the operation never ends (R180, R184, log 75). -/
def State.bridgeLoss (s : State) (op : Issued) : State :=
  s.takeFault ⟨0x2C0, .bridge (dieOf (siteRegion op.site / 21)), 0, 0, 0, 0, false, false⟩

/-- The reply from a tier 1 address of the other die crosses a failed lane, that of the same number toward the operation's die
(R111, R184, log 75). -/
def State.replyDown (s : State) (op : Issued) (pa : Nat) : Bool :=
  let d := dieOf (siteRegion op.site / 21)
  inTier1 pa && dieOf (channelOf pa / 48) ≠ d && s.failed.contains (d, portLane op pa)

/-- An operation whose reply the bridge loses: what it replies has no taker, and no chain counts it (R129, R184). -/
def Issued.unheard (op : Issued) : Issued :=
  { op with word := Machine.word (op.word.toNat / 2 ^ 36 * 2 ^ 36), member := some 65536, away := none }

/-- A request of a region's memory port, and its reply, cross the bridge where its channel stands on the other die: a request
that is lost has no effect, and of one whose reply is lost the effect stays (R111, R184, log 75). -/
def State.overPort (s : State) (op : Issued) (n : Niw) (pas : List Nat) (k : Issued → Niw → State → State) : State :=
  if pas.any fun pa => s.laneDown op (portLane op pa) pa then s.bridgeLoss op
  else if pas.any (s.replyDown op) then
    let side : Die := if dieOf (siteRegion op.site / 21) = .w then .e else .w
    (k op.unheard { n with t0 := none, t1 := none, t2 := none } s).takeFault ⟨0x2C0, .bridge side, 0, 0, 0, 0, false, false⟩
  else k op n s

/-- An element of a Carder operation that the bridge loses (R114, R184). -/
def State.elemLost (s : State) (op : Issued) (l : Nat × List (Nat × Nat)) : Bool :=
  l.2.any fun p => s.laneDown op (carderLane p.1) p.1

/-- A Carder operation whose elements have been performed goes on, unless the bridge has lost some of them (R184). -/
def State.overCarder (s : State) (op : Issued) (ls : List (Nat × List (Nat × Nat))) (k : State → State) : State :=
  match ls.filter (s.elemLost op) with
  | [] => k s
  | lost => lost.foldl (fun s _ => s.bridgeLoss op) s

/-- The address in slot a as a record names it; zero where a vector stands there (R239, R324). -/
def Issued.address (op : Issued) : Word := if op.ta.isVec then 0 else op.ta.word

/- The region store buffer. -/

/-- OWN, PRIOR and STRAND of a wave sequence word (R55). -/
def waveOwn (w : Word) : Nat := bits w.toNat 8 8
/-- PRIOR. -/
def wavePrior (w : Word) : Nat := bits w.toNat 16 8
/-- STRAND. -/
def waveStrand (w : Word) : Nat := bits w.toNat 0 8

/-- A fabric memory instruction (R52, R105). -/
def isMemOpc (o : Nat) : Bool := 0x70 ≤ o && o ≤ 0x86

/-- A store of R39 and R57. -/
def isStoreOpc (o : Nat) : Bool :=
  o = 0x71 || o = 0x73 || o = 0x75 || o = 0x77 || o = 0x78 || o = 0x7A || (0x80 ≤ o && o ≤ 0x86)

/-- The wave-chain predecessors of a member are done under its tag (R129). -/
def State.chainReady (s : State) (op : Issued) (t : TileId) : Bool :=
  let w := op.konst.getD 0xFFFFFF
  if waveOwn w = 255 then true
  else
    match (s.ctile t).active with
    | none => true
    | some p =>
      let bound := if wavePrior w = 255 then waveOwn w else wavePrior w + 1
      let (base, count) := (p.template? op.node).getD (op.node, 1)
      let done := (s.region (regionOf t)).done
      (List.range count).all fun i =>
        match p.node? (base + i) with
        | none => true
        | some x =>
          match (if isMemOpc x.1 then p.konst? x.2 else none) with
          | none => true
          | some v => !(waveStrand v = waveStrand w && waveOwn v ≠ 255 && waveOwn v < bound)
              || ((t, base + i), op.tag) ∈ done

/-- Every loop instance that an operation's tag lies in has continued through all its earlier iterations (R39, R143). -/
def State.loopsReady (s : State) (op : Issued) : Bool :=
  let ws := s.widths op
  match s.ctx? op.ctx with
  | none => true
  | some c => (c.seen op.site).loops.all fun r =>
      match iterationOf ws r.tag op.tag with
      | none => true
      | some i => (List.range i).all (· ∈ r.cont)

/-- The region store buffer performs the member (R39, R129). -/
def State.mayPerform (s : State) (op : Issued) (store : Bool) : Bool :=
  match op.site with
  | .tile t => s.chainReady op t && (!store || s.loopsReady op)
  | .block _ _ _ => true

/-- An operation's tag lies above a kill mark (R38). -/
def State.isKilled (s : State) (op : Issued) : Bool :=
  (s.ctx? op.ctx).any fun c => killed (s.widths op) (c.seen op.site) op.tag

/-- Perform a member, or hold it in the region store buffer; one above a kill mark is freed there at once (R39, R129). -/
def State.chained (s : State) (op : Issued) (store : Bool) (k : State → State) : State :=
  if s.mayPerform op store then k s
  else if s.isKilled op then s
  else
    let r := siteRegion op.site
    let g := s.region r
    s.setRegion r { g with storeBuf := g.storeBuf ++ [op] }

/- Blocks. -/

/-- The LSID of a block's memory instruction (R57). -/
def lsidOf (n : Niw) : Nat := bits n.imm.toNat 0 5

/-- Every store of a lower LSID has been counted (R44, R130). -/
def State.lowerDone (s : State) (op : Issued) (n : Niw) : Bool :=
  match op.site with
  | .tile _ => true
  | .block r bc _ =>
    match s.block? r bc with
    | none => true
    | some b => (List.range (lsidOf n)).all fun k => !b.sm.testBit k || b.doneS.testBit k

/-- Count an LSID of SM, with the store that is held until commit, if any; 0x343 for a second count (R45). -/
def State.countStore (s : State) (op : Issued) (n : Niw) (held : Option Issued) : State :=
  match op.site with
  | .tile _ => s
  | .block r bc _ =>
    match s.block? r bc with
    | none => s
    | some b =>
      let k := lsidOf n
      if !b.sm.testBit k || b.doneS.testBit k then s.opFault op 0x343 0 0
      else s.mapBlock r bc fun b =>
        { b with doneS := b.doneS + 2 ^ k
                 stores := b.stores ++ held.toList.map fun o => ⟨k, { o with released := true }⟩ }

/-- A block's store with no effect: its LSID is counted (R44, R82). -/
def State.countNulled (s : State) (op : Issued) (n : Niw) : State := s.countStore op n none

/-- The firing of a load: a bubble of a fabric member is done in its chain (R129). -/
def fireLoad (n : Niw) (s : State) (body : Issued → State → State) : Out :=
  fireRaw s fun op s =>
    match firing n.prd op with
    | .consumed => s
    | .null => (s.touch op).nulls op n
    | .bubble => ((s.touch op).bubble op n).markDone op
    | .run => body op (s.touch op)

/-- The firing of a store: in block mode a null and a bubble count the LSID with no effect (R44, R82). -/
def fireStore (n : Niw) (s : State) (body : Issued → State → State) : Out :=
  fireRaw s fun op s =>
    match op.site, firing n.prd op with
    | _, .consumed => s
    | .block _ _ _, .null | .block _ _ _, .bubble => (s.touch op).countNulled op n
    | .tile _, .bubble => (s.bubble op n).markDone op
    | _, _ => body op (s.touch op)

/-- An access that has no effect: in fabric mode its completion with NOEF, in block mode its LSID is counted (R127). -/
def State.noEffect (s : State) (op : Issued) (n : Niw) (scope : Scope) (count cause : Nat) : State :=
  match op.site with
  | .tile _ => s.complete op n count scope true cause
  | .block _ _ _ => s.countNulled op n

/-- The tests that every sink makes first: predicate 0, then poison, which is recorded (R34, R101, log 21). -/
def State.sink (s : State) (op : Issued) (n : Niw) (scope : Scope) (count : Nat) (k : State → State) : State :=
  if !op.allTrue || op.anyNull then s.noEffect op n scope count 0
  else if op.poisoned then (s.opRecord op 0x0C1 0 0).noEffect op n scope count 0x0C1
  else k s

/-- The scope of an operation's home: its memory tile or main memory (R128). -/
def State.homeScope (s : State) (op : Issued) (n : Niw) : Scope :=
  match s.homeTile op n with
  | some _ => .tile
  | none => .whole

/-- A refusal by a memory tile (R107). -/
def State.tileFault (s : State) (op : Issued) (n : Niw) (t : TileId) (cause : Nat) (addr : Word) : State :=
  s.memFault op n (.tile t) .tile cause addr 0

/-- A fabric memory instruction goes to its home: the memory tile that TGT0 names, or main memory. Its request travels on
TGT0's channel, where slot a's token starts the generator of channels 12 to 15 and is a command on channel 11 of a LINE
tile (R105, R106, R109, log 66). -/
def State.toHome (s : State) (op : Issued) (n : Niw) (tile : State → TileId → State) (main : State → State) : State :=
  match s.homeTile op n with
  | none => main s
  | some (t, ch) =>
    if 12 ≤ ch ∨ (ch = 11 ∧ (s.mtile t).mode? = some 2) then s.toMemTile { op with member := some op.node } t ch op.ta
    else tile s t

/- Performance at main memory. -/

/-- The low w/8 bytes of a store's value (R324). -/
def storeBytes (n : Niw) (v : Word) : List Byte := bytesOf (n.fmt.width / 8) v.toNat

/-- The physical pieces of a released operation: its pages are walked (R130). -/
def State.walked (s : State) (op : Issued) (need : Need) (va len : Nat) : Res (List (Nat × Nat)) :=
  let root := match s.ctx? op.ctx with | some c => c.root | none => 0
  s.walkPieces root need (piecesOf va len)

/-- Send the bytes of a HOUT to its endpoint's node (R190, R280). -/
def State.sendEpdata (s : State) (c ep op' pos rid : Nat) (node : Nat) (len : Nat) (data : List Byte) : State :=
  s.sendMsg node 5 (bytesOf 2 c ++ bytesOf 1 ep ++ bytesOf 1 op' ++ bytesOf 4 len ++ bytesOf 8 pos ++ bytesOf 8 rid
    ++ bytesOf 8 0 ++ data)

/-- The endpoint of a context. -/
def Ctx.endpoint? (c : Ctx) (ep : Nat) : Option Endpoint := look ep c.endpoints

/-- Move an endpoint's position. -/
def State.moveEndpoint (s : State) (num ep k : Nat) : State :=
  s.mapNum num fun c =>
    { c with endpoints := c.endpoints.map fun e => if e.1 = ep then (ep, { e.2 with pos := e.2.pos + k }) else e }

/-- The cause that turns an endpoint transfer away: no such endpoint, no range, the extent, or a range of another
module without feature bit 2 (R116, R191). -/
def State.endpointCause (s : State) (c : Ctx) (ep offset len : Nat) : Option Nat :=
  match (if 63 < ep then none else c.endpoint? ep) with
  | none => some 0x105
  | some e =>
    if e.ext < e.pos + offset + len then some 0x105
    else if e.node < 4096 && !s.hasFeature 2 then some 0x303
    else none

/-- A HOUT sends its bytes at the position and waits for the acknowledgement (R190, R280). -/
def State.sendHout (s : State) (op : Issued) (c : Ctx) (ep : Nat) (bs : List Byte) : State :=
  match c.endpoint? ep with
  | none => s
  | some e =>
    let rid := s.rid
    let s := { s with rid := (rid + 1) % 2 ^ 64 }
    let s := s.sendEpdata c.num ep 2 e.pos rid e.node bs.length bs
    (s.moveEndpoint c.num ep bs.length).hold op (.transfer rid [] 1)

/-- The bytes that a HOUT writes (R280). -/
def houtBytes (n : Niw) (v : Value) : List Byte :=
  if n.imm.getLsbD 7 then
    (List.range 16).flatMap fun j => bytesOf 8 ((laneAt v j).getD 0)
  else match v with
    | .scalar w => storeBytes n w
    | .vector _ _ => []

end Sys2Proof.Machine
end

