-- ==== Sys2Proof/Machine/Reduce.lean ====
section
/-!
DEFINITION. Reductions into a memory word at a combine store or an operand store (R103, R107, R307).
-/

namespace Sys2Proof.Machine

/-- The order in which a Carder's element requests are sorted: by die and lane, tier 2 by port after them (R114). -/
def carderKey (pa : Nat) : Nat :=
  if inTier1 pa then 768 * (channelOf pa / 48) + laneOf pa else 1536 + channelOf pa

/-- Elements with their pieces as the Carder sorts them; elements of one lane keep the order of their numbers (R114). -/
def byLane (ls : List (Nat × List (Nat × Nat))) : List (Nat × List (Nat × Nat)) :=
  let key (l : Nat × List (Nat × Nat)) : Nat := match l.2 with
    | p :: _ => carderKey p.1
    | [] => 0
  sortBy (fun x y => key x < key y) ls

/-- The key address of a word of an operand store: no virtual address has this form (R119). -/
def tileKey (t : TileId) (off : Nat) : Word := word (2 ^ 63 + tileSrc t * 2 ^ 20 + off)

/-- A key of an operand store's word. -/
def isTileKey (key : Word) : Bool := 2 ^ 63 ≤ key.toNat && key.toNat < 2 ^ 63 + 2 ^ 62

/-- FMT and op of a reduction as one word. -/
def redKind (n : Niw) : Word := word (n.fmt.code + 16 * bits n.imm.toNat 5 2)

/-- A reduction of a key is open, or its combine store has a free entry of 4,096 (R307). -/
def State.redRoom (s : State) (ctx : Nat) (key : Word) (pa : Nat) (tile : Option TileId) : Bool :=
  s.reds.any (fun r => r.ctx = ctx && r.va = key) || tile.isSome
    || (s.reds.filter fun r => !isTileKey r.va && channelOf r.pa = channelOf pa).length < 4096

/-- Bytes of the reduced element: 4 for F32, else 8 (R307). -/
def redBytes (n : Niw) : Nat := if n.fmt = .f32 then 4 else 8

/-- The element that stands at the home. -/
def State.redOld (s : State) (n : Niw) (pa : Nat) (tile : Option TileId) : Nat :=
  match tile with
  | none => ofBytes (s.readMain pa (redBytes n))
  | some t => let m := s.mtile t; ofBytes (s.readBank t (m.fill * m.depth + pa) (redBytes n))

/-- Write the element at the home. -/
def State.redWrite (s : State) (n : Niw) (pa : Nat) (tile : Option TileId) (tag : Word) (v : Nat) : State :=
  let bs := bytesOf (redBytes n) v
  match tile with
  | none => s.writeMain pa bs
  | some t => s.fillBuffer t tag [(pa, bs)]

/-- The root of a reduction over its leaves in index order (R103, R307). -/
def redRoot (n : Niw) (r : Reduction) : Option Nat :=
  treeRoot n.fmt r.rnd (bits n.imm.toNat 5 2) ((List.range r.n).map fun i =>
    (r.leaves.find? (·.index = i)).bind fun l => l.val.map (·.toNat))

/-- Emit every leaf's completion (R307). -/
def State.redComplete (s : State) (scope : Scope) (poisoned : Bool) : List RedLeaf → State
  | [] => s
  | l :: ls =>
    let noef := poisoned || l.val.isNone
    let cause := if l.cause ≠ 0 then l.cause else if poisoned then 0x0C1 else 0
    (s.reply l.op l.op.niw (.scalar (completion 1 scope noef cause)) l.op.poisoned).redComplete
      scope poisoned ls

/-- All leaves are counted: the one write to memory, by the FMT and op of the leaf that opened the reduction, and the
completions (R307). -/
def State.redFinish (s : State) (op : Issued) (n : Niw) (r : Reduction) (tile : Option TileId) : State :=
  let n := match r.leaves.getLast? with | some l => l.op.niw | none => n
  let s := { s with reds := s.reds.filter fun x => !(x.ctx = r.ctx && x.va = r.va) }
  let place : Place := match tile with | some t => .tile t | none => .channel (channelOf r.pa)
  let scope : Scope := match tile with | some _ => .tile | none => .whole
  let s :=
    if r.psn then s.takeFault ⟨0x0C1, place, op.ctx, op.tag, r.va, 0, false, false⟩
    else match redRoot n r with
      | none => s
      | some v => s.redWrite n r.pa tile op.tag
          (combine n.fmt r.rnd (bits n.imm.toNat 5 2) (s.redOld n r.pa tile) v)
  s.redComplete scope r.psn (sortBy (fun (a b : RedLeaf) => a.index < b.index) r.leaves)

/-- One leaf reaches the combine store (R307, log 27). -/
def State.redLeaf (s : State) (op : Issued) (n : Niw) (key : Word) (pa : Nat) (tile : Option TileId)
    (addr : Word) : State :=
  let lw := op.tc.word.toNat
  let count := bits lw 0 20
  let i := bits lw 32 20
  let rnd := op.mode.resolve n.rnd
  let old := s.reds.find? fun r => r.ctx = op.ctx && r.va = key
  let r : Reduction := old.getD ⟨op.ctx, key, pa, count, redKind n, rnd, [], false⟩
  let place : Place := match tile with | some t => .tile t | none => .channel (channelOf pa)
  let scope : Scope := match tile with | some _ => .tile | none => .whole
  if !s.redRoom op.ctx key pa tile then s.hold op (.reduction key pa)
  else if r.leaves.any (·.index = i) || count ≠ r.n then s.memFault op n place scope 0x180 addr 0
  else
    let v := op.tb.word.toNat % 2 ^ n.fmt.width
    let cause :=
      if r.word ≠ redKind n ∨ r.rnd ≠ rnd then 0x180
      else if abandonedElem n.fmt v then 0x0C0
      else if op.mode.ntrp && isNaR n.fmt v then 0x0C3
      else 0
    let s := if cause ≠ 0 then s.takeFault ⟨cause, place, op.ctx, op.tag, addr, 0, false, false⟩ else s
    let absent := cause ≠ 0 || !op.allTrue || op.anyNull
    let leaf : RedLeaf := ⟨i, if absent then none else some (word v), op, cause⟩
    let r : Reduction := { r with leaves := leaf :: r.leaves, psn := r.psn || (!absent && op.poisoned), pa := pa }
    if r.leaves.length < r.n then
      { s with reds := if old.isSome then s.reds.map fun x => if x.ctx = r.ctx && x.va = key then r else x
                       else s.reds ++ [r] }
    else s.redFinish op n r tile

/-- The leaf word is within its limits (R307). -/
def leafWordOk (w : Word) : Bool :=
  let v := w.toNat
  let n := bits v 0 20
  bits v 20 12 = 0 && bits v 52 12 = 0 && n ≠ 0 && bits v 32 20 < n

end Sys2Proof.Machine
end

