-- ==== Sys2Proof/Machine/MemoryInstr.lean ====
section
/-!
DEFINITION. The memory class, 0x70 to 0x7A: loads and stores (R290, R291, R324), gather and scatter (R277, R317, R318),
write-once words (R282, R283) and host endpoints (R280, R281).
-/

namespace Sys2Proof.Machine

/-- A faulting result names another address, the operand of the instruction. -/
def Res.named {α : Type} (r : Res α) (a : Word) : Res α :=
  match r with
  | .fault c _ d => .fault c a d
  | x => x

/- Performance of a block's held stores. -/

/-- Write a released ST (R45, R324). -/
def State.performSt (s : State) (op : Issued) (n : Niw) : State :=
  match s.walked op .write op.ta.word.toNat (n.fmt.width / 8) with
  | .ok ps => s.overPort op n (ps.map (·.1)) fun _ n s => s.writePieces ps (storeBytes n op.tb.word)
  | .fault c a d => s.opRecord op c a d
  | .miss _ => s

/-- The physical address of a released operation's word. -/
def State.walkedWord (s : State) (op : Issued) (need : Need) (len : Nat) (k : State → Nat → State) : State :=
  match s.walked op need op.ta.word.toNat len with
  | .ok ((pa, _) :: _) => s.overPort op op.niw [pa] fun _ _ s => k s pa
  | .fault c a d => s.opRecord op c a d
  | _ => s

/-- Perform a store, write-once request, reduction leaf or endpoint write that a block's commit or a returning atomic
has released (R45, R130, R281). -/
def State.performHeld (s : State) (op : Issued) : State :=
  match decodeWord false op.word with
  | .ok (.st n) => s.performSt op n
  | .ok (.iwr _) => s.walkedWord op .once 8 fun s pa =>
      let (ok, s) := s.mainIwr pa op.tb.word
      if ok then s else s.opRecord op 0x104 op.ta.word 0
  | .ok (.irst _) => s.walkedWord op .once 8 fun s pa => s.mainIrst pa
  | .ok (.red n) => s.walkedWord op .both (redBytes n) fun s pa => s.redLeaf op n op.ta.word pa none op.ta.word
  | .ok (.hout n) =>
    match s.ctx? op.ctx with
    | none => s
    | some c =>
      let ep := op.ta.word.toNat
      let bs := houtBytes n op.tb.val
      match s.endpointCause c ep 0 bs.length with
      | some x => s.opRecord op x op.ta.word 0
      | none => s.sendHout op c ep bs
  | _ => s

/-- The combine store has no room yet for the leaf of a released RED (R307). -/
def State.mustWait (s : State) (op : Issued) : Bool :=
  match decodeWord false op.word with
  | .ok (.red n) =>
    match s.walked op .both op.ta.word.toNat (redBytes n) with
    | .ok ((pa, _) :: _) => !s.redRoom op.ctx op.ta.word pa none
    | _ => false
  | _ => false

/-- Some leaf among released stores finds no room at its combine store when those before it have been performed (R307). -/
def State.anyMustWait (s : State) : List HeldStore → Bool
  | [] => false
  | h :: hs => s.mustWait h.op || (s.performHeld h.op).anyMustWait hs

/-- Perform released stores in LSID order: behind a leaf that waits for room, every later one waits too (R130). -/
def State.performAll (s : State) : List HeldStore → State
  | [] => s
  | h :: hs =>
    let s' := s.performHeld h.op
    if s.mustWait h.op then hs.foldl (fun s x => s.hold x.op .behind) s' else s'.performAll hs

/-- The bytes of memory that a held store reaches. -/
def heldLen (op : Issued) : Nat :=
  match decodeWord false op.word with
  | .ok (.st n) => n.fmt.width / 8
  | .ok (.iwr _) | .ok (.irst _) => 8
  | .ok (.red n) => redBytes n
  | _ => 0

/-- The first address of held stores whose page is not present: the release waits for it (R122). -/
def State.heldMiss (s : State) (hs : List HeldStore) : Option Nat :=
  hs.findSome? fun h => match s.walked h.op .loader h.op.ta.word.toNat (heldLen h.op) with
    | .miss va => some va
    | _ => none

/-- A store that its block has released and that waited is performed, once its page is present; any other goes on (R45, R122,
R130). -/
def State.ifHeld (s : State) (op : Issued) (k : State → State) : State :=
  if siteIsBlock op.site && op.released then
    match s.heldMiss [⟨lsidOf op.niw, op⟩] with
    | some va => s.awaitWalk op va
    | none => s.performHeld op
  else k s

/-- The held stores of a block below an LSID, in LSID order (R44, R130). -/
def heldBelow (b : Block) (lsid : Nat) : List HeldStore :=
  sortBy (fun (x y : HeldStore) => x.lsid < y.lsid) (b.stores.filter (·.lsid < lsid))

/-- Memory as the block's own stores of lower LSID would leave it (R44, R283). -/
def State.overlay (s : State) (op : Issued) (n : Niw) : State :=
  match op.site with
  | .tile _ => s
  | .block r bc _ =>
    match s.block? r bc with
    | none => s
    | some b => (heldBelow b (lsidOf n)).foldl (fun s h => s.performHeld h.op) s

/-- Release the held stores below an LSID (R130). -/
def State.releaseBelow (s : State) (op : Issued) (lsid : Nat) : State :=
  match op.site with
  | .tile _ => s
  | .block r bc _ =>
    match s.block? r bc with
    | none => s
    | some b =>
      let s := s.mapBlock r bc fun b => { b with stores := b.stores.filter (lsid ≤ ·.lsid) }
      s.performAll (heldBelow b lsid)

/- LD and LDV. -/

/-- The value of an LD: sign-extended for S formats, else zero-extended (R290). -/
def loadValue (n : Niw) (v : Nat) : Word :=
  let e := v % 2 ^ n.fmt.width
  if n.fmt.signed then word (wrapInt 64 (signedOf n.fmt.width e)) else word e

/-- Reply with a scalar or vector of loaded bytes (R105, R290). -/
def State.replyLoad (s : State) (op : Issued) (n : Niw) (v : Value) : State := s.replyData op n v op.poisoned

/-- LD at a memory tile (R107, R109, R290). -/
def State.ldTile (s : State) (op : Issued) (n : Niw) (t : TileId) : State :=
  let m := s.mtile t
  let off := op.ta.word.toNat
  let w := n.fmt.width / 8
  match m.mode? with
  | some 1 =>
    if m.elemBytes ≠ 8 then s.tileFault op n t 0x103 op.ta.word
    else if m.asleep || m.fifo = [] then s.waitAt t op
    else (s.fifoPop t).replyLoad op n (.scalar (loadValue n (ofBytes (nth [] m.fifo 0))))
  | some 2 =>
    if (m.win + m.spec) * m.rowBytes < off + w then s.tileFault op n t 0x101 op.ta.word
    else if off % w ≠ 0 then s.tileFault op n t 0x102 op.ta.word
    else if m.asleep then s.waitAt t op
    else s.replyLoad op n (.scalar (loadValue n (ofBytes (s.readLine t off w))))
  | _ => s.tileFault op n t 0x103 op.ta.word

/-- LD at main memory (R290, R291). -/
def State.ldMain (s : State) (op : Issued) (n : Niw) : State :=
  let w := n.fmt.width / 8
  s.withPieces op n (s.range op .read op.ta.word.toNat w w) fun ps =>
    s.overPort op n (ps.map (·.1)) fun op n s =>
      s.replyLoad op n (.scalar (loadValue n (ofBytes ((s.overlay op n).readPieces ps))))

/-- A load's own checks: a poisoned address, a vector address, the block's stores of lower LSID, the wave chain (R44,
R129, R290). -/
def State.load (s : State) (op : Issued) (n : Niw) (k : State → State) : State :=
  if op.ta.psn then s.complete op n 1 (s.homeScope op n) true 0
  else if op.ta.isVec then s.memFault op n op.place (s.homeScope op n) 0x042 0 0
  else if !s.lowerDone op n then s.hold op .lsid
  else s.chained op false k

/-- LD (R290, R291). -/
def execLd (n : Niw) (s : State) : Out :=
  fireLoad n s fun op s => s.load op n fun s =>
    s.toHome op n (fun s t => s.ldTile op n t) fun s => s.ldMain op n

/-- The lanes that a mask selects. -/
def maskLanes (m : Nat) : List Nat := setBits m 16

/-- Translate the 8-byte words of lanes, in order. -/
def State.lanePieces (s : State) (op : Issued) (need : Need) (a : Nat) : List Nat → Res (List (Nat × List (Nat × Nat)))
  | [] => .ok []
  | j :: js => (s.range op need (a + 8 * j) 8 8).bind fun ps =>
      (s.lanePieces op need a js).bind fun r => .ok ((j, ps) :: r)

/-- The first address check that a vector access fails: the address, then the end of its last lane, then its lanes; other
lanes are not checked (R119, R290, R324). -/
def laneCause (system : Bool) (a : Nat) (js : List Nat) : Option Nat :=
  match js.getLast? with
  | none => none
  | some k =>
    match addrCause system a (8 * k + 8) 8 with
    | some 0x103 | none => js.findSome? fun j => addrCause system (a + 8 * j) 8 8
    | some c => some c

/-- The words of the lanes of a vector access: every address is checked before any page is translated. -/
def State.laneRanges (s : State) (op : Issued) (need : Need) (a : Nat) (js : List Nat) :
    Res (List (Nat × List (Nat × Nat))) :=
  match laneCause (s.isSystem op.ctx) a js with
  | some c => .fault c (word a) 0
  | none => s.lanePieces op need a js

/-- A vector of lanes by number; other lanes are zero. -/
def laneVector (m : Nat) (vs : List (Nat × Word)) : Value :=
  .vector ((List.range 16).map fun j => (look j vs).getD 0) (BitVec.ofNat 16 m)

/-- LDV at a memory tile (R107, R109, R290). -/
def State.ldvTile (s : State) (op : Issued) (n : Niw) (t : TileId) (mask : Nat) : State :=
  let m := s.mtile t
  let off := op.ta.word.toNat
  let js := maskLanes mask
  match m.mode? with
  | some 1 =>
    if 128 < m.elemBytes then s.tileFault op n t 0x103 op.ta.word
    else if m.asleep || m.fifo = [] then s.waitAt t op
    else
      let bs := nth [] m.fifo 0
      (s.fifoPop t).replyLoad op n (laneVector mask (js.map fun j => (j, word (ofBytes ((bs.drop (8 * j)).take 8)))))
  | some 2 =>
    if js.any fun j => (m.win + m.spec) * m.rowBytes < off + 8 * j + 8 then s.tileFault op n t 0x101 op.ta.word
    else if off % 8 ≠ 0 then s.tileFault op n t 0x102 op.ta.word
    else if m.asleep then s.waitAt t op
    else s.replyLoad op n (laneVector mask (js.map fun j => (j, word (ofBytes (s.readLine t (off + 8 * j) 8)))))
  | _ => s.tileFault op n t 0x103 op.ta.word

/-- LDV (R290). -/
def execLdv (n : Niw) (s : State) : Out :=
  fireLoad n s fun op s => s.load op n fun s =>
    if n.ari.toNat = 2 && op.tb.isVec then s.memFault op n op.place (s.homeScope op n) 0x042 op.ta.word 0
    else
      let mask := if n.ari.toNat = 2 then bits op.tb.word.toNat 0 16 else 0xFFFF
      s.toHome op n (fun s t => s.ldvTile op n t mask) fun s =>
        s.withPieces op n ((s.laneRanges op .read op.ta.word.toNat (maskLanes mask)).named op.ta.word) fun ls =>
          s.overPort op n (ls.flatMap fun l => l.2.map (·.1)) fun op n s =>
            s.replyLoad op n (laneVector mask (ls.map fun l => (l.1, word (ofBytes (s.readPieces l.2)))))

/- ST and STV. -/

/-- ST at a memory tile (R107 to R109, R324). -/
def State.stTile (s : State) (op : Issued) (n : Niw) (t : TileId) : State :=
  let m := s.mtile t
  let off := op.ta.word.toNat
  let w := n.fmt.width / 8
  let bs := storeBytes n op.tb.word
  match m.mode? with
  | some 0 =>
    if m.depth < off + w then s.tileFault op n t 0x101 op.ta.word
    else if off % w ≠ 0 then s.tileFault op n t 0x102 op.ta.word
    else if m.asleep || m.isFull m.fill then s.waitAt t op
    else (s.fillBuffer t op.tag [(off, bs)]).complete op n 1 .tile false 0
  | some 1 =>
    if m.elemBytes ≠ 8 then s.tileFault op n t 0x103 op.ta.word
    else if m.asleep || !m.fifoRoom then s.waitAt t op
    else (s.fifoPush t bs).complete op n 1 .tile false 0
  | some 2 =>
    if (m.win + m.spec) * m.rowBytes < off + w then s.tileFault op n t 0x101 op.ta.word
    else if off % w ≠ 0 then s.tileFault op n t 0x102 op.ta.word
    else if off / m.rowBytes < m.win then s.tileFault op n t 0x103 op.ta.word
    else if m.asleep then s.waitAt t op
    else (s.writeLine t off bs).complete op n 1 .tile false 0
  | _ => s.tileFault op n t 0x103 op.ta.word

/-- ST (R324). -/
def execSt (n : Niw) (s : State) : Out :=
  fireStore n s fun op s => s.ifHeld op fun s => s.sink op n (s.homeScope op n) 1 fun s =>
    if op.ta.isVec || op.tb.isVec then s.memFault op n op.place (s.homeScope op n) 0x042 op.address 0
    else
      let w := n.fmt.width / 8
      match op.site with
      | .block _ _ _ =>
        s.withPieces op n (s.range op .write op.ta.word.toNat w w) fun _ => s.countStore op n (some op)
      | .tile _ => s.chained op true fun s =>
        s.toHome op n (fun s t => s.stTile op n t) fun s =>
          s.withPieces op n (s.range op .write op.ta.word.toNat w w) fun ps =>
            s.overPort op n (ps.map (·.1)) fun op n s =>
              (s.writePieces ps (storeBytes n op.tb.word)).complete op n 1 .whole false 0

/-- The lanes that an STV writes, with their values; a scalar is broadcast (R23, R324). -/
def stvLanes (n : Niw) (op : Issued) : List (Nat × Word) :=
  let mask := if n.ari.toNat = 3 then bits op.tc.word.toNat 0 16 else 0xFFFF
  (maskLanes mask).filterMap fun j => (laneAt op.tb.val j).map fun v => (j, word v)

/-- The word that a vector holds in a lane, whatever its mask; a scalar stands in every lane (R23, R324, log 26). -/
def rawLaneOf (v : Value) (j : Nat) : Word :=
  match v with
  | .scalar w => w
  | .vector ls _ => nth 0 ls j

/-- Write the lanes of an STV at their pieces. -/
def State.writeLanes (s : State) (vs : List (Nat × Word)) : List (Nat × List (Nat × Nat)) → State
  | [] => s
  | l :: ls => (s.writePieces l.2 (bytesOf 8 ((look l.1 vs).getD 0).toNat)).writeLanes vs ls

/-- STV at a memory tile (R107 to R109, R324). -/
def State.stvTile (s : State) (op : Issued) (n : Niw) (t : TileId) : State :=
  let m := s.mtile t
  let off := op.ta.word.toNat
  let vs := stvLanes n op
  match m.mode? with
  | some 0 =>
    if vs.any fun v => m.depth < off + 8 * v.1 + 8 then s.tileFault op n t 0x101 op.ta.word
    else if off % 8 ≠ 0 then s.tileFault op n t 0x102 op.ta.word
    else if m.asleep || m.isFull m.fill then s.waitAt t op
    else (s.fillBuffer t op.tag (vs.map fun v => (off + 8 * v.1, bytesOf 8 v.2.toNat))).complete op n 1 .tile false 0
  | some 1 =>
    if 128 < m.elemBytes then s.tileFault op n t 0x103 op.ta.word
    else if m.asleep || !m.fifoRoom then s.waitAt t op
    else
      (s.fifoPush t ((List.range 16).flatMap fun j => bytesOf 8 (rawLaneOf op.tb.val j).toNat)).complete op n 1 .tile false 0
  | some 2 =>
    if vs.any fun v => (m.win + m.spec) * m.rowBytes < off + 8 * v.1 + 8 then s.tileFault op n t 0x101 op.ta.word
    else if off % 8 ≠ 0 then s.tileFault op n t 0x102 op.ta.word
    else if vs.any fun v => (off + 8 * v.1) / m.rowBytes < m.win then s.tileFault op n t 0x103 op.ta.word
    else if m.asleep then s.waitAt t op
    else (vs.foldl (fun s v => s.writeLine t (off + 8 * v.1) (bytesOf 8 v.2.toNat)) s).complete op n 1 .tile false 0
  | _ => s.tileFault op n t 0x103 op.ta.word

/-- STV (R324). -/
def execStv (n : Niw) (s : State) : Out :=
  fireStore n s fun op s => s.sink op n (s.homeScope op n) 1 fun s =>
    if op.ta.isVec || (n.ari.toNat = 3 && op.tc.isVec) then
      s.memFault op n op.place (s.homeScope op n) 0x042 op.address 0
    else s.chained op true fun s =>
      s.toHome op n (fun s t => s.stvTile op n t) fun s =>
        let vs := stvLanes n op
        s.withPieces op n ((s.laneRanges op .write op.ta.word.toNat (vs.map (·.1))).named op.ta.word) fun ls =>
          s.overPort op n (ls.flatMap fun l => l.2.map (·.1)) fun op n s =>
            (s.writeLanes vs ls).complete op n 1 .whole false 0

/- GTH and SCT. -/

/-- The indices of a Carder operation: lanes as S64, or one scalar as index 0 (R277). -/
def indexList : Value → List (Option Int)
  | .scalar w => [some (signedOf 64 w.toNat)]
  | .vector ls m => (List.range 16).map fun k => if m.getLsbD k then some (signedOf 64 (nth 0 ls k).toNat) else none

/-- The address of an element, computed exactly (R277). -/
def elemAddr (base : Word) (idx : Int) (sh : Nat) : Int := (base.toNat : Int) + idx * ((2 ^ sh : Nat) : Int)

/-- The cause that the page of an address gives an access, from the translation cache or the table; a page that is to come
gives none (R120, R122). -/
def State.pageCause (s : State) (op : Issued) (need : Need) (va : Nat) : Option Nat :=
  match s.tcFind (siteRegion op.site) op.ctx va with
  | some e => if permits e.leaf need then none else some 0x103
  | none =>
    match (s.ctx? op.ctx).map fun c => s.walkByte c.root need va with
    | some (.fault c _ _) => some c
    | _ => none

/-- The check of one element: its range, R119, R120, then its alignment (R277). -/
def State.elemCause (s : State) (op : Issued) (need : Need) (len : Nat) (a : Int) : Option Nat :=
  if a < 0 ∨ ((2 ^ 64 : Nat) : Int) ≤ a then some 0x101
  else
    match addrCause (s.isSystem op.ctx) a.toNat len 1 with
    | some c => some c
    | none =>
      match (piecesOf a.toNat len).findSome? fun p => s.pageCause op need p.1 with
      | some c => some c
      | none => if a.toNat % len ≠ 0 then some 0x102 else none

/-- The pieces of one element, translated; the record of a fault holds the element's address and its number (R277). -/
def State.elemRange (s : State) (op : Issued) (need : Need) (len : Nat) (k : Nat) (a : Int) :
    Res (List (Nat × Nat)) :=
  match s.xlateAll op need (piecesOf a.toNat len) with
  | .fault c _ _ => .fault c (word (wrapInt 64 a)) (word k)
  | r => r

/-- The pieces of every element, translated in increasing order of number. -/
def State.elemPieces (s : State) (op : Issued) (need : Need) (len : Nat) :
    List (Nat × Int) → Res (List (Nat × List (Nat × Nat)))
  | [] => .ok []
  | (k, a) :: l => (s.elemRange op need len k a).bind fun ps =>
      (s.elemPieces op need len l).bind fun r => .ok ((k, ps) :: r)

/-- Check every element, then translate all: where some check fails the lowest failing element gives cause, address and
number, whatever pages the others still wait for (R277, R317). -/
def State.elemRanges (s : State) (op : Issued) (need : Need) (len : Nat) (es : List (Nat × Int)) :
    Res (List (Nat × List (Nat × Nat))) :=
  match es.findSome? fun x => (s.elemCause op need len x.2).map fun c => (c, x) with
  | some (c, k, a) => .fault c (word (wrapInt 64 a)) (word k)
  | none => s.elemPieces op need len es

/-- Elements at positions as a vector: a lane is set when it holds one of them (R277, log 24). -/
def gatherVal (f : Fmt) (es : List (Nat × Nat)) : Value :=
  packLanes f ((List.range 16).map fun k => look k es)

/-- GTH (R277). -/
def execGth (n : Niw) (s : State) : Out :=
  fireLoad n s fun op s =>
    if !op.allTrue || op.poisoned then s.complete op n 0 .whole true 0
    else if op.ta.isVec then s.partFault op n 0 op.place .whole 0x042 0 0
    else s.chained op false fun s =>
      s.toHome op n (fun s _ => s.partFault op n 0 op.place .whole 0x103 0 0) fun s =>
        let sh := bits n.imm.toNat 0 6
        let es := ((indexList op.tb.val).zipIdx).filterMap fun x => x.1.map fun i => (x.2, elemAddr op.ta.word i sh)
        s.withParts op n 0 (s.elemRanges op .read (n.fmt.width / 8) es) fun ls =>
          s.overCarder op ls fun s =>
            s.replyData op n (gatherVal n.fmt ((byLane ls).map fun l => (l.1, ofBytes (s.readPieces l.2)))) op.poisoned

/-- The elements of slot c whose lanes take part, each with its position (R317). -/
def scatterElems (f : Fmt) (v : Value) : List (Nat × Nat) :=
  ((positions f v).zipIdx).filterMap fun x => x.1.map fun e => (x.2, e)

/-- Write elements at their pieces in the order given: the later of two at one address stays. -/
def State.writeElems (s : State) (len : Nat) (es : List (Nat × Nat)) : List (Nat × List (Nat × Nat)) → State
  | [] => s
  | l :: ls => (s.writePieces l.2 (bytesOf len ((look l.1 es).getD 0))).writeElems len es ls

/-- SCT: the Carder performs the elements by lane; of two at one address, which one lane serves, the higher number stays
(R114, R317). -/
def execSct (n : Niw) (s : State) : Out :=
  fireStore n s fun op s => s.sink op n .whole 0 fun s =>
    if op.ta.isVec then s.partFault op n 0 op.place .whole 0x042 0 0
    else s.chained op true fun s =>
      s.toHome op n (fun s _ => s.partFault op n 0 op.place .whole 0x103 0 0) fun s =>
        let sh := bits n.imm.toNat 0 6
        let len := n.fmt.width / 8
        let vs := scatterElems n.fmt op.tc.val
        let es := ((indexList op.tb.val).zipIdx).filterMap fun x =>
          if vs.any (·.1 = x.2) then x.1.map fun i => (x.2, elemAddr op.ta.word i sh) else none
        s.withParts op n 0 (s.elemRanges op .write len es) fun ls =>
          let s' := s.writeElems len vs (byLane (ls.filter (!s.elemLost op ·)))
          s'.overCarder op ls fun s => s.complete op n ls.length .whole false 0

/-- The Carder of an operation's die. -/
def carderOf (op : Issued) : Die := dieOf (siteRegion op.site / 21)

/-- SCT in its compacting form: the ranks below the bound are written from the first that is not yet; the scatter then
stops at the bound, or completes. The elements that take part have their ranks in the order of their positions, and a check
that fails names the position (R115, R277, R318, log 25). -/
def State.compact (s : State) (op : Issued) (n : Niw) : State :=
  let sh := bits n.imm.toNat 0 6
  let len := n.fmt.width / 8
  let b := op.tb.word.toNat
  let p0 := bits b 0 32
  let bound := op.bound.getD (bits b 32 32)
  let todo := ((scatterElems n.fmt op.tc.val).zipIdx).filter fun x => op.count ≤ x.2
  let now := todo.filter fun x => p0 + x.2 < bound
  let addr (r : Nat) : Int := elemAddr op.ta.word ((p0 + r : Nat) : Int) sh
  s.withParts op n op.count (s.elemRanges op .write len (now.map fun x => (x.1.1, addr x.2))) fun ls =>
    let s := s.writeElems len (now.map (·.1)) (byLane (ls.filter (!s.elemLost op ·)))
    s.overCarder op ls fun s =>
    let written := op.count + now.length
    if now.length = todo.length then s.complete op n written .whole false 0
    else
      let limit := elemAddr op.ta.word (bound : Int) sh
      let s := s.takeFault ⟨0x106, .carder (carderOf op), op.ctx, op.tag, word (wrapInt 64 limit), word written,
        false, false⟩
      { s with scatters := s.scatters ++ [⟨carderOf op, op, bound, written⟩] }

/-- SCT in its compacting form (R318). -/
def execSctCompact (n : Niw) (s : State) : Out :=
  fireStore n s fun op s => s.sink op n .whole 0 fun s =>
    if op.ta.isVec || op.tb.isVec then s.partFault op n 0 op.place .whole 0x042 0 0
    else s.chained op true fun s =>
      s.toHome op n (fun s _ => s.partFault op n 0 op.place .whole 0x103 0 0) fun s => s.compact op n

/- Write-once words. -/

/-- A request to a write-once word at a tile: a WONCE tile, an index of the tile, a tile that is awake (R107, R282). -/
def State.wonceTile (s : State) (op : Issued) (n : Niw) (t : TileId) (k : State → Nat → State) : State :=
  let m := s.mtile t
  if m.mode? ≠ some 3 then s.tileFault op n t 0x103 op.ta.word
  else if 131072 ≤ op.ta.word.toNat then s.tileFault op n t 0x101 op.ta.word
  else if m.asleep then s.waitAt t op
  else k s op.ta.word.toNat

/-- The physical address of a write-once word of main memory (R282). -/
def State.wonceMain (s : State) (op : Issued) (n : Niw) (k : State → Nat → State) : State :=
  s.withPieces op n (s.range op .once op.ta.word.toNat 8 8) fun ps =>
    match ps with
    | (pa, _) :: _ => k s pa
    | [] => s

/-- IRD (R110, R282, R283). -/
def execIrd (n : Niw) (s : State) : Out :=
  fireLoad n s fun op s => s.load op n fun s =>
    s.toHome op n (fun s t => s.wonceTile op n t fun s w => s.tileIrd op n t w) fun s =>
      s.wonceMain op n fun s pa =>
        let o := s.overlay op n
        s.overPort op n [pa] fun op n s =>
          if wState o.main.wstate pa = some .full then s.replyData op n (.scalar (o.wordAt pa)) op.poisoned
          else s.deferMain op n pa

/-- IWR (R110, R282, R283). -/
def execIwr (n : Niw) (s : State) : Out :=
  fireStore n s fun op s => s.ifHeld op fun s => s.sink op n (s.homeScope op n) 1 fun s =>
    if op.ta.isVec || op.tb.isVec then s.memFault op n op.place (s.homeScope op n) 0x042 0 0
    else match op.site with
      | .block _ _ _ => s.wonceMain op n fun s _ => s.countStore op n (some op)
      | .tile _ => s.chained op true fun s =>
        s.toHome op n
          (fun s t => s.wonceTile op n t fun s w =>
            let (ok, s) := s.tileIwr t w op.tb.word
            if ok then s.complete op n 1 .tile false 0 else s.tileFault op n t 0x104 op.ta.word)
          fun s => s.wonceMain op n fun s pa => s.overPort op n [pa] fun op n s =>
            let (ok, s) := s.mainIwr pa op.tb.word
            if ok then s.complete op n 1 .whole false 0
            else s.memFault op n (.channel (channelOf pa)) .whole 0x104 op.ta.word 0

/-- IRST, which is no sink of R34: a predicate of 0 does not stop it, a poisoned address does (R110, R282, log 28). -/
def execIrst (n : Niw) (s : State) : Out :=
  fireStore n s fun op s => s.ifHeld op fun s =>
    if op.poisoned then s.noEffect op n (s.homeScope op n) 1 0
    else if op.ta.isVec then s.memFault op n op.place (s.homeScope op n) 0x042 0 0
    else match op.site with
      | .block _ _ _ => s.wonceMain op n fun s _ => s.countStore op n (some op)
      | .tile _ => s.chained op true fun s =>
        s.toHome op n (fun s t => s.wonceTile op n t fun s w => (s.tileIrst t w).complete op n 1 .tile false 0) fun s =>
          s.wonceMain op n fun s pa => s.overPort op n [pa] fun op n s => (s.mainIrst pa).complete op n 1 .whole false 0

/- Host endpoints. -/

/-- Bytes of an endpoint transfer (R280). -/
def hinLen (op : Issued) (n : Niw) : Nat :=
  if !siteIsBlock op.site && n.imm.getLsbD 7 then 128 else n.fmt.width / 8

/-- The value of a HIN (R280). -/
def hinValue (op : Issued) (n : Niw) (bs : List Byte) : Value :=
  if !siteIsBlock op.site && n.imm.getLsbD 7 then .vector (wordsOf 16 bs) 0xFFFF else .scalar (word (ofBytes bs))

/-- The instructions of a block that are HINs of lower LSID have fired, and none of them still waits for the block's stores
(R44, R281). -/
def State.hinsDone (s : State) (op : Issued) (n : Niw) : Bool :=
  match op.site with
  | .tile _ => true
  | .block r bc _ =>
    match s.block? r bc with
    | none => true
    | some b => ((List.range b.ins.length).all fun i =>
        match decodeWord false (nth 0 b.ins i) with
        | .ok (.hin m) => !(lsidOf m < lsidOf n)
            || (i ∈ b.fired && !(s.held.any fun h => h.op.site = .block r bc i && h.why = .lsid))
        | _ => true)

/-- The bytes of the block's own HINs of lower LSID to an endpoint (R281). -/
def State.hinOffset (s : State) (op : Issued) (n : Niw) (ep : Nat) : Nat :=
  match op.site with
  | .tile _ => 0
  | .block r bc _ =>
    match s.block? r bc with
    | none => 0
    | some b => ((b.hin.filter fun h => h.1 < lsidOf n && h.2.1 = ep).map fun h => h.2.2).foldl (· + ·) 0

/-- A HIN sends its read request and waits for the bytes. In fabric mode it moves the position; in block mode the
commit does (R116, R190, R281). -/
def State.sendHin (s : State) (op : Issued) (n : Niw) (c : Ctx) (ep : Nat) : State :=
  match c.endpoint? ep with
  | none => s
  | some e =>
    let len := hinLen op n
    let off := s.hinOffset op n ep
    let rid := s.rid
    let s := { s with rid := (rid + 1) % 2 ^ 64 }
    let s := s.sendEpdata c.num ep 0 (e.pos + off) rid e.node len []
    let s := match op.site with
      | .tile _ => s.moveEndpoint c.num ep len
      | .block r bc _ => s.mapBlock r bc fun b => { b with hin := b.hin ++ [(lsidOf n, ep, len)] }
    s.hold op (.transfer rid [] len)

/-- HIN; a memory tile that TGT0 names refuses it (R105, R107, R280, R281). -/
def execHin (n : Niw) (s : State) : Out :=
  fireRaw s fun op s =>
    match firing n.prd op with
    | .consumed => s
    | .bubble => ((s.touch op).bubble op n).markDone op
    | _ =>
      let s := s.touch op
      if !op.allTrue || op.anyNull || op.poisoned then s.complete op n 1 .system true 0
      else if op.ta.isVec then s.memFault op n op.place .system 0x042 0 0
      else if !s.lowerDone op n || !s.hinsDone op n then s.hold op .lsid
      else s.chained op false fun s =>
        s.toHome op n (fun s t => s.tileFault op n t 0x103 op.ta.word) fun s =>
          match s.ctx? op.ctx with
          | none => s
          | some c =>
            let ep := op.ta.word.toNat
            match s.endpointCause c ep (s.hinOffset op n ep) (hinLen op n) with
            | some x => s.memFault op n op.place .system x op.ta.word 0
            | none => s.sendHin op n c ep

/-- HOUT; a memory tile that TGT0 names refuses it (R105, R107, R280, R281). -/
def execHout (n : Niw) (s : State) : Out :=
  fireStore n s fun op s => s.ifHeld op fun s => s.sink op n .system 1 fun s =>
    if op.ta.isVec || (op.tb.isVec && !n.imm.getLsbD 7) then s.memFault op n op.place .system 0x042 0 0
    else
      let ep := op.ta.word.toNat
      let bs := houtBytes n op.tb.val
      match s.ctx? op.ctx with
      | none => s
      | some c =>
        match op.site with
        | .block _ _ _ =>
          match s.endpointCause c ep 0 bs.length with
          | some x => s.memFault op n op.place .system x op.ta.word 0
          | none => s.countStore op n (some op)
        | .tile _ => s.chained op true fun s =>
          s.toHome op n (fun s t => s.tileFault op n t 0x103 op.ta.word) fun s =>
            match s.endpointCause c ep 0 bs.length with
            | some x => s.memFault op n op.place .system x op.ta.word 0
            | none => s.sendHout op c ep bs

end Sys2Proof.Machine
end

