-- ==== Sys2Proof/Machine/Atomics.lean ====
section
/-!
DEFINITION. The atomics, 0x80 to 0x86 (R134, R241, R242, R307).
-/

namespace Sys2Proof.Machine

/-- A returning atomic at an operand store's word (R107, R108, R242). -/
def State.atomicTile (s : State) (op : Issued) (n : Niw) (t : TileId) (f : Word → Option Word) : State :=
  let m := s.mtile t
  let off := op.ta.word.toNat
  if m.mode? ≠ some 0 then s.tileFault op n t 0x103 op.ta.word
  else if m.depth < off + 8 then s.tileFault op n t 0x101 op.ta.word
  else if off % 8 ≠ 0 then s.tileFault op n t 0x102 op.ta.word
  else if m.asleep || m.isFull m.fill then s.waitAt t op
  else
    let old := word (ofBytes (s.readBank t (m.fill * m.depth + off) 8))
    let s := match f old with
      | some w => s.fillBuffer t op.tag [(off, bytesOf 8 w.toNat)]
      | none => s
    s.reply op n (.scalar old) op.poisoned

/-- A returning atomic at the combine store, in one step of the single order (R126, R242). -/
def State.atomicAt (s : State) (op : Issued) (n : Niw) (ps : List (Nat × Nat)) (f : Word → Option Word) : State :=
  s.overPort op n (ps.map (·.1)) fun op n s =>
    let old := word (ofBytes (s.readPieces ps))
    let s := match f old with
      | some w => s.writePieces ps (bytesOf 8 w.toNat)
      | none => s
    s.reply op n (.scalar old) op.poisoned

/-- The order token in slot p is of another context (R134). -/
def foreignOrder (n : Niw) (op : Issued) : Bool :=
  n.prd = .ift && op.p.any fun t => tagCtx t.tag ≠ tagCtx op.tag

/-- A returning atomic of a block: it waits for every lower LSID, and for room at the combine store where it is to release
a leaf; it then releases the held stores below it, and is performed at once (R130, R242, R307). -/
def State.atomicBlock (s : State) (op : Issued) (n : Niw) (f : Word → Option Word) : State :=
  if !s.lowerDone op n then s.hold op .lsid
  else s.withPieces op n (s.range op .both op.ta.word.toNat 8 8) fun ps =>
    let held := match op.site with
      | .tile _ => []
      | .block r bc _ => match s.block? r bc with
        | some b => heldBelow b (lsidOf n)
        | none => []
    match s.heldMiss held with
    | some va => s.awaitWalk op va
    | none =>
      if s.anyMustWait held then s.hold op .lsid
      else (((s.countNulled op n).releaseBelow op (lsidOf n)).fix op).atomicAt op n ps f

/-- The common course of the six returning atomics (R242). -/
def State.atomic (s : State) (op : Issued) (n : Niw) (f : Word → Option Word) : State :=
  let scope := s.homeScope op n
  let void (s : State) (cause : Nat) : State := (s.countNulled op n).complete op n 1 scope true cause
  if !op.allTrue || op.anyNull then void s 0
  else if op.poisoned then void (s.opRecord op 0x0C1 0 0) 0x0C1
  else if foreignOrder n op then s.memFault op n op.place scope 0x181 op.ta.word 0
  else if op.ta.isVec || op.tb.isVec || op.c.any (·.isVec) then s.memFault op n op.place scope 0x042 op.address 0
  else match op.site with
    | .block _ _ _ => s.atomicBlock op n f
    | .tile _ => s.chained op true fun s =>
      s.toHome op n (fun s t => s.atomicTile op n t f) fun s =>
        s.withPieces op n (s.range op .both op.ta.word.toNat 8 8) fun ps => s.atomicAt op n ps f

/-- The firing of a returning atomic: a bubble of a block also counts its LSID (R34, R82, R242). -/
def fireAtomic (n : Niw) (s : State) (f : Issued → Word → Option Word) : Out :=
  fireRaw s fun op s =>
    match firing n.prd op with
    | .consumed => s
    | .bubble => (((s.touch op).countNulled op n).bubble op n).markDone op
    | _ => (s.touch op).atomic op n (f op)

/-- The smaller or larger of two words, signed for S64 (R241). -/
def pickWord (n : Niw) (larger : Bool) (a b : Word) : Word :=
  let le := if n.fmt.signed then decide (a.toInt ≤ b.toInt) else decide (a.toNat ≤ b.toNat)
  if le != larger then a else b

/-- AADD (R241). -/
def execAadd (n : Niw) (s : State) : Out := fireAtomic n s fun op w => some (w + op.tb.word)
/-- AMIN (R241). -/
def execAmin (n : Niw) (s : State) : Out := fireAtomic n s fun op w => some (pickWord n false w op.tb.word)
/-- AMAX (R241). -/
def execAmax (n : Niw) (s : State) : Out := fireAtomic n s fun op w => some (pickWord n true w op.tb.word)
/-- The logical operations of ALOG (R241). -/
def logWord (o : Nat) (w b : Word) : Word :=
  match o with
  | 0 => w &&& b
  | 1 => w ||| b
  | 2 => w ^^^ b
  | _ => w &&& ~~~b
/-- ALOG (R241). -/
def execAlog (n : Niw) (s : State) : Out :=
  fireAtomic n s fun op w => some (logWord (bits n.imm.toNat 5 2) w op.tb.word)
/-- AXCH (R241). -/
def execAxch (n : Niw) (s : State) : Out := fireAtomic n s fun op _ => some op.tb.word
/-- ACAS: a failed comparison writes nothing (R241). -/
def execAcas (n : Niw) (s : State) : Out :=
  fireAtomic n s fun op w => if w = op.tb.word then some op.tc.word else none

/-- RED at an operand store (R107, R307). -/
def State.redTile (s : State) (op : Issued) (n : Niw) (t : TileId) : State :=
  let m := s.mtile t
  let off := op.ta.word.toNat
  let k := redBytes n
  if m.mode? ≠ some 0 then s.tileFault op n t 0x103 op.ta.word
  else if m.depth < off + k then s.tileFault op n t 0x101 op.ta.word
  else if off % k ≠ 0 then s.tileFault op n t 0x102 op.ta.word
  else if m.asleep || m.isFull m.fill then s.waitAt t op
  else s.redLeaf op n (tileKey t off) off (some t) op.ta.word

/-- RED (R307). In block mode the leaf is held until commit; one that the commit has released and that waits for a free
entry is tried again (R45). -/
def execRed (n : Niw) (s : State) : Out :=
  fireStore n s fun op s =>
    s.ifHeld op fun s =>
    if foreignOrder n op then s.memFault op n op.place (s.homeScope op n) 0x181 op.ta.word 0
    else if op.ta.isVec || op.tb.isVec || op.tc.isVec then s.memFault op n op.place (s.homeScope op n) 0x042 op.address 0
    else if !leafWordOk op.tc.word || stoBad op n (addsFloat n (bits n.imm.toNat 5 2)) then s.memFault op n op.place (s.homeScope op n) 0x041 op.ta.word 0
    else
      let main (s : State) (k : State → Nat → State) : State :=
        s.withPieces op n (s.range op .both op.ta.word.toNat (redBytes n) (redBytes n)) fun ps =>
          match ps with
          | (pa, _) :: _ => k s pa
          | [] => s
      match op.site with
      | .block _ _ _ => main s fun s _ => s.countStore op n (some op)
      | .tile _ => s.chained op true fun s =>
        s.toHome op n (fun s t => s.redTile op n t) fun s =>
          main s fun s pa => s.overPort op n [pa] fun op n s => s.redLeaf op n op.ta.word pa none op.ta.word

end Sys2Proof.Machine
end

