-- ==== Sys2Proof/Machine/Matrix.lean ====
section
/-!
DEFINITION. The matrix class, 0x90 to 0x95, and the matrix block (R42, R69, R102, R172, R173, R243, R244, R257, R296,
R297, R316).
-/

namespace Sys2Proof.Machine

/-- Elements in an operand row's block of 32, bytes of it, blocks in a row, and bytes of the whole layout (R69, R172). -/
def rowShape (f : Fmt) : Nat × Nat × Nat :=
  match f with
  | .t6 => (24, 10, 4256)
  | .bf16 | .f16 => (64, 4, 4096)
  | _ => (32, 8, 4224)

/-- The formats that carry block scales (R69). -/
def hasScales (f : Fmt) : Bool := f != .bf16 && f != .f16

/-- Block b of operand row r of a buffer: its 32 elements (R69, R172). -/
def operandBlock (f : Fmt) (buf : List Byte) (r b : Nat) : List Nat :=
  let (len, _, _) := rowShape f
  let v := ofBytes ((buf.drop (256 * r + len * b)).take len)
  (List.range 32).map fun t => bits v (f.width * t) f.width

/-- The scale token that the memory tile forms for block b of row r and sends directly before the block: SCL, BIDX and
ROW; a BF16 or F16 channel carries none (R69, R172). -/
def scaleToken (f : Fmt) (buf : List Byte) (r b : Nat) : Option Word :=
  let (_, nb, _) := rowShape f
  if hasScales f then some (word ((nth 0 buf (4096 + nb * r + b)).toNat + b * 2 ^ 16 + r * 2 ^ 32)) else none

/-- The scale that the multiplier latches for block b of row r from what the channel carries before it, none where that
raises 0x1C0: a token that is missing, that a BF16 or F16 channel carries, whose BIDX or ROW is not the block's, or
with a reserved bit set. Without scales it is 127, which is 1.0 (R69, R92). -/
def latchScale (f : Fmt) (r b : Nat) (tok : Option Word) : Option Nat :=
  match tok with
  | none => if hasScales f then none else some 127
  | some w =>
    let v := w.toNat
    if hasScales f && bits v 8 8 = 0 && bits v 16 16 = b && bits v 32 4 = r && bits v 36 28 = 0 then some (bits v 0 8)
    else none

/-- The scale of block b of row r as the multiplier takes it (R69, R102). -/
def operandScale (f : Fmt) (buf : List Byte) (r b : Nat) : Nat :=
  (latchScale f r b (scaleToken f buf r b)).getD 127

/-- A scale token of the operand fails the multiplier's checks, 0x1C0 (R69). -/
def scalesBad (f : Fmt) (buf : List Byte) : Bool :=
  let (_, nb, _) := rowShape f
  (List.range 16).any fun r => (List.range nb).any fun b => (latchScale f r b (scaleToken f buf r b)).isNone

/-- Exact products summed exactly, in order (R102). -/
def dotExact : List Exact → List Exact → Option Exact
  | x :: xs, y :: ys =>
    match dotExact xs ys with
    | none => some (x.mul y)
    | some r => some ((x.mul y).add false r)
  | _, _ => none

/-- One block sum, rounded once (R102). -/
def blockSum (xs ys : List Exact) (sa sb : Nat) : Nat :=
  if sa = 255 ∨ sb = 255 then nanCode .f32
  else roundTo .f32 .rne false (((dotExact xs ys).getD (.rat false 0 1)).scale ((sa : Int) + sb - 254)) 0

/-- The scale that stage 2 applies to block b of row r: the one latched with BSA = 1, and none, which is 127, without
(R59, R69, R102, log 57). -/
def appliedScale (bsa : Bool) (f : Fmt) (buf : List Byte) (r b : Nat) : Nat := if bsa then operandScale f buf r b else 127

/-- An operand as decoded rows of blocks with the scales that stage 2 applies to them. -/
def operandRows (bsa : Bool) (f : Fmt) (buf : List Byte) : List (List (List Exact × Nat)) :=
  let (_, nb, _) := rowShape f
  (List.range 16).map fun r => (List.range nb).map fun b =>
    ((operandBlock f buf r b).map (decodeElem f), appliedScale bsa f buf r b)

/-- The block sums of one element of C, then their canonical tree, then one rounding into C (R102, R103). -/
def mmaElem (c : BitVec 32) (ra rb : List (List Exact × Nat)) : BitVec 32 :=
  let blks := (ra.zip rb).map fun p => blockSum p.1.1 p.2.1 p.1.2 p.2.2
  let t := match tree (fun x y => combine .f32 .rne 0 x y) (clog2 blks.length) blks with
    | r :: _ => r
    | [] => 0
  BitVec.ofNat 32 (combine .f32 .rne 0 c.toNat t)

/-- Every element of an operand row is finite, and no scale of it is the NaN scale. -/
def rowFinite (r : List (List Exact × Nat)) : Bool := r.all fun b => b.1.all (·.finite)

/-- A NaN scale in a row (R92). -/
def rowNanScale (r : List (List Exact × Nat)) : Bool := r.any fun b => b.2 = 255

/-- The poison that the rules of R101 give one element of C. -/
def mmaPoison (c r : BitVec 32) (ra rb : List (List Exact × Nat)) : Bool :=
  rowNanScale ra || rowNanScale rb
    || (nonFinite .f32 r.toNat && !nonFinite .f32 c.toNat && rowFinite ra && rowFinite rb)

/-- The header of a buffer: BUF and PORT; none when a reserved bit is set (R296). -/
def headerOf (w : Word) : Option (Nat × Nat) :=
  if bits w.toNat 6 58 ≠ 0 then none else some (bits w.toNat 0 4, bits w.toNat 4 2)

/-- A memory tile belongs to the configuration that a compute tile runs (R296). -/
def State.sameConfig (s : State) (t m : TileId) : Bool :=
  match (s.ctile t).active, (s.mtile m).active with
  | some p, some q => p.ctx = q.ctx
  | _, _ => false

/-- The OPSTORE tile of the tile's own configuration and the buffer that a header names; none is 0x041 (R296). -/
def State.operandTile (s : State) (t : TileId) (w : Word) : Option (TileId × Nat) :=
  (headerOf w).bind fun h => (neighbour t h.2).bind fun m =>
    if !isCompute m && (s.mtile m).mode? = some 0 && s.sameConfig t m && h.1 < (s.mtile m).buffers then some (m, h.1)
    else none

/-- The accumulator tile that an instruction names. -/
def qOf (n : Niw) : Nat := bits n.imm.toNat 0 3

/-- An accumulator tile of a compute tile. -/
def CTile.acc (c : CTile) (q : Nat) : Acc := nth Acc.zero c.q q

/-- An MMA queued or running names Q (R173, R297). -/
def CTile.qBusy (c : CTile) (q : Nat) : Bool := c.mma.any fun o => qOf o.niw = q

/-- MMA and MMAZ: the checks, then the queue (R297). -/
def State.queueMma (s : State) (op : Issued) (n : Niw) (zero : Bool) : State :=
  match op.site with
  | .block _ _ _ => s
  | .tile t =>
    let c := s.ctile t
    let (_, _, need) := rowShape n.fmt
    match s.operandTile t op.ta.word, s.operandTile t op.tb.word with
    | some a, some b =>
      if c.qBusy (qOf n) then s.opFault op 0x1C2 0 0
      else if !zero && (c.acc (qOf n)).fmt.any (· ≠ n.fmt) then s.opFault op 0x1C1 0 0
      else if (s.mtile a.1).depth < need ∨ (s.mtile b.1).depth < need then s.opFault op 0x101 0 0
      else s.setCtile t { c with mma := c.mma ++ [op] }
    | _, _ => s.opFault op 0x041 0 0

/-- MMA (R297). -/
def execMma (n : Niw) (s : State) : Out :=
  fire s n fun op s => s.scalars op [op.ta, op.tb] fun s => s.queueMma op n false

/-- MMAZ (R297). -/
def execMmaz (n : Niw) (s : State) : Out :=
  fire s n fun op s => s.scalars op [op.ta, op.tb] fun s => s.queueMma op n true

/-- A NaR among the operands of an MMA (R101, R297). -/
def anyNaR (f : Fmt) (buf : List Byte) : Bool :=
  let (_, nb, _) := rowShape f
  (List.range 16).any fun r => (List.range nb).any fun b => (operandBlock f buf r b).any (isNaR f)

/-- An accumulator tile holds an abandoned value in some element (R93). -/
def Acc.abandoned (q : Acc) : Bool := q.rows.any fun r => r.any fun x => isAbandoned x.toNat

/-- The two buffers that an operation of the matrix queue reads, A's then B's (R296). -/
def State.reads (s : State) (t : TileId) (op : Issued) : List (TileId × Nat) :=
  [op.ta.word, op.tb.word].filterMap (s.operandTile t)

/-- An operation in a matrix queue reads the buffer (R108). -/
def State.hasReader (s : State) (x : TileId × Nat) : Bool :=
  s.ctiles.any fun u => u.2.mma.any fun op => (s.reads u.1 op).contains x

/-- Buffer j stands before buffer k in the ring of a tile, from the buffer that empties next (R108). -/
def MTile.ringLt (m : MTile) (j k : Nat) : Bool :=
  (j + m.buffers - m.drain) % m.buffers < (k + m.buffers - m.drain) % m.buffers

/-- The operation can run: its buffers are full (R132, log 56). -/
def State.filled (s : State) (t : TileId) (op : Issued) : Bool :=
  (s.reads t op).all fun x => (s.mtile x.1).isFull x.2

/-- The operation's turn has come in every ring that it reads: no full buffer that it does not read itself stands before one
of its own (R108, R132). -/
def State.inTurn (s : State) (t : TileId) (op : Issued) : Bool :=
  let rs := s.reads t op
  rs.all fun x => (s.mtile x.1).full.all fun f => rs.contains (x.1, f.1) || !((s.mtile x.1).ringLt f.1 x.2)

/-- The operation of a tile's matrix queue that runs next: the oldest whose buffers are full and whose turn has come in every
ring (R108, R297, log 56). -/
def State.nextMma (s : State) (t : TileId) : Option (Issued × List Issued) :=
  takeFirst (fun op => s.filled t op && s.inTurn t op) (s.ctile t).mma

/-- A buffer is marked empty once no queued operation reads it any more (R108). -/
def State.doneReading (s : State) (x : TileId × Nat) : State :=
  if s.hasReader x then s else s.bufferEmpty x.1 x.2

/-- The accumulator after an MMA, with the latched scales applied where BSA of the tile's stage 2 word says so (R59, R102,
R297, log 57). -/
def mmaResult (bsa : Bool) (op : Issued) (n : Niw) (zero : Bool) (old : Acc) (ba bb : List Byte) : Acc :=
  let base := if zero then Acc.zero else old
  let ra := operandRows bsa n.fmt ba
  let rb := operandRows bsa n.fmt bb
  let cell (i j : Nat) : BitVec 32 := nth 0 (nth [] base.rows i) j
  let rows := (List.range 16).map fun i => (List.range 16).map fun j => mmaElem (cell i j) (nth [] ra i) (nth [] rb j)
  let bad := op.mode.psn && (List.range 16).any fun i => (List.range 16).any fun j =>
    mmaPoison (cell i j) (nth 0 (nth [] rows i) j) (nth [] ra i) (nth [] rb j)
  { rows := rows, psn := base.psn || op.poisoned || bad, fmt := some n.fmt }

/-- BSA of a tile's stage 2 word (R59). -/
def CTile.bsa (c : CTile) : Bool := c.active.any fun p => (p.stage 2).testBit 42

/-- MMA_EXECUTE: the matrix block performs an MMA or MMAZ of its queue. A fault leaves the accumulator tile as it was;
the buffers are marked empty all the same (R69, R93, R101, R297). -/
def execMmaExecute (t : TileId) (s : State) : Out :=
  match s.nextMma t with
  | none => .next s
  | some (op, rest) =>
    let c := s.ctile t
    let n := op.niw
    let s := s.setCtile t { c with mma := rest }
    let zero := bits op.word.toNat 56 8 = 0x91
    match s.operandTile t op.ta.word, s.operandTile t op.tb.word with
    | some a, some b =>
      let read (x : TileId × Nat) : List Byte := let m := s.mtile x.1; s.readBank x.1 (x.2 * m.depth) (rowShape n.fmt).2.2
      let (ba, bb) := (read a, read b)
      let s := (s.doneReading a).doneReading b
      let old := (s.ctile t).acc (qOf n)
      if scalesBad n.fmt ba || scalesBad n.fmt bb then .next (s.opFault op 0x1C0 0 0)
      else if !zero && old.abandoned then .next (s.opFault op 0x0C0 0 0)
      else if op.mode.ntrp && (anyNaR n.fmt ba || anyNaR n.fmt bb) then .next (s.opFault op 0x0C3 0 0)
      else
        let c := s.ctile t
        let s := s.setCtile t { c with q := setNth c.q (qOf n) (mmaResult c.bsa op n zero old ba bb) }
        .next (s.emitWord op n (completion 1 .tile false 0) true)
    | _, _ => .next (s.opFault op 0x041 0 0)

/-- Row r of an accumulator tile as a vector: F64 widened in lane j, or F32 packed two to a lane (R173). -/
def accRow (f : Fmt) (row : List (BitVec 32)) : Value :=
  if f = .f64 then
    .vector ((List.range 16).map fun j =>
      word (roundTo .f64 .rne false (decodeElem .f32 (nth 0 row j).toNat) 0)) 0xFFFF
  else packLanes .f32 ((List.range 16).map fun j => some (nth 0 row j).toNat)

/-- Emit the sixteen rows in order, each under the tag with its number pushed, after stage 5 (R60, R173, R243). -/
def State.emitRows (s : State) (op : Issued) (n : Niw) (ws : List Nat) : List (Nat × Result) → State
  | [] => s
  | (r, v) :: l =>
    match pushField ws op.tag r with
    | none => s
    | some tag => (s.emit op n ⟨tag, v.val, true, op.poisoned || v.psn, false⟩).emitRows op n ws l

/-- ACRD (R173, R243). -/
def execAcrd (n : Niw) (s : State) : Out :=
  fire s n fun op s =>
    match op.site with
    | .block _ _ _ => s
    | .tile t =>
      let c := s.ctile t
      let q := c.acc (qOf n)
      let ws := s.widths op
      let e := s.floatEnv op n n.fmt false
      if c.qBusy (qOf n) then s.opFault op 0x1C2 0 0
      else if (pushField ws op.tag 15).isNone then s.opFault op 0x081 0 0
      else
        match (List.range 16).mapM fun r => e.fuse (accRow n.fmt (nth [] q.rows r)) with
        | .error (x, d) => s.opFault op x 0 (word d)
        | .ok vs => s.emitRows op n ws ((vs.zipIdx).map fun v => (v.2, { v.1 with psn := v.1.psn || q.psn }))

/-- The elements of an ACWR token, with the positions whose lanes take part (R244). -/
def acwrElems (f : Fmt) (rnd : Rnd) (v : Value) : List (Option (BitVec 32)) :=
  ((positions f v).take 16).map fun x => x.map fun e =>
    BitVec.ofNat 32 (if f = .f64 then roundTo .f32 rnd false (decodeElem .f64 e) 0 else e)

/-- A row with the given elements replaced (R244). -/
def mergeRow (row : List (BitVec 32)) (es : List (Option (BitVec 32))) : List (BitVec 32) :=
  (List.range 16).map fun j => ((es[j]?).getD none).getD (nth 0 row j)

/-- ACWR: the row token alone hands its poison to the accumulator tile (R101, R244). -/
def execAcwr (n : Niw) (s : State) : Out :=
  fire s n fun op s =>
    match op.site with
    | .block _ _ _ => s
    | .tile t =>
      let c := s.ctile t
      let ws := s.widths op
      if !op.ta.isVec then s.opFault op 0x042 0 0
      else if stoBad op n (n.fmt = .f64) then s.opFault op 0x041 0 0
      else if tagDepth op.tag = 0 then s.opFault op 0x082 0 0
      else if 15 < innermost ws op.tag then s.opFault op 0x041 0 0
      else if c.qBusy (qOf n) then s.opFault op 0x1C2 0 0
      else
        let q := c.acc (qOf n)
        let r := innermost ws op.tag
        let es := acwrElems n.fmt (op.mode.resolve n.rnd) op.ta.val
        let q := { q with rows := setNth q.rows r (mergeRow (nth [] q.rows r) es), psn := q.psn || op.ta.psn,
                          fmt := none }
        (s.setCtile t { c with q := setNth c.q (qOf n) q }).emitWord op n (completion 1 .tile false 0) true

/-- emax of the format that a scale serves (R316). -/
def scaleMax : Fmt → Int
  | .t8 => 12
  | .e5m2 => 15
  | _ => 8

/-- The scale formed from a binary32 element (R316). -/
def formScale (f : Fmt) (v : Nat) : Option Nat :=
  if nonFinite .f32 v then none
  else
    let x := decodeElem .f32 v
    if x.isZero then some 127 else some (max 0 (x.log2 - scaleMax f + 127)).toNat

/-- A scale decoded into binary32; 0xFF is the canonical NaN (R92, R316). -/
def decodeScale (v : Nat) : Nat :=
  let v := v % 256
  if v = 255 then nanCode .f32 else roundTo .f32 .rne false ((Exact.rat false 1 1).scale ((v : Int) - 127)) 0

/-- The product of two scales (R316). -/
def mulScale (a b : Nat) : Option Nat :=
  let a := a % 256
  let b := b % 256
  if a = 255 ∨ b = 255 then some 255
  else if a + b < 127 ∨ 254 < a + b - 127 then none else some (a + b - 127)

/-- One element of SCLE; none is 0x0C4 (R316). -/
def scaleElem (n : Niw) (xs : List Nat) : Option Nat :=
  match bits n.imm.toNat 0 2 with
  | 0 => formScale n.fmt (nth 0 xs 0)
  | 1 => some (decodeScale (nth 0 xs 0))
  | _ => mulScale (nth 0 xs 0) (nth 0 xs 1)

/-- SCLE on every 32-bit element; DETAIL of the record is the failing position (R316). The result of Decode is binary32,
so stage 5 acts on it; the other two give integers (R60, log 29). -/
def scleResult (e : FloatEnv) (op : Issued) (n : Niw) : Except Bad Result := do
  let vs := operandVals op n id
  let rs ← mapLanes (fun i ls => do
    let es ← mapElems (fun j xs =>
      match scaleElem n xs with
      | some v => .ok v
      | none => .error (0x0C4, 2 * i + j)) (ls.map (elems .f32)) 2
    return packLane .f32 es) 0 (alignLanes vs)
  let nan := bits n.imm.toNat 0 2 = 1 &&
    (lanesOf op.ta.val).any fun l => l.any fun x => (elems .f32 x).any fun v => v % 256 = 255
  let v := ofLanes (vs.any (·.isVec)) rs
  let r ← if bits n.imm.toNat 0 2 = 1 then e.fuse v else pure ⟨v, true, false⟩
  return { r with psn := r.psn || op.mode.psn && nan }

/-- SCLE (R316). -/
def execScle (n : Niw) (s : State) : Out :=
  fire s n fun op s => s.finish op n (scleResult { s.floatEnv op n .f32 false with fmt := .f32 } op n)

/-- The sixteen elements of a CTRN row; those of masked lanes are zero (R257). -/
def cornerRow (f : Fmt) (v : Value) : List Word :=
  ((positions f v).take 16).map fun e => word (e.getD 0)

/-- Column c of a block whose rows have all arrived (R257). -/
def cornerColumn (f : Fmt) (rows : List (Nat × List Word)) (c : Nat) : Value :=
  packLanes f ((List.range 16).map fun r => some (nth 0 (lookD [] r rows) c).toNat)

/-- Emit the columns in order, each under the aggregate tag with its number pushed; a float format passes stage 5, with the draws
of the column's own tag, since which row arrives last may not change the bits (R3, R60, R96, R257). -- DEDUCED: logs 29 and
87. -/
def State.emitColumns (s : State) (op : Issued) (n : Niw) (ws : List Nat) (agg : Word) (k : Corner) :
    List Nat → State
  | [] => s
  | c :: cs =>
    match pushField ws agg c with
    | none => s.opFault op 0x081 0 0
    | some tag =>
      match ((s.floatEnv op n n.fmt false).under tag).fuse (cornerColumn n.fmt k.rows c) with
      | .error (x, d) => s.opFault op x 0 (word d)
      | .ok v => (s.emit op n ⟨tag, v.val, true, k.psn || v.psn, false⟩).emitColumns op n ws agg k cs

/-- A row reaches the buffer that fills the block `agg` (R257). -/
def State.cornerInput (s : State) (op : Issued) (n : Niw) (t : TileId) (agg : Word) (k : Corner) : State :=
  let c := s.ctile t
  let ws := s.widths op
  let r := innermost ws op.tag
  if 15 < r ∨ k.rows.any (·.1 = r) then (s.setCtile t { c with corner := none }).opFault op 0x1C3 0 0
  else
    let k := { k with rows := k.rows ++ [(r, cornerRow n.fmt op.ta.val)], psn := k.psn || op.poisoned }
    if k.rows.length < 16 then s.setCtile t { c with corner := some k }
    else (s.setCtile t { c with corner := none }).emitColumns op n ws agg k (List.range 16)

/-- CTRN: a token of another block than the one that fills waits (R257). -/
def execCtrn (n : Niw) (s : State) : Out :=
  fire s n fun op s =>
    match op.site with
    | .block _ _ _ => s
    | .tile t =>
      if !op.ta.isVec then s.opFault op 0x042 0 0
      else match popField (s.widths op) op.tag with
        | none => s.opFault op 0x082 0 0
        | some agg =>
          match (s.ctile t).corner with
          | none => s.cornerInput op n t agg ⟨agg, [], false⟩
          | some k => if k.tag = agg then s.cornerInput op n t agg k else s.hold op .corner

end Sys2Proof.Machine
end

