-- ==== Sys2Proof/Machine/Verdict.lean ====
section
/-!
DEFINITION. Verdict-class accumulations, 0xA0 to 0xA5: the slots and the bound monitor (R145 to R151), threshold cells
(R153, R154), and the top-k lists (R155, R176, R336).
-/

namespace Sys2Proof.Machine

/- Verdict slots. -/

/-- The exact value of a binary32 pattern. -/
def f32 (v : BitVec 32) : Exact := decodeElem .f32 v.toNat

/-- RoundTo(F32, x, m) as a pattern. -/
def toF32 (m : Rnd) (x : Exact) : BitVec 32 := BitVec.ofNat 32 (roundTo .f32 m false x 0)

/-- RUP(x) of R149 as a value. -/
def rup (x : Exact) : Exact := f32 (toF32 .rup x)

/-- RDN(x) of R149 as a value. -/
def rdn (x : Exact) : Exact := f32 (toF32 .rdn x)

/-- x < y; false with a NaN (R149). -/
def exactLt (x y : Exact) : Bool := x.cmp y = some .lt

/-- The magnitude. -/
def exactAbs (x : Exact) : Exact := if x.neg then x.negate else x

/-- Gamma(n) (R149). -/
def gammaBound (n : Nat) : Exact :=
  let x := Exact.rat false n (2 ^ 24)
  rup ((rup x).div (rdn ((Exact.rat false 1 1).add true x.negate)))

/-- The upper and the lower bound on the plain sum: hi and lo of R149. -/
def bounds (p u q : Exact) (n : Nat) : Exact × Exact :=
  let b := rup (u.mul q)
  let e := rup ((gammaBound n).mul (rup ((exactAbs p).add false b)))
  (rup ((rup (p.add false b)).add false e), rdn ((rdn (p.add true b.negate)).add true e.negate))

/-- The slot of a tag in a tile (R148). -/
def CTile.slot? (c : CTile) (tag : Word) : Option Verdict := c.verdicts.find? (·.tag = tag)

/-- Write a slot back. -/
def State.putSlot (s : State) (t : TileId) (v : Verdict) : State :=
  let c := s.ctile t
  s.setCtile t { c with verdicts := c.verdicts.map fun w => if w.tag = v.tag then v else w }

/-- Free a slot (R148, R149, R151). -/
def State.freeSlot (s : State) (t : TileId) (tag : Word) : State :=
  let c := s.ctile t
  s.setCtile t { c with verdicts := c.verdicts.filter (·.tag ≠ tag) }

/-- Q, M, KIND and EPOCH of a descriptor; none is 0x200 (R147). -/
def descriptor (w : Word) : Option (BitVec 32 × Nat × Nat × Nat) :=
  let v := w.toNat
  let q := bits v 0 32
  let x := decodeElem .f32 q
  let m := bits v 32 12
  let kind := bits v 44 2
  if kind = 3 ∨ m = 0 ∨ bits v 62 2 ≠ 0 ∨ !x.finite ∨ q.testBit 31 then none
  else some (BitVec.ofNat 32 q, m, kind, bits v 46 16)

/-- The slot that VOPEN claims (R148). -/
def newSlot (op : Issued) (d : BitVec 32 × Nat × Nat × Nat) : Verdict :=
  { tag := op.tag, st := .live, p := 0, j := 0, uprev := 0x7F800000, q := d.1, m := d.2.1, kind := d.2.2.1
    epoch := d.2.2.2, theta := 0xFF800000, cell := op.tb.word, v := 0, psn := op.ta.psn
    reading := d.2.2.1 ≠ 0, opener := if d.2.2.1 = 0 then none else some op }

/-- 0x200 to 0x202 free the verdict slot of the tag (R148, R232). -/
def State.slotFault (s : State) (op : Issued) (t : TileId) (cause : Nat) : State :=
  (s.freeSlot t op.tag).opFault op cause 0 0

/-- The order token in slot p is poisoned: it poisons what the instruction emits, not the slot that it claims (R101, R336). -/
def Issued.orderPsn (op : Issued) : Bool := op.p.any (·.psn)

/-- VOPEN claims its slot: SIGN emits at once, the other kinds when the cell's reply has come. One that comes back from a
table walk to find all 64 in use waits in an entry again (R148). -/
def State.claimSlot (s : State) (op : Issued) (n : Niw) (t : TileId) (d : BitVec 32 × Nat × Nat × Nat) : State :=
  let c := s.ctile t
  if (c.slot? op.tag).isSome then s.slotFault op t 0x200
  else if 64 ≤ c.verdicts.length then s.reenter op (·.hold op .verdict) id
  else
    let s := s.setCtile t { c with verdicts := c.verdicts ++ [newSlot op d] }
    if d.2.2.1 = 0 then s.emit op n (Tok.scalar op.tag 1 true (op.ta.psn || op.orderPsn)) else s

/-- VOPEN (R147, R148, R336). -/
def execVopen (n : Niw) (s : State) : Out :=
  fire s n fun op s =>
    match op.site with
    | .block _ _ _ => s
    | .tile t =>
      s.scalars op [op.ta] fun s =>
        match descriptor op.ta.word with
        | none => s.slotFault op t 0x200
        | some d =>
          if d.2.2.1 = 0 then s.claimSlot op n t d
          else if op.tb.psn then s.opFault op 0x0C1 0 0
          else s.scalars op [op.tb] fun s =>
            match s.range op .read op.tb.word.toNat 8 8 with
            | .fault c a x => s.opFault op c a x
            | .miss va => s.awaitWalk op va
            | .ok _ => s.claimSlot op n t d

/-- The checks of a table word that raise 0x201 (R146, R149). -/
def tableWordBad (v : Verdict) (b : BitVec 32) (w : Word) : Bool :=
  let u := decodeElem .f32 (bits w.toNat 0 32)
  let j := bits w.toNat 32 12
  bits w.toNat 56 8 ≠ 0 || v.st = .complete || j ≠ v.j + 1
    || !(u.cmp (.rat false 0 1) = some .gt || u.cmp (.rat false 0 1) = some .eq)
    || u.cmp (f32 v.uprev) = some .gt
    || (j = v.m && u.cmp (.rat false 0 1) ≠ some .eq)
    || (exactAbs (f32 b)).cmp (rup ((f32 v.uprev).mul (f32 v.q))) = some .gt

/-- The verdict that the bounds allow: v of Abandon(s, v) (R149). -/
def abandonment (v : Verdict) : Option Nat :=
  if v.j < v.m ∧ (f32 v.p).finite then
    let (hi, lo) := bounds (f32 v.p) (f32 v.uprev) (f32 v.q) (v.m - v.j)
    if v.kind = 0 then
      if exactLt hi (.rat false 0 1) then some 1
      else if exactLt (.rat false 0 1) lo then some 2 else none
    else if exactLt hi (f32 v.theta) then some 0 else none
  else none

/-- A block term added to a slot (R149, R150); `psnMode` is poison mode (R101). -/
def Verdict.add (v : Verdict) (psnMode : Bool) (b : BitVec 32) (w : Word) : Verdict :=
  let p := toF32 .rne ((f32 v.p).add false (f32 b))
  let bad := psnMode && !(f32 p).finite && (f32 v.p).finite && (f32 b).finite
  let v := { v with p := p, j := bits w.toNat 32 12, uprev := BitVec.ofNat 32 (bits w.toNat 0 32),
                    psn := v.psn || bad }
  match abandonment v with
  | some k => { v with st := .abandoned, v := k }
  | none => if v.j = v.m then { v with st := .complete } else v

/-- VACC on a slot: each fault frees it and emits nothing (R149, R154). -/
def State.vaccSlot (s : State) (op : Issued) (n : Niw) (t : TileId) (v : Verdict) : State :=
  let b := BitVec.ofNat 32 op.ta.word.toNat
  let w := op.tb.word
  if op.ta.isVec || op.tb.isVec then s.slotFault op t 0x042
  else if isAbandoned b.toNat then s.slotFault op t 0x0C0
  else
    let v := { v with psn := v.psn || op.poisoned }
    if v.st = .abandoned then
      (s.putSlot t v).emit op n (Tok.scalar op.tag (word (bits w.toNat 32 12 + 1)) false v.psn)
    else if tableWordBad v b w then s.slotFault op t 0x201
    else
      let v := v.add op.mode.psn b w
      let v := { v with reading := v.reading || (v.kind ≠ 0 && v.st = .live) }
      (s.putSlot t v).emit op n (Tok.scalar op.tag (word (v.j + 1)) (v.st = .live) v.psn)

/-- VACC (R148, R149). -/
def execVacc (n : Niw) (s : State) : Out :=
  fire s n fun op s =>
    match op.site with
    | .block _ _ _ => s
    | .tile t =>
      match (s.ctile t).slot? op.tag with
      | none => s.opFault op 0x200 0 0
      | some v => s.vaccSlot op n t v

/-- VCLOSE emits its binary32 result, on which stage 5 acts (R60, R151, log 77). -/
def State.closeSlot (s : State) (op : Issued) (n : Niw) (v : Verdict) (result : Word) : State :=
  let e := { s.floatEnv op n .f32 false with fmt := .f32 }
  s.finish op n ((e.fuse (.scalar result)).map fun r => { r with psn := r.psn || v.psn })

/-- VCLOSE (R151). -/
def execVclose (n : Niw) (s : State) : Out :=
  fire s n fun op s =>
    match op.site with
    | .block _ _ _ => s
    | .tile t =>
      match (s.ctile t).slot? op.tag with
      | none => s.opFault op 0x200 0 0
      | some v =>
        let s := s.freeSlot t op.tag
        match v.st with
        | .live => s.opFault op 0x202 0 0
        | .complete => s.closeSlot op n v (word v.p.toNat)
        | .abandoned => s.closeSlot op n v (word (0x7FB00000 + v.v))

/-- The elements that VCHK reads: both of each lane that takes part, or the low one of a scalar (R336). -/
def vchkElems : Value → List Nat
  | .scalar w => [bits w.toNat 0 32]
  | v => ((lanesOf v).filterMap id).flatMap (elems .f32)

/-- VCHK (R152, R336). -/
def execVchk (n : Niw) (s : State) : Out :=
  fire s n fun op s =>
    let es := vchkElems op.ta.val
    s.emitVal op n op.ta.val (!es.isEmpty && es.all isAbandoned) op.poisoned

/- Threshold cells. -/

/-- The cell after a raise, or a cause (R153). -/
def cellRaise (cell : Word) (v : Nat) : Except Nat Word :=
  if bits cell.toNat 48 16 ≠ 0 then .error 0x201
  else if v = 0x7FB00000 then .ok cell
  else if isAbandoned v then .error 0x0C0
  else if (decodeElem .f32 v).cmp (decodeElem .f32 (bits cell.toNat 0 32)) = some .gt then
    .ok (word (cell.toNat / 2 ^ 32 * 2 ^ 32 + v))
  else .ok cell

/-- The cell after a reset, or a cause (R153). -/
def cellReset (cell : Word) (v : Nat) : Except Nat Word :=
  if bits cell.toNat 48 16 ≠ 0 then .error 0x201
  else if isAbandoned v then .error 0x0C0
  else
    let theta := if decodeElem .f32 v = .nan then 0xFF800000 else v
    .ok (word ((bits cell.toNat 32 16 + 1) % 65536 * 2 ^ 32 + theta))

/-- VTHR's completion token (R127, R153). -/
def State.thrDone (s : State) (op : Issued) (n : Niw) (noef : Bool) (cause : Nat) : State :=
  s.emitWord op n (completion 1 .whole noef cause) true

/-- A VTHR faults: it changes nothing; in fabric mode it still completes, in block mode the block stops (R45, R153). -/
def State.thrFault (s : State) (op : Issued) (n : Niw) (cause : Nat) (addr : Word) : State :=
  match op.site with
  | .tile _ => (s.opRecord op cause addr 0).thrDone op n true cause
  | .block _ _ _ => s.opFault op cause addr 0

/-- VTHR at the cell of its address (R134, R153, R336). -/
def State.thr (s : State) (op : Issued) (n : Niw) (f : Word → Nat → Except Nat Word) : State :=
  if !op.allTrue || op.anyNull then s.thrDone op n true 0
  else if op.poisoned then (s.opRecord op 0x0C1 0 0).thrDone op n true 0x0C1
  else s.scalars op [op.ta, op.tb] fun s =>
    match s.range op .both op.ta.word.toNat 8 8 with
    | .fault c a _ => s.thrFault op n c a
    | .miss va => s.awaitWalk op va
    | .ok ps =>
      match f (word (ofBytes (s.readPieces ps))) (bits op.tb.word.toNat 0 32) with
      | .error c => s.thrFault op n c op.ta.word
      | .ok w => ((s.fix op).writePieces ps (bytesOf 8 w.toNat)).thrDone op n false 0

/-- The firing of a VTHR: a null performs nothing and still completes (R336). -/
def fireThr (n : Niw) (s : State) (f : Word → Nat → Except Nat Word) : Out :=
  fireRaw s fun op s =>
    match firing n.prd op with
    | .consumed => s
    | .bubble => (s.touch op).bubble op n
    | _ => (s.touch op).thr op n f

/-- VTHR in its raise form (R153). -/
def execVthrRaise (n : Niw) (s : State) : Out := fireThr n s cellRaise

/-- VTHR in its reset form (R153, R154). -/
def execVthrReset (n : Niw) (s : State) : Out := fireThr n s cellReset

/-- A reply sets θ when its EPOCH is the descriptor's, and readies the slot (R148, R154). -/
def State.cellReply (s : State) (t : TileId) (v : Verdict) (cell : Word) : State :=
  let theta := if bits cell.toNat 32 16 = v.epoch then BitVec.ofNat 32 (bits cell.toNat 0 32) else v.theta
  let s := s.putSlot t { v with theta := theta, reading := false, opener := none }
  match v.opener with
  | none => s
  | some op => s.emit op op.niw (Tok.scalar op.tag 1 true (v.psn || op.orderPsn))

/-- The read of a tile's slots that is answered next: the oldest one outstanding whose slot is not frozen (R154, R157). -/
def CTile.reading? (c : CTile) : Option Verdict :=
  c.verdicts.find? fun v => v.reading && !(c.frozen.contains (tagCtx v.tag))

/-- VERDICT_CELL_REPLY: the read of a slot is answered. A cell that a migration has made unreadable faults and frees the
slot; one in transit is answered later (R123, R148, R154). -/
def execVerdictCellReply (t : TileId) (s : State) : Out :=
  match (s.ctile t).reading? with
  | none => .next s
  | some v =>
    match s.ctx? (tagCtx v.tag) with
    | none => .next s
    | some c =>
      match s.walkByte c.root .read v.cell.toNat with
      | .ok pa => .next (s.cellReply t v (s.wordAt pa))
      | .miss _ => .next s
      | .fault x a d => .next ((s.freeSlot t v.tag).takeFault ⟨x, .tile t, c.num, v.tag, a, d, false, false⟩)

/- Top-k lists. -/

/-- A top-k entry ranks above another: the greater value, then the lower index (R155). -/
def ranksAbove (x y : Word × Word) : Bool :=
  match (decodeElem .f32 x.1.toNat).cmp (decodeElem .f32 y.1.toNat) with
  | some .gt => true
  | some .eq => x.2.toNat < y.2.toNat
  | _ => false

/-- Value and index of an input word. -/
def candidate (w : Word) : Word × Word := (word (bits w.toNat 0 32), word (bits w.toNat 32 32))

/-- Merge one candidate into a list of at most k: abandoned values and NaNs enter nothing (R155). -/
def mergeTop (k : Nat) (l : List (Word × Word)) (x : Word × Word) : List (Word × Word) :=
  if decodeElem .f32 x.1.toNat = .nan then l else (insertBy ranksAbove x l).take k

/-- The word of an entry. -/
def entryWord (x : Word × Word) : Word := word (x.1.toNat + x.2.toNat * 2 ^ 32)

/-- The list as tokens: one vector for k ≤ 16, else one of sixteen ranks under each pushed field (R155). -/
def State.emitTop (s : State) (op : Issued) (n : Niw) (ts : List (Option Target)) (g : Word) (k : Nat) (psn : Bool)
    (es : List (Word × Word)) : List Nat → State
  | [] => s
  | i :: is =>
    let part := ((es.drop (16 * i)).take 16).map entryWord
    let v := ofLanes true (part.map fun w => some w.toNat)
    match (if k ≤ 16 then some g else pushField (s.widths op) g i) with
    | none => s.opFault op 0x081 0 0
    | some tag => (s.emitTo op ts ⟨tag, v, true, psn, false⟩).emitTop op n ts g k psn es is

/-- VTOPK takes one input: its count is tested before its values (R155). -/
def State.topkInput (s : State) (op : Issued) (n : Niw) (t : TileId) (c : Ctx) (g : Word) (ins : List Word) :
    State :=
  let k := bits n.imm.toNat 0 6 + 1
  let total := op.tb.word.toNat
  let stream := n.imm.getLsbD 6
  let old := s.takeAgg t c g op.node
  let (total', counted, es, psn) := match old.1 with
    | some { agg := .topk _ a b c d, .. } => (a, b, c, d)
    | _ => (total, 0, [], false)
  if total' ≠ total ∨ total ≤ counted then s.opFault op 0x180 0 0
  else if ins.any fun w => let v := bits w.toNat 0 32; isAbandoned v && v ≠ 0x7FB00000 then s.opFault op 0x0C0 0 0
  else
      let es := (ins.map candidate).foldl (mergeTop k) es
      let psn := psn || op.poisoned
      let s := old.2
      let s := if counted + 1 < total then
          s.putAgg t c.launch { Entry.new g op.node with agg := .topk k total (counted + 1) es psn }
        else s
      let theta := if k ≤ es.length then (nth (0, 0) es (k - 1)).1 else 0xFF800000
      let s := if stream then s.emit1 op n.t2 (Tok.scalar op.tag theta true psn) else s
      if counted + 1 < total then s
      else s.emitTop op n (if stream then [n.t0, n.t1] else [n.t0, n.t1, n.t2]) g k psn es
        (List.range ((k + 15) / 16))

/-- VTOPK (R155, R176, R336). -/
def execVtopk (n : Niw) (s : State) : Out :=
  fire s n fun op s =>
    match op.site, s.ctx? op.ctx with
    | .tile t, some c => s.scalars op [op.tb] fun s =>
      let total := op.tb.word.toNat
      if total = 0 ∨ 2 ^ 20 < total then s.opFault op 0x041 0 0
      else if n.imm.getLsbD 7 then
        if !op.ta.isVec then s.opFault op 0x042 0 0
        else s.topkInput op n t c op.tag (((lanesOf op.ta.val).filterMap id).map word)
      else s.scalars op [op.ta] fun s =>
        match popField (s.widths op) op.tag with
        | none => s.opFault op 0x082 0 0
        | some g => s.topkInput op n t c g [op.ta.word]
    | _, _ => s

end Sys2Proof.Machine
end

