-- ==== Sys2Proof/Machine/Stream.lean ====
section
/-!
DEFINITION. Stream accumulators, 0xB8 to 0xBD: rows and their stripes (R158, R159, R161), the checks of R312 and R313,
adds (R162), reads through the normalising port (R164), counts (R165) and row images (R166 to R168).
-/

namespace Sys2Proof.Machine

/- Rows. -/

/-- The stripe tiles of a mask, by number in the region (R159). -/
def stripes (smask : Nat) : List Nat := setBits smask 16

/-- L = ⌈n / S⌉ (R159). -/
def stripeLen (n smask : Nat) : Nat :=
  let k := (stripes smask).length
  if k = 0 then 0 else (n + k - 1) / k

/-- The row record of a number in a tile. -/
def MTile.row? (m : MTile) (num : Nat) : Option Row := m.rows.find? (·.num = num)

/-- Write a row record into a tile, in place of the one of its number. -/
def State.putRow (s : State) (t : TileId) (x : Row) : State :=
  let m := s.mtile t
  s.setMtile t { m with rows := m.rows.filter (·.num ≠ x.num) ++ [x] }

/-- Undefine a row number in a tile. -/
def State.dropRow (s : State) (t : TileId) (num : Nat) : State :=
  let m := s.mtile t
  s.setMtile t { m with rows := m.rows.filter (·.num ≠ num) }

/-- The tile and the byte address of column c of a row (R159). -/
def elemPlace (r : Nat) (x : Row) (c : Nat) : TileId × Nat :=
  let l := stripeLen x.n x.smask
  (memTile r (nth 0 (stripes x.smask) (c / l)), 8 * (x.base + c % l))

/-- Element c of a row, in units of 2⁻²⁴ (R158). -/
def State.elem (s : State) (r : Nat) (x : Row) (c : Nat) : Int :=
  let p := elemPlace r x c
  signedOf 48 (ofBytes (s.readBank p.1 p.2 8))

/-- Store element c and keep its stripe's Σ exact (R162). -/
def State.setElem (s : State) (r : Nat) (x : Row) (c : Nat) (y : Int) : State :=
  let p := elemPlace r x c
  let old := s.elem r x c
  let s := s.writeBank p.1 p.2 (bytesOf 8 (wrapInt 48 y))
  match (s.mtile p.1).row? x.num with
  | none => s
  | some z => s.putRow p.1 { z with sigma := ((z.sigma : Int) + y * y - old * old).toNat }

/-- Store several elements. -/
def State.setElems (s : State) (r : Nat) (x : Row) : List (Nat × Int) → State
  | [] => s
  | e :: es => (s.setElem r x e.1 e.2).setElems r x es

/-- The total Σ over the stripes of a row (R164). -/
def State.sigma (s : State) (r : Nat) (x : Row) : Nat :=
  ((stripes x.smask).map fun k =>
    match (s.mtile (memTile r k)).row? x.num with
    | some z => z.sigma
    | none => 0).foldl (· + ·) 0

/-- Change the record of a row at its home, which keeps its count and flags. -/
def State.mapRow (s : State) (t : TileId) (num : Nat) (f : Row → Row) : State :=
  let m := s.mtile t
  s.setMtile t { m with rows := m.rows.map fun x => if x.num = num then f x else x }

/-- Undefine a row in every stripe tile. -/
def State.undefineRow (s : State) (r : Nat) (x : Row) : State :=
  (stripes x.smask).foldl (fun s k => s.dropRow (memTile r k) x.num) s

/- Checks and replies. -/

/-- The reply of a stream accumulator instruction: to TGT1 and TGT2 in fabric mode (R160, R105). -/
def State.sacReply (s : State) (op : Issued) (n : Niw) (v : Value) (psn : Bool) : State :=
  let ts := match op.site with
    | .tile _ => [n.t1, n.t2]
    | .block _ _ _ => [n.t0, n.t1, n.t2]
  s.emitTo op ts ⟨op.tag, v, true, psn, false⟩

/-- The completion word (R127, R312). -/
def State.sacDone (s : State) (op : Issued) (n : Niw) (scope : Scope) (noef : Bool) (cause : Nat) : State :=
  s.sacReply op n (.scalar (completion 1 scope noef cause)) op.poisoned

/-- SAADD, SAZRO, SAEVC and SALOD emit a completion word on a fault, SANRM and SACNT nothing (R312). -/
def sacCompletes (op : Issued) : Bool :=
  let o := bits op.word.toNat 56 8
  o ≠ 0xB9 && o ≠ 0xBA

/-- A fault of a stream accumulator instruction (R45, R312). -/
def State.sacFault (s : State) (op : Issued) (n : Niw) (place : Place) (scope : Scope) (cause : Nat)
    (addr detail : Word) : State :=
  let s := s.faultAt op place cause addr detail
  if !siteIsBlock op.site && sacCompletes op then s.sacDone op n scope true cause else s

/-- The scope of a row: one tile, or the region when it is striped (R128). -/
def rowScope (smask : Nat) : Scope := if (stripes smask).length ≤ 1 then .tile else .region

/-- The home tile: of TGT0's KIND 01 route, or tile HT of the control tile's region; none is 0x103 (R160, R312). -/
def State.sacHome (s : State) (op : Issued) (n : Niw) : Option TileId :=
  let t : Option TileId := match op.site with
    | .tile _ => match s.homeTile op n with
      | some (t, _) => some t
      | none => none
    | .block r _ _ => some (memTile r (bits op.ta.word.toNat 60 4))
  t.bind fun t => if (s.mtile t).mode? = some 4 then some t else none

/-- The scope of an add: of its row where the tile that it names holds it, whatever then fails (R128, R312). -/
def State.addScope (s : State) (op : Issued) (n : Niw) : Scope :=
  match (s.sacHome op n).bind fun t => (s.mtile t).row? (bits op.address.toNat 0 8) with
  | some x => rowScope x.smask
  | none => .tile

/-- The scope of a definition: of the row that its word places (R128, R312). -/
def defineScope (op : Issued) : Scope := rowScope (bits op.address.toNat 41 16)

/-- ADDR of a fault at the image of SAEVC and SALOD: the image address for 0x102 and 0x103, else the access or definition
word (R312). -/
def imageAddr (op : Issued) (cause : Nat) : Word := if cause = 0x102 ∨ cause = 0x103 then op.tb.word else op.ta.word

/-- A nonzero reserved bit of an access word: CM1 is SANRM's alone, HT the block mode's (R161). -/
def accessBad (op : Issued) (nrm : Bool) : Bool :=
  let w := op.ta.word.toNat
  bits w 30 30 ≠ 0 || (!nrm && bits w 24 6 ≠ 0) || (!siteIsBlock op.site && bits w 60 4 ≠ 0)

/-- A nonzero reserved bit of a definition word (R161). -/
def definitionBad (op : Issued) (load : Bool) : Bool :=
  let w := op.ta.word.toNat
  bits w 58 2 ≠ 0 || (load && (bits w 8 16 ≠ 0 || bits w 57 1 ≠ 0)) || (!siteIsBlock op.site && bits w 60 4 ≠ 0)

/-- Steps 2 and 3 of R312 over operands that are scalars; then the home, awake. -/
def State.sacChecked (s : State) (op : Issued) (n : Niw) (scalars : List Tok) (bad : Bool) (scope : Scope)
    (k : State → TileId → State) : State :=
  let w := op.ta.word
  if scalars.any (·.isVec) then s.sacFault op n op.place scope 0x042 op.address 0
  else if n.ari.toNat = 3 && 2 ^ 32 ≤ op.tc.word.toNat then s.sacFault op n op.place scope 0x243 w 0
  else if bad then s.sacFault op n op.place scope 0x041 w 0
  else match s.sacHome op n with
    | none => s.sacFault op n op.place scope 0x103 w 0
    | some t => if (s.mtile t).asleep then s.waitAt t op else k (s.fix op) t

/-- Step 4 of R312: the row is defined and the receiving tile is its home. -/
def State.withRow (s : State) (op : Issued) (n : Niw) (t : TileId) (scope : Scope) (k : Row → State) : State :=
  match (s.mtile t).row? (bits op.ta.word.toNat 0 8) with
  | some x => if x.home = memIndex t then k x else s.sacFault op n (.tile t) scope 0x240 op.ta.word 0
  | none => s.sacFault op n (.tile t) scope 0x240 op.ta.word 0

/- Adds. -/

/-- ToFixed of R162: the exact integer, or a cause; in trap mode a NaR is 0x0C3 (R101). -/
def toFixed (f : Fmt) (mode : Rnd) (ntrp : Bool) (v : Nat) : Except Nat Int :=
  if f = .s64 then .ok (signedOf 64 v)
  else if abandonedElem f v then .error 0x0C0
  else if ntrp && isNaR f v then .error 0x0C3
  else match decodeElem f v with
    | .nan => .error 0x0C5
    | .inf neg => .ok (if neg then -((2 ^ 48 : Nat) : Int) else (2 ^ 48 : Nat))
    | x => .ok (roundToInt mode (x.scale 24) 0)

/-- How pass 1 of R162 ends: the new elements and whether some saturated, or a cause, DETAIL, and the flags set. -/
inductive AddPass where
  | ok (ys : List (Nat × Int)) (sat : Bool)
  | fault (cause detail : Nat) (sat psn : Bool)

/-- Pass 1 of SaAdd over the elements that take part, in order (R162). -/
def addPass (s : State) (r : Nat) (x : Row) (f : Fmt) (mode : Rnd) (ntrp : Bool) (c0 : Nat) :
    List (Nat × Nat) → AddPass
  | [] => .ok [] false
  | (e, v) :: es =>
    let c := c0 + e
    if x.n ≤ c then .fault 0x241 c false true
    else match toFixed f mode ntrp v with
      | .error k => .fault k 0 false true
      | .ok d =>
        let y := s.elem r x c + d
        let top : Int := (2 ^ 47 : Nat)
        let out : Bool := top ≤ y ∨ y < -top
        if out && x.trap then .fault 0x242 0 true true
        else
          let y := max (-top) (min (top - 1) y)
          match addPass s r x f mode ntrp c0 es with
          | .ok ys sat => .ok ((c, y) :: ys) (sat || out)
          | .fault k d sat psn => .fault k d (sat || out) psn

/-- SaAdd (R162). -/
def State.sacAdd (s : State) (op : Issued) (n : Niw) (t : TileId) (x : Row) : State :=
  let r := regionOf t
  let scope := rowScope x.smask
  let w := op.ta.word
  if x.count = 0xFFFFFFFF then s.sacFault op n (.tile t) scope 0x243 w 0
  else
    let s := s.mapRow t x.num fun x => { x with count := x.count + 1 }
    if !op.allTrue || op.anyNull then s.sacDone op n scope true 0
    else if op.poisoned then
      (s.mapRow t x.num fun x => { x with psn := true }).sacFault op n (.tile t) scope 0x0C1 w 0
    else
      let es := ((positions n.fmt op.tb.val).zipIdx).filterMap fun p => p.1.map fun v => (p.2, v)
      match addPass s r x n.fmt (op.mode.resolve n.rnd) op.mode.ntrp (bits w.toNat 8 16) es with
      | .ok ys sat =>
        ((s.mapRow t x.num fun x => { x with sat := x.sat || sat }).setElems r x ys).sacDone op n scope false 0
      | .fault c d sat psn =>
        (s.mapRow t x.num fun x => { x with sat := x.sat || sat, psn := x.psn || psn }).sacFault op n (.tile t) scope c w
          (word d)

/-- SAADD: an add with a predicate of 0 under PRD 00, or a null, is counted with no effect (R162, R312, R313). -/
def execSaadd (n : Niw) (s : State) : Out :=
  fireRaw s fun op s =>
    match firing n.prd op with
    | .consumed => s
    | .bubble => s.bubble op n
    | _ => s.sacChecked op n [op.ta] (accessBad op false || stoBad op n (n.fmt ≠ .s64)) (s.addScope op n) fun s t =>
      s.withRow op n t (s.addScope op n) fun x => s.sacAdd op n t x

/- Reads. -/

/-- The gain of element i (R164). -/
def gainAt (v : Value) (i : Nat) : Nat :=
  match v with
  | .scalar w => bits w.toNat 0 32
  | .vector ls m => if m.getLsbD (i / 2) then bits (nth 0 ls (i / 2)).toNat (32 * (i % 2)) 32 else 0x3F800000

/-- RoundTo(F64, x, RNE) as a value. -/
def rne64 (x : Exact) : Exact := decodeElem .f64 (roundTo .f64 .rne false x 0)

/-- rs of R164 from the total Σ, the length and ε. -/
def rowScale (sigma n : Nat) (eps : Word) : Exact :=
  let sq := rne64 (.rat false sigma 1)
  let ms := rne64 ((sq.scale (-48)).div (.rat false n 1))
  let v := rne64 (ms.add false (decodeElem .f64 eps.toNat))
  rne64 v.rsqrt

/-- The columns that SANRM emits, with the poison of R101; in a tapered format every NaR poisons (R98, R164). -/
def State.nrmElems (s : State) (op : Issued) (n : Niw) (r : Nat) (x : Row) (col c : Nat) : List (Nat × Bool) :=
  let rs := rowScale (s.sigma r x) x.n x.eps
  (List.range c).map fun i =>
    let g := decodeElem .f32 (gainAt op.tb.val i)
    let v := s.elem r x (col + i)
    let y := ((exactInt v).scale (-24)).mul rs |>.mul g
    let e := roundTo n.fmt (op.mode.resolve n.rnd) (n.imm.getLsbD 0) y 0
    (e, op.mode.psn && (g.finite || tapered n.fmt) && nonFinite n.fmt e)

/-- A SANRM or SAEVC that waits at its home for a count. -/
def isCountWait (op : Issued) : Bool :=
  let o := bits op.word.toNat 56 8
  op.node < 1024 && (o = 0xB9 || o = 0xBC)

/-- The waiting reads of a home tile: the first 64 of those that have reached it; any more stand on their channels (R164). -/
def MTile.reads (m : MTile) : List Issued := (m.waiting.filter isCountWait).take 64

/-- A read must wait: its row has not reached the required count, or it arrives where the tile holds 64 waiting reads already
(R164). -/
def MTile.readWaits (m : MTile) (x : Row) (op : Issued) : Bool :=
  x.count < op.tc.word.toNat || (op.count = 0 && 64 ≤ m.reads.length)

/-- SANRM on a row whose count has been reached; stage 5 acts on what it emits (R60, R164). -/
def State.sacNorm (s : State) (op : Issued) (n : Niw) (t : TileId) (x : Row) : State :=
  let w := op.ta.word.toNat
  let col := bits w 8 16
  let c := bits w 24 6 + 1
  if 32 < c ∨ 16 * n.fmt.perLane < c ∨ x.n < col + c then
    s.sacFault op n (.tile t) .tile 0x241 op.ta.word (word (col + c - 1))
  else if (s.mtile t).readWaits x op then s.waitAt t op
  else if (List.range c).any fun i => isAbandoned (gainAt op.tb.val i) then
    s.sacFault op n (.tile t) .tile 0x0C0 op.ta.word 0
  else
    let es := s.nrmElems op n (regionOf t) x col c
    match (s.floatEnv op n n.fmt false).fuse (packLanes n.fmt (es.map fun e => some e.1)) with
    | .ok y => s.sacReply op n y.val (x.psn || op.poisoned || es.any (·.2) || y.psn)
    | .error (cause, _) => s.sacFault op n op.place .tile cause op.ta.word 0

/-- SANRM (R164, R312, R313). -/
def execSanrm (n : Niw) (s : State) : Out :=
  fire s n fun op s =>
    s.sacChecked op n [op.ta, op.tc] (accessBad op true || stoBad op n true) .tile fun s t =>
      s.withRow op n t .tile fun x => s.sacNorm op n t x

/-- The status word of a row (R165). -/
def rowStatus (x : Row) : Word :=
  word (x.count + x.sat.toNat * 2 ^ 32 + x.psn.toNat * 2 ^ 33 + x.trap.toNat * 2 ^ 34 + 2 ^ 35)

/-- SACNT: a row that is undefined at the tile, or has another home, reads as 0 (R165, R312, R313). -/
def execSacnt (n : Niw) (s : State) : Out :=
  fire s n fun op s =>
    s.sacChecked op n [op.ta] (accessBad op false) .tile fun s t =>
      let v := match (s.mtile t).row? (bits op.ta.word.toNat 0 8) with
        | some x => if x.home = memIndex t then rowStatus x else 0
        | none => 0
      s.sacReply op n (.scalar v) op.poisoned

/- Definitions and images. -/

/-- The instructions that act as sinks (R313). -/
def fireSac (n : Niw) (s : State) (scope : Issued → Scope) (body : Issued → State → State) : Out :=
  fireRaw s fun op s =>
    match firing n.prd op with
    | .consumed => s
    | .bubble => (s.touch op).bubble op n
    | _ =>
      let s := s.touch op
      if !op.allTrue || op.anyNull then s.sacDone op n (scope op) true 0
      else if op.poisoned then (s.opRecord op 0x0C1 op.address 0).sacDone op n (scope op) true 0x0C1
      else body op s

/-- ε is negative, infinite or NaN (R161, R168). -/
def epsBad (w : Word) : Bool := w.getLsbD 63 || !(decodeElem .f64 w.toNat).finite

/-- A row of this geometry may stand in a stripe tile: an SACC tile of the configuration, the number not held for
another home, no overlap with another row (R159, R161). -/
def stripeOk (s : State) (home k : Nat) (ctx : Option Nat) (r : Nat) (x : Row) : Bool :=
  let m := s.mtile (memTile r k)
  let l := stripeLen x.n x.smask
  m.mode? = some 4 && (m.active.map (·.ctx)) = ctx && m.rows.all fun y =>
    if y.num = x.num then y.home = home
    else y.base + stripeLen y.n y.smask ≤ x.base || x.base + l ≤ y.base

/-- The geometry of a definition is within the limits; otherwise 0x240 (R159, R161). -/
def geometryOk (s : State) (t : TileId) (x : Row) : Bool :=
  let r := regionOf t
  let ks := stripes x.smask
  memIndex t ∈ ks && x.base + stripeLen x.n x.smask ≤ 131072
    && ks.all fun k => stripeOk s (memIndex t) k ((s.mtile t).active.map (·.ctx)) r x

/-- Define a row in every stripe tile with zero elements: the row's own old definition goes first (R161). -/
def State.defineRow (s : State) (t : TileId) (x : Row) : State :=
  let r := regionOf t
  let s := match (s.mtile t).row? x.num with
    | some old => s.undefineRow r old
    | none => s
  (stripes x.smask).foldl (fun s k =>
    let u := memTile r k
    let m := s.mtile u
    let l := stripeLen x.n x.smask
    (s.setMtile u { m with banks := cellsZero m.banks (8 * x.base) (8 * l) }).putRow u x) s

/-- A stripe tile that sleeps. -/
def State.sleeping (s : State) (t : TileId) (x : Row) : Option TileId :=
  ((stripes x.smask).map (memTile (regionOf t))).find? fun u => (s.mtile u).asleep

/-- The row that a definition word places (R161). -/
def rowOf (t : TileId) (w n : Nat) (eps : Word) (trap : Bool) : Row :=
  { num := bits w 0 8, home := memIndex t, n := n, eps := eps, trap := trap, sat := false, psn := false, count := 0
    base := bits w 24 17, smask := bits w 41 16, sigma := 0 }

/-- Place a row, or fault; it waits for a stripe tile that sleeps (R117, R161). -/
def State.place (s : State) (op : Issued) (n : Niw) (t : TileId) (x : Row) (k : State → State) : State :=
  if !geometryOk s t x then s.sacFault op n (.tile t) (rowScope x.smask) 0x240 op.ta.word 0
  else match s.sleeping t x with
    | some u => s.waitAt u op
    | none => (k (s.defineRow t x)).sacDone op n (rowScope x.smask) false 0

/-- SAZRO (R161, R312, R313). -/
def execSazro (n : Niw) (s : State) : Out :=
  fireSac n s defineScope fun op s =>
    s.sacChecked op n [op.ta, op.tb] (definitionBad op false) (defineScope op) fun s t =>
      let w := op.ta.word.toNat
      if epsBad op.tb.word then s.sacFault op n (.tile t) (defineScope op) 0x240 op.ta.word 0
      else s.place op n t (rowOf t w (bits w 8 16 + 1) op.tb.word (w.testBit 57)) id

/-- The image of a row (R166). -/
def State.rowImage (s : State) (r : Nat) (x : Row) : List Byte :=
  bytesOf 8 (x.num + x.sat.toNat * 2 ^ 8 + x.psn.toNat * 2 ^ 9 + x.trap.toNat * 2 ^ 10 + (x.n - 1) * 2 ^ 16
      + x.count * 2 ^ 32)
    ++ bytesOf 8 x.eps.toNat ++ bytesOf 16 (s.sigma r x)
    ++ (List.range x.n).flatMap fun c => bytesOf 6 (wrapInt 48 (s.elem r x c))

/-- The waiting reads of an evicted row end with 0x240 (R167). -/
def State.endReads (s : State) (t : TileId) (num : Nat) : State :=
  let m := s.mtile t
  let of' (op : Issued) : Bool := m.reads.contains op && bits op.ta.word.toNat 0 8 = num
  (m.waiting.filter of').foldl (fun s op => s.sacFault op op.niw (.tile t) (if op.opc = 0xBC then .whole else .tile) 0x240
    op.ta.word 0) (s.setMtile t { m with waiting := m.waiting.filter (!of' ·) })

/-- SAEVC on a row (R167). -/
def State.sacEvict (s : State) (op : Issued) (n : Niw) (t : TileId) (x : Row) : State :=
  if (s.mtile t).readWaits x op then s.waitAt t op
  else
    match s.range op .write op.tb.word.toNat (32 + 6 * x.n) 16 with
    | .fault c _ _ => s.sacFault op n op.place .whole c (imageAddr op c) 0
    | .miss va => s.awaitWalk op va
    | .ok ps =>
      let s := s.writePieces ps (s.rowImage (regionOf t) x)
      (if n.imm.getLsbD 0 then (s.undefineRow (regionOf t) x).endReads t x.num else s).sacDone op n .whole false 0

/-- SAEVC (R167, R312, R313). -/
def execSaevc (n : Niw) (s : State) : Out :=
  fireSac n s (fun _ => .whole) fun op s =>
    s.sacChecked op n [op.ta, op.tb, op.tc] (accessBad op false) .whole fun s t =>
      s.withRow op n t .whole fun x => s.sacEvict op n t x

/-- What an image holds, if it passes its checks (R166, R168): the row with the placement of a definition word, and its
elements. -/
def imageRow (t : TileId) (w : Nat) (bs : List Byte) : Option (Row × List Int) :=
  let h := ofBytes (bs.take 8)
  let n := bits h 16 16 + 1
  let eps := word (ofBytes ((bs.drop 8).take 8))
  let sigma := ofBytes ((bs.drop 16).take 16)
  let xs := (List.range n).map fun i => signedOf 48 (ofBytes ((bs.drop (32 + 6 * i)).take 6))
  let total := (xs.map fun x => x * x).foldl (· + ·) 0
  if bits h 11 5 ≠ 0 ∨ epsBad eps ∨ (sigma : Int) ≠ total then none
  else some ({ rowOf t w n eps (h.testBit 10) with sat := h.testBit 8, psn := h.testBit 9, count := bits h 32 32 }, xs)

/-- SALOD reads and checks the image, then places the row (R168). -/
def State.sacLoad (s : State) (op : Issued) (n : Niw) (t : TileId) : State :=
  let a := op.tb.word.toNat
  let scope := defineScope op
  let read (k : List Byte → State) (len : Nat) : State :=
    match s.readVirt op a len 16 with
    | .fault c _ _ => s.sacFault op n op.place scope c (imageAddr op c) 0
    | .miss va => s.awaitWalk op va
    | .ok bs => k bs
  read (fun head => read (fun bs =>
    match imageRow t op.ta.word.toNat bs with
    | none => s.sacFault op n (.tile t) scope 0x244 op.tb.word 0
    | some (x, xs) => s.place op n t x fun s => s.setElems (regionOf t) x ((xs.zipIdx).map fun e => (e.2, e.1)))
    (32 + 6 * (bits (ofBytes (head.take 8)) 16 16 + 1))) 32

/-- SALOD (R168, R312, R313). -/
def execSalod (n : Niw) (s : State) : Out :=
  fireSac n s defineScope fun op s =>
    s.sacChecked op n [op.ta, op.tb] (definitionBad op true) (defineScope op) fun s t => s.sacLoad op n t

/-- A waiting read may go on: its row holds the required count, or is undefined here (R164, R167, R169). -/
def countReached (m : MTile) (t : TileId) (op : Issued) : Bool :=
  match m.row? (bits op.ta.word.toNat 0 8) with
  | some x => x.home ≠ memIndex t || op.tc.word.toNat ≤ x.count
  | none => true

/-- SANRM_COUNT_REACHED: the oldest waiting read whose count has been reached issues again (R164, R167, R169). -/
def execSanrmCountReached (t : TileId) (s : State) : Out :=
  let m := s.mtile t
  if m.asleep ∨ s.issue.isSome then .next s
  else match takeFirst (fun op => m.reads.contains op && countReached m t op) m.waiting with
    | none => .next s
    | some (op, rest) => .next { s.setMtile t { m with waiting := rest } with issue := some { op with count := 1 } }

end Sys2Proof.Machine
end

