-- ==== Sys2Proof/Machine/Lace.lean ====
section
/-!
DEFINITION. Lace arrays, 0xC0 to 0xC5: graphs (R73, R74, R197), streams and handles (R199, R200), the step and its
reports (R201 to R206), feeding (R207, R289), queries (R208), save images (R209 to R211) and LDROP (R212).
-/

namespace Sys2Proof.Machine

/- Graphs. -/

/-- A state cell of its two words; none where a rule of R74 is broken. -/
def cellOf (ncell nset : Nat) (a b : Word) : Option Cell :=
  let a := a.toNat
  let b := b.toNat
  let c : Cell := ⟨bits a 62 2, bits a 54 8, bits a 44 10, bits a 42 2, bits a 26 16, a.testBit 23, bits b 50 14,
    bits b 41 9⟩
  if bits a 24 2 ≠ 0 ∨ bits a 0 23 ≠ 0 ∨ bits b 0 41 ≠ 0 ∨ nset ≤ c.cset ∨ 256 < c.scnt ∨ ncell < c.sbase + c.scnt
      ∨ (c.rule ≠ 0 ∧ c.rpt ≠ 3) ∨ (c.ssym ≠ 0 ∧ c.sact = 3) then none
  else some c

/-- A graph of the words of its section: header, body and check word; none is 0x283 with DETAIL 2 (R67, R73, R74). -/
def graphOf (ws : List Word) : Option Graph :=
  let h := (nth 0 ws 0).toNat
  let cw := (nth 0 ws 1).toNat
  let ncell := bits cw 0 15
  let nset := bits cw 15 11
  let stb := bits cw 26 14
  let stn := bits cw 40 9
  let check := ws.getLastD 0
  let table := (ws.drop 2).take 16384
  let setWords := (ws.drop 16386).take (4 * nset)
  let cellWords := ws.drop (16386 + 4 * nset)
  if bits h 56 8 ≠ 4 ∨ bits h 0 24 ≠ 0 ∨ bits cw 49 15 ≠ 0 ∨ ncell = 0 ∨ 16384 < ncell ∨ nset = 0 ∨ 1024 < nset
      ∨ stn = 0 ∨ 256 < stn ∨ ncell < stb + stn ∨ ws.length ≠ 3 + 16384 + 4 * nset + 2 * ncell
      ∨ crcWords ws.dropLast ≠ check ∨ table.any (fun w => w &&& 0x7F007F007F007F00 ≠ 0) then none
  else
    ((List.range ncell).mapM fun k => cellOf ncell nset (nth 0 cellWords (2 * k)) (nth 0 cellWords (2 * k + 1))).map
      fun cells =>
        { cells := cells
          sets := (List.range nset).map fun k => ofBytes (wordBytes ((setWords.drop (4 * k)).take 4))
          table := table, stb := stb, stn := stn, check := check }

/-- The class-table entry of a symbol: SVAL and BCLS (R73). -/
def Graph.entry (g : Graph) (sym : Nat) : Bool × Nat :=
  let e := bits (nth 0 g.table (sym / 4)).toNat (16 * (sym % 4)) 16
  (e.testBit 15, bits e 0 8)

/-- A state cell by index. -/
def Graph.cell (g : Graph) (k : Nat) : Cell := nth ⟨0, 0, 0, 0, 0, false, 0, 0⟩ g.cells k

/-- The successors of a configuration's cell: the start cells for the pre-start one (R74, R201). -/
def Graph.succ (g : Graph) : Option Nat → List Nat
  | none => (List.range g.stn).map (g.stb + ·)
  | some c => let x := g.cell c; (List.range x.scnt).map (x.sbase + ·)

/- Configurations and nodes. -/

/-- Lexicographic order of stacks read from the bottom, a prefix first (R209). -/
def stackLt : List (Nat × Nat) → List (Nat × Nat) → Bool
  | [], [] => false
  | [], _ :: _ => true
  | _ :: _, [] => false
  | x :: xs, y :: ys =>
    if x.1 < y.1 then true else if y.1 < x.1 then false
    else if x.2 < y.2 then true else if y.2 < x.2 then false else stackLt xs ys

/-- Canonical order: by cell, then by stack (R209). -/
def confLt (x y : Conf) : Bool :=
  let a := x.cell.getD 0
  let b := y.cell.getD 0
  a < b || (a = b && stackLt x.stack y.stack)

/-- Add an element that is not in the list yet. -/
def addNew {α : Type} [DecidableEq α] (l : List α) (a : α) : List α := if a ∈ l then l else l ++ [a]

/-- The nodes of one stack, bottom first: each is the chain below and including it (R201). -/
def nodesOf (stack : List (Nat × Nat)) : List (List (Nat × Nat)) :=
  (List.range stack.length).map fun i => stack.take (i + 1)

/-- The distinct nodes that configurations reach, in the order of their first appearance (R209). -/
def nodeList (cs : List Conf) : List (List (Nat × Nat)) :=
  cs.foldl (fun l c => (nodesOf c.stack).foldl addNew l) []

/-- The configurations of every stream of an array. -/
def LaceArray.confs (a : LaceArray) : List Conf := a.slots.flatMap (·.confs)

/-- The stack after a cell's action, if it is possible (R201). -/
def stackAct (c : Cell) (pos : Nat) (s : List (Nat × Nat)) : Option (List (Nat × Nat)) :=
  match c.sact with
  | 0 => some s
  | 1 => some (s ++ [(pos % 2 ^ 32, c.ssym)])
  | 2 => match s.getLast? with
    | some t => if t.2 = c.ssym then some s.dropLast else none
    | none => none
  | _ => if s = [] then none else some s.dropLast

/-- What one configuration becomes on a symbol, each with its predecessor's stack (R201). -/
def confStep (g : Graph) (pos : Nat) (bcls : Nat) (c : Conf) : List (Conf × List (Nat × Nat)) :=
  (g.succ c.cell).filterMap fun k =>
    let x := g.cell k
    if (nth 0 g.sets x.cset).testBit bcls then
      (stackAct x (pos + 1) c.stack).map fun s => (⟨some k, s⟩, c.stack)
    else none

/-- Add a configuration unless an equal one is present: an equal pair enters once (R201), with its first predecessor in
canonical order (log 30). -/
def addConf (l : List (Conf × List (Nat × Nat))) (x : Conf × List (Nat × Nat)) : List (Conf × List (Nat × Nat)) :=
  if l.any (·.1 = x.1) then l else l ++ [x]

/-- The successor set of a stream on a symbol, in canonical order, with predecessors' stacks (R201). -/
def nextConfs (g : Graph) (st : Stream) (sym : Nat) : List (Conf × List (Nat × Nat)) :=
  let (sval, bcls) := g.entry sym
  if !sval then []
  else
    let l := (st.confs.flatMap (confStep g st.pos bcls)).foldl addConf []
    sortBy (fun (x y : Conf × List (Nat × Nat)) => confLt x.1 y.1) l

/-- The base classes that may come next, as a 256-bit map (R208). -/
def nextClasses (g : Graph) (st : Stream) : Nat :=
  ((st.confs.flatMap fun c => (g.succ c.cell).filterMap fun k =>
    let x := g.cell k
    (stackAct x (st.pos + 1) c.stack).map fun _ => nth 0 g.sets x.cset).foldl (· ||| ·) 0)

/- Records. -/

/-- EREG of a bind word (R199). -/
def bindRegion (w : Word) : Nat := bits w.toNat 3 6
/-- FEN. -/
def bindFen (w : Word) : Bool := w.getLsbD 9
/-- The FIFO tile. -/
def bindTile (w : Word) : TileId := ⟨dieOf (bits w.toNat 10 1), bits w.toNat 11 5, bits w.toNat 16 5⟩

/-- The eight words of a FIFO record (R206). -/
def fifoRecord (kind slot arr pos seq : Nat) (w2 w3 w4 w5 : Nat) : List Byte :=
  bytesOf 8 (kind + slot * 2 ^ 8 + arr * 2 ^ 12 + pos % 2 ^ 32 * 2 ^ 16) ++ bytesOf 8 seq ++ bytesOf 8 w2 ++ bytesOf 8 w3
    ++ bytesOf 8 w4 ++ bytesOf 8 w5 ++ bytesOf 8 0 ++ bytesOf 8 0

/-- START and PARENT of a tree record: of the popped node where the cell pops, else of the position and the new top
(R204). -/
def treeSpan (c : Cell) (pos : Nat) (before after : List (Nat × Nat)) : Nat × Nat :=
  let none' := 0xFFFFFFFF
  let top (s : List (Nat × Nat)) : Nat := match s.getLast? with | some t => t.1 | none => none'
  if 2 ≤ c.sact then (top before, top before.dropLast) else (pos % 2 ^ 32, top after)

/-- The records of a step without their sequence numbers, in order (R204); none is one that is not written. -/
def stepRecords (g : Graph) (arr slot : Nat) (st : Stream) (ns : List (Conf × List (Nat × Nat))) :
    List (Nat → Option LaceOut) :=
  let pos := st.pos
  let fen := bindFen st.bind
  let at' (x : Conf × List (Nat × Nat)) : Nat := x.1.cell.getD 0
  let cells := (ns.map at').foldl addNew []
  let mask : List (Nat → Option LaceOut) :=
    if cells.any fun k => (g.cell k).rpt = 1 then
      [fun seq => if fen then
          let m := nextClasses g st
          some (.fifo (bindTile st.bind)
            (fifoRecord 1 slot arr pos seq (bits m 0 64) (bits m 64 64) (bits m 128 64) (bits m 192 64)))
        else none]
    else []
  let perCell (k : Nat) : List (Nat → Option LaceOut) :=
    let c := g.cell k
    let mine := ns.filter fun x => at' x = k
    match c.rpt with
    | 2 => [fun (seq : Nat) => some (.event (bindRegion st.bind)
        (.lace (0xC000 + 16 * arr + slot) seq (pos % 2 ^ 32) k mine.length st.ctx))]
    | 3 => mine.map fun x (seq : Nat) =>
        if fen then
          let (start, parent) := treeSpan c pos x.2 x.1.stack
          some (.fifo (bindTile st.bind)
            (fifoRecord 3 slot arr pos seq c.rule (start + pos % 2 ^ 32 * 2 ^ 32) parent 0))
        else none
    | _ => []
  mask ++ cells.flatMap perCell

/-- Number records from a sequence number; every record takes its number (R204). -/
def numberRecords : Nat → List (Nat → Option LaceOut) → List LaceOut
  | _, [] => []
  | seq, r :: rs => (r seq).toList ++ numberRecords ((seq + 1) % 2 ^ 32) rs

/-- The records at the head of an array's list that can be performed are: a FIFO element with room (R107, R206). Event
records are accepted by their control tile in its own turn (R205). -/
def State.laceFlushList (s : State) : List LaceOut → List LaceOut × State
  | [] => ([], s)
  | .event r x :: l => (.event r x :: l, s)
  | .fifo t bs :: l =>
    let m := s.mtile t
    if m.mode? = some 1 && !m.asleep && m.fifoRoom then (s.fifoPush t bs).laceFlushList l else (.fifo t bs :: l, s)

/-- Perform what can be performed of an array's records. -/
def State.laceRecords (s : State) (a : Nat) : State :=
  let (out, s) := s.laceFlushList (s.array a).out
  s.setArray a { s.array a with out := out }

/- Streams. -/

/-- A stream slot of an array. -/
def LaceArray.slot (a : LaceArray) (k : Nat) : Stream := nth Stream.reset a.slots k

/-- Change a stream slot. -/
def State.setSlot (s : State) (a k : Nat) (st : Stream) : State :=
  let x := s.array a
  s.setArray a { x with slots := setNth x.slots k st }

/-- The handle of a slot (R199). -/
def handleOf (a k : Nat) (st : Stream) : Word := word (k + a * 16 + st.bid * 2 ^ 8 + st.hctx * 2 ^ 40)

/- Operations at an array. -/

/-- The slot that an operation's handle names; none for LBIND and LRESM (R199). -/
def LaceOp.slot? (o : LaceOp) : Option Nat :=
  if o.op.opc = 0xC0 || o.op.opc = 0xC4 then none else some (bits o.op.ta.word.toNat 0 4)

/-- An operation at an array goes on as another. -/
def State.putOp (s : State) (a : Nat) (o o' : LaceOp) : State :=
  let x := s.array a
  s.setArray a { x with ops := x.ops.map fun y => if y = o then o' else y }

/-- An operation leaves its array. -/
def State.leaves (s : State) (a : Nat) (o : LaceOp) : State :=
  let x := s.array a
  s.setArray a { x with ops := match takeFirst (· = o) x.ops with | some (_, l) => l | none => x.ops }

/-- An operation waits at its array for a table walk (R122). -/
def State.laceAway (s : State) (a : Nat) (o : LaceOp) (va : Nat) : State :=
  (s.putOp a o { o with away := true }).awaitWalk o.op va

/-- An operation whose page is not present is dropped for want of an entry: its array goes on without it (R31, R122, R213). -/
def State.laceForget (s : State) (op : Issued) : State :=
  { s with lace := s.lace.map fun (x : Nat × LaceArray) => (x.1, { x.2 with ops := x.2.ops.filter fun o =>
      !(o.away && o.op = { op with walk := o.op.walk }) }) }

/-- An operation replies and leaves its array (R198). -/
def State.laceReply (s : State) (a : Nat) (o : LaceOp) (v : Word) (pred : Bool) : State :=
  let s := s.leaves a o
  if o.mute then s else s.emitWord o.op o.op.niw v pred

/-- A fault of an operation at its array: no reply, the handle in ADDR (R288). -/
def State.laceFault (s : State) (a : Nat) (o : LaceOp) (slot : Option Nat) (cause : Nat) (h : Word) (detail : Nat) :
    State :=
  (s.leaves a o).faultAt { o.op with released := o.op.released || o.mute } (.lace a slot) cause h (word detail)

/-- How one step of a stream ends (R201, R203). -/
inductive LaceStep where
  | ok (st : Stream) (records : List LaceOut)
  | fault (cause detail : Nat)

/-- Step of R201 with the limits of R203 and the reports of R204, on a stream of an array. -/
def laceStep (x : LaceArray) (g : Graph) (a k : Nat) (st : Stream) (sym : Nat) : LaceStep :=
  let ns := nextConfs g st sym
  let used := x.confs.length
  let old := nodeList x.confs
  let new := (nodeList (ns.map (·.1))).filter fun n => !old.contains n
  if 65536 - used + st.confs.length < ns.length then .fault 0x280 ns.length
  else if 262144 - old.length < new.length then .fault 0x282 new.length
  else
    let st := { st with confs := ns.map (·.1), pos := (st.pos + 1) % 2 ^ 64 }
    let rs := stepRecords g a k st ns
    .ok { st with seq := (st.seq + rs.length) % 2 ^ 32 } (numberRecords st.seq rs)

/-- The feed status and its predicate (R207). -/
def feedStatus (g : Graph) (st : Stream) : Word × Bool :=
  let acc := st.confs.filter fun c => c.cell.any fun k => (g.cell k).acc
  let any := !acc.isEmpty
  let ace := acc.any fun c => c.stack = []
  (word (st.confs.length + any.toNat * 2 ^ 17 + ace.toNat * 2 ^ 18 + (st.confs = [] : Bool).toNat * 2 ^ 19
    + st.pos % 2 ^ 32 * 2 ^ 32), any)

/-- The checks that every Lace instruction makes first: poison, which is recorded and has no effect, and vectors where a
scalar is taken (R198, R239, R288). -/
def State.laceFirst (s : State) (op : Issued) (h : Word) (scalars : List Tok) (k : State → State) : State :=
  if op.poisoned then s.opRecord op 0x0C1 h 0
  else if scalars.any (·.isVec) then s.opFault op 0x042 h 0
  else k (s.fix op)

/-- An operation on a stream begins: its handle, then the slot's state (R199, R200, R288). -/
def State.onStream (s : State) (a : Nat) (o : LaceOp) (states : List SState) (k : Nat → Stream → Graph → State) : State :=
  let h := o.op.ta.word
  let i := bits h.toNat 0 4
  let x := s.array a
  let st := x.slot i
  if st.st = .free ∨ handleOf a i st ≠ h ∨ st.ctx ≠ o.op.ctx ∨ !states.contains st.st then
    s.laceFault a o none 0x284 h 0
  else match x.graph with
    | none => s.laceFault a o none 0x284 h 0
    | some g => k i st g

/-- The Z16 elements of a token in lane order, of the lanes that take part (R207). -/
def feedSymbols (v : Value) : List Nat := ((lanesOf v).filterMap id).flatMap (elems .z16)

/-- A stream becomes Held (R200). -/
def State.holdStream (s : State) (a k : Nat) : State := s.setSlot a k { (s.array a).slot k with st := .held }

/-- LFEED begins: its symbols are those to step (R207, R289). Any fault on the stream leaves it Held (R200). -/
def State.feedStart (s : State) (a : Nat) (o : LaceOp) : State :=
  s.onStream a o [.bound] fun k _ _ =>
    let count := bits o.op.niw.imm.toNat 0 6 + 1
    let syms := feedSymbols o.op.tb.val
    if syms.length < count then (s.holdStream a k).laceFault a o (some k) 0x041 o.op.ta.word 0
    else s.putOp a o { o with work := .feed (syms.take count) }

/-- A symbol of an operation is stepped: the stream's state changes and its records are the array's. A failing step leaves
the stream Held, with the earlier symbols consumed (R201, R203, R289). -/
def State.stepSym (s : State) (a : Nat) (o : LaceOp) (k sym : Nat) (rest : LaceWork) : State :=
  let x := s.array a
  match x.graph with
  | none => s.laceFault a o none 0x284 o.op.ta.word 0
  | some g =>
    match laceStep x g a k (x.slot k) sym with
    | .fault c d => (s.holdStream a k).laceFault a o (some k) c o.op.ta.word d
    | .ok st out =>
      let s := (s.setSlot a k st).putOp a o { o with work := rest }
      s.setArray a { s.array a with out := out, last := k }

/-- The last symbol of a feed has been stepped and its records performed: the reply (R207). -/
def State.feedEnd (s : State) (a : Nat) (o : LaceOp) (k : Nat) : State :=
  match (s.array a).graph with
  | none => s.laceFault a o none 0x284 o.op.ta.word 0
  | some g => let r := feedStatus g ((s.array a).slot k); s.laceReply a o r.1 r.2

/- Binding. -/

/-- The bind word's own limits (R199). -/
def bindBad (w : Word) : Bool := bits w.toNat 21 43 ≠ 0 || 41 < bindRegion w

/-- With FEN = 1 the named tile is a FIFO tile of the context with 64-byte elements (R199). -/
def State.bindTileOk (s : State) (ctx : Nat) (w : Word) : Bool :=
  !bindFen w ||
    let m := s.mtile (bindTile w)
    m.mode? = some 1 && m.active.any (·.ctx = ctx) && m.elemBytes = 64

/-- What reading memory for an operation at an array gives: bytes, a fault, or a wait for the page table. -/
def State.laceRead (s : State) (a : Nat) (o : LaceOp) (va len align : Nat) (k : List Byte → State) : State :=
  match s.readVirt o.op va len align with
  | .ok bs => k bs
  | .miss m => s.laceAway a o m
  | .fault c _ _ => s.laceFault a o none c 0 0

/-- The graph named in slot a, loaded where R197 loads it. -/
def State.withGraph (s : State) (a : Nat) (o : LaceOp) (k : State → Graph → State) : State :=
  let va := o.op.ta.word.toNat
  s.laceRead a o va 16 8 fun head =>
    let slen := bits (ofBytes (head.take 8)) 24 32
    if slen < 2 ∨ 3 + 16384 + 4 * 1024 + 2 * 16384 < slen + 1 then s.laceFault a o none 0x283 0 2
    else s.laceRead a o va (8 * (slen + 1)) 8 fun bs =>
      let ws := wordsOf (slen + 1) bs
      let ncell := bits (nth 0 ws 1).toNat 0 15
      let x := s.array a
      match x.graph with
      | some g =>
        if g.check = ws.getLastD 0 ∧ g.cells.length = ncell then k s g
        else if x.slots.any (·.st ≠ .free) then s.laceFault a o none 0x283 0 1
        else match graphOf ws with
          | none => s.laceFault a o none 0x283 0 2
          | some g => k (s.setArray a { x with graph := some g }) g
      | none => match graphOf ws with
        | none => s.laceFault a o none 0x283 0 2
        | some g => k (s.setArray a { x with graph := some g }) g

/-- The lowest Free slot (R237). -/
def LaceArray.freeSlot (x : LaceArray) : Option Nat := (List.range 16).find? fun k => (x.slot k).st = .free

/-- An LBIND or LRESM that would be performed finds no Free slot of its array: it waits in its matching-store entry (R197,
R211). -/
def State.noFreeSlot (s : State) (op : Issued) : Bool :=
  let w := op.tb.word
  !op.poisoned && !op.operands.any (·.isVec) && !bindBad w && s.bindTileOk op.ctx w
    && (s.array (bits w.toNat 0 3)).freeSlot.isNone

/-- LBIND and LRESM begin: the FIFO tile, a Free slot and the graph. One whose last slot was taken while it was under way
waits in an entry again, and contends once a slot is freed (R197, R199, R211). -/
def State.bindStart (s : State) (a : Nat) (o : LaceOp) (k : State → Nat → Graph → State) : State :=
  if !s.bindTileOk o.op.ctx o.op.tb.word then s.laceFault a o none 0x103 0 0
  else match (s.array a).freeSlot with
    | none => (s.leaves a o).reenter o.op (·.hold o.op .slot) id
    | some i => s.withGraph a o fun s g => k s i g

/-- The slot becomes Bound under its next bind number, and the handle is the reply (R199, R200). -/
def State.bindSlot (s : State) (a : Nat) (o : LaceOp) (i : Nat) (cs : List Conf) (pos seq : Nat) : State :=
  let old := (s.array a).slot i
  let st : Stream := ⟨.bound, (old.bid + 1) % 2 ^ 32, o.op.ctx, o.op.tb.word, cs, pos, seq, o.op.ctx⟩
  (s.setSlot a i st).laceReply a o (handleOf a i st) true

/-- LBIND at its array (R197). -/
def State.bindWhole (s : State) (a : Nat) (o : LaceOp) : State :=
  s.bindStart a o fun s i _ => s.bindSlot a o i [⟨none, []⟩] 0 0

/- Images. -/

/-- The 1-based number of a node; 0 for ∅ (R209). -/
def nodeNumber (nodes : List (List (Nat × Nat))) (x : List (Nat × Nat)) : Nat :=
  if x = [] then 0 else nodes.findIdx (· = x) + 1

/-- The words of a stream's save image (R209). -/
def saveImage (check : Word) (confs : List Conf) (pos seq : Nat) : List Word :=
  let cs := sortBy confLt confs
  let nodes := nodeList cs
  let cw (c : Conf) : Word := word (c.cell.getD 0 + c.cell.isNone.toNat * 2 ^ 14 + nodeNumber nodes c.stack * 2 ^ 16)
  let nw (x : List (Nat × Nat)) : Word :=
    let top := x.getLastD (0, 0)
    word (nodeNumber nodes x.dropLast + top.2 * 2 ^ 19 + top.1 * 2 ^ 27)
  let ws := [word (0x4C53 * 2 ^ 48 + 2 ^ 40 + (6 + cs.length + nodes.length)), check, word pos, word seq,
      word (cs.length + nodes.length * 2 ^ 32)] ++ cs.map cw ++ nodes.map nw
  ws ++ [crcWords ws]

/-- Stacks of an image's nodes in order: each is its parent's with one more pair; none where PAR is not below the
node's own number (R209, R211). -/
def imageStacks : List (List (Nat × Nat)) → List Word → Option (List (List (Nat × Nat)))
  | acc, [] => some acc
  | acc, w :: ws =>
    match acc[bits w.toNat 0 19]? with
    | none => none
    | some p => imageStacks (acc ++ [p ++ [(bits w.toNat 27 32, bits w.toNat 19 8)]]) ws

/-- The configurations of an image; none is 0x285 (R211). -/
def imageConfs (g : Graph) (ws : List Word) : Option (List Conf) :=
  let w4 := (nth 0 ws 4).toNat
  let nc := bits w4 0 32
  let nn := bits w4 32 32
  let pos := (nth 0 ws 2).toNat
  if ws.length ≠ 6 + nc + nn ∨ nth 0 ws 1 ≠ g.check ∨ crcWords ws.dropLast ≠ ws.getLastD 0 then none
  else
    (imageStacks [[]] ((ws.drop (5 + nc)).take nn)).bind fun chains =>
      (((ws.drop 5).take nc).mapM fun w =>
        let v := w.toNat
        let c := bits v 0 14
        let node := bits v 16 19
        let start := v.testBit 14
        (chains[node]?).bind fun s =>
          if g.cells.length ≤ c ∨ (start ∧ (c ≠ 0 ∨ node ≠ 0 ∨ pos ≠ 0)) then none
          else some (⟨if start then none else some c, s⟩ : Conf)).bind fun cs =>
        if saveImage g.check cs pos (bits (nth 0 ws 3).toNat 0 32) = ws ∧ cs.Nodup then some cs else none

/-- Room for a stream's configurations and nodes in an array; else 0x280 or 0x282 with the number needed (R211). -/
def LaceArray.roomFor (x : LaceArray) (ncfg nnode : Nat) : Option (Nat × Nat) :=
  if 65536 - x.confs.length < ncfg then some (0x280, ncfg)
  else if 262144 - (nodeList x.confs).length < nnode then some (0x282, nnode)
  else none

/-- LRESM at its array (R211). -/
def State.resumeWhole (s : State) (a : Nat) (o : LaceOp) : State :=
  s.bindStart a o fun s i g =>
    let va := o.op.tc.word.toNat
    s.laceRead a o va 8 8 fun head =>
      let w0 := ofBytes head
      let len := bits w0 0 32
      if bits w0 32 32 ≠ 0x4C530100 ∨ len < 6 then s.laceFault a o none 0x285 0 0
      else s.laceRead a o va (8 * len) 8 fun bs =>
        let ws := wordsOf len bs
        match imageConfs g ws with
        | none => s.laceFault a o none 0x285 0 0
        | some cs =>
          match (s.array a).roomFor cs.length (bits (nth 0 ws 4).toNat 32 32) with
          | some (c, d) => s.laceFault a o none c 0 d
          | none => s.bindSlot a o i cs (nth 0 ws 2).toNat (bits (nth 0 ws 3).toNat 0 32)

/-- A slot becomes Free, its configurations cleared; its bind number stays (R199, R212). -/
def State.freeStream (s : State) (a k : Nat) : State :=
  let st := (s.array a).slot k
  s.setSlot a k { Stream.reset with bid := st.bid }

/-- How a write of several pieces ends: all written, a fault, or a page that must be walked first. The bytes before that
one are written (R289). -/
def State.writeParts (s : State) (op : Issued) : List (Nat × Nat) → List Byte → State × Res Unit
  | [], _ => (s, .ok ())
  | (va, n) :: l, bs =>
    match s.xlate op .write va with
    | .ok pa => (s.writeMain pa (bs.take n)).writeParts op l (bs.drop n)
    | .fault c x d => (s, .fault c x d)
    | .miss m => (s, .miss m)

/-- LSUSP at its array: the stream is Held, then its image is written; with REL the slot becomes Free, else Bound (R210,
R289). -/
def State.suspendWhole (s : State) (a : Nat) (o : LaceOp) : State :=
  s.onStream a o [.bound, .held] fun k st g =>
    let ws := saveImage g.check st.confs st.pos st.seq
    let need := 8 * ws.length
    let h := o.op.ta.word
    let va := o.op.tb.word.toNat
    let s := s.holdStream a k
    if o.op.tc.word.toNat < need then s.laceFault a o (some k) 0x281 h need
    else match addrCause (s.isSystem o.op.ctx) va need 8 with
      | some c => s.laceFault a o (some k) c h 0
      | none => match s.writeParts o.op (piecesOf va need) (wordBytes ws) with
        | (s, .miss m) => s.laceAway a o m
        | (s, .fault c _ _) => s.laceFault a o (some k) c h 0
        | (s, .ok ()) =>
          let s := if o.op.niw.imm.getLsbD 0 then s.freeStream a k else s.setSlot a k { st with st := .bound }
          s.laceReply a o (word need) true

/-- LDROP at its array (R212). -/
def State.dropWhole (s : State) (a : Nat) (o : LaceOp) : State :=
  s.onStream a o [.bound, .held] fun k _ _ => (s.freeStream a k).laceReply a o o.op.ta.word true

/- Queries. -/

/-- A query descriptor (R208). -/
structure QueryDesc where
  ctt : Nat
  vb : Nat
  v : Nat
  mask : Nat
  spl : Nat
  pool : Nat
  frc : Nat
  deriving DecidableEq, Repr

/-- The descriptor of its six words; none is 0x041 (R208). -/
def queryDesc (ws : List Word) : Option QueryDesc :=
  let w (k : Nat) : Nat := (nth 0 ws k).toNat
  let d : QueryDesc := ⟨w 0, bits (w 1) 0 32, bits (w 1) 32 32, w 2, w 3, w 4, w 5⟩
  if d.ctt % 64 ≠ 0 ∨ d.mask % 64 ≠ 0 ∨ d.vb % 64 ≠ 0 ∨ d.vb < 64 ∨ 2 ^ 20 < d.vb ∨ d.v = 0 ∨ 8 * d.vb < d.v then none
  else some d

/-- OR the pieces of a row that starts at `base` into a mask: the mask, the offset reached, and why it stops there. -/
def State.orPieces (s : State) (op : Issued) (base : Nat) : List (Nat × Nat) → Nat → Nat × Nat × Res Unit
  | [], m => (m, 0, .ok ())
  | (va, n) :: l, m =>
    match s.xlate op .read va with
    | .ok pa => s.orPieces op base l (m ||| ofBytes (s.readMain pa n) * 2 ^ (8 * (va - base)))
    | .fault c x d => (m, va - base, .fault c x d)
    | .miss v => (m, va - base, .miss v)

/-- OR the CTT rows of the classes of a set, the first from an offset on: what is left to read, the mask so far, and why it
stops there. What has been read is not read again after a page walk (R208). -/
def State.maskRows (s : State) (op : Issued) (d : QueryDesc) : List Nat → Nat → Nat → List Nat × Nat × Nat × Res Unit
  | [], _, m => ([], 0, m, .ok ())
  | b :: bs, off, m =>
    let base := d.ctt + b * d.vb
    match s.orPieces op base (piecesOf (base + off) (d.vb - off)) m with
    | (m, _, .ok ()) => s.maskRows op d bs 0 m
    | (m, off, r) => (b :: bs, off, m, r)

/-- The symbols of a token's spelling (R208); 0x041 for a length outside 1 to 64. -/
def State.spelling (s : State) (op : Issued) (d : QueryDesc) (t : Nat) : Res (List Nat) :=
  (s.readVirt op (d.spl + 8 * t) 8 8).bind fun e =>
    let w := ofBytes e
    let len := bits w 0 7
    if len = 0 ∨ 64 < len then .fault 0x041 0 0
    else (s.readVirt op (d.pool + w / 128) (2 * len) 2).bind fun bs =>
      .ok ((List.range len).map fun i => ofBytes ((bs.drop (2 * i)).take 2))

/-- A result that a query goes on with; a fault leaves the stream Held (R200). -/
def State.queryRes {α : Type} (s : State) (a : Nat) (o : LaceOp) (k : Nat) (r : Res α) (go : α → State) : State :=
  match r with
  | .ok x => go x
  | .fault c _ d => (s.holdStream a k).laceFault a o (some k) c o.op.ta.word d.toNat
  | .miss va => s.laceAway a o va

/-- LQRY begins: its descriptor, of which words 3 to 5 are read only when L > 0 (R208). -/
def State.queryStart (s : State) (a : Nat) (o : LaceOp) : State :=
  s.onStream a o [.bound] fun k _ _ =>
    let len := if o.op.tc.word = 0 then 3 else 6
    s.queryRes a o k (s.readVirt o.op o.op.tb.word.toNat (8 * len) 8) fun bs =>
      let ws := wordsOf len bs
      match queryDesc ws with
      | none => (s.holdStream a k).laceFault a o (some k) 0x041 o.op.ta.word 0
      | some _ => s.putOp a o { o with work := .query ws 0 [] }

/-- The mask of the tokens that may come next is there. Where it holds a single token and L is not reached, that token is
recorded and its symbols are those to step; else the mask is written and the reply follows (R208). -/
def State.queryMasked (s : State) (a : Nat) (o : LaceOp) (k : Nat) (ws : List Word) (d : QueryDesc) (f m : Nat) : State :=
  let m := m % 2 ^ d.v
  let ts := setBits m d.v
  let t := ts.headD 0
  if ts.length ≠ 1 ∨ o.op.tc.word.toNat ≤ f then
    s.queryRes a o k (s.range o.op .write d.mask d.vb 64) fun ps =>
      (s.writePieces ps (bytesOf d.vb m)).laceReply a o (word (ts.length + f * 2 ^ 24 + t * 2 ^ 32)) (ts.length = 1)
  else
    s.queryRes a o k (s.range o.op .write (d.frc + 4 * f) 4 4) fun ps =>
      let s := s.writePieces ps (bytesOf 4 t)
      s.queryRes a o k (s.spelling o.op d t) fun syms => s.putOp a o { o with work := .query ws (f + 1) syms }

/-- The mask of a turn is read as far as its pages are there; the operation keeps what it has while it waits (R208). -/
def State.queryMask (s : State) (a : Nat) (o : LaceOp) (k : Nat) (ws : List Word) (f : Nat) (classes : List Nat)
    (off m : Nat) : State :=
  match queryDesc ws with
  | none => s.laceFault a o none 0x284 o.op.ta.word 0
  | some d =>
    let (left, off, m, r) := s.maskRows o.op d classes off m
    let o' : LaceOp := { o with work := .mask ws f left off m }
    (s.putOp a o o').queryRes a o' k r fun _ => (s.putOp a o o').queryMasked a o' k ws d f m

/-- One turn of the loop of Query begins: the addresses of its rows are checked, then their mask is read (R119, R208). -/
def State.queryTurn (s : State) (a : Nat) (o : LaceOp) (k : Nat) (ws : List Word) (f : Nat) : State :=
  match queryDesc ws, (s.array a).graph with
  | some d, some g =>
    let classes := setBits (nextClasses g ((s.array a).slot k)) 256
    match classes.findSome? fun b => addrCause (s.isSystem o.op.ctx) (d.ctt + b * d.vb) d.vb 64 with
    | some c => s.queryRes a o k (.fault c 0 0 : Res Unit) fun _ => s
    | none => s.queryMask a o k ws f classes 0 0
  | _, _ => s.laceFault a o none 0x284 o.op.ta.word 0

/- The array. -/

/-- The operation has a symbol to step. -/
def LaceOp.pending (o : LaceOp) : Bool :=
  match o.work with
  | .feed (_ :: _) | .query _ _ (_ :: _) => true
  | _ => false

/-- The operations that the array may go on with: the first of each stream, and an LBIND or LRESM; none that waits for a
page (R197, R213). -/
def LaceArray.ready (x : LaceArray) : List LaceOp :=
  let first (o : LaceOp) : Bool := match o.slot? with
    | none => true
    | some k => x.ops.find? (fun y => y.slot? = some k) = some o
  x.ops.filter fun o => !o.away && first o

/-- How far a stream's turn lies behind the one that was stepped last (R202). -/
def LaceArray.distance (x : LaceArray) (o : LaceOp) : Nat := ((o.slot?.getD 0) + 15 - x.last) % 16

/-- The operation that an array goes on with while no record holds it: the first to arrive that has no symbol to step, else
of the streams with a pending symbol the next in round-robin order (R202, R205, R206, R213). -/
def LaceArray.next (x : LaceArray) : Option LaceOp :=
  if x.out ≠ [] then none
  else match x.ready.find? (!·.pending) with
    | some o => some o
    | none => leastBy (fun y z => x.distance y < x.distance z) x.ready

/-- An operation that begins, by its opcode. -/
def State.laceStart (s : State) (a : Nat) (o : LaceOp) : State :=
  match o.op.opc with
  | 0xC0 => s.bindWhole a o
  | 0xC1 => s.feedStart a o
  | 0xC2 => s.queryStart a o
  | 0xC3 => s.suspendWhole a o
  | 0xC4 => s.resumeWhole a o
  | _ => s.dropWhole a o

/-- An array goes on with an operation: it begins, or one symbol is stepped and the records performed that can be, or it
ends (R207, R208, R213). -/
def State.laceOne (s : State) (a : Nat) (o : LaceOp) : State :=
  let k := o.slot?.getD 0
  match o.work with
  | .start => s.laceStart a o
  | .feed (sym :: rest) => (s.stepSym a o k sym (.feed rest)).laceRecords a
  | .feed [] => s.feedEnd a o k
  | .query d f (sym :: rest) => (s.stepSym a o k sym (.query d f rest)).laceRecords a
  | .query d f [] => s.queryTurn a o k d f
  | .mask d f bs off m => s.queryMask a o k d f bs off m

/-- An array goes on until its records hold it or it has nothing to do. -/
def State.laceRun : Nat → Nat → State → State
  | 0, _, s => s
  | fuel + 1, a, s =>
    match (s.array a).next with
    | none => s
    | some o => laceRun fuel a (s.laceOne a o)

/-- Turns that the operations of an array take at most: a query forces 255 tokens of up to 64 symbols each (R208). -/
def LaceArray.turns (x : LaceArray) : Nat := 2 ^ 15 * (x.ops.length + 1)

/-- An array performs the records that it can, and goes on where none holds it. -/
def State.laceGo (s : State) (a : Nat) : State :=
  let s := s.laceRecords a
  laceRun (s.array a).turns a s

/-- The request of an instruction reaches its array: a new operation, or one that comes back from a table walk (R122,
R213). -/
def State.laceArrive (s : State) (a : Nat) (op : Issued) : State :=
  let x := s.array a
  let same (y : LaceOp) : Bool := y.away && y.op = { op with walk := y.op.walk }
  let ops := match x.ops.find? same with
    | some y => x.ops.map fun z => if z = y then { y with op := op, away := false } else z
    | none => x.ops ++ [⟨op, .start, false, false⟩]
  (s.setArray a { x with ops := ops }).laceGo a

/-- The array that a handle names (R199). -/
def handleArray (h : Word) : Nat := bits h.toNat 4 3

/-- LBIND (R197, R288). -/
def execLbind (n : Niw) (s : State) : Out :=
  fire s n fun op s => s.laceFirst op 0 [op.ta, op.tb] fun s =>
    if bindBad op.tb.word then s.opFault op 0x041 0 0 else s.laceArrive (bits op.tb.word.toNat 0 3) op

/-- LFEED (R207, R288, R289). -/
def execLfeed (n : Niw) (s : State) : Out :=
  fire s n fun op s => s.laceFirst op op.ta.word [op.ta] fun s => s.laceArrive (handleArray op.ta.word) op

/-- LQRY (R208, R288). -/
def execLqry (n : Niw) (s : State) : Out :=
  fire s n fun op s => s.laceFirst op op.ta.word [op.ta, op.tb, op.tc] fun s =>
    if 255 < op.tc.word.toNat then s.opFault op 0x041 op.ta.word 0 else s.laceArrive (handleArray op.ta.word) op

/-- LSUSP (R210, R288, R289). -/
def execLsusp (n : Niw) (s : State) : Out :=
  fire s n fun op s => s.laceFirst op op.ta.word [op.ta, op.tb, op.tc] fun s =>
    if 2 ^ 32 ≤ op.tc.word.toNat then s.opFault op 0x041 op.ta.word 0 else s.laceArrive (handleArray op.ta.word) op

/-- LRESM (R211, R288). -/
def execLresm (n : Niw) (s : State) : Out :=
  fire s n fun op s => s.laceFirst op 0 [op.ta, op.tb, op.tc] fun s =>
    if bindBad op.tb.word then s.opFault op 0x041 0 0 else s.laceArrive (bits op.tb.word.toNat 0 3) op

/-- LDROP (R212, R288). -/
def execLdrop (n : Niw) (s : State) : Out :=
  fire s n fun op s => s.laceFirst op op.ta.word [op.ta] fun s => s.laceArrive (handleArray op.ta.word) op

end Sys2Proof.Machine
end

