-- ==== Sys2Proof/Machine/Loader.lean ====
section
/-!
DEFINITION. The configuration loader: the words of an image and every check on them (R51 to R68, R79, R154), the loops'
bodies (R37), the pages of stream generators (R121), and the writing of planes, data and blocks (R46, R50, R67, R251).
-/

namespace Sys2Proof.Machine

/-- A check's outcome: a cause and a word offset on failure (R68). -/
abbrev Check (α : Type) := Except (Nat × Nat) α

/-- Fail with a cause at a word where a condition holds. -/
def failIf (bad : Bool) (cause off : Nat) : Check Unit := if bad then .error (cause, off) else .ok ()

/-- Fail where a cause is given. -/
def failOn (c : Option Nat) (off : Nat) : Check Unit :=
  match c with
  | some x => .error (x, off)
  | none => .ok ()

/-- Run a check at each element with its index. -/
def eachFrom {α : Type} (f : Nat → α → Check Unit) : Nat → List α → Check Unit
  | _, [] => .ok ()
  | i, a :: l => do f i a; eachFrom f (i + 1) l

/- Compute-tile sections. -/

/-- The cause of a stage word (R58 to R61). -/
def stageBad (k : Nat) (w : Word) : Bool :=
  let v := w.toNat
  let override (on code : Nat) : Bool := v.testBit on && (code < 8 || 13 < code)
  match k with
  | 2 => (swizzleCause (bits v 60 4) (bits v 56 4)).isSome || override 52 (bits v 48 4) || override 47 (bits v 43 4)
      || bits v 0 42 ≠ 0
  | 5 => (!v.testBit 63 && bits v 59 4 ≠ 0) || bits v 0 57 ≠ 0
  | 6 => (swizzleCause (bits v 60 4) (bits v 56 4)).isSome || bits v 0 56 ≠ 0
  | _ => v ≠ 0

/-- A wave sequence word breaks its limits (R55). -/
def waveBad (w : Word) : Bool :=
  let own := waveOwn w
  let prior := wavePrior w
  bits w.toNat 24 40 ≠ 0 || (own = 255 && (prior ≠ 255 || waveStrand w ≠ 255)) || (own ≠ 255 && prior ≠ 255 && own ≤ prior)

/-- An extension entry (R54). -/
def isExtension (e : BitVec 32) : Bool := routeKind e = 3 && e.getLsbD 13

/-- The cause of a route entry of a tile (R54). CIX counts for nothing where CXV = 0. DESIGN CHOICE: the spec gives a RANK of
4,096 to 8,191 no fate, and the model rejects it with 0x041 (log 81). -/
def routeCause (t : TileId) (nins : Nat) (es : List (BitVec 32)) (k : Nat) (e : BitVec 32) : Option Nat :=
  let v := e.toNat
  match routeKind e with
  | 0 => if bits v 0 13 ≠ 0 then some 0x041 else if nins ≤ bits v 13 9 then some 0x045 else none
  | 1 =>
    if bits v 0 7 ≠ 0 then some 0x041
    else match neighbour t (bits v 20 2) with
      | none => some 0x045
      | some u => if !isCompute u && bits v 7 9 ≠ 0 then some 0x041 else none
  | 2 =>
    let dst : TileId := ⟨dieOf (bits v 21 1), bits v 16 5, bits v 11 5⟩
    if v.testBit 0 ∨ 27 < dst.col ∨ 23 < dst.row then some 0x041
    else if !isCompute dst then some 0x045
    else if v.testBit 1 && !(match es[k + 1]? with | some x => isExtension x | none => false) then some 0x045
    else none
  | _ =>
    if bits v 14 8 ≠ 0 then some 0x041
    else if v.testBit 13 then (if 4096 ≤ bits v 0 13 then some 0x041 else none)
    else if bits v 0 13 ≠ 0 then some 0x041 else none

/-- The valid targets of fields. -/
def targetsOf (n : Niw) : List Target := n.t0.toList ++ n.t1.toList ++ n.t2.toList

/-- The cause of an instruction word of a tile beyond its own fields: targets beyond the route table or naming an
extension entry, and a missing constant (R52 to R54). -/
def nodeCause (es : List (BitVec 32)) (ncon : Nat) (w : Word) : Option Nat :=
  match decodeWord true w with
  | .error c => some c
  | .ok i =>
    match i.parts with
    | none => some 0x040
    | some (_, n) =>
      let beyond := (targetsOf n).any fun t => es.length ≤ t.dest.toNat
      let ext := (targetsOf n).any fun t => es[t.dest.toNat]?.any isExtension
      let konst := match n.t0.bind fun t => es[t.dest.toNat]? with
        | some e => e.getLsbD 22 && bits e.toNat 23 7 < ncon
        | none => false
      if beyond then some 0x045 else if n.xw && !konst then some 0x047 else if ext then some 0x045 else none

/-- The 32-bit entries of route words, lower index first (R67). -/
def routeEntries (n : Nat) (ws : List Word) : List (BitVec 32) :=
  (List.range n).map fun k => BitVec.ofNat 32 (bits (nth 0 ws (k / 2)).toNat (32 * (k % 2)) 32)

/-- Constant k is the wave word of some memory node. -/
def isWaveConst (p : CPlane) (k : Nat) : Bool :=
  (List.range p.ins.length).any fun i =>
    match p.node? i with
    | some (o, n) => isMemOpc o && (n.t0.bind fun t => p.routes[t.dest.toNat]?).any fun e => bits e.toNat 23 7 = k
    | none => false

/-- A compute-tile section: its body begins at word `o` (R67). -/
def tileSection (t : TileId) (o : Nat) (body : List Word) : Check CPlane := do
  let cw := (nth 0 body 0).toNat
  let nins := bits cw 0 10
  let ncon := bits cw 10 8
  let nrt := bits cw 18 10
  let ntpl := bits cw 28 6
  failIf (bits cw 34 30 ≠ 0 || 512 < nins || 128 < ncon || 512 < nrt || ntpl = 0 || 63 < ntpl
    || body.length ≠ 1 + 6 + ntpl + nins + ncon + (nrt + 1) / 2) 0x041 o
  let stages := (body.drop 1).take 6
  let tplWords := (body.drop 7).take ntpl
  let ins := (body.drop (7 + ntpl)).take nins
  let cons := (body.drop (7 + ntpl + nins)).take ncon
  let rws := body.drop (7 + ntpl + nins + ncon)
  let es := routeEntries nrt rws
  let tpls := tplWords.map fun w => (bits w.toNat 0 9, bits w.toNat 9 9)
  eachFrom (fun i w => failIf (stageBad (i + 1) w) 0x041 (o + 1 + i)) 0 stages
  eachFrom (fun i (w : Word) =>
    failIf (bits w.toNat 18 46 ≠ 0 || nins < bits w.toNat 0 9 + bits w.toNat 9 9) 0x041 (o + 7 + i)) 0 tplWords
  eachFrom (fun i w => failOn (nodeCause es ncon w) (o + 7 + ntpl + i)) 0 ins
  let p : CPlane := ⟨0, 0, ins, cons, es, tpls, stages, ⟨.rne, false, false⟩, [], [], [], []⟩
  eachFrom (fun i w => failIf (isWaveConst p i && waveBad w) 0x041 (o + 7 + ntpl + nins + i)) 0 cons
  eachFrom (fun i e => failOn (routeCause t nins es i e) (o + 7 + ntpl + nins + ncon + i / 2)) 0 es
  failIf (nrt % 2 = 1 && bits (nth 0 rws (nrt / 2)).toNat 32 32 ≠ 0) 0x041 (o + 7 + ntpl + nins + ncon + nrt / 2)
  return p

/- Memory-tile sections. -/

/-- A mode word breaks R62. -/
def modeBad (w : Word) : Bool :=
  let v := w.toNat
  let dpu := bits v 43 13
  match bits v 60 4 with
  | 0 => bits v 0 32 ≠ 0 || dpu = 0 || 4096 < dpu || 4096 < (bits v 56 4 + 1) * dpu
  | 1 => bits v 56 4 ≠ 0 || bits v 0 40 ≠ 0 || dpu = 0 || 4096 < dpu || 5 < bits v 40 3
  | 2 => bits v 56 4 ≠ 0 || bits v 0 28 ≠ 0 || bits v 48 8 = 0 || bits v 36 12 = 0
      || 2 ^ 20 < (bits v 36 12 + bits v 28 8) * bits v 48 8 * 64
  | 3 | 4 | 5 | 6 => bits v 0 60 ≠ 0
  | _ => true

/-- The lowest and highest of the offsets that the counts of a descriptor reach (R65). -/
def reach (d : List Word) : Int × Int :=
  (List.range 4).foldl (fun acc k =>
    let x := nth 0 (descStrides d) k * (Int.ofNat (nth 0 (descCounts d) k) - 1)
    (acc.1 + min 0 x, acc.2 + max 0 x)) (0, 0)

/-- The total number of elements of a descriptor. -/
def descTotal (d : List Word) : Nat := (descCounts d).foldl (· * ·) 1

/-- Ports and channels that a circuit occupies, as (tile, port, channel) (R64). -/
def circuitPorts (t : TileId) (w : Nat) : Nat → List (TileId × Nat × Nat)
  | 0 => []
  | k + 1 =>
    let port := bits w 0 2
    (t, port, 0) :: (match neighbour t port with
      | some u => circuitPorts u (w / 4) k
      | none => [])

/-- The ports of a circuit word with its channel. DESIGN CHOICE: the spec leaves it open whether two circuits that cross one
link from its two ends on one channel share a port; the model counts the outgoing port of each tile that a circuit leaves, and
accepts the two (log 83). -/
def circuitUse (t : TileId) (w : Nat) : List (TileId × Nat × Nat) :=
  (circuitPorts t (bits w 0 16) (bits w 16 3 + 1)).map fun x => (x.1, x.2.1, bits w 20 4)

/-- A circuit word breaks R64 by itself: a hop leaves the region or the die, or a far compute tile has DIR 0 or another
ELEM. -/
def circuitWordBad (t : TileId) (d : List Word) : Bool :=
  let w := (nth 0 d 0).toNat
  let use := circuitUse t w
  match circuitFar t w with
  | none => true
  | some far =>
    use.any (fun x => regionOf x.1 ≠ regionOf t) || regionOf far ≠ regionOf t || use.length ≠ bits w 16 3 + 1
      || (w.testBit 24 && (!isCompute far || !descOut d || descElem d ≠ 8))

/-- The first failing word of a descriptor of a tile with its cause (R63 to R65). -/
def descCheck (t : TileId) (d : List Word) (o : Nat) : Check Unit := do
  let w0 := (nth 0 d 0).toNat
  let w1 := (nth 0 d 1).toNat
  if !w1.testBit 40 then
    eachFrom (fun i (w : Word) => failIf (w ≠ 0) 0x041 (o + i)) 0 d
  else
    let ext := bits w1 0 40
    let space := bits w1 42 2
    failIf (space = 0 && 2 ^ 20 ≤ w0) 0x041 o
    failIf (space = 2 && (w0.testBit 19 || bits w0 36 28 ≠ 0 || 11 < bits w0 20 4)) 0x041 o
    failIf (space = 2 && circuitWordBad t d) 0x041 o
    failIf (ext = 0 || space = 3 || 8 < bits w1 44 4 || bits w1 48 16 ≠ 0) 0x041 (o + 1)
    failIf (space = 0 && 2 ^ 20 < w0 + ext) 0x041 (o + 1)
    failIf ((descCounts d).any (· = 0)) 0x041 (o + 4)
    failIf ((List.range 4).any fun k => nth 0 (descCounts d) k ≤ nth 0 (descPos d) k) 0x041 (o + 5)
    let r := reach d
    failIf (r.1 < 0 || (ext : Int) < r.2 + descElem d) 0x107 o

/-- A memory-tile section whose body begins at word `o` (R67). -/
def memSection (t : TileId) (o : Nat) (body : List Word) : Check MPlane := do
  let cw := (nth 0 body 0).toNat
  let nd := bits cw 0 18
  failIf (bits cw 18 46 ≠ 0 || 131072 < nd || body.length ≠ 26 + nd) 0x041 o
  let mode := nth 0 body 1
  failIf (modeBad mode) 0x041 (o + 1)
  let gens := (List.range 4).map fun g => (body.drop (2 + 6 * g)).take 6
  eachFrom (fun g d => descCheck t d (o + 2 + 6 * g)) 0 gens
  return ⟨0, mode, gens, [[], [], [], []], body.drop 26, [], []⟩

/- Blocks. -/

/-- NI, NC, NX, SM and the other bits of a block's first header word (R56). -/
def headNi (w : Word) : Nat := bits w.toNat 51 5 + 1
/-- NC. -/
def headNc (w : Word) : Nat := bits w.toNat 47 4
/-- NX. -/
def headNx (w : Word) : Nat := bits w.toNat 44 3
/-- SM. -/
def headSm (w : Word) : Nat := bits w.toNat 12 32

/-- The header breaks R56. -/
def headBad (w : Word) : Bool :=
  bits w.toNat 56 8 ≠ 0xB1 || bits w.toNat 0 12 ≠ 0 || headNx w = 0 || 8 < headNc w

/-- Opcode and fields of a block's instruction word. -/
def blockParts (w : Word) : Option (Nat × Niw) :=
  match decodeWord false w with
  | .ok i => i.parts
  | .error _ => none

/-- The cause of instruction k of a block: its own fields, its targets, its constant, and the slots and the resets that
its targets name (R43, R52, R53, R154). -/
def blockWordCause (ins : List Word) (nc : Nat) (w : Word) : Option Nat :=
  match decodeWord false w with
  | .error c => some c
  | .ok i =>
    match i.parts with
    | none => some 0x040
    | some (o, n) =>
      if (targetsOf n).any fun t => ins.length ≤ t.dest.toNat then some 0x045
      else if n.xw && nc ≤ bits n.imm.toNat 0 3 then some 0x047
      else
        (targetsOf n).findSome? fun t =>
          match ins[t.dest.toNat]?.bind blockParts with
          | none => none
          | some x =>
            if t.slot ∉ takes x then some 0x046
            else if t.slot = .p ∧ x.1 = 0xA4 ∧ x.2.imm.getLsbD 0 ∧ o ≠ 0x0F then some 0x203
            else none

/-- The LSIDs of a block's memory instructions. -/
def lsids (ps : List (Nat × Niw)) : List Nat := (ps.filter fun p => isMemOpc p.1).map fun p => lsidOf p.2

/-- The contents of a block against its header, in the order of R57. -/
def contentCause (h : Word) (wm : Word) (ins : List Word) : Option Nat :=
  let ps := ins.filterMap blockParts
  let isExit (o : Nat) : Bool := (0x12 ≤ o && o ≤ 0x15) || o = 0xEF
  let sm := (((ps.filter fun p => isStoreOpc p.1).map fun p => lsidOf p.2).foldl (fun m k => m ||| 2 ^ k) 0)
  let gm := (((ps.filter fun p => p.1 = 0x17).map fun p => bits p.2.imm.toNat 0 6).foldl (fun m k => m ||| 2 ^ k) 0)
  if (ps.filter fun p => isExit p.1).length ≠ headNx h then some 0x345
  else if sm ≠ headSm h then some 0x343
  else if gm ≠ wm.toNat then some 0x344
  else if !(lsids ps).Nodup then some 0x345
  else none

/-- A block of an image: the CODE tile or main memory, its address, its words and its section's check word. -/
structure BlockSec where
  tile : Option TileId
  addr : Nat
  words : List Word
  check : Word
  deriving DecidableEq, Repr

/-- A block section whose body begins at word `o` (R67). DESIGN CHOICE: the spec gives a block that reaches beyond the 1 MiB
of its CODE tile no fate, and the model rejects it with 0x041 at its address word (log 81); so it does with a section of KIND
0x03 or 0x07 whose address word is not a multiple of 64 (log 83). -/
def blockSection (tile : Option TileId) (o : Nat) (body : List Word) (check : Word) : Check BlockSec := do
  let a := (nth 0 body 0).toNat
  let h := nth 0 body 1
  let ni := headNi h
  let nc := headNc h
  failIf (a % 64 ≠ 0) 0x041 o
  failIf (body.length ≠ 3 + ni + nc) 0x041 (o - 1)
  let ins := (body.drop 3).take ni
  eachFrom (fun i w => failOn (blockWordCause ins nc w) (o + 3 + i)) 0 ins
  failIf (headBad h) 0x345 (o + 1)
  failOn (contentCause h (nth 0 body 2) ins) (o + 1)
  failIf (tile.isSome && 2 ^ 20 < a + 8 * (2 + ni + nc)) 0x041 o
  return ⟨tile, a, body.drop 1, check⟩

/- The other sections. -/

/-- Seed records of a body at word `o` (R67, R72). -/
def seedRecords (o : Nat) : Nat → List Word → Check (List SeedRec)
  | 0, _ => .ok []
  | _ + 1, [] => .ok []
  | k + 1, ws => do
    let c := (nth 0 ws 0).toNat
    let t := (nth 0 ws 1).toNat
    failIf (bits c 0 35 ≠ 0 || c.testBit 38 || bits c 39 3 ≠ 0) 0x041 o
    failIf (bits t 52 12 ≠ 0) 0x041 (o + 1)
    let l ← seedRecords (o + 3) k (ws.drop 3)
    return ⟨nth 0 ws 0, nth 0 ws 1, nth 0 ws 2⟩ :: l

/-- Register values of an entry section, at word `o` (R67). -/
def entryRegs (o : Nat) : Nat → List Word → Check (List (Nat × Word))
  | 0, _ => .ok []
  | _ + 1, [] => .ok []
  | k + 1, ws => do
    failIf (bits (nth 0 ws 0).toNat 6 58 ≠ 0) 0x041 o
    let l ← entryRegs (o + 2) k (ws.drop 2)
    return ((nth 0 ws 0).toNat, nth 0 ws 1) :: l

/-- A configuration image as its words give it (R66, R67). -/
structure Image where
  sys : Bool
  rset : Nat
  widths : List Nat
  len : Nat
  check : Word
  /-- Planes with the word offset of their first instruction. -/
  ctiles : List (TileId × CPlane × Nat)
  /-- Planes with the word offset of their body. -/
  mtiles : List (TileId × MPlane × Nat)
  blocks : List BlockSec
  data : List (Nat × List Word × Word)
  seeds : List SeedRec
  entries : List (Nat × Word × List (Nat × Word))
  deriving DecidableEq, Repr

/-- The sections by offset and length: header at `off`, SLEN words behind it; 0x300 where one ends beyond LEN or they do
not end at the image check word (R68). DESIGN CHOICE: the spec gives a section with SLEN = 0, which has no room for its check
word, no fate, and the model takes it with 0x300 (log 81). Nor does it order the sections' extents among their check words, or
say which word an extent or a check word reports: the model checks every extent before any section's check word, and reports
the header of the section that ends wrongly and the check word that differs (log 83). -/
def splitSections (ws : List Word) : Nat → Nat → Check (List (Nat × Nat))
  | 0, off => do failIf (off ≠ ws.length - 1) 0x300 off; return []
  | k + 1, off => do
    failIf (ws.length - 1 ≤ off) 0x300 off
    let slen := bits (nth 0 ws off).toNat 24 32
    failIf (slen = 0 || ws.length - 1 ≤ off + slen) 0x300 off
    let l ← splitSections ws k (off + slen + 1)
    return (off, slen) :: l

/-- A tile section's LOC: the tile, within RSET, of the right kind, outside the pager corner, not marked bad (R2), not
yet named (R67). -/
def locTile (fuse : List TileId) (img : Image) (loc : Nat) (compute : Bool) (o : Nat) : Check TileId := do
  let t : TileId := ⟨dieOf (bits loc 23 1), bits loc 18 5, bits loc 13 5⟩
  failIf (bits loc 0 13 ≠ 0 || 27 < t.col || 23 < t.row || isCompute t != compute || !img.rset.testBit (regionOf t)
    || inPagerCorner t || fuse.contains t || img.ctiles.any (·.1 = t) || img.mtiles.any (·.1 = t)) 0x041 o
  return t

/-- One section added to an image (R67). DESIGN CHOICE: the spec gives no fate to a block whose LOC names a compute tile, a
tile of the pager corner, one marked bad or none; the model rejects it with 0x041 at its section header (log 83). -/
def addSection (fuse : List TileId) (ws : List Word) (img : Image) (sec : Nat × Nat) : Check Image := do
  let (o, slen) := sec
  let h := (nth 0 ws o).toNat
  let loc := bits h 0 24
  let body := (ws.drop (o + 1)).take (slen - 1)
  let check := nth 0 ws (o + slen)
  let b := o + 1
  match bits h 56 8 with
  | 1 => do
    let t ← locTile fuse img loc true o
    let p ← tileSection t b body
    return { img with ctiles := img.ctiles ++ [(t, p, b + 7 + p.tpls.length)] }
  | 2 => do
    let t ← locTile fuse img loc false o
    let p ← memSection t b body
    return { img with mtiles := img.mtiles ++ [(t, p, b)] }
  | 3 => do
    let t : TileId := ⟨dieOf (bits loc 23 1), bits loc 18 5, bits loc 13 5⟩
    failIf (loc ≠ 0 && (bits loc 0 13 ≠ 0 || 27 < t.col || 23 < t.row || isCompute t || inPagerCorner t
      || fuse.contains t)) 0x041 o
    let x ← blockSection (if loc = 0 then none else some t) b body check
    return { img with blocks := img.blocks ++ [x] }
  | 4 => do
    failIf (loc ≠ 0) 0x041 o
    let cw := (nth 0 body 0).toNat
    failIf (body.length ≠ 1 + 16384 + 4 * bits cw 15 11 + 2 * bits cw 0 15) 0x041 o
    return img
  | 5 => do
    failIf (loc ≠ 0 || body = []) 0x041 o
    failIf ((nth 0 body 0).toNat % 8 ≠ 0) 0x041 b
    return { img with data := img.data ++ [((nth 0 body 0).toNat, body.drop 1, check)] }
  | 6 => do
    failIf (loc ≠ 0 || body.length % 3 ≠ 0) 0x041 o
    let l ← seedRecords b body.length body
    return { img with seeds := img.seeds ++ l }
  | 7 => do
    failIf (bits loc 0 18 ≠ 0 || 20 < bits loc 18 5) 0x041 o
    failIf (body.length % 2 ≠ 1 || (nth 0 body 0).toNat % 64 ≠ 0) 0x041 b
    let regs ← entryRegs (b + 1) body.length (body.drop 1)
    return { img with entries := img.entries ++ [(21 * bits loc 23 1 + bits loc 18 5, nth 0 body 0, regs)] }
  | _ => .error (0x041, o)

/-- Every section in order. -/
def addSections (fuse : List TileId) (ws : List Word) : Image → List (Nat × Nat) → Check Image
  | img, [] => .ok img
  | img, s :: l => do let img ← addSection fuse ws img s; addSections fuse ws img l

/- The fourth step: checks that need a word of another section (R53, R64, R68, R154). -/

/-- The compute-tile node that a route entry of a tile leads to, if it can lie in the image. -/
def routeNode (t : TileId) (e : BitVec 32) : Option (TileId × Nat) :=
  let v := e.toNat
  match routeKind e with
  | 0 => some (t, bits v 13 9)
  | 1 => (neighbour t (bits v 20 2)).bind fun u => if isCompute u then some (u, bits v 7 9) else none
  | 2 => if v.testBit 1 then none else some (⟨dieOf (bits v 21 1), bits v 16 5, bits v 11 5⟩, bits v 2 9)
  | _ => none

/-- The plane of a compute tile among planes. -/
def planeOf (ps : List (TileId × CPlane)) (t : TileId) : Option CPlane := look t ps

/-- The field values that the CALLs of planes push: the call sites that a RET may return to (R40). -/
def callSites (ps : List (TileId × CPlane)) : List Nat :=
  (ps.flatMap fun c => (List.range c.2.ins.length).filterMap fun i => match c.2.node? i with
    | some (0x0D, n) => some n.imm.toNat
    | _ => none).eraseDups

/-- The route entries that a node emits by, each with the slot of its target: those of its targets, and for RET the entry
D + s of each call site s (R40, R54, log 74). -/
def entriesOf (sites : List Nat) (x : Nat × Niw) : List (Nat × Slot) :=
  if x.1 = 0x0E then x.2.t0.toList.flatMap fun k => sites.map fun v => (k.dest.toNat + v, k.slot)
  else (targetsOf x.2).map fun k => (k.dest.toNat, k.slot)

/-- The nodes that a plane's node leads to, with the slot of each target (R30, R54). -/
def arcsOf (sites : List Nat) (t : TileId) (p : CPlane) (x : Nat × Niw) : List ((TileId × Nat) × Slot) :=
  (entriesOf sites x).filterMap fun k => (p.routes[k.1]?).bind fun e => (routeNode t e).map fun d => (d, k.2)

/-- A slot that its destination does not take, or slot p of a reset fed by another node than a JOIN (R53, R154). -/
def crossCause (ps : List (TileId × CPlane)) (t : TileId) (p : CPlane) (w : Word) : Option Nat :=
  match decodeWord true w with
  | .error _ => none
  | .ok i =>
    match i.parts with
    | none => none
    | some (o, n) =>
      (arcsOf [0] t p (o, n)).findSome? fun a =>
        match (planeOf ps a.1.1).bind (·.node? a.1.2) with
        | none => none
        | some x =>
          if a.2 ∉ takes x then some 0x046
          else if a.2 = .p ∧ x.1 = 0xA4 ∧ x.2.imm.getLsbD 0 ∧ o ≠ 0x0F then some 0x203
          else none

/-- The peer that a circuit names does not match (R64). -/
def circuitBad (img : Image) (t : TileId) (d : List Word) : Bool :=
  let w := (nth 0 d 0).toNat
  if w.testBit 24 then false
  else match (circuitFar t w).bind fun far => look far (img.mtiles.map fun m => (m.1, m.2.1)) with
    | none => true
    | some m =>
      let p := nth [] m.gens (bits w 25 2)
      !descEn p || descSpace p ≠ 0 || descOut p = descOut d || descElem p ≠ descElem d || descTotal p ≠ descTotal d

/-- The circuits of an image, each with the word offset of its descriptor. -/
def circuitsOf (img : Image) : List (TileId × List Word × Nat) :=
  img.mtiles.flatMap fun m => (List.range 4).filterMap fun g =>
    let d := nth [] m.2.1.gens g
    if descEn d && descSpace d = 2 then some (m.1, d, m.2.2 + 2 + 6 * g) else none

/-- The circuits that break R64 with the words of another section, each with its word: its peer does not match, or an earlier
circuit has one of its ports on its channel. -/
def circuitFaults (img : Image) : List (TileId × List Word × Nat) → List (TileId × Nat × Nat) → List (Nat × Nat)
  | [], _ => []
  | (t, d, o) :: l, used =>
    let use := circuitUse t (nth 0 d 0).toNat
    (if circuitBad img t d || use.any (· ∈ used) then [(0x041, o)] else []) ++ circuitFaults img l (used ++ use)

/-- The instruction words that fail a check of another section's word, each with its cause. -/
def crossFaults (img : Image) : List (Nat × Nat) :=
  let ps := img.ctiles.map fun c => (c.1, c.2.1)
  img.ctiles.flatMap fun c => (c.2.1.ins.zipIdx).filterMap fun x =>
    (crossCause ps c.1 c.2.1 x.1).map fun cause => (cause, c.2.2 + x.2)

/-- The fourth step of R68: the failure of the lowest word. -/
def crossCheck (img : Image) : Check Unit :=
  match leastBy (fun (x y : Nat × Nat) => x.2 < y.2) (crossFaults img ++ circuitFaults img (circuitsOf img) []) with
  | some f => .error f
  | none => .ok ()

/-- Every check on the words of an image in the order of R68; a LEN below 9 has been refused. `system` where the load may
bring a system configuration (R66). -/
def parseImage (fuse : List TileId) (system : Bool) (ws : List Word) : Check Image := do
  let w (k : Nat) : Nat := (nth 0 ws k).toNat
  failIf (crcWords ws.dropLast ≠ ws.getLastD 0) 0x300 (ws.length - 1)
  let secs ← splitSections ws (bits (w 3) 0 16) 8
  eachFrom (fun _ (x : Nat × Nat) =>
    failIf (crcWords ((ws.drop x.1).take x.2) ≠ nth 0 ws (x.1 + x.2)) 0x300 (x.1 + x.2)) 0 secs
  failIf (bits (w 0) 48 16 ≠ 0x5A39 || bits (w 0) 40 8 ≠ 1) 0x300 0
  failIf ((w 0).testBit 32 && !system) 0x300 0
  failIf (bits (w 0) 33 7 ≠ 0) 0x041 0
  failIf (bits (w 1) 42 22 ≠ 0) 0x041 1
  let nf := bits (w 2) 60 4
  let all := (List.range 12).map fun k => bits (w 2) (5 * k) 5
  let decl := all.take nf
  failIf (12 < nf || decl.any (fun x => x < 4 || 24 < x) || 48 < decl.foldl (· + ·) 0 || (all.drop nf).any (· ≠ 0))
    0x041 2
  failIf (bits (w 3) 16 48 ≠ 0) 0x041 3
  eachFrom (fun i k => failIf (w k ≠ 0) 0x041 (4 + i)) 0 [4, 5, 6, 7]
  let img ← addSections fuse ws
    { sys := (w 0).testBit 32, rset := bits (w 1) 0 42, widths := decl, len := ws.length, check := ws.getLastD 0
      ctiles := [], mtiles := [], blocks := [], data := [], seeds := [], entries := [] } secs
  crossCheck img
  return img

/- Reading. -/

/-- How a loader reaches its image: by physical address, or through a page table (R216, R251). -/
inductive Source where
  | phys
  | virt (root : Nat) (system : Bool)
  deriving DecidableEq, Repr

/-- The physical pieces of a range by a walk of the table at once. -/
def State.sourcePieces (s : State) (src : Source) (need : Need) (a n align : Nat) : Res (List (Nat × Nat)) :=
  match src with
  | .phys => if a % align ≠ 0 then .fault 0x102 (word a) 0 else .ok [(a, n)]
  | .virt root system =>
    match addrCause system a n align with
    | some c => .fault c (word a) 0
    | none => s.walkPieces root need (piecesOf a n)

/-- Words at an address. -/
def State.sourceWords (s : State) (src : Source) (a n align : Nat) : Res (List Word) :=
  (s.sourcePieces src .read a (8 * n) align).bind fun ps => .ok (wordsOf n (s.readPieces ps))

/-- Read and check an image (R66 to R68, R251). -/
def State.readImage (s : State) (src : Source) (system : Bool) (a : Nat) : Res Image :=
  (s.sourceWords src a 1 8).bind fun h =>
    let len := bits (nth 0 h 0).toNat 0 32
    if len < 9 then .fault 0x300 0 0
    else (s.sourceWords src a len 8).bind fun ws =>
      match parseImage s.fuse system ws with
      | .error (c, o) => .fault c (word o) 0
      | .ok img => .ok img

/- Loop bodies (R37). -/

/-- Nodes reached from a worklist of (tile, node, level): one level up at a BOUND, one down at an EXITL, whose targets
are not followed at the level of the starting BOUND. -/
def bodyFrom (ps : List (TileId × CPlane)) (sites : List Nat) : Nat → List (TileId × Nat × Nat) →
    List (TileId × Nat × Nat) → List (TileId × Nat × Nat)
  | 0, seen, _ => seen
  | _ + 1, seen, [] => seen
  | k + 1, seen, (t, i, lv) :: todo =>
    if (t, i, lv) ∈ seen then bodyFrom ps sites k seen todo
    else match (planeOf ps t).bind fun p => (p.node? i).map fun x => (p, x) with
      | none => bodyFrom ps sites k seen todo
      | some (p, o, n) =>
        let seen := seen ++ [(t, i, lv)]
        let next := (arcsOf sites t p (o, n)).map (·.1)
        if o = 0x08 ∧ lv = 0 then bodyFrom ps sites k seen todo
        else
          let lv := if o = 0x07 then lv + 1 else if o = 0x08 then lv - 1 else lv
          if 12 < lv then bodyFrom ps sites k seen todo
          else bodyFrom ps sites k seen (next.map (fun d => (d.1, d.2, lv)) ++ todo)

/-- The arcs of every node of a graph (R47). -/
def nodeArcs (g : List (TileId × CPlane)) (sites : List Nat) : List ((TileId × Nat) × Slot) :=
  g.flatMap fun c => (List.range c.2.ins.length).flatMap fun i => match c.2.node? i with
    | some x => arcsOf sites c.1 c.2 x
    | none => []

/-- The steps that a body search can take: every node is followed once at each of 13 levels, along each of its arcs (R37). -/
def searchFuel (ps : List (TileId × CPlane)) (sites : List Nat) : Nat := 13 * (nodeArcs ps sites).length

/-- The tiles that hold a node of the body of the BOUND at a node (R37). -/
def bodyTiles (ps : List (TileId × CPlane)) (t : TileId) (p : CPlane) (n : Niw) : List TileId :=
  let sites := callSites ps
  let start := (arcsOf [] t p (0x07, n)).map fun a => (a.1.1, a.1.2, 0)
  ((bodyFrom ps sites (searchFuel ps sites + start.length + 1) [] start).map (·.1)).eraseDups

/-- Every BOUND of planes with the tiles of its body. -/
def boundBodies (ps : List (TileId × CPlane)) : List (LoopBody × List TileId) :=
  ps.flatMap fun c => (List.range c.2.ins.length).filterMap fun i =>
    match c.2.node? i with
    | some (0x07, n) => some (⟨c.1, i⟩, bodyTiles ps c.1 c.2 n)
    | _ => none

/- The arcs of a whole graph (R47). -/

/-- The memory tile and channel of each target of a node. -/
def memTargets (t : TileId) (p : CPlane) (n : Niw) : List (TileId × Nat) :=
  (targetsOf n).filterMap fun k => (p.routes[k.dest.toNat]?).bind (tileRoute t)

/-- The generators that nodes of a graph start. -/
def startedGens (g : List (TileId × CPlane)) : List (TileId × Nat) :=
  g.flatMap fun c => (List.range c.2.ins.length).flatMap fun i => match c.2.node? i with
    | some x => (memTargets c.1 c.2 x.2).filterMap fun m => if 12 ≤ m.2 then some (m.1, m.2 - 12) else none
    | none => []

/-- The slots that a started generator of a memory tile leads to: the handler of an OPSTORE tile, and the far node of a
circuit (R62, R64, R174). -/
def MPlane.genArcs (m : MPlane) (t : TileId) (g : Nat) : List ((TileId × Nat) × Slot) :=
  let d := nth [] m.gens g
  let w := (nth 0 d 0).toNat
  let v := m.mode.toNat
  let handler := if bits v 60 4 = 0 then (neighbour t (bits v 32 2)).toList.map fun c => ((c, bits v 34 9), Slot.a) else []
  let far := if descEn d && descSpace d = 2 && w.testBit 24 then
      (circuitFar t w).toList.map fun c => ((c, bits w 27 9), Slot.a)
    else []
  handler ++ far

/-- Every arc of the graph of an image (R47). -/
def Image.arcs (img : Image) : List ((TileId × Nat) × Slot) :=
  let ps := img.ctiles.map fun c => (c.1, c.2.1)
  nodeArcs ps (callSites ps)
    ++ (startedGens ps).flatMap fun x => (look x.1 (img.mtiles.map fun m => (m.1, m.2.1))).elim [] (·.genArcs x.1 x.2)

/-- Planes ready to be written: context, image, modes and widths resolved, the loops' bodies, and what the whole graph leads
to each node (R37, R45, R47, R100). -/
def finishPlanes (img : Image) (ctx : Nat) (mode : Word) : List (TileId × CPlane) :=
  let ps := img.ctiles.map fun c => (c.1, c.2.1)
  let bs := boundBodies ps
  let arcs := img.arcs
  let sites := callSites ps
  ps.map fun c => (c.1, { c.2 with
    ctx := ctx, img := img.check, mode := Mode.ofWord mode, widths := img.widths
    bodies := (bs.filter fun b => c.1 ∈ b.2).map (·.1)
    feeds := ((arcs.filter (·.1.1 = c.1)).map fun a => (a.1.2, a.2)).eraseDups
    sites := sites })

/- Generators (R121). -/

/-- The pages of a range, each as (virtual base, size, physical base), by walking the table, where each allows the access;
`fuel` bounds the pages. -/
def State.framesOf (s : State) (root : Nat) (need : Need) : Nat → Nat → Nat → Res (List (Nat × Nat × Nat))
  | 0, _, _ => .ok []
  | k + 1, va, stop =>
    if stop ≤ va then .ok []
    else match s.walk root va with
      | .page base size leaf =>
        if !permits leaf need then .fault 0x103 (word va) 0
        else (s.framesOf root need k (base + size) stop).bind fun l => .ok ((base, size, leafBase leaf) :: l)
      | .fault c => .fault c (word va) 0
      | .park => .miss va

/-- The extent of a SPACE 01 generator. -/
def descExtent (d : List Word) : Nat := bits (nth 0 d 1).toNat 0 40

/-- The permission that a generator's pages must give (R120). -/
def genNeed (d : List Word) : Need := if descOut d then .write else .read

/-- Patch one generator: its extent is checked and translated (R119 to R121). -/
def State.patchGen (s : State) (root : Nat) (system : Bool) (d : List Word) : Res (List (Nat × Nat × Nat)) :=
  if !descEn d || descSpace d ≠ 1 then .ok []
  else
    let base := (nth 0 d 0).toNat
    let ext := descExtent d
    match addrCause system base ext 1 with
    | some c => .fault c (word base) 0
    | none =>
      s.framesOf root (genNeed d) (ext / 4096 + 2) base (base + ext)

/-- Patch the generators of a plane. -/
def State.patchGens (s : State) (root : Nat) (system : Bool) : List (List Word) → Res (List (List (Nat × Nat × Nat)))
  | [] => .ok []
  | d :: ds => (s.patchGen root system d).bind fun f =>
      (s.patchGens root system ds).bind fun fs => .ok (f :: fs)

/-- Patch every memory plane. -/
def State.patchPlanes (s : State) (root : Nat) (system : Bool) :
    List (TileId × MPlane × Nat) → Res (List (TileId × MPlane))
  | [] => .ok []
  | (t, p, _) :: l => (s.patchGens root system p.gens).bind fun fs =>
      (s.patchPlanes root system l).bind fun r => .ok ((t, { p with frames := fs }) :: r)

/- Writing. -/

/-- The write-once words of a range are empty, but for those that a reader waits at (R110). -/
def Main.emptied (m : Main) (a n : Nat) : Main :=
  { m with wstate := m.wstate.filter fun w => w.1 < a || a + n ≤ w.1 || m.readers.any (·.1 = w.1) }

/-- The write-once words that a load touches start empty: those that it writes, and in a program load every word of their
frames, which the host may have used before (R236). -/
def State.startEmpty (s : State) (program : Bool) (ps : List (Nat × Nat)) : State :=
  { s with main := ps.foldl (fun m p =>
      if program then m.emptied (p.1 / 4096 * 4096) 4096 else m.emptied (p.1 / 8 * 8) 8) s.main }

/-- Write data and blocks of an image into main memory through the context's table, skipping sections already in place
(R50); blocks set the head bit of their first line (R67). DESIGN CHOICE: R67 leaves it open whether the loader's own write of a
block clears stale head bits of the block's later lines, and the model clears them (log 81). -/
def State.writeWords (s : State) (program : Bool) (root : Nat) (system : Bool) (head : Bool) (a : Nat) (ws : List Word) :
    Res State :=
  (s.sourcePieces (.virt root system) .loader a (8 * ws.length) 8).bind fun ps =>
    let s := (s.startEmpty program ps).writePieces ps (wordBytes ws)
    .ok (match head, ps with
      | true, (pa, _) :: _ => { s with main := { s.main with heads := addNew s.main.heads (pa / 64) } }
      | _, _ => s)

/-- Write every data section. -/
def State.writeData (s : State) (program : Bool) (root : Nat) (system : Bool) : List (Nat × List Word × Word) → Res State
  | [] => .ok s
  | (a, ws, _) :: l => (s.writeWords program root system false a ws).bind fun s => s.writeData program root system l

/-- Write a block into a CODE tile's banks with its head bit (R67). -/
def State.writeCode (s : State) (t : TileId) (off : Nat) (ws : List Word) : State :=
  let s := s.writeBank t off (wordBytes ws)
  let m := s.mtile t
  s.setMtile t { m with heads := addNew m.heads (off / 64) }

/-- Write every block section. -/
def State.writeBlocks (s : State) (program : Bool) (root : Nat) (system : Bool) : List BlockSec → Res State
  | [] => .ok s
  | b :: l =>
    match b.tile with
    | some t => (s.writeCode t b.addr b.words).writeBlocks program root system l
    | none => (s.writeWords program root system true b.addr b.words).bind fun s => s.writeBlocks program root system l

/-- KIND, address word and check word of a block's section (R50). -/
def BlockSec.key (b : BlockSec) : Nat × Word × Word := (3, word b.addr, b.check)

/-- KIND, address word and check word of the data and block sections of an image (R50). -/
def Image.sections (img : Image) : List (Nat × Word × Word) :=
  img.blocks.map BlockSec.key ++ img.data.map fun d => (5, word d.1, d.2.2)

/-- The image without the data and block sections that are in place, and, in a fabric load, without blocks of the CODE tiles
that it configures: those travel with their tile's plane (R50, R67, log 31). -/
def Image.toWrite (img : Image) (program : Bool) (placed : List (Nat × Word × Word)) : Image :=
  { img with
    data := img.data.filter fun d => (5, word d.1, d.2.2) ∉ placed
    blocks := img.blocks.filter fun b => b.key ∉ placed && match b.tile with
      | some t => program || !(img.mtiles.any (·.1 = t))
      | none => true }

/-- The CODE-tile blocks that travel with a tile's plane: none that the program load wrote (R50, R118, log 31). -/
def Image.codeOf (img : Image) (t : TileId) (placed : List (Nat × Word × Word)) : List (Nat × List Word) :=
  (img.blocks.filter fun b => b.tile = some t && b.key ∉ placed).map fun b => (b.addr, b.words)

/-- Offset and bytes of the blocks of a tile that the program load wrote: they are in place and stay (R50, log 31). -/
def Image.keepOf (img : Image) (t : TileId) (placed : List (Nat × Word × Word)) : List (Nat × Nat) :=
  (img.blocks.filter fun b => b.tile = some t && b.key ∈ placed).map fun b => (b.addr, 8 * b.words.length)

/-- An offset lies in a block that is in place (R50). -/
def MPlane.keeps (p : MPlane) (a : Nat) : Bool := p.keep.any fun k => k.1 ≤ a && a < k.1 + k.2

/-- A memory tile zeroed for a plane of another context: only the blocks that are in place stand (R50, R118, log 31). -/
def MTile.zeroedFor (m : MTile) (p : MPlane) : MTile :=
  { MTile.reset with banks := m.banks.filter (p.keeps ·.1), heads := m.heads.filter fun l => p.keeps (64 * l)
                     last := m.last, gated := m.gated }

/-- Put planes into the shadow planes of a region set. A memory tile that another context used last is zeroed (R118). -/
def State.putShadows (s : State) (ctx : Nat) (cs : List (TileId × CPlane)) (ms : List (TileId × MPlane)) : State :=
  let s := cs.foldl (fun s c => s.setCtile c.1 { s.ctile c.1 with shadow := some c.2 }) s
  ms.foldl (fun s m =>
    let x := s.mtile m.1
    let p := { m.2 with ctx := ctx }
    if x.last = some ctx || x.active.isSome then s.setMtile m.1 { x with shadow := some p }
    else s.setMtile m.1 { x.zeroedFor p with shadow := some p, zeroing := true }) s

end Sys2Proof.Machine
end

