-- ==== Sys2Proof/Machine/Planes.lean ====
section
/-!
DEFINITION. Planes and contexts: switching a tile (R47, R117, R118), swapping a region (R47), what remains of a context
in a region (R47), ending a context (R220, R50), seeds (R30, R49, R286), and loading an image into shadow planes (R50,
R251, R286).
-/

namespace Sys2Proof.Machine

/- Switching. -/

/-- The base of a context's template in a plane, which the context map gives: the lowest, where it has several (R28, R53). -/
def CPlane.base (p : CPlane) : Nat := ((leastBy (fun (x y : Nat × Nat) => x.1 < y.1) p.tpls).map (·.1)).getD 0

/-- A compute tile switches to its shadow plane. What belongs to the context stays where the new plane has the same
context; a tile without a configuration is gated and loses it (R47, R117, R118). -/
def CTile.switched (c : CTile) : CTile :=
  match c.shadow with
  | none => { CTile.reset with own := c.own, stream := c.stream, ingress := c.ingress, router := c.router,
                               inject := c.inject, pid := c.pid, reasm := c.reasm, sent := c.sent, rcvd := c.rcvd,
                               marks := c.marks }
  | some p =>
    let same := c.active.any (·.ctx = p.ctx)
    { c with active := some p, shadow := none, map := [(p.ctx, p.base)], headWait := 0, refill := [], entries := [], mma := [],
             q := if same then c.q else List.replicate 8 Acc.zero, corner := if same then c.corner else none,
             verdicts := if same then c.verdicts else [], drains := [], passed := [], kills := [], frozen := [] }

/-- The generators of a plane as the switch leaves them (R63, R121). -/
def planeGens (p : MPlane) : List (Nat × Gen) :=
  (List.range 4).map fun g => (g, ⟨descPos (nth [] p.gens g), none, [], 0, nth [] p.frames g, false, []⟩)

/-- The banks with a plane's data words and blocks written, and the head bits (R67, R118). -/
def writePlane (p : MPlane) (banks : List Host.Cell) (heads : List Nat) : List Host.Cell × List Nat :=
  let banks := cellsPut banks 0 (wordBytes p.data)
  let heads := if p.data = [] then heads else clearHeads heads 0 (8 * p.data.length)
  p.code.foldl (fun x b =>
    (cellsPut x.1 b.1 (wordBytes b.2), addNew (clearHeads x.2 b.1 (8 * b.2.length)) (b.1 / 64))) (banks, heads)

/-- The bytes from offset 0 that a plane uses: those of its mode, its data, and the extents of its generators within the tile
(R62, R63, R117). -/
def MPlane.used (p : MPlane) : Nat :=
  let v := p.mode.toNat
  let mode := match bits v 60 4 with
    | 0 => (bits v 56 4 + 1) * bits v 43 13 * 256
    | 1 => bits v 43 13 * 256
    | 2 => (bits v 36 12 + bits v 28 8) * bits v 48 8 * 64
    | _ => 2 ^ 20
  let gens := p.gens.map fun d => if descEn d && descSpace d = 0 then (nth 0 d 0).toNat + bits (nth 0 d 1).toNat 0 40 else 0
  gens.foldl max (max mode (8 * p.data.length))

/-- An offset lies in a bank that a plane uses: bank a[9:6], of sixteen (R107, R117). -/
def MPlane.usesBank (p : MPlane) (a : Nat) : Bool := a / 64 % 16 < (p.used + 63) / 64

/-- The banks that a tile's new plane does not use are gated while its shadow plane is empty, and lose their contents
(R117). -/
def MTile.gateBanks (m : MTile) (p : MPlane) : MTile :=
  { m with banks := m.banks.filter (p.usesBank ·.1), heads := m.heads.filter fun l => p.usesBank (64 * l) }

/-- A memory tile takes a plane: another context finds its contents zeroed, but for the blocks in place, the same one its
banks, rows, and its FIFO or rows of an unchanged mode word; write-once words are empty and operand buffers empty (R107 to R110, R117, R118). -/
def MTile.configured (m : MTile) (p : MPlane) : MTile :=
  let same := m.last = some p.ctx
  let like := same && m.active.any (·.mode = p.mode)
  let old := if same then m else { m.zeroedFor p with zeroing := m.last.isSome && !m.gated }
  let w := writePlane p old.banks old.heads
  let fresh := if bits p.mode.toNat 60 4 = 2 then freshLines (bits p.mode.toNat 36 12 + bits p.mode.toNat 28 8) else []
  { old with
    active := some p, shadow := none, last := some p.ctx, banks := w.1, heads := w.2, full := [], fill := 0, drain := 0,
    fifo := if like then m.fifo else [], lines := if like then m.lines else fresh, wstate := [],
    gens := planeGens p, waiting := [] }.gateBanks p

/-- A memory tile switches to its shadow plane; without one it is gated (R117). -/
def MTile.switched (m : MTile) : MTile :=
  match m.shadow with
  | none => { MTile.reset with last := m.last }
  | some p => m.configured p

/-- One tile switches. -/
def State.switchTile (s : State) (t : TileId) : State :=
  if isCompute t then s.setCtile t (s.ctile t).switched else s.setMtile t (s.mtile t).switched

/- What remains of a context in a region (R47). -/

/-- An operation of a tile of the region. -/
def siteIn (r : Nat) (op : Issued) : Bool :=
  match op.site with
  | .tile t => regionOf t = r
  | .block _ _ _ => false

/-- A compute tile of the region keeps a context's swap waiting: a node that has not passed the drain, a token or an
entry of the context, or an operation of its engines. -/
def CTile.busy (c : CTile) (n : Nat) : Bool :=
  let mine (q : Parcel) : Bool := tagCtx q.tok.tag = n
  (match c.active with
    | some p => p.ctx = n && (List.range p.ins.length).any fun i => (p.template? i).isSome && !(i ∈ c.passed)
    | none => false)
  || c.own.any mine || c.stream.any mine || c.ingress.any mine || c.refill.any mine || c.entries.any (tagCtx ·.tag = n)
  || c.mma.any (·.ctx = n) || c.verdicts.any (fun v => tagCtx v.tag = n && (v.reading || v.opener.isSome))

/-- A memory tile keeps a swap waiting: a request, a start, or a running generator. -/
def MTile.busy (m : MTile) : Bool := m.waiting ≠ [] || m.gens.any fun g => g.2.run.isSome || g.2.waiting ≠ []

/-- Every flit of the mesh, also those that still wait at their tile for injection. -/
def State.allFlits (s : State) : List Flit :=
  s.flits.map (fun (x : TileId × Nat × Flit) => x.2.2) ++ s.next.map (fun (x : TileId × Nat × Flit) => x.2.2)
    ++ s.late.map (fun (x : Nat × TileId × Nat × Flit) => x.2.2.2)
    ++ s.ctiles.flatMap fun (x : TileId × CTile) => x.2.inject

/-- A flit bound for a tile of the region. -/
def flitTo (r : Nat) (f : Flit) : Bool := regionOf f.dst = r

/-- A flit carries an operation of a context. -/
def Flit.carries (of' : Issued → Bool) (n : Nat) (f : Flit) : Bool :=
  match f.cargo with
  | .request op | .post op | .reply op _ => op.ctx = n && of' op
  | _ => false

/-- A flit of a token packet (R70). -/
def Flit.isToken (f : Flit) : Bool := f.typ = 0

/-- Nothing of context n is queued, waiting, parked, spilled, in flight, unperformed or unanswered in region r (R47). -/
def State.regionClear (s : State) (r n : Nat) : Bool :=
  let g := s.region r
  let ts := tilesOf r
  let mine (op : Issued) : Bool := op.ctx = n && siteIn r op
  !((ts.filter isCompute).any fun t => (s.ctile t).busy n)
  && !((ts.filter (!isCompute ·)).any fun t => (s.mtile t).busy)
  && !(s.ctxs.any fun c => c.num = n && c.st != .ended && c.skein.any fun x => match x with
        | .entry t _ => regionOf t = r
        | .reader _ _ op => siteIn r op)
  && !(s.lace.any fun (x : Nat × LaceArray) => x.2.ops.any (mine ·.op)) && !(s.regions.any fun (x : Nat × Region) =>
        x.2.requests.any mine)
  && !(g.parked.any (mine ·.op)) && !(g.walks.any (mine ·.1)) && !(g.storeBuf.any mine) && !(s.held.any (mine ·.op))
  && !(s.mtiles.any fun (m : TileId × MTile) => m.2.readers.any (mine ·.2))
  && !(s.main.readers.any (mine ·.2)) && !(s.reds.any fun x => x.leaves.any (mine ·.op))
  && !(s.scatters.any (mine ·.op))
  && !(s.regions.any fun (x : Nat × Region) => x.2.inbound.any fun i => i.op.any mine)
  && !(s.allFlits.any fun f => f.carries (siteIn r) n || (flitTo r f && f.isToken))
  && !(ts.any fun t => (s.ctile t).reasm.any fun x => x.typ = 0)

/- Ending a context (R220). -/

/-- A packet that stood for something of a context stands for nothing. -/
def Cargo.mute (n : Nat) (c : Cargo) : Cargo :=
  match c with
  | .request op | .post op => if op.ctx = n then .bits else c
  | .reply op _ => if op.ctx = n then .bits else c
  | .fault f => if f.ctx = n then .bits else c
  | .marker k _ _ => if k = n then .bits else c
  | .bits | .token _ _ => c

/-- A flit of such a packet. -/
def Flit.mute (n : Nat) (f : Flit) : Flit := { f with cargo := f.cargo.mute n }

/-- A compute tile without anything of a context; its planes of the context are emptied. -/
def CTile.purged (c : CTile) (n : Nat) : CTile :=
  let keep (q : Parcel) : Bool := tagCtx q.tok.tag ≠ n
  let c := { c with shadow := c.shadow.filter (·.ctx ≠ n), own := c.own.filter keep, stream := c.stream.filter keep,
                    ingress := c.ingress.filter keep, refill := c.refill.filter keep, entries := c.entries.filter (tagCtx ·.tag ≠ n),
                    mma := c.mma.filter (·.ctx ≠ n), frozen := c.frozen.filter (· ≠ n)
                    sent := c.sent.filter (·.1.1 ≠ n), rcvd := c.rcvd.filter (·.1.1 ≠ n)
                    marks := c.marks.filter (·.1.1 ≠ n), inject := c.inject.map (Flit.mute n)
                    reasm := c.reasm.map fun (x : Reasm) => { x with cargo := x.cargo.mute n } }
  if c.active.any (·.ctx = n) then { { c with shadow := none }.switched with shadow := c.shadow } else c

/-- A memory tile without anything of a context. -/
def MTile.purged (m : MTile) (n : Nat) : MTile :=
  let m := { m with shadow := m.shadow.filter (·.ctx ≠ n), waiting := m.waiting.filter (·.ctx ≠ n),
                    readers := m.readers.filter (·.2.ctx ≠ n), sink := m.sink.filter (tagCtx ·.tok.tag ≠ n) }
  if m.active.any (·.ctx = n) then { MTile.reset with last := m.last, shadow := m.shadow } else m

/-- A region without anything of a context. -/
def Region.purged (g : Region) (n : Nat) : Region :=
  { g with
    activeCtx := g.activeCtx.filter (· ≠ n), shadow := g.shadow.filter (·.ctx ≠ n)
    reserved := g.reserved.filter (· ≠ n), tc := g.tc.filter (·.ctx ≠ n), walks := g.walks.filter (·.1.ctx ≠ n)
    parked := g.parked.filter (·.op.ctx ≠ n), requests := g.requests.filter (·.ctx ≠ n), storeBuf := g.storeBuf.filter (·.ctx ≠ n)
    done := g.done.filter (tagCtx ·.2 ≠ n)
    bcs := g.bcs.map fun b => if b.ctx = n && b.st != .idle then { b with st := .idle, stack := [], held := false } else b
    inbound := g.inbound.map fun i => if i.op.any (·.ctx = n) then { i with op := none } else i }

/-- A Lace array without anything of a context: its slots are Free and cleared, and the records of its stream are gone with
them (R212). -/
def LaceArray.purged (x : LaceArray) (n : Nat) : LaceArray :=
  { x with
    out := if (x.slot x.last).ctx = n then [] else x.out
    slots := x.slots.map fun k => if k.ctx = n then { Stream.reset with bid := k.bid } else k
    ops := x.ops.filter (·.op.ctx ≠ n) }

/-- A frame goes back to its pool. -/
def State.freeFrame (s : State) (base size : Nat) : State :=
  let p := s.pager
  { s with pager := if inTier1 base then { p with free1 := p.free1 ++ [(base, size)] }
                    else { p with free2 := p.free2 ++ [(base, size)] } }

/-- Main memory without the readers of a context: a word that they alone had deferred is empty again (R110, R236). -/
def Main.purged (m : Main) (n : Nat) : Main :=
  let readers := m.readers.filter (·.2.ctx ≠ n)
  { m with readers := readers
           wstate := m.wstate.filter fun w => w.2 ≠ .deferred || readers.any (·.1 = w.1) }

/-- Everything of a context number leaves the machine; its partitions and its Lace slots are cleared (R118, R220,
log 32). -/
def State.purge (s : State) (n : Nat) : State :=
  let s := (s.pager.moving.filter (·.ctx = n)).foldl (fun s x => s.freeFrame x.frame x.size) s
  { s with
    ctiles := s.ctiles.map fun (x : TileId × CTile) => (x.1, x.2.purged n)
    mtiles := s.mtiles.map fun (x : TileId × MTile) => (x.1, x.2.purged n)
    regions := s.regions.map fun (x : Nat × Region) => (x.1, x.2.purged n)
    held := s.held.filter (·.op.ctx ≠ n)
    main := s.main.purged n
    reds := s.reds.filter (·.ctx ≠ n)
    scatters := s.scatters.filter (·.op.ctx ≠ n)
    lace := s.lace.map fun (x : Nat × LaceArray) => (x.1, x.2.purged n)
    flits := s.flits.map fun (x : TileId × Nat × Flit) => (x.1, x.2.1, Flit.mute n x.2.2)
    next := s.next.map fun (x : TileId × Nat × Flit) => (x.1, x.2.1, Flit.mute n x.2.2)
    late := s.late.map fun (x : Nat × TileId × Nat × Flit) => (x.1, x.2.1, x.2.2.1, Flit.mute n x.2.2.2)
    pager := { s.pager with faults := s.pager.faults.filter (·.2.ctx ≠ n), moving := s.pager.moving.filter (·.ctx ≠ n) } }

/-- A context ends: its number, its Skein table and its partitions become free, and the host that launched it is told
(R189, R220). -/
def State.endCtx (s : State) (ln : Nat) (tell : Bool) : State :=
  match s.launched? ln with
  | none => s
  | some c =>
    if c.st = .ended then s
    else
      let s := if c.st = .waiting then s else s.purge c.num
      let s := s.mapCtx ln fun c =>
        { c with st := .ended, req := none, loops := [], skein := [], markers := [], quiet := [], splice := none,
                 switched := [], entered := [], endpoints := [] }
      match c.host with
      | some h => if tell then s.sendCompl h c.home 3 ln 0 0 else s
      | none => s

/-- A block context of a context runs. -/
def State.blocksRun (s : State) (n : Nat) : Bool :=
  s.regions.any fun (g : Nat × Region) => g.2.bcs.any fun b => b.ctx = n && match b.st with
    | .fetch _ | .run _ => true
    | .idle | .stopped => false

/-- A program context is over: its block contexts are idle or stopped and none of the contexts that it launched is still
alive (R50). -/
def State.programOver (s : State) (c : Ctx) : Bool :=
  c.program && c.st = .running && !s.blocksRun c.num
    && !(s.ctxs.any fun x => x.parent = some c.launch && x.st != .ended)

/-- End every program context that is over (R50). -/
def State.endPrograms (s : State) : State :=
  (s.ctxs.filter s.programOver).foldl (fun s c => s.endCtx c.launch true) s

/-- A context without a plane anywhere ends, unless it is a program context, which ends by R50 (R220). -/
def State.endUnplaced (s : State) (n : Nat) : State :=
  match s.ctx? n with
  | none => s
  | some c =>
    let placed := s.regions.any fun (g : Nat × Region) =>
      g.2.activeCtx = some n || g.2.shadow.any (·.ctx = n) || g.2.reserved = some n
    if c.program || placed then s else (s.endCtx c.launch true).endPrograms

/- Swapping a region. -/

/-- A region's context has drained there: the templates of its plane are entered no more, and the loop instances that were
opened there have ended (R30, R249, log 70). -/
def Ctx.leave (r : Nat) (c : Ctx) : Ctx :=
  { c with entered := c.entered.filter (regionOf ·.1 ≠ r), loops := c.loops.filter (·.home ≠ some r) }

/-- The planes of a region swap: every tile switches, and the former active plane becomes the empty shadow (R47). -/
def State.swapRegion (s : State) (r : Nat) : State :=
  let g := s.region r
  let s := (tilesOf r).foldl State.switchTile s
  let new := g.shadow.map (·.ctx)
  let s := { s with ctxs := s.ctxs.map fun (c : Ctx) => if g.activeCtx = some c.num then c.leave r else c }
  s.setRegion r { g with
    activeCtx := new, shadow := none, reserved := if g.reserved = new then none else g.reserved
    done := g.done.filter fun d => g.activeCtx ≠ some (tagCtx d.2) }

/-- A wait for swaps without a region. -/
def Wait.swapped (r : Nat) (ofLaunch : Nat → Bool) (w : Wait) : Wait :=
  let clear (set : Nat) : Nat := if set.testBit r then set - 2 ^ r else set
  match w with
  | .swap set => .swap (clear set)
  | .drain ln set => if ofLaunch ln then .drain ln (clear set) else w
  | w => w

/-- A wait for swaps is over. -/
def Wait.allSwapped (w : Wait) : Bool :=
  match w with
  | .swap 0 | .drain _ 0 => true
  | _ => false

/-- The operations that a swap of a region releases emit their operand: the region set of CFGSW, the launch number of
DRAIN (R174, R253). -/
def State.tellSwap (s : State) (r : Nat) (old : Option Nat) : State :=
  let ofLaunch (ln : Nat) : Bool := (s.launched? ln).any fun c => old = some c.num
  let held := s.held.map fun h => { h with why := h.why.swapped r ofLaunch }
  let done := held.filter (·.why.allSwapped)
  let s := { s with held := held.filter (!·.why.allSwapped) }
  done.foldl (fun s h => (s.fix h.op).emitWord h.op h.op.niw h.op.ta.word true) s

/-- A region swaps, what waits for it is told, and the context that leaves may end (R47, R220, R253). -/
def State.doSwap (s : State) (r : Nat) : State :=
  let old := (s.region r).activeCtx
  let s := (s.swapRegion r).tellSwap r old
  match old with
  | some n => s.endUnplaced n
  | none => s

/- Seeds (R30, R49, R286). -/

/-- The token of a seed record under a context. -/
def SeedRec.parcel (x : SeedRec) (n : Nat) : Parcel :=
  let q := parcelOf x.ctl x.tag [x.val]
  { q with tok := { q.tok with tag := mkTag n (tagDepth x.tag) (tagArea x.tag) } }

/-- A seed has a target within the region set, a node within its template, a slot that the node takes, and a tag of the
image's widths (R67, R286, R319). -/
def seedFits (ps : List (TileId × CPlane)) (rset : Nat) (widths : List Nat) (x : SeedRec) : Bool :=
  let q := parcelOf x.ctl x.tag [x.val]
  rset.testBit (regionOf q.tile) && tagFits (fullWidths widths) x.tag &&
    match look q.tile ps with
    | none => false
    | some p => (p.template? q.node).isSome && (p.node? q.node).any fun o => q.slot ∈ takes o

/-- A node becomes ready when its template is entered: ARI 0 and PRD 00, as which PRD 11 of CONST behaves (R30, R256). -/
def entersReady (x : Nat × Niw) : Bool := x.2.ari = 0 && (x.2.prd = .always || (x.2.prd = .bub && x.1 = 0x02))

/-- A template is entered under a seed tag: its nodes without operands become ready, once (R30). -/
def State.enter (s : State) (ln : Nat) (t : TileId) (node : Nat) (tag : Word) : State :=
  match s.launched? ln, (s.ctile t).active with
  | some c, some p =>
    match p.template? node with
    | none => s
    | some (base, count) =>
      if (t, base, tag) ∈ c.entered then s
      else
        let s := s.mapCtx ln fun c => { c with entered := (t, base, tag) :: c.entered }
        let x := s.ctile t
        let ready := ((List.range count).map (base + ·)).filter fun i => (p.node? i).any entersReady
        s.setCtile t { x with
          entries := x.entries ++ ready.map fun i => { Entry.new tag i with ready := some s.cycle } }
  | _, _ => s

/-- A seed enters: its template is entered, and its token is on its way to its node (R30, R49). -/
def State.injectSeed (s : State) (ln n : Nat) (x : SeedRec) : State :=
  let q := x.parcel n
  (s.enter ln q.tile q.node q.tok.tag).deliver q

/-- Seeds in table order (R49). -/
def State.injectSeeds (s : State) (ln n : Nat) (l : List SeedRec) : State :=
  l.foldl (fun s x => s.injectSeed ln n x) s

/- Loading (R50, R251, R286). -/

/-- The sections that the program load of a context's program wrote: its own or those of the context that launched it
(R50). -/
def placedBy (ctxs : List Ctx) : Nat → Ctx → List (Nat × Word × Word)
  | 0, _ => []
  | k + 1, c =>
    if c.program then c.sections
    else match c.parent.bind fun ln => ctxs.find? (·.launch = ln) with
      | some p => placedBy ctxs k p
      | none => []

/-- The sections in place for a context. -/
def State.placed (s : State) (c : Ctx) : List (Nat × Word × Word) := placedBy s.ctxs (s.ctxs.length + 1) c

/-- Main-memory data and blocks of a load are written (R50). -/
def State.writeSections (s : State) (c : Ctx) (img : Image) (program : Bool) : Res State :=
  let w := img.toWrite program (s.placed c)
  (s.writeData program c.root c.sys w.data).bind fun s => s.writeBlocks program c.root c.sys w.blocks

/-- The regions of a set get what was loaded. -/
def State.markLoaded (s : State) (rset : Nat) (l : Loaded) : State :=
  (regionsOf rset).foldl (fun s r => s.setRegion r { s.region r with shadow := some l }) s

/-- The sections of an image that lie in a region set. -/
def Image.within (img : Image) (rset : Nat) : Image :=
  { img with ctiles := img.ctiles.filter fun c => rset.testBit (regionOf c.1)
             mtiles := img.mtiles.filter fun c => rset.testBit (regionOf c.1) }

/-- Patch the generators, write data and blocks, and put the planes into the shadow planes of the regions in `rset`
(R121, R251). -/
def State.loadFabric (s : State) (c : Ctx) (img : Image) (rset : Nat) (byCfgld : Bool) : Res State :=
  (s.patchPlanes c.root c.sys img.mtiles).bind fun ms =>
    (s.writeSections c img false).bind fun s =>
      let cs := (finishPlanes img c.num c.mode).filter fun p => rset.testBit (regionOf p.1)
      let ms := (ms.filter fun m => rset.testBit (regionOf m.1)).map fun m =>
        (m.1, { m.2 with code := img.codeOf m.1 (s.placed c), keep := img.keepOf m.1 (s.placed c) })
      .ok ((s.putShadows c.num cs ms).markLoaded rset ⟨c.num, img.check, img.rset, img.len, byCfgld, img.seeds⟩)

/-- The translation faults that the pager corners hold or that are on their way to them (R122). -/
def State.pageFaults (s : State) : List PageFault :=
  s.pager.faults.map (·.2) ++ s.allFlits.filterMap fun f => match f.cargo with
    | .fault x => some x
    | _ => none

/-- A page that is not present goes to the pager corner of a region's die (R121, R122). -/
def State.askPager (s : State) (ctx va r : Nat) : State :=
  if s.pageFaults.any fun f => f.ctx = ctx && f.va = va then s
  else s.inject (firstTile r) ⟨dieOf (r / 21), 0, 0⟩ 4 (.fault ⟨ctx, va, r, false⟩) [word (ctx + r * 2 ^ 16), word va]

/-- A page of a context is still to be answered for (R122, R123). -/
def State.pagerOwes (s : State) (n : Nat) : Bool := s.pageFaults.any (·.ctx = n)

end Sys2Proof.Machine
end

