-- ==== Sys2Proof/Machine/System.lean ====
section
/-!
DEFINITION. The system class, 0xE0 to 0xEF but for SNAP and RSTR: configurations (R251 to R253, R323), launches and
seeds (R216, R286, R287, R319), events (R260, R261), marks (R294), invalidation (R125, R339), throttling state (R183),
system registers (R99, R182, R327 to R329), traps (R332) and HALT (R279).
-/

namespace Sys2Proof.Machine

/- Configurations. -/

/-- RSET of a host CFGW with LOAD (R189). -/
def Msg.rset (m : Msg) : Nat := ofBytes ((m.bytes.drop 24).take 8)

/-- The regions whose shadow planes are loading: those of each CFGLD and host load that has begun and waits for a page
(R251). -/
def State.loadingSet (s : State) : Nat :=
  s.hostIn.foldl (fun m x => if x.waits then m ||| x.rset else m)
    (s.held.foldl (fun m h => match h.why with | .page _ => m ||| h.op.tb.word.toNat | _ => m) 0)

/-- A shadow plane already holds the image by a CFGLD of the same context (R251); an image whose page is not present
may still be the same. -/
def Same (g : Region) (num : Nat) (r : Res Image) : Bool :=
  match r with
  | .ok img => g.shadow.any fun l => l.byCfgld && l.ctx = num && l.img = img.check
  | .miss _ => g.shadow.any fun l => l.byCfgld && l.ctx = num
  | .fault _ _ _ => false

/-- A region cannot take a CFGLD: outside the context, reserved, loading, or full (R251). -/
def State.cfgldBusy (s : State) (c : Ctx) (r : Res Image) (n : Nat) : Bool :=
  let g := s.region n
  !c.rset.testBit n || g.reserved.isSome || s.loadingSet.testBit n || (g.shadow.isSome && !Same g c.num r)

/-- A load of an image into a set for a context: the image's length, or a fault, or a page to wait for (R251). -/
def State.cfgld (s : State) (c : Ctx) (src : Source) (a rs : Nat) : Res (Nat × State) :=
  if 2 ^ 42 ≤ rs ∨ rs = 0 then .fault 0x041 0 0
  else
    let read := s.readImage src false a
    if (regionsOf rs).any (s.cfgldBusy c read) then .fault 0x301 0 0
    else read.bind fun img =>
      if img.rset ≠ rs then .fault 0x300 1 0
      else
        let todo := ((regionsOf rs).filter fun n => !Same (s.region n) c.num read).foldl (fun m n => m + 2 ^ n) 0
        if todo = 0 then .ok (img.len, s)
        else (s.loadFabric c img todo true).bind fun s => .ok (img.len, s)

/-- CFGLD (R251). -/
def execCfgld (n : Niw) (s : State) : Out :=
  fire s n fun op s => s.scalars op [op.ta, op.tb] fun s =>
    match s.ctx? op.ctx with
    | none => s
    | some c =>
      let r := siteRegion op.site
      match s.cfgld c (.virt c.root c.sys) op.ta.word.toNat op.tb.word.toNat with
      | .ok (len, s) => s.emitWord op n (word len) true
      | .fault cause a d =>
        if cause = 0x301 ∨ (cause = 0x041 ∧ (2 ^ 42 ≤ op.tb.word.toNat ∨ op.tb.word = 0)) then s.opFault op cause a d
        else s.faultAt op (.loader r) cause a d
      | .miss va => (s.askPager c.num va r).hold op (.page va)

/-- CFGSW: a region without an active configuration swaps at once (R253). -/
def execCfgsw (n : Niw) (s : State) : Out :=
  fire s n fun op s => s.scalars op [op.ta] fun s =>
    let rs := op.ta.word.toNat
    match s.ctx? op.ctx with
    | none => s
    | some c =>
      if 2 ^ 42 ≤ rs then s.opFault op 0x041 0 0
      else if (regionsOf rs).any fun r => !c.rset.testBit r then s.opFault op 0x301 0 0
      else if rs = 0 then s.emitWord op n op.ta.word true
      else
        let idle := (regionsOf rs).filter fun r => (s.region r).activeCtx.isNone
        idle.foldl (fun s r => (s.swapRegion r).tellSwap r none) (s.hold op (.swap rs))

/-- The issuing block may command a context: its home is this tile, or the issuer is a system configuration of its
tenant (R66, R294, R319). -/
def State.mayCommand (s : State) (op : Issued) (x : Ctx) : Bool :=
  x.home = siteRegion op.site || (s.ctx? op.ctx).any fun c => c.sys && (c.ten = 0 || c.ten = x.ten)

/-- The context of a launch number that has not ended. -/
def State.alive? (s : State) (ln : Word) : Option Ctx :=
  match s.launched? ln.toNat with
  | some x => if x.st = .ended then none else some x
  | none => none

/-- The shadow plane of a region holds a configuration that a CFGLD of this context loaded for the set (R323). -/
def Region.successor? (g : Region) (num rs : Nat) : Option Loaded :=
  g.shadow.filter fun l => l.byCfgld && l.ctx = num && l.rset = rs

/-- The shadow planes of a region set pass to a context: they run under its CTX (R323). -/
def State.adopt (s : State) (rset num : Nat) : State :=
  (regionsOf rset).foldl (fun s r =>
    let s := (tilesOf r).foldl (fun s t =>
      if isCompute t then
        let c := s.ctile t
        s.setCtile t { c with shadow := c.shadow.map fun p => { p with ctx := num } }
      else
        let m := s.mtile t
        s.setMtile t { m with shadow := m.shadow.map fun p => { p with ctx := num } }) s
    let g := s.region r
    s.setRegion r { g with shadow := g.shadow.map fun l => { l with ctx := num } }) s

/-- The tiles of a context's region set that hold a plane of it, active or shadow. -/
def State.spliceTiles (s : State) (c : Ctx) : List TileId :=
  ((regionsOf c.rset).flatMap tilesOf).filter fun t =>
    if isCompute t then (s.ctile t).active.any (·.ctx = c.num) || (s.ctile t).shadow.any (·.ctx = c.num)
    else (s.mtile t).active.any (·.ctx = c.num) || (s.mtile t).shadow.any (·.ctx = c.num)

/-- Every tile has switched: the predecessor has drained and its loop instances have ended, the successor is the context's
configuration, and SPLICE emits (R48, R249, R262, R323). -/
def State.spliceDone (s : State) (c : Ctx) (l : Loaded) : State :=
  let s := (regionsOf c.rset).foldl (fun s r => s.setRegion r { s.region r with shadow := none }) s
  let s := s.mapCtx c.launch fun c => { c with splice := none, switched := [], former := [], seeds := l.seeds, img := l.img }
  let mine (h : Held) : Bool := h.why = .splice c.launch
  let hs := s.held.filter mine
  hs.foldl (fun s h => s.emitWord h.op h.op.niw h.op.ta.word true) { s with held := s.held.filter (!mine ·) }

/-- SPLICE (R48, R323). -/
def execSplice (n : Niw) (s : State) : Out :=
  fire s n fun op s => s.scalars op [op.ta, op.tb] fun s =>
    let rs := op.tb.word.toNat
    match s.alive? op.ta.word, s.ctx? op.ctx with
    | some x, some c =>
      if x.st != .running then s.opFault op 0x084 0 0
      else if !s.mayCommand op x then s.opFault op 0x103 0 0
      else
        let ls := (regionsOf rs).map fun r => (s.region r).successor? c.num rs
        match ls with
        | some l :: _ =>
          if rs ≠ x.rset ∨ ls.any (·.isNone) ∨ x.splice.isSome then s.opFault op 0x302 0 0
          else
            let s := (s.fix op).adopt rs x.num
            let s := s.mapCtx x.launch fun x => { x with splice := some l, switched := [], former := x.loops, loops := [] }
            let s := (s.sendDrains x).hold op (.splice x.launch)
            if s.spliceTiles x = [] then s.spliceDone x l else s
        | _ => s.opFault op 0x302 0 0
    | _, _ => s.opFault op 0x084 0 0

/- Launches. -/

/-- A launch descriptor (R216). -/
structure Desc where
  img : Word
  seed : Word
  part : Nat
  skl : Nat
  prio : Nat
  gang : Nat
  ten : Nat
  root : Nat
  deriving DecidableEq, Repr

/-- The descriptor in eight words; none where a value is outside its limits or a reserved bit is set (R216). -/
def descOf (ws : List Word) : Option Desc :=
  let w (k : Nat) : Nat := (nth 0 ws k).toNat
  let d : Desc := ⟨nth 0 ws 0, nth 0 ws 1, bits (w 2) 0 12, bits (w 2) 16 5, bits (w 2) 21 3, bits (w 3) 0 16,
    bits (w 3) 16 16, bits (w 4) 12 40 * 4096⟩
  if w 0 % 8 ≠ 0 || d.part < 2 || 2048 < d.part || bits (w 2) 12 4 ≠ 0 || d.skl < 6 || 24 < d.skl || bits (w 2) 24 40 ≠ 0
      || bits (w 3) 32 32 ≠ 0 || bits (w 4) 0 12 ≠ 0 || bits (w 4) 52 12 ≠ 0 || w 5 ≠ 0 || w 6 ≠ 0 || w 7 ≠ 0
  then none else some d

/-- A context as the arbiter accepts it: it waits for its grant (R218, R220). -/
def Desc.ctx (d : Desc) (handle : Word) (rset home k : Nat) : Ctx :=
  { num := 0, launch := 0, st := .waiting, program := false, home := home, host := none, parent := none
    handle := handle, img := d.img, phys := true, seed := d.seed, part := d.part, skl := d.skl, prio := d.prio
    gang := d.gang, ten := d.ten, root := d.root, rset := rset, sys := false, mode := 0, k := k, arrival := 0
    req := none, image := none, seeds := [], round := 0, issuer := none, markers := [], quiet := [], stopAfter := false
    endAfter := false, gangMark := false, loops := [], skein := [], endpoints := [], sections := [], splice := none, switched := []
    entered := [] }

/-- The same launched by a block: tenant, root, gang and mode come from the launching context (R99, R216). -/
def Ctx.launchedBy (x c : Ctx) (op : Issued) : Ctx :=
  { x with parent := some c.launch, phys := false, gang := c.gang, ten := c.ten, root := c.root, mode := c.mode
           req := some op }

/-- The number of launches that wait in the arbiter (R218). -/
def State.waiting (s : State) : Nat := (s.ctxs.filter fun c => c.st = .waiting).length

/-- The arbiter accepts a launch under the next launch number (R218, R287). -/
def State.accept (s : State) (x : Ctx) : State :=
  let ln := s.nextLaunch
  { s with ctxs := s.ctxs.filter (·.launch ≠ ln) ++ [{ x with launch := ln, arrival := s.cycle }]
           nextLaunch := if ln + 1 = 2 ^ 32 then 1 else ln + 1 }

/-- A LAUNCH keeps its context's mode word of when it fired while it waits for the page of its descriptor (R99). -/
def Issued.keepMode (op : Issued) (s : State) : Issued :=
  if op.count ≠ 0 then op else { op with count := 1 + ((s.ctx? op.ctx).elim 0 (·.mode)).toNat }

/-- LAUNCH (R99, R216, R218, R286, R287). -/
def execLaunch (n : Niw) (s : State) : Out :=
  fire s n fun op s => s.scalars op [op.ta, op.tb] fun s =>
    let op := op.keepMode s
    let h := op.ta.word.toNat
    let rs := op.tb.word.toNat
    if 2 ^ 42 ≤ rs ∨ rs = 0 ∨ h % 64 ≠ 0 then s.opFault op 0x041 0 0
    else s.withPieces op n (s.range op .read h 64 64) fun ps =>
      match descOf (wordsOf 8 (s.readPieces ps)), s.ctx? op.ctx with
      | none, _ => s.opFault op 0x041 0 0
      | _, none => s
      | some d, some c =>
        if c.gang ≠ 0 && !s.hasFeature 1 then s.opFault op 0x303 0 0
        else if 256 ≤ s.waiting then s.opFault op 0x301 0 0
        else s.accept { (d.ctx op.ta.word rs (siteRegion op.site) n.imm.toNat).launchedBy c op with
          mode := word (op.count - 1) }

/-- The planes that a context runs, by tile. -/
def State.planesOf (s : State) (num : Nat) : List (TileId × CPlane) :=
  s.ctiles.filterMap fun (c : TileId × CTile) => match c.2.active with
    | some p => if p.ctx = num then some (c.1, p) else none
    | none => none

/-- A seed record breaks its layout: VEC, a reserved bit, or a CTX in its tag (R319). -/
def seedBad (x : SeedRec) : Bool :=
  bits x.ctl.toNat 0 35 ≠ 0 || x.ctl.getLsbD 38 || bits x.ctl.toNat 39 3 ≠ 0 || bits x.tag.toNat 52 12 ≠ 0

/-- The launching host may bring a system configuration (R66, R185). -/
def State.mayLoadSystem (s : State) (c : Ctx) : Bool := c.host.any fun h => s.tables.privileged.contains h

/-- Where a launch finds its image (R216). -/
def State.imageSource (s : State) (c : Ctx) : Source :=
  if c.phys then .phys
  else .virt c.root ((c.parent.bind s.launched?).any (·.sys))

/-- The planes that a context runs, or is to run: those of its image while it still waits or loads. None where the image
cannot be read yet, or is to be restored (R319). -/
def State.seedPlanes (s : State) (x : Ctx) : Option (List (TileId × CPlane)) :=
  if x.st = .waiting ∨ x.st = .loading then
    if x.program then some []
    else if x.image.isSome then none
    else match s.readImage (s.imageSource x) (s.mayLoadSystem x) x.img.toNat with
      | .ok img => some (img.ctiles.map fun c => (c.1, { c.2.1 with widths := img.widths }))
      | _ => none
  else some (s.planesOf x.num)

/-- A seed record does not fit a context's region set, planes and widths (R319, R286, log 86). -/
def State.seedMisfits (s : State) (x : Ctx) (r : SeedRec) : Bool :=
  let t := (parcelOf r.ctl r.tag [r.val]).tile
  match s.seedPlanes x with
  | some ps => !seedFits ps x.rset ((look t ps).elim [] (·.widths)) r
  | none => !x.rset.testBit (regionOf t)

/-- SEED with its record read: the checks, the wait and the injection (R319). -/
def State.seed (s : State) (op : Issued) (n : Niw) (x : Ctx) : State :=
  let r : SeedRec := ⟨nth 0 op.record 0, nth 0 op.record 1, nth 0 op.record 2⟩
  if seedBad r then s.opFault op 0x041 0 0
  else if s.seedMisfits x r then s.opFault op 0x304 0 0
  else match x.st with
    | .running => ((s.fix op).injectSeed x.launch x.num r).emitWord op n op.ta.word true
    | .waiting | .loading | .freezing | .frozen => s.hold op (.running x.launch)
    | .stopped | .ended => s.opFault op 0x084 0 0

/-- SEED reads its record once, before it waits (R319). -/
def execSeed (n : Niw) (s : State) : Out :=
  fire s n fun op s => s.scalars op [op.ta, op.tb] fun s =>
    match s.alive? op.ta.word with
    | none => s.opFault op 0x084 0 0
    | some x =>
      if !s.mayCommand op x then s.opFault op 0x103 0 0
      else if op.record ≠ [] then (if x.st = .stopped then s.opFault op 0x084 0 0 else s.seed op n x)
      else s.withPieces op n (s.range op .read op.tb.word.toNat 24 8) fun ps =>
        s.seed { op with record := wordsOf 3 (s.readPieces ps) } n x

/- Events. -/

/-- The scope of an event record for a home's control tile (R128). -/
def eventScope (here home : Nat) : Scope :=
  if here = home then .region else if here / 21 = home / 21 then .die else .whole

/-- SRC of an issuer (R230). -/
def Issued.src (op : Issued) : Nat := op.place.fields.1

/-- Where an issuer stands in the mesh: a control tile behind the router of its region's first tile (log 68). -/
def Issued.stand (op : Issued) : TileId :=
  match op.site with
  | .tile t => t
  | .block r _ _ => firstTile r

/-- EVPOST: the record sets out for the home control tile, and the completion follows its acceptance; an operand with
predicate 0 or a null posts nothing (R260). -/
def execEvpost (n : Niw) (s : State) : Out :=
  fireRaw s fun op s =>
    match firing n.prd op, s.ctx? op.ctx with
    | .consumed, _ => s
    | .bubble, _ => (s.touch op).bubble op n
    | _, none => s.touch op
    | _, some c =>
      let s := s.touch op
      if !op.ta.pred || op.anyNull then
        s.emitWord op n (completion 1 (eventScope (siteRegion op.site) c.home) true 0) true
      else
        let (k, s) := (s.fix op).takeSeq op.src
        s.sendRecord op.stand (firstTile c.home)
          (.post op.src k op.ta.word c.launch c.num n.imm.toNat op.ta.psn op.ta.tag) (.post op)

/-- EVWAIT selects a record (R261). -/
def selects (lace : Bool) (ln : Nat) (num : Option Nat) : Record → Bool
  | .post _ _ _ l _ _ _ _ => !lace && l = ln
  | .fault _ _ _ _ _ _ _ _ _ _ _ _ l => !lace && l = ln
  | .marker _ _ _ _ l => !lace && l = ln
  | .lace _ _ _ _ _ c => lace && num = some c

/-- What EVWAIT emits for a record (R261). -/
def recordValue : Record → Word × Bool
  | .post _ _ v _ _ _ _ _ => (v, true)
  | .fault _ _ _ _ _ _ _ _ _ _ _ d _ => (d, false)
  | .marker _ _ r _ _ => (word r, true)
  | .lace _ _ pos cell _ _ => (word (pos + cell * 2 ^ 32), true)

/-- The records that an EVWAIT selects (R261). -/
def State.wants (s : State) (op : Issued) : Record → Bool :=
  let ln := op.ta.word.toNat
  selects (op.niw.imm.getLsbD 0) ln ((s.launched? ln).map (·.num))

/-- A waiting EVWAIT of a region can take a record of the queue. -/
def State.canTakeRecord (s : State) (r : Nat) (h : Held) : Bool :=
  h.why = .record && siteRegion h.op.site = r && (s.region r).queue.any (s.wants h.op)

/-- EVWAIT takes the oldest record of its own tile's queue that it selects, or waits. EVWAITs of a queue take records in the
order in which they fire: a new one lets those go first that have waited (R261). -/
def execEvwait (n : Niw) (s : State) : Out :=
  fire s n fun op s => s.scalars op [op.ta] fun s =>
    let r := siteRegion op.site
    let g := s.region r
    match (if op.count = 0 && s.held.any (s.canTakeRecord r) then none else takeFirst (s.wants op) g.queue) with
    | none => s.hold { op with count := 1 } .record
    | some (x, queue) =>
      let v := recordValue x
      ((s.setRegion r { g with queue := queue }).fix op).emitWord op n v.1 v.2

/- Marks. -/

/-- This module holds the leader of a gang: no member stands on a node of a lower id (R228). -/
def State.leads (s : State) (gang : Nat) : Bool :=
  s.tables.gangs.all fun m => m.1.1 ≠ gang || s.node ≤ m.2

/-- The checks that every MARK makes first, and the wait for a context that does not yet run; a new MARK lets those go first
that have waited for the same context (R294). -/
def State.withMarked (s : State) (op : Issued) (extra : Ctx → Option Nat) (k : State → Ctx → State) : State :=
  s.scalars op [op.ta, op.tb] fun s =>
    match s.alive? op.ta.word with
    | none => s.opFault op 0x084 0 0
    | some x =>
      if x.num = op.ctx ∧ x.st ≠ .waiting then s.opFault op 0x041 0 0
      else if !s.mayCommand op x then s.opFault op 0x103 0 0
      else match extra x with
        | some c => s.opFault op c 0 0
        | none =>
          let behind := op.count = 0 && s.held.any (·.why = .start x.launch)
          if x.st = .waiting ∨ x.st = .loading ∨ behind then s.hold { op with count := 1 } (.start x.launch) else k s x

/-- A round that MARK takes: 1 to 0xFFFF_FFFF (R294). -/
def roundBad (w : Word) : Bool := w = 0 || 2 ^ 32 ≤ w.toNat

/-- Mark a running context and wait for the delivery, or emit the round that stands (R294). -/
def State.mark (s : State) (op : Issued) (n : Niw) (x : Ctx) : State :=
  match x.st with
  | .running =>
    let round := op.tb.word.toNat
    ((s.fix op).markCtx x.launch round (some (siteRegion op.site)) false false).hold op (.delivery x.launch round)
  | _ => s.emitWord op n (word x.round) false

/-- MARK #0 (R294). -/
def execMarkFreeze (n : Niw) (s : State) : Out :=
  fire s n fun op s =>
    s.withMarked op (fun _ => if roundBad op.tb.word then some 0x041 else none) fun s x => s.mark op n x

/-- MARK #1: the gang marker goes out once the member is Frozen, when no slot of it can follow (R228, R294, log 72). -/
def execMarkGang (n : Niw) (s : State) : Out :=
  fire s n fun op s =>
    s.withMarked op (fun x =>
      if roundBad op.tb.word || x.gang = 0 then some 0x041
      else if !s.hasFeature 1 then some 0x303
      else if !s.leads x.gang then some 0x103 else none) fun s x =>
        let running := x.st = .running
        let s := s.mark op n x
        if running then s.mapCtx x.launch fun x => { x with gangMark := true } else s

/-- MARK #2 (R294). -/
def execMarkResume (n : Niw) (s : State) : Out :=
  fire s n fun op s =>
    s.withMarked op (fun _ => none) fun s x =>
      match x.st with
      | .frozen => (((s.fix op).unfreeze x).readmitAll x.num).emitWord op n (word x.round) true
      | _ => s.emitWord op n (word x.round) false

/- Invalidation. -/

/-- A generator's extent, or a page of its patch list, overlaps a range (R125). DEDUCED: a page counts as a whole, as an
entry of the translation cache does. -/
def descOverlaps (d : List Word) (frames : List (Nat × Nat × Nat)) (base len : Nat) : Bool :=
  descEn d && descSpace d = 1
    && (spansMeet (nth 0 d 0).toNat (descExtent d) base len || frames.any fun f => spansMeet f.1 f.2.1 base len)

/-- A generator walks its pages again: it goes on with the new frames, pauses for a page in transit, or stops with
0x143, which its completion carries (R125). The answer's first part is the address that it waits for. -/
def State.repatch (s : State) (c : Ctx) (t : TileId) (g : Nat) : Option Nat × State :=
  let m := s.mtile t
  let x := m.gen g
  match s.patchGen c.root c.sys (m.desc g) with
  | .ok frames => (none, s.setMtile t (m.setGen g { x with frames := frames, paused := false }))
  | .miss va => (some va, (s.setMtile t (m.setGen g { x with paused := true })).askPager c.num va (regionOf t))
  | .fault cause _ _ =>
    let code := if cause = 0x141 then 0x143 else cause
    let stopped := { x with run := x.run.map fun o => { o with walk := some (code, 0) }, frames := [], paused := false }
    let s := s.setMtile t (m.setGen g stopped)
    (none, match x.run with
      | some o => s.takeFault ⟨code, .tile t, c.num, o.tag, 0, 0, false, false⟩
      | none => s)

/-- A generator of a shadow plane is patched again (R125): the address that it waits for, and its patch list, which is empty
where a page has none to give; its start then walks the pages once more. -/
def State.patchShadow (s : State) (c : Ctx) (base len : Nat) (d : List Word) (frames : List (Nat × Nat × Nat)) :
    Option Nat × List (Nat × Nat × Nat) :=
  if descOverlaps d frames base len then
    match s.patchGen c.root c.sys d with
    | .ok f => (none, f)
    | .miss va => (some va, [])
    | .fault _ _ _ => (none, [])
  else (none, frames)

/-- The generators of a context's shadow plane whose extents overlap the range are patched again (R125, R252). -/
def State.repatchShadow (s : State) (c : Ctx) (t : TileId) (base len : Nat) : Option Nat × State :=
  let m := s.mtile t
  match m.shadow with
  | none => (none, s)
  | some p =>
    if p.ctx ≠ c.num then (none, s)
    else
      let each := p.gens.zipIdx.map fun x => s.patchShadow c base len x.1 (nth [] p.frames x.2)
      let s := s.setMtile t { m with shadow := some { p with frames := each.map (·.2) } }
      each.foldl (fun acc e => match e.1 with
        | some va => (acc.1 <|> some va, acc.2.askPager c.num va (regionOf t))
        | none => acc) (none, s)

/-- The generators of a context's active plane whose extents overlap the range are patched again (R125). -/
def State.repatchActive (s : State) (c : Ctx) (t : TileId) (base len : Nat) : Option Nat × State :=
  let m := s.mtile t
  if m.active.any (·.ctx = c.num) then
    (List.range 4).foldl (fun acc g =>
      if descOverlaps (m.desc g) (m.gen g).frames base len then
        let r := acc.2.repatch c t g
        (acc.1 <|> r.1, r.2)
      else acc) (none, s)
  else (none, s)

/-- Every generator of a context in a region whose extent overlaps the range is patched again, in both planes (R125). -/
def State.repatchRegion (s : State) (c : Ctx) (r base len : Nat) : Option Nat × State :=
  (tilesOf r).foldl (fun acc t =>
    let x := acc.2.repatchActive c t base len
    let y := x.2.repatchShadow c t base len
    (acc.1 <|> x.1 <|> y.1, y.2)) (none, s)

/-- Every region of a list. -/
def State.repatchAll (s : State) (c : Ctx) (base len : Nat) : List Nat → Option Nat × State
  | [] => (none, s)
  | r :: rs =>
    let x := s.repatchRegion c r base len
    let y := x.2.repatchAll c base len rs
    (x.1 <|> y.1, y.2)

/-- Translations of a context over a range leave a region's cache (R125). -/
def State.invalidate (s : State) (r num base len : Nat) : State :=
  let g := s.region r
  s.setRegion r { g with tc := g.tc.filter fun e => !(e.ctx = num && spansMeet e.base e.size base len) }

/-- An access of a context that the ports of some regions translated through an entry over the range is not performed yet
(R125, R136): a leaf of an open reduction, or a read of a word that nothing has written (R110). An operation that waits for
anything else translates again when it goes on. -/
def State.unperformed (s : State) (num base len : Nat) (rs : List Nat) : Bool :=
  match s.ctx? num with
  | none => false
  | some c =>
    let hits (op : Issued) (va : Word) : Bool :=
      let p := s.pageOf c.root va.toNat
      op.ctx = num && rs.contains (siteRegion op.site) && spansMeet p.1 p.2 base len
    (s.reds.any fun r => !isTileKey r.va && r.leaves.any fun l => hits l.op r.va)
      || s.main.readers.any fun r => hits r.2 r.2.ta.word

/-- The bound of a stopped scatter as an address (R318). -/
def Scatter.limit (x : Scatter) : Int := elemAddr x.op.ta.word (x.bound : Int) (bits x.op.niw.imm.toNat 0 6)

/-- A scatter whose bound address lies in the range goes on from its stopped rank with the bound that the range gives
(R318). -/
def State.resumeScatter (s : State) (base len : Nat) (x : Scatter) : State :=
  let sh := bits x.op.niw.imm.toNat 0 6
  let op := { x.op with bound := some ((base + len - x.op.ta.word.toNat) / 2 ^ sh), count := x.written }
  s.compact op op.niw

/-- Resume every scatter of a context that the range names (R318). -/
def State.resumeScatters (s : State) (num base len : Nat) : State :=
  let named (x : Scatter) : Bool :=
    x.op.ctx = num && decide ((base : Int) ≤ x.limit) && decide (x.limit < ((base + len : Nat) : Int))
  let go := s.scatters.filter named
  go.foldl (fun s x => s.resumeScatter base len x) { s with scatters := s.scatters.filter (!named ·) }

/-- The cause that refuses an XLINV (R339). -/
def State.xlinvCause (s : State) (op : Issued) : Option Nat :=
  let base := op.ta.word.toNat
  let len := op.tb.word.toNat
  let sw := op.tc.word.toNat
  let top := bits base 55 9
  if bits sw 42 10 ≠ 0 ∨ bits sw 0 42 = 0 ∨ len = 0 then some 0x041
  else if top ≠ 0 ∧ top ≠ 511 then some 0x100
  else if (top = 0 ∧ 2 ^ 55 < base + len) ∨ 2 ^ 64 < base + len then some 0x101
  else if (top ≠ 0 ∨ bits sw 52 12 ≠ op.ctx) ∧ !s.isSystem op.ctx then some 0x103
  else none

/-- A generator of a context in some regions, over a range, waits for a page: one of the active plane that is paused, or one of
the shadow plane whose page the pager still owes (R125). -/
def State.gensWait (s : State) (num base len : Nat) (rs : List Nat) : Bool :=
  (rs.flatMap tilesOf).any fun t =>
    let m := s.mtile t
    (m.active.any (·.ctx = num) && (List.range 4).any fun g =>
      (m.gen g).paused && descOverlaps (m.desc g) (m.gen g).frames base len)
    || m.shadow.any fun p => p.ctx = num && (p.gens.zipIdx.any fun x =>
      nth [] p.frames x.2 = [] && descOverlaps x.1 [] base len
        && s.pageFaults.any fun f => f.ctx = num && spansMeet (nth 0 x.1 0).toNat (descExtent x.1) f.va 1)

/-- What an XLINV waits for has ended: its accesses are performed, and no generator over its range waits for a page (R125,
R136). -/
def State.xlinvOver (s : State) (op : Issued) : Bool :=
  let sw := op.tc.word.toNat
  let num := bits sw 52 12
  let base := op.ta.word.toNat
  let len := op.tb.word.toNat
  let rs := regionsOf (bits sw 0 42)
  !(s.gensWait num base len rs) && !(s.unperformed num base len rs)

/-- XLINV (R125, R318, R339). It completes once the accesses translated before it are performed (R136) and no generator waits
for a page. -/
def execXlinv (n : Niw) (s : State) : Out :=
  fire s n fun op s => s.scalars op [op.ta, op.tb, op.tc] fun s =>
    let base := op.ta.word.toNat
    let len := op.tb.word.toNat
    let sw := op.tc.word.toNat
    let num := bits sw 52 12
    match s.xlinvCause op with
    | some c => s.opFault op c 0 0
    | none =>
      let rs := regionsOf (bits sw 0 42)
      let s := rs.foldl (fun s r => s.invalidate r num base len) s
      let r := match s.ctx? num with
        | some c => s.repatchAll c base len rs
        | none => (none, s)
      if r.1.isSome || r.2.unperformed num base len rs then r.2.hold op .transit
      else (r.2.resumeScatters num base len).emitWord op n (completion 1 .whole false 0) true

/- Throttling state. -/

/-- The status word of routers: deflections of the last window, windows throttled, routers throttled now (R183). -/
def throtWord (rs : List Router) : Word :=
  let sum (f : Router → Nat) : Nat := (rs.map f).foldl (· + ·) 0
  word (min 65535 (sum (·.last)) + min 65535 (sum (·.twin)) * 2 ^ 16 + sum (·.throttled.toNat) * 2 ^ 32)

/-- The windows of a router that have ended: the first had its count, any further one none; a router that is no longer
throttled may inject at once (R182). -/
def Router.window (r : Router) (now : Nat) (throtwin : Word) : Router :=
  let k := (now - r.start) / 1024
  if k = 0 then r
  else
    let above := decide (bits r.win.toNat 0 13 < r.now)
    let throttled := above && k = 1
    { r with now := 0, last := if k = 1 then r.now else 0, throttled := throttled, twin := r.twin + above.toNat
             start := r.start + 1024 * k, win := throtwin, injects := if throttled then r.injects else 0 }

/-- The cycle of a tile's router by which its windows are counted: the windows of two routers are not aligned (R182). FREE
VALUE: how far each is ahead (log 90). -/
def State.ownCycle (s : State) (t : TileId) : Nat := s.cycle + Config.windowPhase (dieNum t.die) t.col t.row % 1024

/-- The router of a tile, as its windows leave it by now. -/
def State.router (s : State) (t : TileId) : Router := (s.ctile t).router.window (s.ownCycle t) s.throtwin

/-- The routers of a region. -/
def State.routers (s : State) (r : Nat) : List Router := (tilesOf r).map s.router

/-- Every window that has ended is closed, those of tiles in their reset state among them: it took the threshold that stood
when it began (R182). -/
def State.closeWindows (s : State) : State :=
  let fresh : List TileId := ((List.range 42).flatMap tilesOf).filter fun t =>
    (look t s.ctiles).isNone && 1024 ≤ s.ownCycle t
  { s with ctiles := (s.ctiles ++ fresh.map fun t => (t, CTile.reset)).map fun (x : TileId × CTile) =>
      (x.1, { x.2 with router := x.2.router.window (s.ownCycle x.1) s.throtwin }) }

/-- Clear TWIN of a region's routers (R183). -/
def State.clearTwin (s : State) (r : Nat) : State :=
  (tilesOf r).foldl (fun s t => s.setCtile t { s.ctile t with router := { s.router t with twin := 0 } }) s

/-- THROT (R183). -/
def execThrot (n : Niw) (s : State) : Out :=
  fire s n fun op s =>
    match op.site with
    | .tile t => s.emitWord op n (throtWord [s.router t]) true
    | .block _ _ _ => s.scalars op [op.ta] fun s =>
      let r := op.ta.word.toNat
      if 41 < r then s.opFault op 0x041 0 0
      else
        let w := throtWord (s.routers r)
        (if n.imm.getLsbD 0 then (s.clearTwin r).fix op else s).emitWord op n w true

/- System registers. -/

/-- A bit vector's low and high words. -/
def featWord (f : Option (BitVec 128)) (high : Bool) : Word :=
  word (bits ((f.getD 0).toNat) (if high then 64 else 0) 64)

/-- What SYSRD reads, SYS.FLTDROP apart (R327, R328). -/
def State.sysReg (s : State) (op : Issued) (k : Nat) : Word :=
  let r := siteRegion op.site
  match k with
  | 0 => match s.ctx? op.ctx with | some c => c.mode | none => 0
  | 1 => featWord s.feat false
  | 2 => featWord s.feat true
  | 3 => s.throtwin
  | 4 => throtWord (s.routers r)
  | 5 => word (s.region r).drop
  | 6 => word (s.node % 2 ^ 13 + r / 21 * 2 ^ 13 + r * 2 ^ 14)
  | _ => match s.ctx? op.ctx with | some c => word (c.launch % 2 ^ 32 + c.num * 2 ^ 32) | none => 0

/-- SYSRD (R327 to R329). -/
def execSysrd (n : Niw) (s : State) : Out := fire s n fun op s => s.emitWord op n (s.sysReg op n.imm.toNat) true

/-- SYSRD SYS.FLTDROP clears it (R230, R327). -/
def execSysrdFltdrop (n : Niw) (s : State) : Out :=
  fire s n fun op s =>
    let r := siteRegion op.site
    let w := s.sysReg op 5
    ((s.setRegion r { s.region r with drop := 0 }).fix op).emitWord op n w true

/-- SYSWR SYS.MODE (R99, R329). -/
def execSyswrMode (n : Niw) (s : State) : Out :=
  fire s n fun op s => s.scalars op [op.ta] fun s =>
    let w := op.ta.word
    let old := s.sysReg op 0
    if modeWordBad w then s.opFault op 0x041 0 0
    else ((s.fix op).mapNum op.ctx fun c => { c with mode := w }).emitWord op n old true

/-- SYSWR SYS.THROTWIN (R182, R327, R329). -/
def execSyswrThrotwin (n : Niw) (s : State) : Out :=
  fire s n fun op s => s.scalars op [op.ta] fun s =>
    let w := op.ta.word
    let old := s.throtwin
    if !s.isSystem op.ctx then s.opFault op 0x103 0 0
    else if bits w.toNat 16 48 ≠ 0 ∨ 4096 < bits w.toNat 0 13 then s.opFault op 0x041 0 0
    else { (s.fix op).closeWindows with throtwin := w }.emitWord op n old true

/-- SYSWR of any other register (R327). -/
def execSyswr (n : Niw) (s : State) : Out :=
  fire s n fun op s => s.scalars op [op.ta] fun s => s.opFault op 0x103 0 0

/- Traps and HALT. -/

/-- TRAP: the record; with STOP the context stops; in block mode the block stops; else slot a's value goes on (R231, R233,
R332). -/
def execTrap (n : Niw) (s : State) : Out :=
  fire s n fun op s => s.scalars op [op.tb] fun s =>
    let stop := n.imm.getLsbD 6
    let detail := if n.ari.toNat = 2 then op.tb.word else 0
    let s := s.takeFault ⟨0x3C0 + bits n.imm.toNat 0 6, op.place, op.ctx, op.ta.tag, op.ta.word, detail,
      stop || op.inBlock.isSome, stop⟩
    let s := match op.inBlock with
      | some (r, bc) => s.stopBlock r bc
      | none => if stop then s else s.emitVal op n op.ta.val true op.poisoned
    if stop then s.stopCtx op.ctx else s

/-- HALT (R279). -/
def execHalt (n : Niw) (s : State) : Out := fireExit s n fun op s => s.countExit op .halt

end Sys2Proof.Machine
end

