-- ==== Sys2Proof/Machine/TileEvents.lean ====
section
/-!
DEFINITION. The events of compute tiles: the matching store accepts a token (R28 to R32), a spilled entry is refilled
(R31, R144), an element issues (R30, R44), a kill mark arrives (R38), and the store buffer releases (R39, R129).
-/

namespace Sys2Proof.Machine

/- Matching. -/

/-- A context is frozen at a tile (R222). -/
def CTile.holds (c : CTile) (n : Nat) : Bool := c.frozen.contains n

/-- A token must wait where it stands: the tile has not yet switched to its plane (R48). -/
def State.early (s : State) (t : TileId) (q : Parcel) : Bool :=
  q.succ && (s.ctx? (tagCtx q.tok.tag)).any fun c => c.splice.isSome && !(c.switched.contains t)

/-- A token of the ingress queue can move: not early, and not of a frozen context without room in a SINK tile. -/
def State.movable (s : State) (t : TileId) (q : Parcel) : Bool :=
  !(s.early t q) && !((s.ctile t).holds (tagCtx q.tok.tag) && (s.sinkFor (regionOf t) q).isNone)

/-- All flits of a packet are present (R179). -/
def Reasm.whole (x : Reasm) : Bool := x.got.length = x.last + 1

/-- The payload words of a packet of several flits, in FIDX order (R71). -/
def Reasm.words (x : Reasm) : List Word :=
  let n := x.last + 1
  let v := (List.range n).foldl (fun v k => v + bits ((look k x.got).getD 0).toNat 0 224 * 2 ^ (224 * k)) 0
  wordsOf (224 * n / 64) (bytesOf (28 * n) v)

/-- The token of payload words at a tile (R72). -/
def tokenOf (t : TileId) (ws : List Word) : Parcel := { parcelOf (nth 0 ws 0) (nth 0 ws 1) (ws.drop 2) with tile := t }

/-- A packet's token enters the ingress queue (R179, R223). -/
def State.tokenIn (s : State) (t : TileId) (cargo : Cargo) (ws : List Word) : State :=
  let q := tokenOf t ws
  match cargo with
  | .token src succ =>
    let s := s.receives t src q.tok
    let c := s.ctile t
    s.setCtile t { c with ingress := c.ingress ++ [{ q with succ := succ }] }
  | _ => let c := s.ctile t; s.setCtile t { c with ingress := c.ingress ++ [q] }

/-- Where a Lace array stands in the mesh (log 69). -/
def arrayTile (a : Nat) : TileId := ⟨dieOf (a / 4), 3 + 8 * (a % 4), 0⟩

/-- A request enters the queue of where it is performed (R111, R179, R198). -/
def State.requestIn (s : State) (t : TileId) (op : Issued) : State :=
  let g := s.region (regionOf t)
  s.setRegion (regionOf t) { g with requests := g.requests ++ [op] }

/-- A reply leaves stage 6 of the tile that asked; that of a Lace instruction goes to a memory tile which TGT0 names (R111,
R198). -/
def State.replyIn (s : State) (op : Issued) (tok : Tok) : State :=
  let op := { op with away := none }
  s.emitTo op (s.resultTargets op op.niw) tok

/-- A record reaches a control tile's queue (R229, R260). -/
def State.recordIn (s : State) (t : TileId) (cargo : Cargo) (ws : List Word) : State :=
  match recordOf ws with
  | none => s
  | some r => s.postRecord (regionOf t) r (match cargo with | .post op => some op | _ => none)

/-- A whole packet is delivered at its destination (R70, R179): a token to the ingress queue, a request to the port's
entries, a reply to stage 6, a record to the event queue, a translation fault to the pager, a marker to the tile. -/
def State.deliverPacket (s : State) (t : TileId) (typ : Nat) (cargo : Cargo) (ws : List Word) : State :=
  match typ, cargo with
  | 0, _ => s.tokenIn t cargo ws
  | 1, .request op => s.requestIn t op
  | 2, .reply op tok => s.replyIn op tok
  | 3, _ => s.recordIn t cargo ws
  | 4, .fault f => { s with pager := { s.pager with faults := s.pager.faults ++ [(t.die, f)] } }
  | 5, .marker n src k => let c := s.ctile t; s.setCtile t { c with marks := put (n, src) k c.marks }
  | _, _ => s

/-- The request entries of a memory port: the spec gives no number (log 68). -/
def portEntries : Nat := 64

/-- There is room for a packet where it is delivered: a free request entry of the port, or a free entry of the tile's ingress
queue, which a packet that is no token leaves as it enters it (R179, R260, log 68). -/
def State.hasRoom (s : State) (t : TileId) (typ : Nat) (cargo : Cargo) : Bool :=
  let g := s.region (regionOf t)
  if typ = 1 then g.requests.length < portEntries
  else (s.ctile t).ingress.length < 64 && match cargo with
    | .post _ => typ ≠ 3 || queueSize (g.queue ++ g.inbound.map (·.record)) < 240
    | _ => true

/-- Complete packets leave their slots while there is room for them (R179). -/
def State.flushReasm (s : State) (t : TileId) : State :=
  (s.ctile t).reasm.foldl (fun s x =>
    if x.whole && s.hasRoom t x.typ x.cargo then
      let c := s.ctile t
      (s.setCtile t { c with reasm := c.reasm.filter (· ≠ x) }).deliverPacket t x.typ x.cargo x.words
    else s) s

/-- Complete packets and arrivals on stream channels enter the ingress queue while it has room for them, 64 tokens (R27,
R179). -/
def State.fillIngress (s : State) (t : TileId) : State :=
  let s := s.flushReasm t
  let c := s.ctile t
  let k := 64 - c.ingress.length
  s.setCtile t { c with ingress := c.ingress ++ c.stream.take k, stream := c.stream.drop k }

/-- A drain has reached a node's slot (R47, R259). -/
def State.drainArrives (s : State) (t : TileId) (node : Nat) (slot : Slot) : State :=
  let c := s.ctile t
  if c.passed.contains node || c.drains.contains (node, slot) then s
  else s.setCtile t { c with drains := c.drains ++ [(node, slot)] }

/-- A fault of a token at a tile (R232). -/
def State.tokenFault (s : State) (t : TileId) (q : Parcel) (cause : Nat) : State :=
  s.takeFault ⟨cause, .tile t, tagCtx q.tok.tag, q.tok.tag, 0, 0, false, false⟩

/-- A token on slot a of a GATE (R275): outside a loop 0x082, without room for its instance 0x083. -/
def State.matchGate (s : State) (t : TileId) (c : Ctx) (p : CPlane) (x : Nat × Niw) (q : Parcel) : State :=
  let ws := fullWidths p.widths
  match popField ws q.tok.tag with
  | none => s.tokenFault t q 0x082
  | some g =>
    if !(c.seen (.tile t)).instanceRoom g then s.tokenFault t q 0x083
    else
      match s.gateToken t c ws x.2 q.tok.tag with
      | none => s
      | some (_, s) =>
        match s.launched? c.launch with
        | some c => s.matchKey t c p x q
        | none => s

/-- Node k of a template that starts at a base; none where no template of the plane holds it (R28, R53). -/
def CPlane.nodeFrom (p : CPlane) (base k : Nat) : Option (Nat × Niw) :=
  (p.template? (base + k)).bind fun _ => p.node? (base + k)

/-- A token whose context the tile runs. Its node index is taken relative to the base of the context's template, which
the context map gives (R28, R38, R47, R53, R142). -/
def State.matchToken (s : State) (t : TileId) (c : Ctx) (p : CPlane) (base : Nat) (q : Parcel) : State :=
  match if q.node < base then none else p.nodeFrom base (q.node - base) with
  | none => s.tokenFault t q 0x045
  | some x =>
    if q.tok.nul then s.drainArrives t q.node q.slot
    else if killed (fullWidths p.widths) (c.seen (.tile t)) q.tok.tag then s.freeSpilled t c.launch q
    else if !((takes x).contains q.slot) then s.tokenFault t q 0x046
    else if isGate x && q.slot = .b then s.retireToken t c (fullWidths p.widths) q.tok.tag
    else if isGate x && q.slot = .a then s.matchGate t c p x q
    else s.matchKey t c p x q

/-- The context under which a tile takes a token: that of the tag under which it is matched (R28, R134). -/
def CTile.ctxOf (u : CTile) (q : Parcel) : Nat :=
  match u.active with
  | none => tagCtx q.tok.tag
  | some p => match p.node? q.node with
    | some x => tagCtx (p.keyTag x q)
    | none => tagCtx q.tok.tag

/-- A token reaches the matching store. One whose CTX the tile does not hold raises 0x084, in the queue of the tile's
region (R28, R230). -/
def State.arrive (s : State) (t : TileId) (q : Parcel) : State :=
  let u := s.ctile t
  let n := u.ctxOf q
  match u.active, look n u.map, s.ctx? n with
  | some p, some base, some c => if u.holds n then s.capture t q else s.matchToken t c p base q
  | _, _, _ => s.recordFault ⟨0x084, .tile t, n, q.tok.tag, 0, 0, false, false⟩ none

/-- TOKEN_MATCH: the store takes one token, from the tile's own stage 6 first, or the ingress head once it has waited 8
cycles (R28, log 36). -/
def execTokenMatch (t : TileId) (s : State) : Out :=
  let s := s.fillIngress t
  let u := s.ctile t
  match takeFirst (fun q => !(s.early t q)) u.own, takeFirst (s.movable t) u.ingress with
  | none, none => .next s
  | some (q, own), none => .next ((s.setCtile t { u with own := own }).arrive t q)
  | none, some (q, rest) => .next ((s.setCtile t { u with ingress := rest, headWait := 0 }).arrive t q)
  | some (q, own), some (h, rest) =>
    if 8 ≤ u.headWait then .next ((s.setCtile t { u with ingress := rest, headWait := 0 }).arrive t h)
    else .next ((s.setCtile t { u with own := own, headWait := u.headWait + 1 }).arrive t q)

/-- SKEIN_REFILL: of the tokens that wait for their spilled entries, the first in tag order whose context is not frozen
meets it (R26, R31, R144, R222). -/
def execSkeinRefill (t : TileId) (s : State) : Out :=
  let u := s.ctile t
  match takeLeast (fun (x y : Parcel) => tagLt x.tok.tag y.tok.tag) (fun q => !(u.holds (u.ctxOf q))) u.refill with
  | none => .next s
  | some (q, rest) =>
    let s := s.setCtile t { u with refill := rest }
    match u.active, s.ctx? (u.ctxOf q) with
    | some p, some c =>
      match p.node? q.node with
      | some x =>
        if killed (fullWidths p.widths) (c.seen (.tile t)) q.tok.tag then .next (s.freeSpilled t c.launch q)
        else .next (s.refill t c p x q)
      | none => .next s
    | _, _ => .next s

/- Issuing. -/

/-- Two operations of one block context. -/
def Issued.sameBlock (x y : Issued) : Bool :=
  match x.site, y.site with
  | .block r b _, .block r' b' _ => r = r' && b = b'
  | _, _ => false

/-- A context is Frozen or Stopped: nothing of it goes on (R222, R223). -/
def State.rests (s : State) (n : Nat) : Bool := (s.ctx? n).any fun c => c.st = .frozen || c.st = .stopped

/-- A store of the same block that its block has released with a lower LSID is still to be performed: it waits itself, for a
page or for room (R130). -/
def State.lowerReleased (s : State) (op : Issued) : Bool :=
  let g := s.region (siteRegion op.site)
  let ahead (x : Issued) : Bool := x.released && x.sameBlock op && lsidOf x.niw < lsidOf op.niw
  op.released && (s.held.any (ahead ·.op) || g.walks.any (ahead ·.1) || g.parked.any (ahead ·.op) || s.issue.any ahead)

/-- The wait of an operation is over, so that it runs again. Waits that another event ends itself stay, and so do those of a
context at rest. -/
def State.waitOver (s : State) (h : Held) : Bool :=
  let op := h.op
  !(s.rests op.ctx) &&
  let st (ln : Nat) : CState := match s.launched? ln with | some c => c.st | none => .ended
  match h.why with
  | .record => s.held.find? (s.canTakeRecord (siteRegion op.site)) = some h
  | .drain ln _ => st ln = .ended
  | .start ln => st ln ≠ .waiting && st ln ≠ .loading && s.held.find? (·.why = .start ln) = some h
  | .frozen ln => st ln ≠ .freezing
  | .running ln => st ln = .running || st ln = .stopped || st ln = .ended
  | .reduction key pa => s.redRoom op.ctx key pa none && !(s.lowerReleased op)
  | .word pa => wState s.main.wstate pa ≠ some .deferred
  | .verdict => match op.site with | .tile t => (s.ctile t).verdicts.length < 64 | .block _ _ _ => true
  | .corner => match op.site with | .tile t => (s.ctile t).corner.isNone | .block _ _ _ => true
  | .slot => (s.array (bits op.tb.word.toNat 0 3)).freeSlot.isSome
  | .lsid => s.lowerDone op op.niw && s.hinsDone op op.niw
  | .behind => !(s.lowerReleased op)
  | .transit => s.xlinvOver op
  | .page va =>
    match s.ctx? op.ctx with
    | none => true
    | some c => s.walk c.root va ≠ .park
  | .swap _ | .splice _ | .delivery _ _ | .transfer _ _ _ => false

/-- The order in which ready entries issue: by the cycle of readiness, then tag order, then node (R30). -/
def issueLt (e f : Entry) : Bool :=
  let a := e.ready.getD 0
  let b := f.ready.getD 0
  a < b || (a = b && (tagLt e.tag f.tag || (e.tag = f.tag && e.node < f.node)))

/-- Under a SPLICE a node of the successor waits for the memory tiles that its targets name (R48). -/
def State.reaches (s : State) (t : TileId) (p : CPlane) (node : Nat) : Bool :=
  match s.ctx? p.ctx, p.node? node with
  | some c, some x =>
    c.splice.isNone || !(c.switched.contains t)
      || (targetsOf x.2).all fun k => match (p.routes[k.dest.toNat]?).bind (tileRoute t) with
          | some (m, _) => c.switched.contains m
          | none => true
  | _, _ => true

/-- Stage 2's input swizzle on an operand: slot a, b or c by its bit of the stage word (R58). -/
def stage2 (p : CPlane) (bit : Nat) (t : Tok) : Tok :=
  let w := p.stage 2
  if w.testBit bit then { t with val := swizzle (bits w 60 4) (bits w 56 4) t.val } else t

/-- An entry as the operation that it issues (R30, R41). -/
def CPlane.opOf (p : CPlane) (t : TileId) (e : Entry) : Option Issued :=
  match p.ins[e.node]?, p.node? e.node with
  | some w, some x =>
    some {
      site := .tile t, word := w, ctx := tagCtx e.tag, tag := e.tag, node := e.node
      draw := e.node - (p.template? e.node).elim 0 (·.1), raw := e.a
      a := e.a.map (stage2 p 55), b := e.b.map (stage2 p 54), c := e.c.map (stage2 p 53), p := e.p
      konst := p.konst? x.2, mode := p.mode, released := false, walk := none }
  | _, _ => none

/-- The matrix block runs one MMA or MMAZ, and four more wait in its queue (R297). -/
def CTile.mmaFull (c : CTile) : Bool := 5 ≤ c.mma.length

/-- A ready entry stays in the matching store and contends again later: an MMA or MMAZ while the matrix queue is full
(R297), a CTRN of another block than the one that fills the corner-turn buffer (R257), a VOPEN while all 64 verdict
slots are in use (R148), and an LBIND or LRESM while its array has no Free slot (R197, R211). -/
def State.mustStay (s : State) (t : TileId) (p : CPlane) (e : Entry) : Bool :=
  let u := s.ctile t
  (p.opOf t e).any fun op => firing op.niw.prd op = .run && match op.opc with
    | 0x90 | 0x91 => u.mmaFull
    | 0x95 => u.corner.any fun k => (popField (fullWidths p.widths) e.tag).any (· ≠ k.tag)
    | 0xA0 => 64 ≤ u.verdicts.length && (u.slot? e.tag).isNone
    | 0xC0 | 0xC4 => s.noFreeSlot op
    | _ => false

/-- The entry that a tile issues next (R30). -/
def State.readyEntry (s : State) (t : TileId) : Option Entry :=
  let u := s.ctile t
  match u.active with
  | none => none
  | some p => leastBy issueLt (u.entries.filter fun e =>
      e.ready.isSome && !e.parked && !(u.holds (tagCtx e.tag)) && s.reaches t p e.node && !(s.mustStay t p e))

/-- A ready entry that stays and holds no place of its own in the store (R148, R197, R257). -/
def State.unseated (s : State) (t : TileId) (p : CPlane) (e : Entry) : Bool :=
  e.ready.isSome && !e.parked && !e.way && e.reserved.isNone && s.mustStay t p e

/-- A spilled entry that was ready and need not stay any longer (R148, R197, R257). -/
def State.recalled (s : State) (t : TileId) (p : CPlane) (e : Entry) : Bool :=
  e.ready.isSome && !e.parked && !(s.mustStay t p e)

/-- The ready entries that a tile's plane may have to seat or to fetch back. -/
def State.reseats (s : State) (t : TileId) : Bool :=
  match (s.ctile t).active with
  | none => false
  | some p => !((s.ctile t).holds p.ctx) && ((s.ctile t).entries.any (s.unseated t p)
      || (s.ctx? p.ctx).any fun c => (c.findSpilled t (s.recalled t p)).isSome)

/-- A ready entry that stays takes a way or a reserved entry, or spills; a spilled one that need not stay any longer is
fetched back, and contends again (R29, R31, R148, R197, R257). -/
def State.reseat (s : State) (t : TileId) : State :=
  let u := s.ctile t
  match u.active, s.reseats t with
  | some p, true =>
    match s.ctx? p.ctx, takeFirst (s.unseated t p) u.entries with
    | some c, some (e, rest) => (s.setCtile t { u with entries := rest }).allocate t c p e
    | some c, none =>
      match c.findSpilled t (s.recalled t p) with
      | some (e, l) => (s.mapCtx c.launch fun c => { c with skein := l }).setCtile t (u.insert e)
      | none => s
    | none, _ => s
  | _, _ => s

/-- Instruction n of a block can fire: it has not, and every slot that it takes holds a token (R44). -/
def Block.canFire (b : Block) (n : Nat) : Bool :=
  !(b.fired.contains n) &&
    match b.ins[n]?.bind blockParts with
    | none => false
    | some x => (awaits x).all fun k => (look (n, k) b.toks).isSome

/-- Instruction n of a block as an operation (R44, R52). -/
def Block.opOf (b : Block) (r bc n ctx : Nat) : Option Issued :=
  match b.ins[n]?, b.ins[n]?.bind blockParts with
  | some w, some x =>
    some {
      site := .block r bc n, word := w, ctx := ctx, tag := ctxTag ctx, node := n, draw := n
      a := look (n, .a) b.toks, b := look (n, .b) b.toks, c := look (n, .c) b.toks, p := look (n, .p) b.toks
      konst := if x.2.xw then b.cons[bits x.2.imm.toNat 0 3]? else none
      mode := b.mode, released := false, walk := none }
  | _, _ => none

/-- The order among operations that could go on together: tag order, then node (R26). -/
def issuedLt (x y : Issued) : Bool := tagLt x.tag y.tag || (x.tag = y.tag && x.node < y.node)

/-- The order among operations of one element whose waits have ended together (R26). -/
def heldLt (x y : Held) : Bool := issuedLt x.op y.op

/-- Where the mesh takes the request of a fabric operation that is to be performed: LD, ST, LDV and STV of the virtual address
space to the memory port of the tile's region, which stands behind the router of the region's first tile, and a Lace
instruction to its array (R111, R177, R198). -/
def State.requestHome (s : State) (t : TileId) (op : Issued) : Option TileId :=
  if firing op.niw.prd op ≠ .run then none
  else if 0x70 ≤ op.opc && op.opc ≤ 0x73 then
    if (s.homeTile op op.niw).isNone then some (firstTile (regionOf t)) else none
  else if op.opc = 0xC0 || op.opc = 0xC4 then some (arrayTile (bits op.tb.word.toNat 0 3))
  else if 0xC1 ≤ op.opc && op.opc ≤ 0xC5 then some (arrayTile (handleArray op.ta.word))
  else none

/-- A tile issues an operation: it runs there, or its request sets out as a TYPE 001 packet (R111, R198, log 68). -/
def State.issueTile (s : State) (t : TileId) (op : Issued) : State :=
  match s.requestHome t op with
  | none => { s with issue := some op }
  | some home =>
    let words (k : Slot) (x : Tok) : List Word := tokenWords ⟨home, op.node, k, x, false⟩
    s.inject t home 1 (.request { op with away := some home }) ((words .a op.ta ++ (words .b op.tb).drop 2).take 28)

/-- An operation whose wait is over goes on. One that waited in an entry gives it up; an LBIND or LRESM sets out for its array
anew (R148, R197, R211). -/
def State.goOn (s : State) (h : Held) : State :=
  match h.why, h.op.site with
  | .verdict, _ => { s.unparkEntry h.op with issue := some h.op }
  | .slot, .tile t => (s.unparkEntry h.op).issueTile t { h.op with away := none }
  | _, _ => { s with issue := some h.op }

/-- A region's port takes up the first request of its entries (R111). -/
def State.serveRequest (s : State) (r : Nat) : State :=
  let g := s.region r
  match s.issue, g.requests with
  | none, op :: rest => { s.setRegion r { g with requests := rest } with issue := some op }
  | _, _ => s

/-- The next word that an element issues: an operation whose wait is over, in tag order, else a ready entry or
instruction. An instruction of a block counts as fired once it has issued, also one whose PRD test then fails: a later
token for it is a duplicate (R32, R44, R82, log 63). With none to issue, a ready entry that must stay finds its place. -/
def execIssue (who : Issuer) (s : State) : Out :=
  if s.issue.isSome then .next s
  else
    match takeLeast heldLt (fun (h : Held) => h.op.site = who && s.waitOver h) s.held with
    | some (h, rest) => .next ({ s with held := rest }.goOn h)
    | none =>
      match who with
      | .tile t =>
        match (s.ctile t).active, s.readyEntry t with
        | some p, some e =>
          match p.opOf t e, takeFirst (· = e) (s.ctile t).entries with
          | some op, some (_, rest) =>
            .next ((s.setCtile t { s.ctile t with entries := rest }).issueTile t op)
          | _, _ => .next s
        | _, _ => .next (s.reseat t)
      | .block r bc n =>
        match s.block? r bc with
        | none => .next s
        | some b =>
          if !b.canFire n then .next s
          else
            match b.opOf r bc n (s.bctx r bc).ctx with
            | none => .next s
            | some op =>
              let s := s.mapBlock r bc fun b => { b with fired := b.fired ++ [n] }
              .next { s.setRegion r { s.region r with rr := (bc + 1) % 4 } with issue := some op }

/- Kill marks and the store buffer. -/

/-- A tag lies above a kill mark (R38). -/
def Kill.covers (k : Kill) (ws : List Nat) (tag : Word) : Bool :=
  match iterationOf ws k.tag tag with
  | some i => k.mark < i
  | none => false

/-- KILL_MARK_RECEIVE: a tile frees its waiting entries and its held stores above the mark. A tile on which the mark's
context is frozen stays as it is until the context runs again (R38, R39, R222). -/
def execKillMarkReceive (t : TileId) (s : State) : Out :=
  let u := s.ctile t
  match takeFirst (fun (k : Kill) => !(u.holds (tagCtx k.tag))) u.kills with
  | none => .next s
  | some (k, rest) =>
    let ws := match u.active with | some p => fullWidths p.widths | none => fullWidths []
    let s := s.setCtile t { u with kills := rest,
                                   entries := u.entries.filter fun e => e.ready.isSome || !(k.covers ws e.tag) }
    let r := regionOf t
    let g := s.region r
    .next (s.setRegion r { g with storeBuf := g.storeBuf.filter fun op => !(op.site = .tile t && k.covers ws op.tag) })

/-- STORE_BUFFER_RELEASE: of the members that may be performed, the first in tag order runs again (R26, R39, R129). -/
def execStoreBufferRelease (r : Nat) (s : State) : Out :=
  if s.issue.isSome then .next s
  else
    let g := s.region r
    match takeLeast issuedLt (fun op => s.mayPerform op (isStoreOpc op.opc)) g.storeBuf with
    | none => .next s
    | some (op, rest) => .next { s.setRegion r { g with storeBuf := rest } with issue := some op }

end Sys2Proof.Machine
end

