-- ==== Sys2Proof/Machine/MemEvents.lean ====
section
/-!
DEFINITION. The events of memory tiles (R106 to R109, R117, R118), of drains (R47, R129, R174, R259), and of plane
swaps and splices (R47, R48, R253, R323).
-/

namespace Sys2Proof.Machine

/- Address generators. -/

/-- A memory tile's requester gets the completion of a request that faulted with `count` elements performed (R127). -/
def State.refuse (s : State) (t : TileId) (op : Issued) (count cause : Nat) : State :=
  s.partFault op op.niw count (.tile t) .tile cause 0 0

/-- A generator would move elements of a tile whose storage no generator reaches, its own or the far one of its circuit. -/
def State.genClosed (s : State) (t : TileId) (d : List Word) : Bool :=
  let w := (nth 0 d 0).toNat
  (s.mtile t).closed
    || (descSpace d = 2 && !w.testBit 24 && (circuitFar t w).any fun f => (s.mtile f).closed)

/-- SCOPE of a generator's completion: the scope of the home of what it wrote, main memory for one that moves out to SPACE
01, and of a tile that a circuit reaches for SPACE 10 (R128). -/
def genScope (d : List Word) : Scope :=
  match descSpace d with
  | 2 => .region
  | 1 => if descOut d then .whole else .tile
  | _ => .tile

/-- GENERATOR_START: the first waiting start token runs an idle generator from its position counter (R106). With EN = 0
it is dropped with 0x107; one that would reach the storage of an SACC, CODE or SINK tile is refused with 0x103 (R107,
R158, log 67); one whose pages an invalidation took away walks them again: it waits for a page in transit, and stops with
0x143 where there is none (R125, log 38). -/
def execGeneratorStart (t : TileId) (g : Nat) (s : State) : Out :=
  let m := s.mtile t
  let x := m.gen g
  match x.run, x.waiting with
  | none, op :: rest =>
    let d := m.desc g
    let turnAway (cause : Nat) : State :=
      (s.setMtile t (m.setGen g { x with waiting := rest })).partFault op op.niw 0 (.tile t) (genScope d) cause 0 0
    if !descEn d then .next (turnAway 0x107)
    else if s.genClosed t d then .next (turnAway 0x103)
    else if descSpace d = 1 && x.frames = [] then
      let s := match s.ctx? op.ctx with | some c => (s.repatch c t g).2 | none => s
      let m := s.mtile t
      let x := m.gen g
      if x.paused || x.frames ≠ [] then .next s
      else
      let s := s.setMtile t (m.setGen g { x with waiting := rest, run := some { op with walk := some (0x143, 0) } })
      .next (s.takeFault ⟨0x143, .tile t, op.ctx, op.tag, 0, 0, false, false⟩)
    else .next (s.setMtile t (m.setGen g { x with waiting := rest, run := some op, moved := 0 }))
  | _, _ => .next s

/-- The memory tile that a generator fills: its own with DIR 0, the far memory tile of a circuit with DIR 1 (R64). -/
def fillsTile (t : TileId) (d : List Word) : Option TileId :=
  let w := (nth 0 d 0).toNat
  if !descOut d then some t
  else if descSpace d = 2 && !w.testBit 24 then circuitFar t w else none

/-- A buffer that a stopping generator has filled in part becomes full (R42, R108). -/
def State.stopFill (s : State) (d : List Word) (t : TileId) (x : Gen) (tag : Word) : State :=
  match fillsTile t d with
  | none => s
  | some f =>
    let m := s.mtile f
    if m.mode? = some 0 && x.moved * descElem d % m.depth ≠ 0 then s.bufferFull f tag else s

/-- The far generator of a circuit ends with the near one (R64, R65). -/
def State.stopPeer (s : State) (d : List Word) (t : TileId) : State :=
  let w := (nth 0 d 0).toNat
  if descSpace d = 2 && !w.testBit 24 then
    match circuitFar t w with
    | none => s
    | some f =>
      let m := s.mtile f
      let x := m.gen (bits w 25 2)
      if x.run.isSome then s else s.setMtile f (m.setGen (bits w 25 2) { x with pos := [0, 0, 0, 0], moved := 0 })
  else s

/-- GENERATOR_STOP: positions return to zero, a buffer becomes full, and the completion token goes out (R106, R108, R125,
R127). -/
def execGeneratorStop (t : TileId) (g : Nat) (s : State) : Out :=
  let m := s.mtile t
  let x := m.gen g
  match x.run with
  | none => .next s
  | some op =>
    if (x.pos ≠ [] || x.chan ≠ []) && op.walk.isNone then .next s
    else
      let d := m.desc g
      let cause := match op.walk with | some c => c.1 | none => 0
      let s := s.setMtile t (m.setGen g { x with run := none, pos := [0, 0, 0, 0], moved := 0, paused := false })
      let s := (s.stopFill d t x op.tag).stopPeer d t
      .next (s.complete op op.niw x.moved (genScope d) (cause ≠ 0) cause)

/- Waiting requests. -/

/-- A plain token on channels 0 to 11, a drain apart: no request of any mode (R107). -/
def plainToken (op : Issued) : Bool := 1024 ≤ op.node && !op.ta.nul

/-- The tile can serve a waiting request (R107 to R109). -/
def MTile.serves (m : MTile) (op : Issued) : Bool :=
  !m.asleep && !(1024 ≤ op.node && op.ta.nul) &&
    if plainToken op then !(op.node = 1035 && m.mode? = some 2)
    else match m.mode? with
      | some 0 => !m.isFull m.fill
      | some 1 => if isStoreOpc op.opc then m.fifoRoom else m.fifo ≠ []
      | _ => true

/-- The arrays with records that wait for a FIFO of a tile flush (R206). -/
def State.flushFifos (s : State) (t : TileId) : State :=
  (List.range 8).foldl (fun s a =>
    match (s.array a).out with
    | .fifo u _ :: _ => if u = t then s.laceGo a else s
    | _ => s) s

/-- HELD_WRITE_RESUME: Lace records and the first waiting request that the tile can now serve go on; a token that is no
request is refused with 0x103 (R107, R108). -/
def execHeldWriteResume (t : TileId) (s : State) : Out :=
  if s.issue.isSome then .next s
  else
    let s := s.flushFifos t
    let m := s.mtile t
    match takeFirst m.serves m.waiting with
    | none => .next s
    | some (op, rest) =>
      let s := s.setMtile t { m with waiting := rest }
      if plainToken op then .next (s.refuse t op 1 0x103) else .next { s with issue := some op }

/-- The bits of a COMMIT command are wrong (R109). -/
def commitBad (spec : Nat) (w : Word) : Bool := bits w.toNat 8 56 ≠ 0 || spec < bits w.toNat 0 8

/-- LINE_COMMIT: the first command on channel 11 commits rows and returns c; a wrong one is dropped with 0x041 (R109,
R124, R127, log 38). -/
def execLineCommit (t : TileId) (s : State) : Out :=
  let m := s.mtile t
  if m.asleep || m.mode? ≠ some 2 then .next s
  else
    match takeFirst (fun op => plainToken op && op.node = 1035) m.waiting with
    | none => .next s
    | some (op, rest) =>
      let s := s.setMtile t { m with waiting := rest }
      let w := op.ta.word
      if op.ta.isVec || commitBad m.spec w then .next (s.refuse t op 0 0x041)
      else
        let r := commitRows m.win m.spec m.lines (bits w.toNat 0 8)
        .next ((s.setMtile t { s.mtile t with lines := r.2 }).complete op op.niw r.1 .tile false 0)

/-- BANK_WAKE: a gated tile with a configuration wakes; it reads as zero (R117). -/
def execBankWake (t : TileId) (s : State) : Out :=
  let m := s.mtile t
  .next (if m.active.isSome then s.setMtile t { m with gated := false } else s)

/-- ZEROING_END. The contents are zeroed where they are given out, so only a memory tile's held accesses have waited for the
end (R118). -/
def execZeroingEnd (what : Zeroed) (s : State) : Out :=
  match what with
  | .tile t => .next (s.setMtile t { s.mtile t with zeroing := false })
  | .partition _ _ | .skein _ | .frame _ | .row _ _ => .next s

/- Drains. -/

/-- The active planes of a context, by tile. -/
def State.graphOf (s : State) (n : Nat) : List (TileId × CPlane) :=
  s.ctiles.filterMap fun (c : TileId × CTile) => match c.2.active with
    | some p => if p.ctx = n && (s.ctile c.1).active = some p then some (c.1, p) else none
    | none => none

/-- The slots that a started generator of a tile's active plane leads to (R62, R64, R174). -/
def State.genArcs (s : State) (t : TileId) (g : Nat) : List ((TileId × Nat) × Slot) :=
  (s.mtile t).active.elim [] (·.genArcs t g)

/-- A node of a tile holds a waiting, parked or spilled entry (R47). -/
def State.nodeHolds (s : State) (t : TileId) (n node : Nat) : Bool :=
  let u := s.ctile t
  u.entries.any (fun e => e.node = node && tagCtx e.tag = n) || u.refill.any (fun q => q.node = node)
    || (s.ctx? n).any fun c => c.skein.any fun x => match x with
        | .entry v e => v = t && e.node = node
        | .reader _ _ _ => false

/-- The node's drains have arrived: on every slot with an incoming arc of its image's graph that takes part in readiness, or,
without an incoming arc, anywhere in its template (R47, R174). -/
def State.drained (s : State) (t : TileId) (p : CPlane) (node : Nat) (x : Nat × Niw) : Bool :=
  let u := s.ctile t
  let mine := (awaits x).filter fun k => p.feeds.contains (node, k)
  if mine = [] then
    match p.template? node with
    | none => false
    | some (base, count) => u.drains.any fun d => base ≤ d.1 && d.1 < base + count
  else mine.all fun k => u.drains.contains (node, k)

/-- A request of a node is still on its way to the region store buffer: the drain follows it (R111, R129). -/
def State.requestOut (s : State) (t : TileId) (node : Nat) : Bool :=
  let mine (op : Issued) : Bool := op.site = .tile t && op.node = node
  let carried (c : Cargo) : Bool := match c with
    | .request op => mine op
    | _ => false
  s.allFlits.any (carried ·.cargo) || (s.ctiles.any fun (x : TileId × CTile) => x.2.reasm.any (carried ·.cargo))
    || (s.regions.any fun (x : Nat × Region) => x.2.requests.any mine) || s.issue.any mine

/-- A node passes the drain now (R47). -/
def State.passes (s : State) (t : TileId) (node : Nat) : Bool :=
  match (s.ctile t).active with
  | none => false
  | some p =>
    match p.node? node with
    | none => false
    | some x => (p.template? node).isSome && !((s.ctile t).passed.contains node) && (s.ctile t).drains ≠ []
        && !((s.ctile t).holds p.ctx) && !(s.nodeHolds t p.ctx node) && !(s.requestOut t node) && s.drained t p node x

/-- COUNT and SCOPE of the completion of a member that is discarded before it has performed anything: 0 where COUNT tells of
elements, of a generator's start, a COMMIT, a GTH or an SCT, and the scope of its home (R127, R128). -/
def State.discarded (s : State) (op : Issued) : Nat × Scope :=
  if op.opc = 0x74 ∨ op.opc = 0x75 then (0, .whole)
  else if op.opc = 0x79 ∨ op.opc = 0x7A then (1, .system)
  else match s.homeTile op op.niw with
    | some (m, ch) =>
      if 12 ≤ ch then (0, genScope ((s.mtile m).desc (ch - 12)))
      else if ch = 11 ∧ (s.mtile m).mode? = some 2 then (0, .tile) else (1, .tile)
    | none => (1, .whole)

/-- Members of a wave chain that still wait at the store buffer are discarded with 0x182 (R129). -/
def State.gapOps (s : State) (t : TileId) (node : Nat) : State :=
  let r := regionOf t
  let g := s.region r
  let mine (op : Issued) : Bool := op.site = .tile t && op.node = node
  let s := s.setRegion r { g with storeBuf := g.storeBuf.filter (!mine ·) }
  (g.storeBuf.filter mine).foldl (fun s op =>
    let d := s.discarded op
    s.partFault op op.niw d.1 op.place d.2 0x182 0 0) s

/-- A compute tile's node passes the drain, once, to each of its targets (R47). -/
def State.passNode (s : State) (t : TileId) (node : Nat) : State :=
  match (s.ctile t).active with
  | none => s
  | some p =>
    match p.ins[node]?, p.node? node with
    | some w, some x =>
      let s := s.gapOps t node
      let c := s.ctile t
      let s := s.setCtile t { c with passed := c.passed ++ [node] }
      let op : Issued := { site := .tile t, word := w, ctx := p.ctx, tag := ctxTag p.ctx, node := node, draw := 0, a := none,
                           b := none, c := none, p := none, konst := none, mode := p.mode, released := false, walk := none }
      let drain := drainTok (ctxTag p.ctx)
      if x.1 = 0x0E then
        (entriesOf p.sites x).foldl (fun s k => s.route op t k.1 k.2 drain) s
      else s.emitTo op (s.drainTargets op x.2) drain
    | _, _ => s

/-- A memory tile holds nothing that keeps a drain waiting: no request or deferred reader of the context, and, on a
generator channel, no element to move; of an OPSTORE tile a generator channel asks only that its buffers are empty (R174). -/
def State.tileDrained (s : State) (t : TileId) (op : Issued) : Bool :=
  let m := s.mtile t
  let n := op.ctx
  let quiet :=
    !(m.waiting.any fun o => o.ctx = n && !(1024 ≤ o.node && o.ta.nul)) && !(m.readers.any (·.2.ctx = n))
      && !(s.ctxs.any fun c => c.num = n && c.skein.any fun x => match x with
            | .reader v _ _ => v = t
            | .entry _ _ => false)
  if 1036 ≤ op.node then
    let x := m.gen (op.node - 1036)
    x.run.isNone && x.waiting = [] && (if m.mode? = some 0 then m.full = [] else quiet)
  else quiet

/-- A memory tile passes a drain back, or on (R174). -/
def State.passTile (s : State) (t : TileId) : State :=
  let m := s.mtile t
  match takeFirst (fun op => 1024 ≤ op.node && op.ta.nul && s.tileDrained t op) m.waiting with
  | none => s
  | some (op, rest) =>
    let s := s.setMtile t { m with waiting := rest }
    let n := op.niw
    let arcs := if 1036 ≤ op.node then s.genArcs t (op.node - 1036) else []
    let s := arcs.foldl (fun s a => s.deliver ⟨a.1.1, a.1.2, a.2, drainTok (ctxTag op.ctx), false⟩) s
    if 1036 ≤ op.node && m.mode? = some 0 then s else s.emitTo op [n.t1, n.t2] (drainTok (ctxTag op.ctx))

/-- DRAIN_PASS (R47, R174): a node of a compute tile, or a drain that waits at a memory tile. -/
def execDrainPass (t : TileId) (node : Nat) (s : State) : Out :=
  if isCompute t then .next (if s.passes t node then s.passNode t node else s) else .next (s.passTile t)

/- Swaps. -/

/-- Every node of a tile's plane has passed the drain. -/
def CTile.allPassed (c : CTile) : Bool :=
  match c.active with
  | none => true
  | some p => (List.range p.ins.length).all fun i => (p.template? i).isNone || c.passed.contains i

/-- Every node of a context's graph has passed the drain, of the regions that await the same successor as region r. -/
def State.graphPassed (s : State) (r n : Nat) : Bool :=
  ((s.graphOf n).filter fun c => (s.region (regionOf c.1)).shadow.map (·.img) = (s.region r).shadow.map (·.img)).all
    fun c => (s.ctile c.1).allPassed

/-- A region holds a node of a context. -/
def State.hasNodes (s : State) (r n : Nat) : Bool :=
  (s.graphOf n).any fun c => regionOf c.1 = r && (List.range c.2.ins.length).any fun i => (c.2.template? i).isSome

/-- The planes of a region can swap: the conditions of R47 hold for the active context, which runs without a splice; a
region without a node follows the rest of the graph (log 37). -/
def State.swapReady (s : State) (r : Nat) : Bool :=
  match (s.region r).activeCtx with
  | some n =>
    (s.ctx? n).any (fun c => c.st = .running && c.splice.isNone) && s.regionClear r n
      && (s.hasNodes r n || s.graphPassed r n)
  | none => (s.region r).shadow.any fun l => !l.byCfgld && (s.ctx? l.ctx).any (·.st = .loading)

/-- PLANE_SWAP (R47). -/
def execPlaneSwap (r : Nat) (s : State) : Out := .next (if s.swapReady r then s.doSwap r else s)

/- SPLICE. -/

/-- A tile can switch: the drain has passed all nodes of a compute tile; a memory tile is idle, and the compute tiles
next to it have switched (R48, log 37). -/
def State.canSwitch (s : State) (c : Ctx) (t : TileId) : Bool :=
  let ts := s.spliceTiles c
  ts.contains t && !(c.switched.contains t) &&
    if isCompute t then (s.ctile t).allPassed
    else !(s.mtile t).busy && (s.mtile t).readers = [] &&
      (List.range 4).all fun k => match neighbour t k with
        | some u => !(ts.contains u) || c.switched.contains u
        | none => true

/-- A tile switches to the successor, whose seeds for it are injected (R48, R49). -/
def State.spliceSwitch (s : State) (c : Ctx) (l : Loaded) (t : TileId) : State :=
  let s := s.switchTile t
  let g := s.region (regionOf t)
  let s := s.setRegion (regionOf t) { g with done := g.done.filter (·.1.1 ≠ t) }
  let s := s.mapCtx c.launch fun c => { c with switched := c.switched ++ [t], entered := c.entered.filter (·.1 ≠ t) }
  let s := s.injectSeeds c.launch c.num (l.seeds.filter fun x => (x.parcel c.num).tile = t)
  match s.launched? c.launch with
  | some c => if (s.spliceTiles c).all (c.switched.contains ·) then s.spliceDone c l else s
  | none => s

/-- SPLICE_TILE_SWITCH (R48). -/
def execSpliceTileSwitch (t : TileId) (s : State) : Out :=
  match s.ctxs.find? fun c => c.splice.isSome && c.st = .running && s.canSwitch c t with
  | none => .next s
  | some c => match c.splice with
    | none => .next s
    | some l => .next (s.spliceSwitch c l t)

end Sys2Proof.Machine
end

