-- ==== Sys2Proof/Machine/Snapshot.lean ====
section
/-!
DEFINITION. The images of contexts: SNAP (R226, R322), RSTR up to its grant (R310), and what a restore moves and
re-injects (R227, R311). Where the spec gives a section's bits no layout its words are free values, and the table of
snapshots keeps what they stand for (log 6).
-/

namespace Sys2Proof.Machine

/- Taking a snapshot. -/

/-- A region's part of a context: its chains, held stores, walks, parked accesses and block contexts (R222). Whether the pager
has answered an access is no state of the context (R322). -/
def Region.partOf (g : Region) (n : Nat) : Region :=
  { Region.reset with
    done := g.done.filter (tagCtx ·.2 = n), storeBuf := g.storeBuf.filter (·.ctx = n)
    walks := g.walks.filter (·.1.ctx = n), parked := (g.parked.filter (·.op.ctx = n)).map fun p => { p with answered := false }
    bcs := g.bcs.map fun b => if b.ctx = n then b else BlockCtx.reset }

/-- The context of a reassembly slot: a token's, once its first flit is there (R72). -/
def Reasm.ctx? (x : Reasm) : Option Nat := if x.typ = 0 then (look 0 x.got).map fun d => bits d.toNat 116 12 else none

/-- A compute tile's part of a context (R222). -/
def CTile.partOf (c : CTile) (n : Nat) : CTile :=
  let mine (q : Parcel) : Bool := tagCtx q.tok.tag = n
  { CTile.reset with
    active := c.active, own := c.own.filter mine, stream := c.stream.filter mine, ingress := c.ingress.filter mine
    refill := c.refill.filter mine, entries := c.entries.filter (tagCtx ·.tag = n), q := c.q
    mma := c.mma.filter (·.ctx = n), corner := c.corner.filter (tagCtx ·.tag = n)
    verdicts := c.verdicts.filter (tagCtx ·.tag = n), drains := c.drains, passed := c.passed
    kills := c.kills.filter (tagCtx ·.tag = n), reasm := c.reasm.filter (·.ctx? = some n) }

/-- A memory tile's part of the context that its plane belongs to (R222). The pages of its generators and the power state of its
banks change while the context rests, and are no part of it (R117, R125, R322). -/
def MTile.partOf (m : MTile) (n : Nat) : MTile :=
  { m with active := m.active.map fun p => { p with frames := [] }
           shadow := none, last := none, waiting := m.waiting.filter (·.ctx = n)
           sink := m.sink.filter fun q => tagCtx q.tok.tag = n
           gens := m.gens.map fun g => (g.1, { g.2 with frames := [], paused := false })
           gated := false, zeroing := false }

/-- A context without what a marker leaves in it (R229, R322). -/
def Ctx.imaged (c : Ctx) : Ctx :=
  { c with st := .frozen, req := none, issuer := none, markers := [], quiet := [], stopAfter := false, endAfter := false
           gangMark := false }

/-- The streams of a context, with their arrays, slots and graphs (R215). -/
def State.streamsOf (s : State) (n : Nat) : List (Nat × Nat × Stream × Option Graph) :=
  s.lace.flatMap fun (a : Nat × LaceArray) =>
    (a.2.slots.zipIdx.filter fun k => k.1.st != .free && k.1.ctx = n).map fun k => (a.1, k.2, k.1, a.2.graph)

/-- The records of a context's streams that a full FIFO tile holds back, by 16 times the array plus the slot (R206, R215). -/
def State.laceOutOf (s : State) (n : Nat) : List (Nat × List LaceOut) :=
  (s.lace.filter fun (a : Nat × LaceArray) => a.2.out ≠ [] && (a.2.slot a.2.last).ctx = n).map fun a =>
    (16 * a.1 + a.2.last, a.2.out)

/-- The parts of a context that the table of R222 saves. -/
def State.snapshotOf (s : State) (x : Ctx) (id : Nat) : Snapshot :=
  let n := x.num
  { id := id, ctx := x.imaged, words := []
    ctiles := (s.ctiles.filter fun (c : TileId × CTile) => c.2.active.any (·.ctx = n)).map fun c => (c.1, c.2.partOf n)
    mtiles := (s.mtiles.filter fun (m : TileId × MTile) => m.2.active.any (·.ctx = n)).map fun m => (m.1, m.2.partOf n)
    regions := s.regions.map fun (g : Nat × Region) => (g.1, g.2.partOf n)
    streams := s.streamsOf n
    reds := s.reds.filter (·.ctx = n), scatters := s.scatters.filter (·.op.ctx = n)
    held := s.held.filter (·.op.ctx = n), readers := s.main.readers.filter (·.2.ctx = n)
    laceOps := s.lace.flatMap fun a => (a.2.ops.filter (·.op.ctx = n)).map fun o => (a.1, o)
    laceOut := s.laceOutOf n }

/- Its image. -/

/-- A section of an image: KIND and LOC, the words that the spec gives its body, how many open ones stand before them, and
whether open ones follow (log 6). -/
structure Section where
  kind : Nat
  loc : Nat
  words : List Word
  before : Nat
  after : Bool
  deriving DecidableEq, Repr

/-- LOC of a saved section: the region's index within RSET, and the tile's offsets (R226). -/
def snapLoc (rset : Nat) (r col row : Nat) : Nat := ((regionsOf rset).findIdx (· = r)) * 2 ^ 17 + col * 2 ^ 15 + row * 2 ^ 12

/-- LOC of a tile's section (R226). -/
def tileLoc (rset : Nat) (t : TileId) : Nat := snapLoc rset (regionOf t) (t.col % 4) (t.row % 8)

/-- The sections that parts of a context give, one for each part that has something (R226). -/
def sectionsOf {α : Type} (kind : Nat) (l : List α) (loc : α → Nat) (has : α → Bool) (words : α → List Word)
    (before : Nat) (after : Bool) : List Section :=
  (l.filter has).map fun x => ⟨kind, loc x, words x, before, after⟩

/-- G0 to G63 and the next block address of a block context (R226). -/
def BlockCtx.saved (x : BlockCtx) : List Word :=
  x.g ++ match x.st with
    | .fetch va => [va]
    | .idle | .run _ | .stopped => []

/-- The rows of a memory tile that have their home there (R158). -/
def homeRows (m : TileId × MTile) : List Row := m.2.rows.filter (·.home = memIndex m.1)

/-- The words that the image of a row of n elements takes (R166). -/
def rowWords (n : Nat) : Nat := (32 + 6 * n + 7) / 8

/-- The rows of an SACC tile in the format of R166, each filled up to a whole word (R169, log 6). -/
def Snapshot.rowsOf (i : Snapshot) (m : TileId × MTile) : List Word :=
  let s : State := { State.reset with mtiles := i.mtiles }
  (homeRows m).flatMap fun x => wordsOf (rowWords x.n) (s.rowImage (regionOf m.1) x)

/-- The block contexts that a snapshot uses, by region and number. -/
def Snapshot.bcsUsed (i : Snapshot) : List ((Nat × Nat) × BlockCtx) :=
  i.regions.flatMap fun g =>
    ((g.2.bcs.zipIdx).filter fun b => b.1.ctx = i.ctx.num && b.1.st != .idle).map fun b => ((g.1, b.2), b.1)

/-- The sections of an image by KIND, and within a KIND by the order of the parts (R226, log 6): tokens in the form of R72,
SACC rows in that of R166, Lace streams by the image of R209 behind their state, block contexts by their registers and
address. -/
def Snapshot.sections (i : Snapshot) : List Section :=
  let rs := i.ctx.rset
  let ct (x : TileId × CTile) : Nat := tileLoc rs x.1
  let mt (x : TileId × MTile) : Nat := tileLoc rs x.1
  sectionsOf 0x11 i.ctiles ct (fun _ => true) (fun _ => []) 0 true
    ++ sectionsOf 0x12 i.mtiles mt (fun _ => true) i.rowsOf 0 true
    ++ sectionsOf 0x13 i.mtiles mt (fun x => x.2.sink ≠ []) (fun x => x.2.sink.flatMap tokenWords) 0 false
    ++ sectionsOf 0x13 i.ctiles ct (fun x => x.2.ingress ≠ []) (fun x => x.2.ingress.flatMap tokenWords) 0 false
    ++ sectionsOf 0x14 i.mtiles mt (fun x => x.2.gens.any fun g => g.2.chan ≠ []) (fun _ => []) 0 true
    ++ sectionsOf 0x14 i.ctiles ct (fun x => x.2.stream ≠ []) (fun _ => []) 0 true
    ++ sectionsOf 0x15 i.regions (fun g => snapLoc rs g.1 0 0) (fun g => g.2.storeBuf ≠ [] || g.2.done ≠ []
        || i.scatters.any fun x => siteRegion x.op.site = g.1) (fun _ => []) 0 true
    ++ sectionsOf 0x16 i.ctiles ct (fun x => x.2.reasm ≠ []) (fun _ => []) 0 true
    ++ sectionsOf 0x17 i.streams (fun _ => 0) (fun _ => true)
        (fun x => saveImage (x.2.2.2.elim 0 (·.check)) x.2.2.1.confs x.2.2.1.pos x.2.2.1.seq) 1 false
    ++ sectionsOf 0x18 i.bcsUsed (fun b => snapLoc rs b.1.1 0 0) (fun _ => true) (fun b => b.2.saved) 0 true

/-- The words of a section: its header, its body, and its check word (R67, R68, R226). -/
def Section.image (x : Section) (id sec : Nat) : List Word :=
  let tail := if x.after then Config.snapLength id sec % 2 ^ 20 else 0
  let body := (List.range x.before).map (Config.snapBody id sec) ++ x.words
    ++ (List.range tail).map fun k => Config.snapBody id sec (x.before + k)
  let ws := word (x.kind * 2 ^ 56 + (body.length + 1) % 2 ^ 32 * 2 ^ 24 + x.loc % 2 ^ 24) :: body
  ws ++ [crcWords ws]

/-- The words of the image of a snapshot: the header of R226, the sections, and the check word (R68). -/
def Snapshot.image (i : Snapshot) : List Word :=
  let body := (i.sections.zipIdx).flatMap fun x => x.1.image i.id x.2
  let ws := [word (0x5A53 * 2 ^ 48 + 2 ^ 40 + (body.length + 9) % 2 ^ 32), word (i.ctx.num + i.ctx.round * 2 ^ 32),
    i.ctx.handle, word i.ctx.rset, i.ctx.mode, 0, 0, 0] ++ body
  ws ++ [crcWords ws]

/-- The snapshot of a context: an equal one taken before, or a new one. Two SNAPs of one context write the same bytes
(R322). -/
def State.snapshot (s : State) (x : Ctx) : Snapshot × State :=
  match s.images.find? fun i => { i with words := [] } = s.snapshotOf x i.id with
  | some i => (i, s)
  | none =>
    let id := s.images.length
    let i := s.snapshotOf x id
    let i := { i with words := i.image }
    (i, { s with images := s.images ++ [i] })

/-- The parts of at most 200 bytes of a transfer, each with its offset (R190). -/
def parts : Nat → Nat → List Byte → List (Nat × List Byte)
  | 0, _, _ => []
  | k + 1, off, bs => if bs = [] then [] else (off, bs.take 200) :: parts k (off + 200) (bs.drop 200)

/-- A SNAP to an endpoint sends its bytes and waits for every acknowledgement (R190, R322). -/
def State.sendSnap (s : State) (op : Issued) (c : Ctx) (ep : Nat) (bs : List Byte) : State :=
  match c.endpoint? ep with
  | none => s
  | some e =>
    let rid := s.rid
    let ps := parts (bs.length + 1) 0 bs
    let s := { s with rid := (rid + 1) % 2 ^ 64 }
    let s := ps.foldl (fun s p => s.sendEpdata c.num ep 2 (e.pos + p.1) rid e.node p.2.length p.2) s
    (s.moveEndpoint c.num ep bs.length).hold { op with count := bs.length } (.transfer rid [] ps.length)

/-- Where a page of an image's destination faults, the bytes before it stay written (R322). -/
def State.snapPart (s : State) (op : Issued) (bs : List Byte) : Res (List (Nat × Nat)) → State
  | .fault _ _ _ =>
    let va := op.tb.word.toNat
    if (addrCause (s.isSystem op.ctx) va bs.length 8).isSome then s else (s.writeParts op (piecesOf va bs.length) bs).1
  | _ => s

/-- SNAP writes the image, ends the context where REL asks, and emits the image's size (R322). -/
def State.snap (s : State) (op : Issued) (n : Niw) (x : Ctx) : State :=
  let (i, s) := s.snapshot x
  let need := 8 * i.words.length
  let release (s : State) : State := if n.imm.getLsbD 0 then s.endCtx x.launch true else s
  if op.tc.word.toNat < need then s.opFault op 0x101 0 (word need)
  else if n.imm.getLsbD 1 then
    match s.ctx? op.ctx with
    | none => s
    | some c =>
      match s.endpointCause c op.tb.word.toNat 0 need with
      | some cause => s.opFault op cause op.tb.word 0
      | none => release ((s.fix op).sendSnap op c op.tb.word.toNat (wordBytes i.words))
  else
    let r := s.range op .write op.tb.word.toNat need 8
    (s.snapPart op (wordBytes i.words) r).withPieces op n r fun ps =>
    (release ((s.fix op).writePieces ps (wordBytes i.words))).emitWord op n (word need) true

/-- SNAP (R322). -/
def execSnap (n : Niw) (s : State) : Out :=
  fire s n fun op s => s.scalars op [op.ta, op.tb, op.tc] fun s =>
    match s.alive? op.ta.word with
    | none => s.opFault op 0x084 0 0
    | some x =>
      if !s.mayCommand op x then s.opFault op 0x103 0 0
      else match x.st with
        | .freezing => s.hold op (.frozen x.launch)
        | .frozen | .stopped => s.snap op n x
        | _ => s.emitWord op n 0 false

/- RSTR up to the arbiter. -/

/-- The number of regions of a set. -/
def popSet (rset : Nat) : Nat := (regionsOf rset).length

/-- The first check of an image that fails, as the word offset that 0x300 names: MAGIC and VERSION, LEN, the check word
(R226, R310). -/
def snapBad (ws : List Word) : Option Nat :=
  let w := (nth 0 ws 0).toNat
  if bits w 48 16 ≠ 0x5A53 ∨ bits w 40 8 ≠ 1 then some 0
  else if bits w 0 32 < 9 then some 0
  else if ws.length = bits w 0 32 ∧ crcWords ws.dropLast ≠ ws.getLastD 0 then some (ws.length - 1)
  else none

/-- A section as the words of an image lay it out: KIND, LOC, the words of its body, and whether its check word agrees. KIND 0
is what follows a header that is wrong (R67, R68, R226). -/
structure Laid where
  kind : Nat
  loc : Nat
  words : List Word
  good : Bool
  deriving DecidableEq, Repr

/-- The sections that words lay out, up to a header that is wrong; `fuel` bounds their number. -/
def sectionsIn : Nat → List Word → List Laid
  | 0, _ | _, [] => []
  | fuel + 1, h :: rest =>
    let kind := bits h.toNat 56 8
    let len := bits h.toNat 24 32
    let body := (rest.take len).dropLast
    if kind < 0x11 ∨ 0x18 < kind ∨ len = 0 ∨ rest.length < len then [⟨0, 0, [], false⟩]
    else ⟨kind, bits h.toNat 0 24, body, crcWords (h :: body) = (rest.take len).getLastD 0⟩ :: sectionsIn fuel (rest.drop len)

/-- The sections of an image. -/
def laidOut (ws : List Word) : List Laid := sectionsIn ws.length (ws.drop 8).dropLast

/-- RSET of an image's header (R226). -/
def imageSet (ws : List Word) : Nat := bits (nth 0 ws 3).toNat 0 42

/-- The region that LOC of a section gives, by its index within RSET (R226). -/
def Laid.region? (x : Laid) (rset : Nat) : Option Nat := (regionsOf rset)[bits x.loc 17 6]?

/-- The tile that LOC of a section gives, by its offsets within the region (R226). -/
def Laid.tile? (x : Laid) (rset : Nat) : Option TileId :=
  (x.region? rset).map fun r => tileAt r (bits x.loc 15 2 + 4 * bits x.loc 12 3)

/-- LOC names no region of RSET, or a tile of the other kind. -/
def Laid.misplaced (x : Laid) (rset : Nat) : Bool :=
  match x.kind, x.tile? rset with
  | 0x17, _ => false
  | _, none => true
  | 0x11, some t => !(isCompute t)
  | 0x12, some t => isCompute t
  | _, some _ => false

/-- The tokens of words in the form of R72; `fuel` bounds their number. -/
def tokensIn : Nat → List Word → List Parcel
  | 0, _ | _, [] => []
  | fuel + 1, c :: rest =>
    let n := if c.getLsbD 38 then 16 else 1
    parcelOf c (rest.headD 0) ((rest.drop 1).take n) :: tokensIn fuel (rest.drop (n + 1))

/-- The rows of an SACC tile from words in the format of R166, one for each of a list of rows that gives the placements; none
where one of them fails its check (R168). -/
def rowsIn (t : TileId) : List Row → List Word → Option (List (Row × List Int))
  | [], _ => some []
  | x :: l, ws =>
    let h := (nth 0 ws 0).toNat
    let k := rowWords (bits h 16 16 + 1)
    if ws.length < k then none
    else (imageRow t (bits h 0 8 + x.base * 2 ^ 24 + x.smask * 2 ^ 41) (wordBytes (ws.take k))).bind fun y =>
      (rowsIn t l (ws.drop k)).map (y :: ·)

/-- A snapshot of nothing. -/
def Snapshot.blank (x : Ctx) : Snapshot := ⟨0, x, [], [], [], [], [], [], [], [], [], [], []⟩

/-- FREE VALUE. What the open words of an image stand for that this machine has not written, the image of a failed module for
example: the spec gives them no layout by which to tell (R226, R234, log 6). -/
opaque Config.readSnapshot (ws : List Word) : Option Snapshot

/-- The bodies of the sections of a KIND that stand at a tile. -/
def bodiesAt (l : List Laid) (rset kind : Nat) (t : TileId) : List (List Word) :=
  (l.filter fun x => x.kind = kind && x.tile? rset = some t).map (·.words)

/-- The tokens that an image holds for a tile (R72, R226). -/
def tokensAt (l : List Laid) (rset : Nat) (t : TileId) : List Parcel :=
  (bodiesAt l rset 0x13 t).flatMap fun ws => tokensIn ws.length ws

/-- The tiles that an image names in a section of their own or for their tokens. -/
def tilesIn (l : List Laid) (rset kind : Nat) (compute : Bool) : List TileId :=
  ((l.filter fun x => x.kind = kind || x.kind = 0x13).filterMap (·.tile? rset)).eraseDups.filter (isCompute · = compute)

/-- A compute tile as an image lays it out: its tokens, and channels and reassembly slots where it has sections for them. -/
def laidCtile (l : List Laid) (rset n : Nat) (b : List (TileId × CTile)) (t : TileId) : TileId × CTile :=
  let c := (lookD CTile.reset t b).partOf n
  (t, { c with active := none, own := [], ingress := tokensAt l rset t
               stream := if bodiesAt l rset 0x14 t = [] then [] else c.stream
               reasm := if bodiesAt l rset 0x16 t = [] then [] else c.reasm })

/-- A memory tile as an image lays it out: its tokens, and channels where it has sections for them. Its rows follow. -/
def laidMtile (l : List Laid) (rset n : Nat) (b : List (TileId × MTile)) (t : TileId) : TileId × MTile :=
  let m := (lookD MTile.reset t b).partOf n
  (t, { m with active := none, sink := tokensAt l rset t, rows := []
               gens := if bodiesAt l rset 0x14 t = [] then m.gens.map fun g => (g.1, { g.2 with chan := [] }) else m.gens })

/-- The rows that an image gives a memory tile are defined in their stripe tiles (R166, R169). -/
def State.laidRows (s : State) (l : List Laid) (rset : Nat) (m : TileId × MTile) : State :=
  ((rowsIn m.1 (homeRows m) (bodiesAt l rset 0x12 m.1).flatten).getD []).foldl (fun s y =>
    (s.defineRow m.1 y.1).setElems (regionOf m.1) y.1 ((y.2.zipIdx).map fun e => (e.2, e.1))) s

/-- The block contexts that an image lays out in a region: G0 to G63 and the next block address (R226). -/
def laidBcs (l : List Laid) (rset n : Nat) (b : Region) (r : Nat) : List BlockCtx :=
  let bodies := (l.filter fun x => x.kind = 0x18 && x.region? rset = some r).map (·.words)
  (List.range 4).map fun k =>
    match bodies[k]? with
    | none => BlockCtx.reset
    | some ws =>
      let x := nth BlockCtx.reset b.bcs k
      { x with ctx := n, g := (List.range 64).map (nth 0 ws), st := if x.st = .stopped then .stopped else .fetch (nth 0 ws 64) }

/-- A region as an image lays it out; its store buffer and chains where it has a section for them. -/
def laidRegion (l : List Laid) (rset n : Nat) (b : List (Nat × Region)) (r : Nat) : Nat × Region :=
  let g := (lookD Region.reset r b).partOf n
  let kept := l.any fun x => x.kind = 0x15 && x.region? rset = some r
  (r, { g with bcs := laidBcs l rset n g r, storeBuf := if kept then g.storeBuf else [], done := if kept then g.done else [] })

/-- A stream as an image lays it out behind the word of its slot state (R209, R226). Its graph is the one that its array holds,
if the check words agree, else a free one; none where the image does not fit it (R211). -/
def State.laidStream (s : State) (n : Nat) (b : Nat × Nat × Stream × Option Graph) (ws : List Word) :
    Nat × Nat × Stream × Option Graph :=
  let ws := ws.drop 1
  let fits (g : Graph) : Bool := (imageConfs g ws).isSome
  let g := match (s.array (b.1 % 8)).graph.filter fits with
    | some g => some g
    | none => b.2.2.2.filter fits
  (b.1 % 8, b.2.1 % 16,
    { b.2.2.1 with
      st := if b.2.2.1.st = .held then .held else .bound
      ctx := n, confs := (g.bind fun g => imageConfs g ws).getD [], pos := (nth 0 ws 2).toNat
      seq := bits (nth 0 ws 3).toNat 0 32 }, g)

/-- The snapshot that an image stands for which this machine has not written: what its words lay out, over free contents for
the words that have no layout (R72, R166, R209, R226, R234, log 6). -/
def State.laid (s : State) (b : Snapshot) (ws : List Word) : Snapshot :=
  let l := laidOut ws
  let rset := imageSet ws
  let n := bits (nth 0 ws 1).toNat 0 12
  let mtiles := (tilesIn l rset 0x12 false).map (laidMtile l rset n b.mtiles)
  let rows := b.mtiles.foldl (fun s m => s.laidRows l rset m) { State.reset with mtiles := mtiles }
  { id := s.images.length, words := ws
    ctx := { b.ctx.imaged with
      num := n, round := bits (nth 0 ws 1).toNat 32 32, handle := nth 0 ws 2, rset := rset, mode := nth 0 ws 4 }
    ctiles := (tilesIn l rset 0x11 true).map (laidCtile l rset n b.ctiles)
    mtiles := rows.mtiles
    regions := (regionsOf rset).map (laidRegion l rset n b.regions)
    streams := ((l.filter (·.kind = 0x17)).zipIdx).map fun x =>
      s.laidStream n (nth (0, 0, Stream.reset, none) b.streams x.2) x.1.words
    reds := b.reds.filter (·.ctx = n)
    scatters := if l.any (·.kind = 0x15) then b.scatters.filter (·.op.ctx = n) else []
    held := b.held.filter (·.op.ctx = n), readers := b.readers.filter (·.2.ctx = n)
    laceOps := b.laceOps.filter (·.2.op.ctx = n), laceOut := [] }

/-- The snapshot that an image stands for, by its number in the table; an image of another machine enters the table. -/
def State.imageOf (s : State) (x : Ctx) (ws : List Word) : Nat × State :=
  match s.images.find? (·.words = ws) with
  | some i => (i.id, s)
  | none =>
    (s.images.length,
      { s with images := s.images ++ [s.laid ((Config.readSnapshot ws).getD (Snapshot.blank x)) ws] })

/-- RSTR reads the image and its descriptor and enters the arbiter (R310). -/
def execRstr (n : Niw) (s : State) : Out :=
  fire s n fun op s => s.scalars op [op.ta, op.tb] fun s =>
    let a := op.ta.word.toNat
    let rs := op.tb.word.toNat
    if 2 ^ 42 ≤ rs ∨ rs = 0 ∨ a % 8 ≠ 0 then s.opFault op 0x041 0 0
    else s.withPieces op n (s.range op .read a 64 8) fun ps =>
      let head := wordsOf 8 (s.readPieces ps)
      match snapBad head with
      | some o => s.opFault op 0x300 (word o) 0
      | none =>
        let len := bits (nth 0 head 0).toNat 0 32
        s.withPieces op n (s.range op .read a (8 * len) 8) fun ps =>
          let ws := wordsOf len (s.readPieces ps)
          match snapBad ws with
          | some o => s.opFault op 0x300 (word o) 0
          | none =>
            if popSet rs ≠ popSet (imageSet ws) then s.opFault op 0x301 0 0
            else if (nth 0 ws 2).toNat % 64 ≠ 0 then s.opFault op 0x041 0 0
            else s.withPieces op n (s.range op .read (nth 0 ws 2).toNat 64 8) fun ps =>
              match descOf (wordsOf 8 (s.readPieces ps)), s.ctx? op.ctx with
              | none, _ => s.opFault op 0x041 0 0
              | _, none => s
              | some d, some c =>
                if 256 ≤ s.waiting then s.opFault op 0x301 0 0
                else
                  let x := (d.ctx (nth 0 ws 2) rs (siteRegion op.site) 0).launchedBy c op
                  let (id, s) := s.imageOf x ws
                  s.accept { x with image := some id, mode := nth 0 ws 4
                                    round := bits (nth 0 ws 1).toNat 32 32 }

/- Moving a snapshot. -/

/-- Where a restored image comes to stand: regions and block contexts, old to new, and the new context number (R227). -/
structure Relocation where
  regions : List (Nat × Nat)
  bcs : List ((Nat × Nat) × (Nat × Nat))
  old : Nat
  num : Nat
  deriving DecidableEq, Repr

/-- A region. -/
def Relocation.region (v : Relocation) (r : Nat) : Nat := lookD r r v.regions

/-- A tile keeps its place within its region (R227). -/
def Relocation.tile (v : Relocation) (t : TileId) : TileId := tileAt (v.region (regionOf t)) (t.col % 4 + 4 * (t.row % 8))

/-- A tag of the old context becomes one of the new. -/
def Relocation.tag (v : Relocation) (t : Word) : Word := if tagCtx t = v.old then mkTag v.num (tagDepth t) (tagArea t) else t

/-- A token. -/
def Relocation.tok (v : Relocation) (t : Tok) : Tok := { t with tag := v.tag t.tag }

/-- A token with its target. -/
def Relocation.parcel (v : Relocation) (q : Parcel) : Parcel := { q with tile := v.tile q.tile, tok := v.tok q.tok }

/-- An issuer. -/
def Relocation.site (v : Relocation) : Issuer → Issuer
  | .tile t => .tile (v.tile t)
  | .block r bc n => let x := lookD (v.region r, bc) (r, bc) v.bcs; .block x.1 x.2 n

/-- An operation. Its reply sets out from the port of its new region; the Lace arrays stay where they are. -/
def Relocation.op (v : Relocation) (o : Issued) : Issued :=
  { o with site := v.site o.site, ctx := if o.ctx = v.old then v.num else o.ctx, tag := v.tag o.tag
           a := o.a.map v.tok, b := o.b.map v.tok, c := o.c.map v.tok, p := o.p.map v.tok, raw := o.raw.map v.tok
           away := if 0xC0 ≤ o.opc then o.away else o.away.map v.tile }

/-- The body of a loop. -/
def Relocation.body (v : Relocation) (b : LoopBody) : LoopBody := { b with tile := v.tile b.tile }

/-- A matching-store entry. -/
def Relocation.entry (v : Relocation) (e : Entry) : Entry :=
  { e with tag := v.tag e.tag, a := e.a.map v.tok, b := e.b.map v.tok, c := e.c.map v.tok, p := e.p.map v.tok
           reserved := e.reserved.map v.body }

/-- A route entry: KIND 10 destinations are rewritten (R227). -/
def Relocation.route (v : Relocation) (e : BitVec 32) : BitVec 32 :=
  if routeKind e ≠ 2 then e
  else
    let x := e.toNat
    let t := v.tile ⟨dieOf (bits x 21 1), bits x 16 5, bits x 11 5⟩
    BitVec.ofNat 32 (bits x 22 10 * 2 ^ 22 + dieNum t.die * 2 ^ 21 + t.col * 2 ^ 16 + t.row * 2 ^ 11 + bits x 0 11)

/-- A plane of a compute tile. -/
def Relocation.cplane (v : Relocation) (p : CPlane) : CPlane :=
  { p with routes := p.routes.map v.route, bodies := p.bodies.map v.body }

/-- An image stands in the regions of the restore (R227, R310). -/
def Relocation.image (v : Relocation) (img : Image) : Image :=
  { img with
    rset := v.regions.foldl (fun m r => if img.rset.testBit r.1 then m + 2 ^ r.2 else m) 0
    ctiles := img.ctiles.map fun c => (v.tile c.1, v.cplane c.2.1, c.2.2)
    mtiles := img.mtiles.map fun m => (v.tile m.1, m.2.1, m.2.2)
    blocks := img.blocks.map fun b => { b with tile := b.tile.map v.tile } }

/-- A reassembly slot: a token's tag in its first flit is of the new context (R72). -/
def Relocation.reasm (v : Relocation) (x : Reasm) : Reasm :=
  { x with got := x.got.map fun f =>
      if f.1 = 0 then
        let d := f.2.toNat
        (0, BitVec.ofNat 256 (d - bits d 116 12 * 2 ^ 116 + v.num % 4096 * 2 ^ 116))
      else f }

/-- The tiles that an image places something in. -/
def Image.tiles (img : Image) : List TileId :=
  (img.ctiles.map fun x => x.1) ++ (img.mtiles.map fun x => x.1) ++ img.blocks.filterMap fun b => b.tile

/-- The state of a compute tile over its newly loaded plane, with the words of its stream channels; its other queued tokens
are re-injected in turn, and its verdict slots read their cells anew (R157). -/
def Relocation.ctile (v : Relocation) (now old : CTile) : CTile :=
  { now with
    entries := old.entries.map v.entry, refill := old.refill.map v.parcel, q := old.q, mma := old.mma.map v.op
    corner := old.corner.map fun c => { c with tag := v.tag c.tag }
    verdicts := old.verdicts.map fun x =>
      { x with tag := v.tag x.tag, opener := x.opener.map v.op, reading := x.kind ≠ 0 && x.st = .live }
    drains := old.drains, passed := old.passed, kills := old.kills.map fun k => { k with tag := v.tag k.tag }
    reasm := now.reasm ++ old.reasm.map v.reasm
    stream := now.stream ++ old.stream.map v.parcel }

/-- Saved bytes written one by one into zeroed banks. -/
def refilled (l : List Host.Cell) : List Host.Cell := l.foldl (fun b c => cellPut b c.1 c.2) []

/-- The state of a memory tile over its newly loaded plane. SINK tokens are re-injected, not restored. -/
def Relocation.mtile (v : Relocation) (now old : MTile) : MTile :=
  { now with
    banks := refilled old.banks, full := old.full.map fun f => (f.1, v.tag f.2), fill := old.fill, drain := old.drain
    fifo := old.fifo, lines := old.lines, wstate := old.wstate, heads := old.heads, rows := old.rows
    readers := old.readers.map fun r => (r.1, v.op r.2), waiting := old.waiting.map v.op
    gens := old.gens.map fun g => (g.1, { g.2 with run := g.2.run.map v.op, waiting := g.2.waiting.map v.op
                                                   frames := (now.gen g.1).frames, paused := false })
    zeroing := false }

/-- A region's part joins a region. -/
def Relocation.part (v : Relocation) (now old : Region) : Region :=
  { now with
    done := now.done ++ old.done.map fun d => ((v.tile d.1.1, d.1.2), v.tag d.2)
    storeBuf := now.storeBuf ++ old.storeBuf.map v.op
    walks := now.walks ++ old.walks.map fun w => (v.op w.1, w.2)
    parked := now.parked ++ old.parked.map fun p => { p with op := v.op p.op, answered := true } }

/-- The loop records of a restored context. -/
def Relocation.loop (v : Relocation) (r : LoopRec) : LoopRec :=
  { r with tag := v.tag r.tag, bound := r.bound.map fun b => (v.tile b.1, b.2), exits := r.exits.map v.op
           home := r.home.map v.region }

/-- What stands in its Skein table. -/
def Relocation.spilled (v : Relocation) : Spilled → Spilled
  | .entry t e => .entry (v.tile t) (v.entry e)
  | .reader t w op => .reader (v.tile t) w (v.op op)

/-- The key of a reduction: one at a tile goes with its tile. -/
def Relocation.key (v : Relocation) (key : Word) (pa : Nat) : Word :=
  let k := key.toNat
  if isTileKey key then tileKey (v.tile ⟨dieOf (bits k 34 1), bits k 29 5, bits k 24 5⟩) pa else key

/-- A wait of a restored operation keeps its reason. -/
def Relocation.held (v : Relocation) (h : Held) : Held :=
  { op := v.op h.op, why := match h.why with | .reduction key pa => .reduction (v.key key pa) pa | w => w }

/-- An open reduction. -/
def Relocation.reduction (v : Relocation) (r : Reduction) : Reduction :=
  { r with ctx := v.num, va := v.key r.va r.pa, leaves := r.leaves.map fun l => { l with op := v.op l.op } }

/-- A stopped scatter. -/
def Relocation.scatter (v : Relocation) (x : Scatter) : Scatter := { x with op := v.op x.op }

/-- The idle block contexts of a region. -/
def State.idleBcs (s : State) (r : Nat) : List Nat := (List.range 4).filter fun b => (s.bctx r b).st = .idle

/-- Each block context of an image with an idle one of the region that takes its place, in increasing order; none where a
region has too few (R227). -/
def State.placeBcs (s : State) (regions : List (Nat × Nat)) (used : List (Nat × Nat)) :
    Option (List ((Nat × Nat) × (Nat × Nat))) :=
  used.mapM fun x =>
    let r := lookD x.1 x.1 regions
    let rank := (used.filter fun y => y.1 = x.1 && y.2 < x.2).length
    ((s.idleBcs r)[rank]?).map fun b => (x, (r, b))

/-- No configuration takes a tile that is marked bad, or one of the pager corner (R2). -/
def State.noTile (s : State) (t : TileId) : Bool := s.fuse.contains t || inPagerCorner t

/-- The move of a snapshot into a context's regions; none where a region lacks a tile or a free block context (R227). -/
def State.moveOf (s : State) (i : Snapshot) (c : Ctx) : Option Relocation :=
  let regions := (regionsOf i.ctx.rset).zip (regionsOf c.rset)
  let v : Relocation := ⟨regions, [], i.ctx.num, c.num⟩
  let tiles := i.ctiles.map (·.1) ++ i.mtiles.map (·.1)
  if tiles.any fun t => s.noTile (v.tile t) then none
  else (s.placeBcs regions (i.bcsUsed.map (·.1))).map fun b => { v with bcs := b }

/-- A slot of the array is in use: it keeps its graph (R197). -/
def LaceArray.bound (x : LaceArray) : Bool := x.slots.any (·.st ≠ .free)

/-- A stream of an image fails a check of LRESM in its array: another graph bound there, or its own image (0x285), or too many
configurations or nodes (R197, R211, R215, R227). -/
def State.streamCause (s : State) (x : Nat × Nat × Stream × Option Graph) : Option Nat :=
  let a := s.array x.1
  match x.2.2.2 with
  | none => some 0x285
  | some g =>
    let ws := saveImage g.check x.2.2.1.confs x.2.2.1.pos x.2.2.1.seq
    if a.bound && a.graph.any fun h => h.check ≠ g.check then some 0x285
    else match imageConfs g ws with
      | none => some 0x285
      | some cs => (a.roomFor cs.length (bits (nth 0 ws 4).toNat 32 32)).map (·.1)

/-- A row of a memory tile's section fails the checks of SALOD (R166, R168, R227). -/
def Snapshot.rowsBad (i : Snapshot) (x : Laid) : Bool :=
  match x.tile? i.ctx.rset with
  | none => false
  | some t => (rowsIn t (homeRows (t, lookD MTile.reset t i.mtiles)) x.words).isNone

/-- The cause of a section that fails its check word, by its KIND (R227). -/
def sectionCause (kind : Nat) : Nat := if kind = 0x17 then 0x285 else if kind = 0x16 then 0x2C2 else 0x300

/-- The block contexts of an image take their places. -/
def State.restoreBcs (s : State) (v : Relocation) (i : Snapshot) : State :=
  i.bcsUsed.foldl (fun s b =>
    let x := lookD b.1 b.1 v.bcs
    s.setBctx x.1 x.2 { b.2 with ctx := v.num, held := false, lastFire := s.cycle }) s

/-- A stream returns to its slot, or to a free one of its array, in the state it had; its array holds its graph again (R197,
R215, R227, log 34). -/
def State.restoreStream (s : State) (num : Nat) (x : Nat × Nat × Stream × Option Graph) : State :=
  let a := s.array x.1
  let k := if (nth Stream.reset a.slots x.2.1).st = .free then some x.2.1
    else a.slots.findIdx? fun k => k.st = .free
  match k with
  | some k => s.setArray x.1 { a with
      graph := if a.bound then a.graph else x.2.2.2, slots := setNth a.slots k { x.2.2.1 with ctx := num } }
  | none => s

/-- The first check that sections fail, in order: header and check word, the rows of SACC tiles, and each Lace stream in the
array as those before it leave it (R211, R227, R310). -/
def State.sectionsCause (s : State) (i : Snapshot) (num : Nat) :
    List Laid → List (Nat × Nat × Stream × Option Graph) → Option Nat
  | [], _ => none
  | x :: l, ys =>
    if !x.good then some (sectionCause x.kind)
    else if x.misplaced i.ctx.rset then some 0x300
    else match x.kind, ys with
      | 0x12, _ => if i.rowsBad x then some 0x244 else s.sectionsCause i num l ys
      | 0x17, [] => some 0x285
      | 0x17, y :: ys => (s.streamCause y).or ((s.restoreStream num y).sectionsCause i num l ys)
      | _, _ => s.sectionsCause i num l ys

/-- The first check that an image's sections fail, and last too few free slots for its streams (R211, R227, R310). -/
def State.imageCause (s : State) (i : Snapshot) (num : Nat) : Option Nat :=
  (s.sectionsCause i num (laidOut i.words) i.streams).or
    (if i.streams.any fun x =>
        ((s.array x.1).slots.filter (·.st = .free)).length < (i.streams.filter (·.1 = x.1)).length then some 0x301
      else none)

/-- The operations of a context return to their arrays, and the records that a full FIFO tile held back to theirs (R213,
R215). -/
def State.restoreLace (s : State) (v : Relocation) (i : Snapshot) : State :=
  let s := i.laceOps.foldl (fun s x =>
    let a := s.array x.1
    s.setArray x.1 { a with ops := a.ops ++ [{ x.2 with op := v.op x.2.op }] }) s
  i.laceOut.foldl (fun s x =>
    let a := s.array (x.1 / 16)
    let was := (i.streams.find? fun y => 16 * y.1 + y.2.1 = x.1).map (·.2.2.1)
    let k := a.slots.findIdx? fun y => y.st != .free && y.ctx = v.num && was.any fun z => z.bid = y.bid && z.hctx = y.hctx
    s.setArray (x.1 / 16) { a with out := a.out ++ x.2, last := if a.out = [] then k.getD a.last else a.last }) s

/-- A deferred read of main memory is read again: its word may have become full since, and its page may have moved (R110,
R311). -/
def State.restoreReader (s : State) (op : Issued) : State :=
  let r := siteRegion op.site
  s.setRegion r { s.region r with parked := (s.region r).parked ++ [⟨op, op.ta.word.toNat, true⟩] }

/-- Tokens are re-injected into their tiles' ingress queues (R227). -/
def State.reinject (s : State) (qs : List Parcel) : State :=
  qs.foldl (fun s q => let c := s.ctile q.tile; s.setCtile q.tile { c with ingress := c.ingress ++ [q] }) s

/-- A restored context: its state returns, the words of its circuits in their channels, then SINK and ingress tokens are
re-injected. Its deferred reads of main memory issue again (R227, R311). -/
def State.restore (s : State) (v : Relocation) (i : Snapshot) (launch : Nat) : State :=
  let s := i.ctiles.foldl (fun s c => s.setCtile (v.tile c.1) (v.ctile (s.ctile (v.tile c.1)) c.2)) s
  let s := i.mtiles.foldl (fun s m => s.setMtile (v.tile m.1) (v.mtile (s.mtile (v.tile m.1)) m.2)) s
  let s := i.regions.foldl (fun s g => s.setRegion (v.region g.1) (v.part (s.region (v.region g.1)) g.2)) s
  let s := s.restoreBcs v i
  let s := (i.streams.foldl (fun s x => s.restoreStream v.num x) s).restoreLace v i
  let s := { s with
    reds := s.reds ++ i.reds.map v.reduction
    scatters := s.scatters ++ i.scatters.map v.scatter
    held := s.held ++ i.held.map v.held }
  let s := i.readers.foldl (fun s x => s.restoreReader (v.op x.2)) s
  let s := s.mapCtx launch fun c =>
    { c with program := i.ctx.program, seeds := i.ctx.seeds, loops := i.ctx.loops.map v.loop, former := i.ctx.former.map v.loop
             skein := i.ctx.skein.map v.spilled
             entered := i.ctx.entered.map fun (e : TileId × Nat × Word) => (v.tile e.1, e.2.1, v.tag e.2.2)
             sections := i.ctx.sections }
  s.reinject ((i.mtiles.flatMap fun m => m.2.sink.map v.parcel) ++ i.ctiles.flatMap fun c =>
    (c.2.ingress ++ c.2.own).map v.parcel)

end Sys2Proof.Machine
end

