-- ==== Sys2Proof/Machine/Contexts.lean ====
section
/-!
DEFINITION. The events of contexts: the region arbiter grants and loads launches (R50, R80, R218, R286, R310), seeds are
injected (R49), markers arrive and elements become quiet (R221 to R224, R227 to R229), and records enter event queues
(R205, R230).
-/

namespace Sys2Proof.Machine

/- The arbiter. -/

/-- The effective priority of a waiting launch (R218). -/
def Ctx.effective (c : Ctx) (now : Nat) : Nat := min 7 (c.prio + (now - c.arrival) / 2 ^ 20)

/-- The waiting launches, the head first (R218). -/
def State.arbiterOrder (s : State) : List Ctx :=
  sortBy (fun a b => b.effective s.cycle < a.effective s.cycle
      || (a.effective s.cycle = b.effective s.cycle && a.arrival < b.arrival))
    (s.ctxs.filter fun c => c.st = .waiting && !c.stopAfter)

/-- The lowest number from `k` that is not in use; `fuel` bounds the search. -/
def lowestFrom (used : List Nat) : Nat → Nat → Nat
  | 0, k => k
  | fuel + 1, k => if used.contains k then lowestFrom used fuel (k + 1) else k

/-- The lowest free context number, 1 to 4,095 (R218). -/
def State.freeNum (s : State) : Option Nat :=
  let used := (s.ctxs.filter fun c => c.st != .waiting && c.st != .ended).map (·.num)
  let k := lowestFrom used (used.length + 1) 1
  if k < 4096 then some k else none

/-- A launch can be granted: a program context needs no shadow plane (R50, R218). -/
def State.grantable (s : State) (c : Ctx) : Bool :=
  s.freeNum.isSome
    && (c.program || (regionsOf c.rset).all fun r =>
      (s.region r).shadow.isNone && (s.region r).reserved.isNone && !s.loadingSet.testBit r)

/-- The launch that is granted next: the head, or one whose set is disjoint from the head's (R218). -/
def State.nextGrant (s : State) : Option Ctx :=
  match s.arbiterOrder with
  | [] => none
  | h :: l => if s.grantable h then some h else l.find? fun c => h.rset &&& c.rset = 0 && s.grantable c

/-- Grant a launch: its shadow planes are reserved and it gets its number (R218, R287). -/
def State.grant (s : State) (c : Ctx) : State :=
  match s.freeNum with
  | none => s
  | some n =>
    let s := s.mapCtx c.launch fun c => { c with num := n, st := .loading }
    if c.program then s
    else (regionsOf c.rset).foldl (fun s r => s.setRegion r { s.region r with reserved := some n }) s

/-- A load fails after the grant: its record goes to the home tile, the launching block stops, the host is told, and the
context ends (R189, R286). -/
def State.failLaunch (s : State) (c : Ctx) (cause : Nat) (addr detail : Word) : State :=
  let tag := match c.req with | some op => op.tag | none => 0
  let block := c.req.bind Issued.inBlock
  let f : Flt := ⟨cause, .loader c.home, c.num, tag, addr, detail, block.isSome, c.host.isSome⟩
  let s := s.takeFault f
  let s := match c.host with
    | some h => if hostCopied f then s else s.sendCompl h c.home 1 c.launch cause detail
    | none => s
  let s := match block with | some (r, bc) => s.stopBlock r bc | none => s
  (s.endCtx c.launch false).endPrograms

/-- Registers as an entry section names them; every other is zero (R80). DESIGN CHOICE: of two pairs that name one register the
later stands, of which the spec says nothing (log 83). -/
def entryG (regs : List (Nat × Word)) : List Word :=
  regs.foldl (fun g r => setNth g r.1 r.2) (List.replicate 64 0)

/-- An entry block starts in the lowest idle block context of its region (R80). -/
def State.startEntry (s : State) (n : Nat) (e : Nat × Word × List (Nat × Word)) : State :=
  match s.idleBcs e.1 with
  | [] => s
  | b :: _ => s.setBctx e.1 b { BlockCtx.reset with st := .fetch e.2.1, ctx := n, g := entryG e.2.2, lastFire := s.cycle }

/-- Some region with entry sections has too few idle block contexts (R80). DESIGN CHOICE: an image with two entry sections of one
region, which R21 bars in source alone, starts a block context for each (log 83). -/
def State.entriesBusy (s : State) (es : List (Nat × Word × List (Nat × Word))) : Bool :=
  es.any fun e => (s.idleBcs e.1).length < (es.filter fun x => x.1 = e.1).length

/-- The context runs, and its launcher hears of it (R49, R192, R286). -/
def State.started (s : State) (launch : Nat) : State :=
  let s := s.mapCtx launch fun c => { c with st := .running }
  match s.launched? launch with
  | none => s
  | some c =>
    let s := match c.host with | some h => s.sendCompl h c.home 0 launch 0 0 | none => s
    match c.req with
    | none => s
    | some op => (s.mapCtx launch fun c => { c with req := none }).emitWord op op.niw (word launch) true

/-- A program load (R50, R80): none where it must wait for a page. -/
def State.loadProgram (s : State) (c : Ctx) (img : Image) : Res State :=
  if img.rset ≠ c.rset then .fault 0x300 1 0
  else if img.entries.any fun e => !(c.rset.testBit e.1) then .fault 0x300 0 0
  else if s.entriesBusy img.entries then .fault 0x301 0 0
  else (s.writeSections c img true).bind fun s =>
    let s := s.mapCtx c.launch fun c => { c with sys := img.sys, sections := img.sections }
    .ok ((img.entries.foldl (fun s e => s.startEntry c.num e) s).started c.launch)

/-- The seed table is what LAUNCH names, and every seed has its node (R286). -/
def seedsOk (c : Ctx) (img : Image) : Bool :=
  img.seeds.length = c.k
    && img.seeds.all fun x => seedFits (img.ctiles.map fun t => (t.1, t.2.1)) c.rset img.widths x

/-- Regions without an active configuration swap at once (R218). -/
def State.swapEmpty (s : State) (rset : Nat) : State :=
  ((regionsOf rset).filter fun r => (s.region r).activeCtx.isNone).foldl State.doSwap s

/-- A fabric load of a launch (R50, R251, R286). -/
def State.loadLaunch (s : State) (c : Ctx) (img : Image) : Res State :=
  if img.rset ≠ c.rset then .fault 0x300 1 0
  else
    let c := { c with sys := img.sys }
    (s.loadFabric c img c.rset false).bind fun t =>
      if c.image.isNone && !seedsOk c img then .fault 0x304 0 0
      else .ok ((t.mapCtx c.launch fun x => { x with sys := img.sys, seeds := img.seeds }).swapEmpty c.rset)

/-- The tiles that a restore moves onto one that no configuration takes (R2, R227). -/
def State.badFor (s : State) (v : Relocation) : List TileId :=
  (v.regions.flatMap fun r => tilesOf r.1).filter fun t => s.noTile (v.tile t)

/-- The load of a restore: room for what the image uses, then the descriptor's IMG with the checks of R251, of which a section
for a tile that moves onto a bad one is rejected (R2), then the image's own sections in order (R227, R310). -/
def State.loadRestore (s : State) (c : Ctx) (id : Nat) : Res State :=
  match s.images.find? (·.id = id) with
  | none => .fault 0x300 8 0
  | some i =>
    match s.moveOf i c with
    | none => .fault 0x301 0 0
    | some v =>
      ({ s with fuse := s.badFor v }.readImage (s.imageSource c) (s.mayLoadSystem c) c.img.toNat).bind fun img =>
        (s.loadLaunch c (v.image img)).bind fun t =>
          match s.imageCause i c.num with
          | some cause => .fault cause 0 0
          | none => .ok t

/-- Load a granted launch. -/
def State.loadGranted (s : State) (c : Ctx) : Res State :=
  match c.image with
  | some id => s.loadRestore c id
  | none =>
    (s.readImage (s.imageSource c) (s.mayLoadSystem c) c.img.toNat).bind fun img =>
      if c.program then s.loadProgram c img else s.loadLaunch c img

/-- A granted launch whose load has not ended: no plane of it is in place. -/
def State.unloaded (s : State) (c : Ctx) : Bool :=
  c.st = .loading && !((regionsOf c.rset).any fun r =>
    (s.region r).activeCtx = some c.num || (s.region r).shadow.any (·.ctx = c.num))

/-- The load goes on, fails, or waits for the pager (R121, R286). -/
def State.tryLoad (s : State) (c : Ctx) : State :=
  match s.loadGranted c with
  | .ok s => s
  | .fault cause a d => s.failLaunch c cause a d
  | .miss va => s.askPager c.num va c.home

/-- ARBITER_GRANT: one launch is granted, and every granted launch goes on with its load (R218, R286). -/
def execArbiterGrant (s : State) : Out :=
  let s := match s.nextGrant with | some c => s.grant c | none => s
  .next ((s.ctxs.filter s.unloaded).foldl (fun s c => s.tryLoad c) s).endPrograms

/-- Every region of a loading context runs its configuration (R49). -/
def State.configured (s : State) (c : Ctx) : Bool :=
  c.st = .loading && !c.program && (regionsOf c.rset).all fun r => (s.region r).activeCtx = some c.num

/-- SEED_INJECTION: the seeds of a launch are injected, or an image is restored, and the context runs (R49, R310). -/
def execSeedInjection (n : Nat) (s : State) : Out :=
  match s.ctx? n with
  | none => .next s
  | some c =>
    if !s.configured c then .next s
    else match c.image with
      | none => .next ((s.injectSeeds c.launch n c.seeds).started c.launch)
      | some id =>
        match (s.images.find? (·.id = id)).bind fun i => (s.moveOf i c).map fun v => (i, v) with
        | none => .next (s.failLaunch c 0x301 0 0)
        | some (i, v) =>
          match s.imageCause i n with
          | some cause => .next (s.failLaunch c cause 0 0)
          | none => .next ((s.restore v i c.launch).started c.launch)

/- Markers. -/

/-- A block context stops at the marker: a block that has performed something irrevocable runs on until it commits; any
other is discarded, to be fetched again (R224). -/
def State.markBlock (s : State) (r bc : Nat) : State :=
  let x := s.bctx r bc
  match x.st with
  | .run b =>
    if b.fixed then s.setBctx r bc { x with held := true }
    else
      let s := s.dropBlockOps r bc true
      s.setBctx r bc { x with st := .fetch b.addr, held := true }
  | .fetch _ => s.setBctx r bc { x with held := true }
  | .idle | .stopped => s

/-- The tiles that the routes of a plane of a tile name: its neighbours and the tiles of this module that its packets go to
(R54, R223). -/
def CPlane.reaches (p : CPlane) (t : TileId) : List TileId :=
  (p.routes.filterMap fun e =>
    let v := e.toNat
    match routeKind e with
    | 1 => neighbour t (bits v 20 2)
    | 2 => if v.testBit 1 then none else some ⟨dieOf (bits v 21 1), bits v 16 5, bits v 11 5⟩
    | _ => none).eraseDups.filter (· ≠ t)

/-- The destinations of a compute tile's route table. -/
def State.reachedFrom (s : State) (n : Nat) (t : TileId) : List TileId :=
  match (s.ctile t).active with
  | some p => if p.ctx = n then p.reaches t else []
  | none => []

/-- The sources of an element: the compute tiles of a context whose routes name it (R223). -/
def State.sourcesOf (s : State) (n : Nat) (t : TileId) : List TileId :=
  (s.ctiles.filter fun (x : TileId × CTile) => (s.reachedFrom n x.1).contains t).map (·.1)

/-- A frozen compute tile sends a marker flit to each destination of its route table, with the round and the tokens of the
context that it has sent there (R223). -/
def State.sendMarks (s : State) (n round : Nat) (t : TileId) : State :=
  (s.reachedFrom n t).foldl (fun s d =>
    let k := lookD 0 (n, d) (s.ctile t).sent % 2 ^ 32
    s.inject t d 5 (.marker n t k) [word (n + round * 2 ^ 32), word k]) s

/-- An element acts on the marker (R222, R223). -/
def State.freezeAt (s : State) (n round : Nat) (el : Element) : State :=
  match el with
  | .tile t =>
    if isCompute t then
      let c := s.ctile t
      (s.setCtile t { c with frozen := addNew c.frozen n }).sendMarks n round t
    else s
  | .block r bc => s.markBlock r bc
  | .port _ | .carder _ | .lace _ => s

/-- The MARKs that wait for the delivery of a round emit it (R294). -/
def State.tellMarked (s : State) (ln round : Nat) : State :=
  let mine (h : Held) : Bool := h.why = .delivery ln round
  let hs := s.held.filter mine
  hs.foldl (fun s h => s.emitWord h.op h.op.niw (word round) true) { s with held := s.held.filter (!mine ·) }

/-- MARKER_DELIVERY (R221, R222). -/
def execMarkerDelivery (n : Nat) (el : Element) (s : State) : Out :=
  match s.ctx? n with
  | none => .next s
  | some c =>
    if c.st != .freezing || !(c.markers.contains el) then .next s
    else
      let s := (s.mapCtx c.launch fun c => { c with markers := c.markers.filter (· ≠ el) }).freezeAt n c.round el
      if c.markers.all (· = el) then .next (s.tellMarked c.launch c.round) else .next s

/- Quiet. -/

/-- The marker of each source of an element has arrived (R223). -/
def State.sourcesMarked (s : State) (n : Nat) (t : TileId) : Bool :=
  (s.sourcesOf n t).all fun v => (look (n, v) (s.ctile t).marks).isSome

/-- The tokens received from each source of a compute tile equal the count that the source's marker brought (R223). -/
def State.countsAgree (s : State) (n : Nat) (t : TileId) : Bool :=
  let u := s.ctile t
  (s.sourcesOf n t).all fun v => look (n, v) u.marks = some (lookD 0 (n, v) u.rcvd % 2 ^ 32)

/-- An array's next record finds the FIFO tile of a context that comes to rest full: the array stands still, and what it holds
is saved (R206, R215). -/
def State.laceStuck (s : State) (a : Nat) : Bool :=
  match (s.array a).out with
  | .fifo t _ :: _ => !((s.mtile t).fifoRoom)
      && (((s.mtile t).active.bind fun p => s.ctx? p.ctx).any fun c => c.st = .freezing || c.st = .frozen || c.st = .stopped)
  | _ => false

/-- The requests of an issuer have replied, or are parked or deferred; a transfer of an endpoint and a MARK still wait for their
answer (R223, R311). -/
def State.requestsDone (s : State) (mine : Issued → Bool) : Bool :=
  let carried (c : Cargo) : Bool := match c with
    | .request op | .post op | .reply op _ => mine op
    | _ => false
  let answered (w : Wait) : Bool := match w with
    | .transfer _ _ _ | .delivery _ _ => true
    | _ => false
  !(s.regions.any fun (x : Nat × Region) => x.2.walks.any (mine ·.1)) && !(s.issue.any mine)
    && !(s.allFlits.any (carried ·.cargo)) && !(s.ctiles.any fun (x : TileId × CTile) => x.2.reasm.any (carried ·.cargo))
    && !(s.regions.any fun (x : Nat × Region) => x.2.requests.any mine)
    && !(s.lace.any fun (x : Nat × LaceArray) => !(s.laceStuck x.1) && x.2.ops.any fun o => mine o.op && !o.away)
    && !(s.held.any fun h => mine h.op && (s.waitOver h || answered h.why))
    && !(s.regions.any fun (x : Nat × Region) => x.2.inbound.any fun i => i.op.any mine)

/-- A slot of mesh carriage that no count covers is still on its way to a tile (R186, R228). -/
def State.slotUnderWay (s : State) (t : TileId) : Bool := s.allFlits.any fun f => f.isToken && f.dst = t && f.cargo = .bits

/-- A compute tile of a context is quiet: a marker from each source has arrived, the counts agree, no slot of mesh carriage is
on its way to it, its requests have replied, and its own entries of R222 have finished (R223, R228). -/
def State.tileQuiet (s : State) (c : Ctx) (t : TileId) : Bool :=
  let u := s.ctile t
  let mine (q : Parcel) : Bool := tagCtx q.tok.tag = c.num
  s.sourcesMarked c.num t && s.countsAgree c.num t
    && !(u.own.any mine) && (!(u.stream.any mine) || 64 ≤ u.ingress.length)
    && !(u.mma.any (·.ctx = c.num)) && !(s.slotUnderWay t)
    && s.requestsDone fun op => op.ctx = c.num && op.site = .tile t

/-- The operations and records of a context at a Lace array have ended, or the array stands still (R215). -/
def State.laceQuiet (s : State) (n a : Nat) : Bool :=
  let x := s.array a
  s.laceStuck a || (!(x.ops.any fun o => o.op.ctx = n && !o.away) && (x.out = [] || (x.slot x.last).ctx ≠ n))

/-- An operation of a block context, of the block that it runs or of one before. -/
def Issued.fromBlock (op : Issued) (r bc : Nat) : Bool :=
  match op.site with
  | .block r' b' _ => r' = r && b' = bc
  | .tile _ => false

/-- An element of a context is quiet (R222, R223). The last one is so only while no Lace array has the context's work again,
which a block may have brought it since (R214). -/
def State.quietAt (s : State) (c : Ctx) (el : Element) : Bool :=
  !(c.markers.contains el) && (!(c.quiet.all (· = el)) || (List.range 8).all (s.laceQuiet c.num)) &&
  match el with
  | .tile t =>
    if isCompute t then s.tileQuiet c t
    else s.sourcesMarked c.num t
      && !((s.mtile t).waiting.any fun op => op.ctx = c.num && (s.mtile t).serves op
        && (!(isCountWait op) || countReached (s.mtile t) t op))
  | .block r bc => (match (s.bctx r bc).st with
      | .run _ => false
      | .idle | .fetch _ | .stopped => true)
    && !(s.held.any fun h => (match h.why with | .page _ => true | _ => false) && h.op.fromBlock r bc)
    && s.requestsDone fun op => op.ctx = c.num && op.fromBlock r bc
  | .port r =>
    let g := s.region r
    !(g.storeBuf.any fun op => op.ctx = c.num && s.mayPerform op (isStoreOpc op.opc))
      && !(g.walks.any (·.1.ctx = c.num))
  | .carder _ => true
  | .lace a => s.laceQuiet c.num a

/-- The node at the other end of a port. -/
def State.peer (s : State) (p : Nat) : Nat := (look p s.tables.peers).getD 0

/-- Every port to a module that is up has brought a gang's marker of a round (R228); a host sends none (R5, log 72). -/
def State.portsMarked (s : State) (gang round : Nat) : Bool :=
  (List.range 16).all fun p => !(s.port p).up || 4096 ≤ s.peer p || (s.port p).marked.contains (gang, round)

/-- The gang marker goes out on every port (R228). -/
def State.sendMarkers (s : State) (gang round : Nat) : State :=
  (List.range 16).foldl (fun s p => s.sendLink p (.marker gang round)) s

/-- The node of a gang's leader (R228). -/
def State.leaderOf (s : State) (gang : Nat) : Nat :=
  (s.tables.gangs.filter (·.1.1 = gang)).foldl (fun m x => min m x.2) s.node

/-- The home tile of a context reports its round to the issuer's queue; a gang member elsewhere reports to the leader's
module, whose home tile stands in the same region (R223, R229, log 35). -/
def State.sendRound (s : State) (c : Ctx) : State :=
  let src := 0x8000 + c.home
  match c.issuer with
  | some r =>
    let (k, s) := s.takeSeq src
    s.postRecord r (.marker src k c.round c.num c.launch) none
  | none =>
    if !c.gangMark then s
    else
      let (k, s) := s.takeSeq src
      match s.portOf (s.leaderOf c.gang) with
      | none => s
      | some p =>
        let f := flitsOf (firstTile c.home) (firstTile c.home) 0 3 .bits
          (recordWords (.marker src k c.round c.num c.launch))
        s.sendLink p (.mesh (f.map fun f => (s.leaderOf c.gang, f)))

/-- A frozen context reports its round, once, a gang's member when its module has switched (R223, R228, R229). -/
def State.report (s : State) (c : Ctx) : State :=
  if c.gangMark && !(s.portsMarked c.gang c.round) then s
  else (s.sendRound c).mapCtx c.launch fun c => { c with issuer := none, gangMark := false }

/-- The last element is quiet: the context is Frozen or Stopped, reports, and ends where it must (R189, R223, R233). -/
def State.frozenNow (s : State) (c : Ctx) : State :=
  let s := s.mapCtx c.launch fun c => { c with st := if c.stopAfter then .stopped else .frozen, quiet := [] }
  let s := if c.gangMark then s.sendMarkers c.gang c.round else s
  let s := s.report c
  if c.endAfter then (s.endCtx c.launch true).endPrograms else s

/-- ELEMENT_QUIET (R223). -/
def execElementQuiet (n : Nat) (el : Element) (s : State) : Out :=
  match s.ctx? n with
  | none => .next s
  | some c =>
    if c.st != .freezing || !(c.quiet.contains el) || !(s.quietAt c el) then .next s
    else if c.quiet.all (· = el) then .next (s.frozenNow c)
    else .next (s.mapCtx c.launch fun c => { c with quiet := c.quiet.filter (· ≠ el) })

/- Event queues. -/

/-- A queue takes a record, or drops a fault record that finds it full (R230, log 40). -/
def takes? (q : List Record) : Record → Bool
  | .fault _ _ _ _ _ _ _ _ _ _ _ _ _ => true
  | .post _ _ _ _ _ _ _ _ | .lace _ _ _ _ _ _ => queueSize q < 240
  | .marker _ _ _ _ _ => queueSize q < 256

/-- Put a record into a region's queue; a fault record that finds fewer than two free entries is dropped and counted
(R230). -/
def Region.enqueue (g : Region) (x : Record) : Region :=
  if queueSize g.queue + x.size ≤ 256 then { g with queue := g.queue ++ [x] }
  else { g with drop := min (2 ^ 32 - 1) (g.drop + 1) }

/-- The first array whose oldest outstanding record is an event for a region's queue. -/
def State.laceEvent (s : State) (r : Nat) : Option (Nat × Record × List LaceOut) :=
  (List.range 8).findSome? fun a => match (s.array a).out with
    | .event k x :: l => if k = r then some (a, x, l) else none
    | _ => none

/-- EVENT_RECORD_ENQUEUE: the first record that the queue can take, of those that wait, then of the Lace arrays; EVPOST's
completion follows its acceptance (R205, R230, R260). -/
def execEventRecordEnqueue (r : Nat) (s : State) : Out :=
  let g := s.region r
  match takeFirst (fun (i : Inbound) => takes? g.queue i.record) g.inbound with
  | some (i, rest) =>
    let s := s.setRegion r ({ g with inbound := rest }.enqueue i.record)
    match i.op with
    | none => .next s
    | some op => .next (s.emitWord op op.niw (completion 1 (eventScope (siteRegion op.site) r) false 0) true)
  | none =>
    match s.laceEvent r with
    | none => .next s
    | some (a, x, l) =>
      if !(takes? g.queue x) then .next s
      else .next (((s.setRegion r (g.enqueue x)).setArray a { s.array a with out := l }).laceGo a)

end Sys2Proof.Machine
end

