-- ==== Sys2Proof/Machine/Blocks.lean ====
section
/-!
DEFINITION. The events of block contexts: fetching and checking a block (R43, R56, R57, R247), its commit (R45, R130, R246,
R278, R279, R281), and the stall limit (R45).
-/

namespace Sys2Proof.Machine

/- Fetching. -/

/-- The first address of the code windows, and where they end (R247). -/
def codeBase : Nat := 0x007FFF0000000000

/-- Where a block's bytes stand: pieces of main memory, or a range of a CODE tile (R247). -/
inductive CodeAt where
  | main (pieces : List (Nat × Nat))
  | tile (t : TileId) (off : Nat)
  deriving DecidableEq, Repr

/-- Find `n` bytes of code at a virtual address for a control tile: its own code window is not translated (R247). -/
def State.codeAt (s : State) (r root : Nat) (system : Bool) (va n : Nat) : Res CodeAt :=
  if codeBase ≤ va ∧ va < codeBase + 42 * 2 ^ 24 then
    let o := va - codeBase
    let t := memTile r (o / 2 ^ 20 % 16)
    if o / 2 ^ 24 ≠ r then .fault 0x103 (word va) 0
    else if (s.mtile t).mode? ≠ some 5 ∨ 2 ^ 20 < o % 2 ^ 20 + n then .fault 0x340 (word va) 0
    else .ok (.tile t (o % 2 ^ 20))
  else match addrCause system va n 64 with
    | some c => .fault c (word va) 0
    | none => (s.walkPieces root .exec (piecesOf va n)).bind fun ps => .ok (.main ps)

/-- The words of code. -/
def State.codeWords (s : State) (n : Nat) : CodeAt → List Word
  | .main ps => wordsOf n (s.readPieces ps)
  | .tile t off => wordsOf n (s.readBank t off (8 * n))

/-- The head bits of the lines that code takes (R67). -/
def State.codeHeads (s : State) (lines : Nat) : CodeAt → List Bool
  | .main ps => (List.range lines).map fun k => match ps[8 * k]? with
      | some p => s.main.heads.contains (p.1 / 64)
      | none => false
  | .tile t off => (List.range lines).map fun k => (s.mtile t).heads.contains (off / 64 + k)

/-- The first instruction that fails a check, with its number and cause (R43). -/
def firstBad (ins : List Word) (nc : Nat) : Nat → List Word → Option (Nat × Nat)
  | _, [] => none
  | k, w :: ws => match blockWordCause ins nc w with
    | some c => some (k, c)
    | none => firstBad ins nc (k + 1) ws

/-- A canonical address outside the code windows that the table maps to a line without a head bit (R247, log 41). -/
def State.headless (s : State) (root va : Nat) : Bool :=
  (bits va 55 9 = 0 || bits va 55 9 = 511) && !(codeBase ≤ va && va < codeBase + 42 * 2 ^ 24) &&
    match s.walk root va with
    | .page base _ leaf => !(s.main.heads.contains ((leafBase leaf + (va - base)) / 64))
    | .fault _ | .park => false

/-- The block at an address, checked in the order of R43, R57 and R247; a fault with its ADDR (R43, log 41). -/
def State.readBlock (s : State) (r : Nat) (c : Ctx) (va : Nat) : Res Block :=
  if va % 64 ≠ 0 || s.headless c.root va then .fault 0x340 (word va) 0
  else (s.codeAt r c.root c.sys va 64).bind fun line =>
    if !((s.codeHeads 1 line).any (·)) then .fault 0x340 (word va) 0
    else
      let head := s.codeWords 8 line
      let h := nth 0 head 0
      let ni := headNi h
      let nc := headNc h
      if headBad h then .fault 0x345 (word va) 0
      else
        let lines := (2 + ni + nc + 7) / 8
        (s.codeAt r c.root c.sys va (64 * lines)).bind fun code =>
          let ws := s.codeWords (8 * lines) code
          let ins := (ws.drop 2).take ni
          let wm := nth 0 ws 1
          match firstBad ins nc 0 ins with
          | some (k, cause) => .fault cause (word (if cause = 0x203 then va else va + 8 * (2 + k))) 0
          | none =>
            match contentCause h wm ins with
            | some cause => .fault cause (word va) 0
            | none =>
              if ((s.codeHeads lines code).drop 1).any (·) then .fault 0x345 (word va) 0
              else .ok {
                addr := word va, ins := ins, cons := (ws.drop (2 + ni)).take nc, sm := headSm h, wm := wm.toNat
                mode := Mode.ofWord c.mode, toks := [], fired := [], doneS := 0, doneW := 0, exit := none, stores := []
                writes := [], hin := [], fixed := false }

/-- A block context stops with a fault of its own (R43, R45). -/
def State.blockFault (s : State) (r bc cause : Nat) (addr detail : Word) : State :=
  let n := (s.bctx r bc).ctx
  ((s.takeFault ⟨cause, .control r, n, ctxTag n, addr, detail, true, false⟩).stopBlock r bc).endPrograms

/-- Stores that a commit has released and that are not yet performed: an endpoint's acknowledgement or an entry of a
combine store is awaited (R130, R190, R307). -/
def State.storesPending (s : State) (r bc : Nat) : Bool :=
  s.held.any fun h => h.op.released && isStoreOpc h.op.opc && match h.op.site with
    | .block r' b' _ => r' = r && b' = bc
    | .tile _ => false

/-- BLOCK_FETCH (R43, R247). A fetch whose page is not present waits for the pager. -/
def execBlockFetch (r bc : Nat) (s : State) : Out :=
  let x := s.bctx r bc
  match x.st, s.ctx? x.ctx with
  | .fetch va, some c =>
    if x.held || s.storesPending r bc then .next s
    else match s.readBlock r c va.toNat with
      | .miss a => .next (s.askPager c.num a r)
      | .fault cause a d => .next (s.blockFault r bc cause a d)
      | .ok b => .next (s.setBctx r bc { x with st := .run b, lastFire := s.cycle })
  | _, _ => .next s

/- Committing. -/

/-- The waiting operations of a block outlive it. -/
def State.detachOps (s : State) (r bc : Nat) : State :=
  let go (op : Issued) : Issued := if op.inBlock = some (r, bc) then op.detach else op
  let muted (o : LaceOp) : LaceOp := if o.op.inBlock = some (r, bc) then { o with op := go o.op, mute := true } else o
  let g := s.region r
  let s := s.setRegion r { g with walks := g.walks.map fun w => (go w.1, w.2)
                                  parked := g.parked.map fun p => { p with op := go p.op } }
  { s with
    held := s.held.map fun h => { h with op := go h.op }
    lace := s.lace.map fun (x : Nat × LaceArray) => (x.1, { x.2 with ops := x.2.ops.map muted })
    main := { s.main with readers := s.main.readers.map fun (x : Nat × Issued) => (x.1, go x.2) }
    regions := s.regions.map fun (x : Nat × Region) =>
      (x.1, { x.2 with inbound := x.2.inbound.map fun i => { i with op := i.op.map go } })
    ctxs := s.ctxs.map fun c => { c with req := c.req.map go } }

/-- The positions of the endpoints advance by the block's HIN bytes (R281). -/
def State.moveHins (s : State) (num : Nat) (hs : List (Nat × Nat × Nat)) : State :=
  hs.foldl (fun s h => s.moveEndpoint num h.2.1 h.2.2) s

/-- G0 to G63 after the register writes (R278). -/
def writeG (g : List Word) (ws : List (Nat × Word)) : List Word := ws.foldl (fun g w => setNth g w.1 w.2) g

/-- The block context after its block's exit: where it goes on, and its return stack (R246, R279). -/
def BlockCtx.exitTo (x : BlockCtx) : Exit → BlockCtx
  | .to t => { x with st := .fetch t }
  | .call t ret => { x with st := .fetch t, stack := (ret :: x.stack).take 16 }
  | .ret t => { x with st := .fetch t, stack := x.stack.drop 1 }
  | .halt => { x with st := .idle, stack := [] }

/-- Every store, register and exit is counted (R45). -/
def Block.complete (b : Block) : Bool := b.doneS = b.sm && b.doneW = b.wm && b.exit.isSome

/-- The commit: HIN positions, stores in LSID order, registers, exit (R45, R130, R246, R278, R279, R281). -/
def State.commit (s : State) (r bc : Nat) (b : Block) (e : Exit) : State :=
  let s := (s.detachOps r bc).moveHins (s.bctx r bc).ctx b.hin
  let x := s.bctx r bc
  let s := s.setBctx r bc ({ x with g := writeG x.g b.writes, commits := x.commits + 1 }.exitTo e)
  (s.performAll (heldBelow b 32)).endPrograms

/-- BLOCK_COMMIT (R45). A held store whose page is not present keeps it waiting for the pager. -/
def execBlockCommit (r bc : Nat) (s : State) : Out :=
  match s.block? r bc with
  | none => .next s
  | some b =>
    match b.exit with
    | none => .next s
    | some e =>
      if !b.complete then .next s
      else match s.heldMiss (heldBelow b 32) with
        | some va => .next (s.askPager (s.bctx r bc).ctx va r)
        | none => .next (s.commit r bc b e)

/-- The bits of a map that are not in another. -/
def missing (all done n : Nat) : Nat := (setBits all n).foldl (fun m k => if done.testBit k then m else m + 2 ^ k) 0

/-- BLOCK_STALL_TIMEOUT: 65,536 cycles without firing (R45, R85). -/
def execBlockStallTimeout (r bc : Nat) (s : State) : Out :=
  match s.block? r bc with
  | none => .next s
  | some b =>
    if s.cycle < (s.bctx r bc).lastFire + 65536 then .next s
    else .next (s.blockFault r bc 0x341 (word (missing b.wm b.doneW 64))
      (word (missing b.sm b.doneS 32 + b.exit.isSome.toNat * 2 ^ 32)))

end Sys2Proof.Machine
end

