-- ==== Sys2Proof/Machine/PagerEvents.lean ====
section
/-!
DEFINITION. The region memory ports on a translation-cache miss (R122) and the pager corner: faults, frames and migration
(R118, R123, R125).
-/

namespace Sys2Proof.Machine

/- Parking. -/

/-- An operation parks: its operands take an entry again. One that finds no room for it is dropped, at a Lace array too
(R122). -/
def State.parkOp (s : State) (r : Nat) (op : Issued) (va : Nat) : State :=
  s.reenter op (fun s =>
    let g := s.region r
    (s.setRegion r { g with parked := g.parked ++ [⟨op, va, false⟩] }).askPager op.ctx va r) (·.laceForget op)

/-- PAGE_WALK: the first access that missed is answered by the table: the cache is filled, or the access runs again with
its fault, or it parks (R120, R122). -/
def execPageWalk (r : Nat) (s : State) : Out :=
  let g := s.region r
  match s.issue, g.walks with
  | none, (op, va) :: rest =>
    let s := s.setRegion r { g with walks := rest }
    let root := match s.ctx? op.ctx with | some c => c.root | none => 0
    match s.walk root va with
    | .page base size leaf => .next { s.tcFill r op.ctx base size leaf with issue := some op }
    | .fault c => .next { s with issue := some { op with walk := some (c, va) } }
    | .park => .next (s.parkOp r op va)
  | _, _ => .next s

/-- An operation's context is frozen at its tile. -/
def State.frozenOp (s : State) (op : Issued) : Bool :=
  match op.site with
  | .tile t => (s.ctile t).holds op.ctx
  | .block _ _ _ => false

/-- PARKED_ACCESS_REISSUE: an answered access issues again, of several the first in tag order (R26, R122). -/
def execParkedAccessReissue (r : Nat) (s : State) : Out :=
  let g := s.region r
  match s.issue, takeLeast (fun (x y : ParkedAcc) => issuedLt x.op y.op)
      (fun (p : ParkedAcc) => p.answered && !(s.frozenOp p.op)) g.parked with
  | none, some (p, rest) =>
    .next { (s.setRegion r { g with parked := rest }).unparkEntry p.op with issue := some p.op }
  | _, _ => .next s

/- The page table as the pager writes it. -/

/-- Write every entry of a run identically (R120). -/
def State.writeLeaf (s : State) (pa n : Nat) (w : Word) : State :=
  let first := pa / (8 * n) * (8 * n)
  (List.range n).foldl (fun s k => s.writeMain (first + 8 * k) (bytesOf 8 w.toNat)) s

/-- A leaf with V = 1 for a frame; RUN, the permissions and bits 59 to 52 stay (R120). -/
def leafWord (w : Word) (tier2 : Bool) (frame : Nat) : Word :=
  word (bits w.toNat 52 8 * 2 ^ 52 + frame / 4096 * 4096 + tier2.toNat * 2 ^ 9 + bits w.toNat 5 4 * 2 ^ 5
    + bits w.toNat 2 3 * 2 ^ 2 + 3)

/-- A leaf of a page that the pager moves: V = 0 and PST 0010; its other bits stay (R120, R123). -/
def transitWord (w : Word) : Word := word (bits w.toNat 1 59 * 2 + 2 ^ 61)

/- Frames. -/

/-- Take an aligned range out of a pool (log 43). -/
def takeFrame (size : Nat) : List (Nat × Nat) → Option (Nat × List (Nat × Nat))
  | [] => none
  | (b, n) :: l =>
    let a := (b + size - 1) / size * size
    if a + size ≤ b + n then
      some (a, ([(b, a - b), (a + size, b + n - (a + size))].filter fun x => x.2 ≠ 0) ++ l)
    else (takeFrame size l).map fun r => (r.1, (b, n) :: r.2)

/-- A frame in tier 1, or in tier 2 where that may be used (R123, R191): whether it is in tier 2, and its base. -/
def State.allocFrame (s : State) (size : Nat) : Option (Bool × Nat × State) :=
  match takeFrame size s.pager.free1 with
  | some (a, l) => some (false, a, { s with pager := { s.pager with free1 := l } })
  | none =>
    if !s.hasFeature 0 then none
    else (takeFrame size s.pager.free2).map fun r => (true, r.1, { s with pager := { s.pager with free2 := r.2 } })

/-- An address outside a range. -/
def outside (base size a : Nat) : Bool := a < base || base + size ≤ a

/-- A frame is zeroed (R118): bytes, write-once words and head bits. -/
def Main.zeroFrame (m : Main) (base size : Nat) : Main :=
  { m with cells := cellsZero m.cells base size, wstate := m.wstate.filter fun w => outside base size w.1
           heads := m.heads.filter fun l => outside base size (64 * l) }

/-- The contents of a page move to another frame, bit for bit; the old frame is left empty (R123). -/
def Main.movePage (m : Main) (old new size : Nat) : Main :=
  let to' (a : Nat) : Nat := if outside old size a then a else a - old + new
  let moved := m.cells.filter fun c => !(outside old size c.1)
  let rest := cellsZero (cellsZero m.cells new size) old size
  { cells := moved.foldl (fun l c => cellPut l (to' c.1) c.2) rest
    wstate := (m.wstate.filter fun w => outside new size w.1).map fun w => (to' w.1, w.2)
    readers := m.readers.map fun (r : Nat × Issued) => (to' r.1, r.2)
    heads := (m.heads.filter fun l => outside new size (64 * l)).map fun l => to' (64 * l) / 64 }

/-- An open reduction of a word of the page goes with it. -/
def Reduction.rebase (old new size : Nat) (x : Reduction) : Reduction :=
  if outside old size x.pa then x else { x with pa := x.pa - old + new }

/- The pager. -/

/-- Generators of a context that a page in transit paused walk their pages again (R125). -/
def State.resumeGens (s : State) (c : Ctx) : State :=
  (s.mtiles.filter fun (m : TileId × MTile) => m.2.active.any (·.ctx = c.num)).foldl (fun s m =>
    (List.range 4).foldl (fun s g => if ((s.mtile m.1).gen g).paused then (s.repatch c m.1 g).2 else s) s) s

/-- The pager's answer for a page: its fault flits are done, and the accesses parked on it are released (R122, R123). -/
def State.answerPage (s : State) (c : Ctx) (base size : Nat) : State :=
  let hit (va : Nat) : Bool := !(outside base size va)
  let free (p : ParkedAcc) : ParkedAcc := if p.op.ctx = c.num && hit p.va then { p with answered := true } else p
  { s with
    pager := { s.pager with faults := s.pager.faults.filter fun f => !(f.2.ctx = c.num && hit f.2.va) }
    regions := s.regions.map fun (g : Nat × Region) => (g.1, { g.2 with parked := g.2.parked.map free }) }.resumeGens c

/-- What the pager does about a fault flit: nothing (none), or the next state (R123). -/
def State.servePage (s : State) (d : Die) (f : PageFault) : Option State :=
  match s.ctx? f.ctx with
  | none => some { s with pager := { s.pager with faults := s.pager.faults.filter fun x => x.2 ≠ f } }
  | some c =>
    match s.leafAt c.root f.va with
    | none => some (s.answerPage c f.va 1)
    | some (pa, level, low, w) =>
      let (n, size) := runSize level low w
      let base := f.va / size * size
      if s.walk c.root f.va ≠ .park then some (s.answerPage c base size)
      else if bits w.toNat 60 4 ≠ 1 then none
      else match s.allocFrame size with
        | some (t2, frame, s) =>
          let s := { s with main := s.main.zeroFrame frame size }
          some ((s.writeLeaf pa n (leafWord w t2 frame)).answerPage c base size)
        | none =>
          if f.told then none
          else
            let s := s.takeFault ⟨0x140, .pager d, f.ctx, 0, word f.va, 0, false, false⟩
            some { s with pager := { s.pager with faults := s.pager.faults.map fun x =>
              if x.2 = f then (x.1, { f with told := true }) else x } }

/-- PAGER_FAULT_SERVICE: the first fault flit of a die's pager corner that can be served (R123). -/
def execPagerFaultService (d : Die) (s : State) : Out :=
  match s.pager.faults.findSome? fun x => if x.1 = d then s.servePage d x.2 else none with
  | some s => .next s
  | none => .next s

/-- A pool with a frame taken out is put back for its tier. -/
def Pager.withPool (p : Pager) (tier2 : Bool) (l : List (Nat × Nat)) : Pager :=
  if tier2 then { p with free2 := l } else { p with free1 := l }

/-- The pager's XLINV of a page: every region's cache drops it, and the generators over it are patched again (R123, R125). -/
def State.pagerXlinv (s : State) (c : Ctx) (base size : Nat) : State :=
  let rs := regionsOf (2 ^ 42 - 1)
  ((rs.foldl (fun s r => s.invalidate r c.num base size) s).repatchAll c base size rs).2

/-- The XLINV of a page that the pager moves has not completed (R123, R125). Generators that the page itself pauses do not
count (log 79). -/
def State.moveWaits (s : State) (x : PageMove) : Bool := s.unperformed x.ctx x.base x.size (regionsOf (2 ^ 42 - 1))

/-- The first step of a migration: a frame of the other tier is taken, and the leaf gets V = 0 and PST 0010 (R123). -/
def State.beginMove (s : State) (c : Ctx) (base size pa n : Nat) (w : Word) : State :=
  let tier2 := !(w.getLsbD 9)
  match (if tier2 && !s.hasFeature 0 then none else takeFrame size (if tier2 then s.pager.free2 else s.pager.free1)) with
  | none => s
  | some (new, l) =>
    let pager := s.pager.withPool tier2 l
    let s := { s with pager := { pager with moving := pager.moving ++ [PageMove.mk c.num base size new] } }
    (s.writeLeaf pa n (transitWord w)).pagerXlinv c base size

/-- The other steps: the page is copied bit for bit, the new leaf is written, the old frame becomes free and what waits for
the page goes on (R123). A leaf that is no longer in transit ends the move, and the new frame is free again. -/
def State.endMove (s : State) (c : Ctx) (x : PageMove) : State :=
  let s := { s with pager := { s.pager with moving := s.pager.moving.filter (· ≠ x) } }
  match s.leafAt c.root x.base with
  | none => s.freeFrame x.frame x.size
  | some (pa, level, low, w) =>
    if w.getLsbD 0 || bits w.toNat 60 4 ≠ 2 then s.freeFrame x.frame x.size
    else
      let old := leafBase w
      let s := { s with main := s.main.movePage old x.frame x.size, reds := s.reds.map (Reduction.rebase old x.frame x.size) }
      let s := s.writeLeaf pa (runSize level low w).1 (leafWord w (!(inTier1 x.frame)) x.frame)
      let s := (s.freeFrame old x.size).answerPage c x.base x.size
      (s.repatchAll c x.base x.size (regionsOf (2 ^ 42 - 1))).2.resumeScatters c.num x.base x.size

/-- PAGE_MIGRATION: a present page begins to move to a frame of the other tier, and stays where that tier has none; a page
that is moving arrives once its XLINV has completed (R123, R125, R318). -/
def execPageMigration (n page : Nat) (s : State) : Out :=
  match s.ctx? n, s.pager.moving.find? fun x => x.ctx = n && spansMeet x.base x.size page 1 with
  | none, _ => .next s
  | some c, some x => .next (if s.moveWaits x then s else s.endMove c x)
  | some c, none =>
    match s.leafAt c.root page, s.walk c.root page with
    | some (pa, level, low, w), .page base size _ => .next (s.beginMove c base size pa (runSize level low w).1 w)
    | _, _ => .next s

end Sys2Proof.Machine
end

