-- ==== Sys2Proof/Machine/Mesh.lean ====
section
/-!
DEFINITION. The packet mesh: routers, ejection and reassembly (R70, R71, R177 to R180), throttling windows (R182) and the
die bridge (R184).
-/

namespace Sys2Proof.Machine

/- Flits. -/

/-- AGE (R70). -/
def Flit.age (f : Flit) : Nat := bits f.ctl.toNat 11 10

/-- FIDX (R70). -/
def Flit.fidx (f : Flit) : Nat := bits f.ctl.toNat 8 3

/-- FLAST (R70). -/
def Flit.flast (f : Flit) : Nat := bits f.ctl.toNat 5 3

/-- A flit that R70 rejects. -/
def Flit.bad (f : Flit) : Bool := 5 < f.typ || bits f.ctl.toNat 0 2 ≠ 0 || 27 < f.dst.col || 23 < f.dst.row

/-- A flit some cycles older; AGE stops at 1,023 (R177). -/
def Flit.older (n : Nat) (f : Flit) : Flit :=
  let c := f.ctl.toNat
  { f with ctl := BitVec.ofNat 32 (c - f.age * 2 ^ 11 + min 1023 (f.age + n) * 2 ^ 11) }

/-- The packet that a flit of several belongs to: source die, column and row, and PID (R71, R180). -/
def Flit.key (f : Flit) : Nat := bits f.data.toNat 237 19

/- Links. -/

/-- Where an output port leads: a tile, and whether over the bridge; none off the mesh (R177, R184). -/
def linkOf (t : TileId) (port : Nat) : Option (TileId × Bool) :=
  match t.die, port with
  | .w, 1 => if t.col = 27 then some (⟨.e, 0, t.row⟩, true) else (neighbour t 1).map fun u => (u, false)
  | .e, 3 => if t.col = 0 then some (⟨.w, 27, t.row⟩, true) else (neighbour t 3).map fun u => (u, false)
  | _, p => (neighbour t p).map fun u => (u, false)

/-- The productive ports of a flit at a tile, the column port before the row port (R177). -/
def productive (t d : TileId) : List Nat :=
  let col := if t.die ≠ d.die then (if t.die = .w then [1] else [3])
    else if t.col < d.col then [1] else if d.col < t.col then [3] else []
  col ++ (if t.row < d.row then [2] else if d.row < t.row then [0] else [])

/-- A lost flit (R180, R184). -/
def State.lost (s : State) (p : Place) (f : Flit) : State := s.takeFault ⟨0x2C0, p, 0, 0, 0, word f.ctl.toNat, false, false⟩

/-- The lane on which a flit crosses the bridge at a row: the row's mesh lane, or a service lane for event records,
translation faults and markers (R184, log 75). -/
def Flit.lane (f : Flit) (row : Nat) : Nat := if 3 ≤ f.typ then 984 + row else row

/-- A flit leaves a router by a port: over an ordinary link one cycle, over the bridge two; a failed lane loses it (R177,
R184). -/
def State.hop (s : State) (t : TileId) (port : Nat) (f : Flit) : State :=
  match linkOf t port with
  | none => s
  | some (u, false) => { s with next := s.next ++ [(u, opposite port, f.older 1)] }
  | some (u, true) =>
    if s.failed.contains (u.die, f.lane u.row) then s.lost (.bridge t.die) f
    else { s with late := s.late ++ [(s.cycle + 2, u, opposite port, f.older 2)] }

/- Ejection. -/

/-- A flit of a one-flit packet is delivered at its tile (R179). -/
def State.ejectOne (s : State) (t : TileId) (f : Flit) : State :=
  s.deliverPacket t f.typ f.cargo (wordsOf 4 (bytesOf 32 f.data.toNat))

/-- A flit of a longer packet takes its place in its slot, or claims one (R179). -/
def State.ejectPart (s : State) (t : TileId) (f : Flit) : State :=
  let c := s.ctile t
  let slot := (c.reasm.find? (·.key = f.key)).getD ⟨f.key, f.flast, [], f.typ, s.cycle, f.cargo⟩
  let slot := { slot with got := put f.fidx f.data slot.got }
  let reasm := if c.reasm.any (·.key = f.key) then c.reasm.map fun x => if x.key = f.key then slot else x
    else c.reasm ++ [slot]
  (s.setCtile t { c with reasm := reasm }).flushReasm t

/-- The destination accepts a flit (R179, R260). -/
def State.accepts (s : State) (t : TileId) (f : Flit) : Bool :=
  if f.flast = 0 then s.hasRoom t f.typ f.cargo
  else (s.ctile t).reasm.any (·.key = f.key) || (s.ctile t).reasm.length < 32

/- Arbitration. -/

/-- A candidate of an arbitration: the position of its input, 4 for the local one, and the flit. -/
abbrev Candidate := Nat × Flit

/-- Candidates by AGE, highest first, then by input port rotated to start at cycle mod 5 (R178). -/
def candidateLt (cycle : Nat) (a b : Candidate) : Bool :=
  let pos (p : Nat) : Nat := (p + 5 - cycle % 5) % 5
  b.2.age < a.2.age || (a.2.age = b.2.age && pos a.1 < pos b.1)

/-- What an arbitration has used so far: outputs taken, ejection into the tile and into the memory port (R178, R179). -/
structure Used where
  outs : List Nat
  tile : Bool
  port : Bool
  deriving DecidableEq, Repr

/-- A free output that leads somewhere. -/
def Used.free (u : Used) (t : TileId) (p : Nat) : Bool := !(u.outs.contains p) && (linkOf t p).isSome

/-- The ejection path that a flit needs is free: the memory port's for a request to a region's first tile (R177, R179). -/
def Used.pathFree (u : Used) (t : TileId) (f : Flit) : Bool :=
  if f.typ = 1 && t = firstTile (regionOf t) then !u.port else !u.tile

/-- The ejection path is taken. -/
def Used.eject (u : Used) (t : TileId) (f : Flit) : Used :=
  if f.typ = 1 && t = firstTile (regionOf t) then { u with port := true } else { u with tile := true }

/-- The local candidate leaves the tile (R177, R182). -/
def State.injected (s : State) (t : TileId) : State :=
  let c := s.ctile t
  let rate := bits c.router.win.toNat 13 3
  s.setCtile t { c with inject := c.inject.drop 1
                        router := { c.router with injects := if c.router.throttled then s.cycle + 2 ^ rate else 0 } }

/-- One candidate in its turn (R178). -/
def State.takeTurn (s : State) (t : TileId) (u : Used) (c : Candidate) : Used × State :=
  let f := c.2
  let local' := c.1 = 4
  let s' := if local' then s.injected t else s
  if f.bad then (u, s'.lost (.router t) f)
  else if f.dst = t && s.accepts t f && u.pathFree t f then
    (u.eject t f, if f.flast = 0 then s'.ejectOne t f else s'.ejectPart t f)
  else match (productive t f.dst).find? (u.free t) with
    | some p => ({ u with outs := p :: u.outs }, s'.hop t p f)
    | none =>
      if local' then (u, s)
      else match [0, 1, 2, 3].find? (u.free t) with
        | some p =>
          let x := s.ctile t
          let s := s.setCtile t { x with router := { x.router with now := x.router.now + 1 } }
          ({ u with outs := p :: u.outs }, s.hop t p f)
        | none => (u, { s with flits := s.flits ++ [(t, c.1, f)] })

/-- Every candidate in order. -/
def State.placeAll (s : State) (t : TileId) (u : Used) : List Candidate → State
  | [] => s
  | c :: cs => let r := s.takeTurn t u c; r.2.placeAll t r.1 cs

/-- ROUTER_ARBITRATE: one cycle at one router (R178). -/
def execRouterArbitrate (t : TileId) (s : State) : Out :=
  let c := s.ctile t
  if s.cycle < c.router.arb then .next s
  else
    let mine := s.flits.filter fun (x : TileId × Nat × Flit) => x.1 = t
    let offer := match c.inject with
      | f :: _ => if (s.router t).injects ≤ s.cycle then [(4, f)] else []
      | [] => []
    let cs := sortBy (candidateLt s.cycle) (mine.map (fun (x : TileId × Nat × Flit) => (x.2.1, x.2.2)) ++ offer)
    let s := { s with flits := s.flits.filter fun (x : TileId × Nat × Flit) => x.1 ≠ t }
    let s := s.setCtile t { c with router := { s.router t with arb := s.cycle + 1 } }
    .next (s.placeAll t ⟨[], false, false⟩ cs)

/-- REASSEMBLY_TIMEOUT: the slots of a tile that are incomplete 65,536 cycles after they were claimed are freed (R180). -/
def execReassemblyTimeout (t : TileId) (s : State) : Out :=
  let c := s.ctile t
  let late (x : Reasm) : Bool := !x.whole && x.since + 65536 ≤ s.cycle
  let s := s.setCtile t { c with reasm := c.reasm.filter (!late ·) }
  .next ((c.reasm.filter late).foldl (fun s x =>
    s.takeFault ⟨0x2C2, .router t, 0, 0, 0, word x.key, false, false⟩) s)

/-- THROTTLE_WINDOW_END (R182). -/
def execThrottleWindowEnd (t : TileId) (s : State) : Out :=
  let c := s.ctile t
  .next (s.setCtile t { c with router := s.router t })

/-- BRIDGE_LANE_FAIL: a lane toward a die loses the flits on it, and every later one (R184). -/
def execBridgeLaneFail (toward : Die) (lane : Nat) (s : State) : Out :=
  let on (x : Nat × TileId × Nat × Flit) : Bool := x.2.1.die = toward && x.2.2.2.lane x.2.1.row = lane
  let lost := s.late.filter on
  let s := { s with failed := addNew s.failed (toward, lane), late := s.late.filter (!on ·) }
  let side : Die := if toward = .e then .w else .e
  .next (lost.foldl (fun s x => s.lost (.bridge side) x.2.2.2) s)

/-- An error that cannot be corrected strikes a flit at an input of a router: it is dropped there (R180). -/
def State.strike (s : State) (t : TileId) (port : Nat) : State :=
  match takeFirst (fun (x : TileId × Nat × Flit) => x.1 = t && x.2.1 = port) s.flits with
  | none => s
  | some (x, rest) => { s with flits := rest }.lost (.router t) x.2.2

/-- A cycle passes in the mesh: the flits that have hopped stand at their next routers (R177, R184). -/
def State.meshCycle (s : State) : State :=
  let due (x : Nat × TileId × Nat × Flit) : Bool := x.1 ≤ s.cycle
  { s with
    flits := s.flits ++ s.next ++ (s.late.filter due).map fun (x : Nat × TileId × Nat × Flit) => (x.2.1, x.2.2.1, x.2.2.2)
    next := [], late := s.late.filter (!due ·) }

end Sys2Proof.Machine
end

