-- ==== Sys2Proof/Machine/Links.lean ====
section
/-!
DEFINITION. The Gwynlink ports: link flits (R186, R187), gang markers (R228, R229), ports that go down and come back
(R187, R234), and the routing tables (R185).
-/

namespace Sys2Proof.Machine

/- Link flits. -/

/-- LTYPE of a link flit (R186). -/
def linkType (f : List Byte) : Nat := bits (ofBytes (f.take 8)) 0 4
/-- SEQ (R186). -/
def linkSeq (f : List Byte) : Nat := bits (ofBytes (f.take 8)) 4 12
/-- ACK (R186). -/
def linkAck (f : List Byte) : Nat := bits (ofBytes (f.take 8)) 16 12
/-- NAK (R186). -/
def linkNak (f : List Byte) : Bool := (ofBytes (f.take 8)).testBit 28

/-- A flit that a receiver treats as a CRC failure (R186). -/
def linkBad (f : List Byte) : Bool :=
  f.length ≠ 256 || ofBytes (f.drop 248) ≠ (crc64 (f.take 248)).toNat || 4 < linkType f
    || bits (ofBytes (f.take 8)) 29 35 ≠ 0

/-- The flits of the replay buffer that an ACK acknowledges: those up to its number, none where it names none (R187). -/
def acked (replay : List (Nat × LinkLoad)) (ack : Nat) : Nat :=
  match replay with
  | [] => 0
  | (first, _) :: _ =>
    let n := (ack + 4097 - first) % 4096
    if n ≤ min 256 replay.length then n else 0

/-- Frame flits of the replay buffer with the port's present ACK. -/
def Port.frames (q : Port) (l : List (Nat × LinkLoad)) : List (List Byte) := l.map fun x => frame x.2 x.1 q.ack false

/-- An acknowledgement frees its flits, and the buffer's next flits go out; a NAK replays all that are not acknowledged,
and each of those that had gone out is replayed once more in a row (R187). -/
def Port.answered (q : Port) (ack : Nat) (nak : Bool) : Port :=
  let n := acked q.replay ack
  let left := q.replay.drop n
  let replays := q.replays.drop n
  if nak then
    { q with replay := left, replays := (replays.take (256 - n)).map (· + 1) ++ replays.drop (256 - n)
             tx := q.tx ++ q.frames (left.take 256) }
  else { q with replay := left, replays := replays, tx := q.tx ++ q.frames ((left.take 256).drop (256 - n)) }

/-- A control flit: the acknowledgement alone, or a NAK (R186, R187, log 10). -/
def State.sendAck (s : State) (p : Nat) (nak : Bool) : State :=
  let q := s.port p
  s.setPort p { q with tx := q.tx ++ [frame .control 0 q.ack nak], nak := nak }

/- Payloads. -/

/-- A token's tag in a packet's first flit takes a context's number (R72, R193). -/
def Flit.retag (f : Flit) (ctx : Nat) : Flit :=
  let d := f.data.toNat
  { f with data := BitVec.ofNat 256 (d - bits d 116 12 * 2 ^ 116 + ctx % 4096 * 2 ^ 116) }

/-- The gang member's context at a tile: that of the tile's plane, which alone tells the gang there, for a slot names none
(R186, R193). -/
def State.memberAt (s : State) (t : TileId) : Option Ctx :=
  ((s.ctile t).active.bind fun p => s.ctx? p.ctx).filter (·.gang ≠ 0)

/-- Where the flits of a port enter the mesh (log 10). -/
def portTile (p : Nat) : TileId := if p < 8 then ⟨.w, 0, 3 * p⟩ else ⟨.e, 27, 3 * (p - 8)⟩

/-- A flit takes its place at its tile without a way through the mesh: the member there is marked, and the slots of its gang
are captured (R228). -/
def State.captureSlot (s : State) (f : Flit) : State :=
  if f.flast = 0 then s.capture f.dst (tokenOf f.dst (wordsOf 4 (bytesOf 32 f.data.toNat))) else s.ejectPart f.dst f

/-- A slot's flit enters this module's mesh with AGE 0, its token in the gang member's context (R186, R193), or is captured
for a marked member (R228). A token for a tile without a member is dropped with 0x084 (log 10). -/
def State.carriageIn (s : State) (p : Nat) (f : Flit) : State :=
  let f := { f with ctl := BitVec.ofNat 32 (f.ctl.toNat - f.age * 2 ^ 11) }
  let go (s : State) (f : Flit) : State :=
    let c := s.ctile (portTile p)
    s.setCtile (portTile p) { c with inject := c.inject ++ [f] }
  if f.typ ≠ 0 || f.bad then go s f
  else match s.memberAt f.dst with
    | some c =>
      let f := if f.fidx = 0 then f.retag c.num else f
      if (s.ctile f.dst).holds c.num then s.captureSlot f else go s f
    | none =>
      if f.fidx = 0 then
        s.recordFault ⟨0x084, .tile f.dst, 0, nth 0 (wordsOf 4 (bytesOf 32 f.data.toNat)) 1, 0, 0, false, false⟩ none
      else s

/-- One slot of mesh carriage: for this module, for another that the routing tables reach, or lost with a record (R186,
R187, log 10). -/
def State.slotIn (s : State) (p : Nat) (bs : List Byte) : State :=
  let h := ofBytes (bs.take 4)
  let f : Flit := ⟨BitVec.ofNat 32 (ofBytes ((bs.drop 4).take 4)), BitVec.ofNat 256 (ofBytes ((bs.drop 8).take 32)), .bits⟩
  if !(h.testBit 13) then s
  else if bits h 0 13 = s.node then s.carriageIn p f
  else match s.portOf (bits h 0 13) with
    | some q => if (s.port q).up then s.sendLink q (.mesh [(bits h 0 13, f)]) else s.lost (.port q) f
    | none => s.lost (.port p) f

/-- A port delivers the payload of a flit (R186 to R188, R228). A host reaches the device by host messages alone: mesh carriage
and markers from one have no effect (R5). -/
def State.deliverLink (s : State) (p : Nat) (f : List Byte) : State :=
  let load := (f.drop 8).take 240
  let module := s.peer p < 4096
  match linkType f with
  | 1 => if !module then s else (List.range 6).foldl (fun s k => s.slotIn p ((load.drop (40 * k)).take 40)) s
  | 2 => { s with hostIn := s.hostIn ++ [(⟨s.peer p, load, false⟩ : Msg)] }
  | 4 =>
    if !module then s else
    let q := s.port p
    s.setPort p { q with marks := q.marks ++ [(ofBytes (load.take 4), ofBytes ((load.drop 4).take 4))] }
  | _ => s

/-- LINK_FLIT_RECEIVE: the port takes the next flit that arrives on it. A flit in sequence is delivered and
acknowledged; one received before is acknowledged again; any other is discarded with everything that follows it, and a NAK
asks for the replay (R187). -/
def execLinkFlitReceive (p : Nat) (s : State) : Out :=
  let q := s.port p
  match q.rx with
  | [] => .next s
  | f :: rx =>
    if !q.up then .next (s.setPort p { q with rx := rx })
    else if linkBad f then .next ((s.setPort p { q with rx := rx, lastRx := s.cycle }).sendAck p true)
    else
      let q := { q with rx := rx, lastRx := s.cycle }.answered (linkAck f) (linkNak f)
      if linkType f = 0 || linkType f = 3 then .next (s.setPort p q)
      else if linkSeq f = q.rxSeq then
        let s := s.setPort p { q with rxSeq := (q.rxSeq + 1) % 4096 }
        .next ((s.sendAck p false).deliverLink p f)
      else if (q.rxSeq + 4096 - linkSeq f) % 4096 ≤ 256 then .next ((s.setPort p q).sendAck p q.nak)
      else if q.nak then .next (s.setPort p q)
      else .next ((s.setPort p q).sendAck p true)

/- Gang markers. -/

/-- A marker has arrived, and on every port that is up and whose routes lead to port q (R229). -/
def State.allMarked (s : State) (m : Nat × Nat) (q : Nat) : Bool :=
  let has (p : Nat) : Bool := (s.port p).marked.contains m
  (List.range 16).any has && s.tables.relays.all fun x => x.2 ≠ q || !(s.port x.1).up || has x.1

/-- A module without a member forwards a marker on each port once every port whose routes lead there has brought it (R229). -/
def State.relayMarker (s old : State) (m : Nat × Nat) : State :=
  (List.range 16).foldl (fun s q =>
    if s.allMarked m q && !(old.allMarked m q) then s.sendLink q (.marker m.1 m.2) else s) s

/-- A member meets its gang's marker: the first of a round marks it, and it sends the marker on every port once it is Frozen;
the last completes the switch (R228, log 72). -/
def State.memberMarker (s : State) (c : Ctx) (round : Nat) (first : Bool) : State :=
  if first then
    if c.st = .running then
      (s.markCtx c.launch round none false false).mapCtx c.launch fun c => { c with gangMark := true }
    else s.sendMarkers c.gang round
  else if (c.st = .frozen || c.st = .stopped) && c.gangMark then s.report c
  else s

/-- The member of a gang on this module (R228). -/
def State.member? (s : State) (gang : Nat) : Option Ctx :=
  s.ctxs.find? fun c => c.gang = gang && gang ≠ 0 && c.st != .ended && c.st != .waiting

/-- A marker must wait: the member is still freezing for another round. -/
def State.markWaits (s : State) (m : Nat × Nat) : Bool :=
  (s.member? m.1).any fun c => (c.st = .freezing || c.st = .loading) && c.round ≠ m.2

/-- GANG_MARKER_RECEIVE: a port acts on the next marker that it has received (R228, R229). -/
def execGangMarkerReceive (p : Nat) (s : State) : Out :=
  let q := s.port p
  match q.marks with
  | [] => .next s
  | m :: ms =>
    if s.markWaits m then .next s else
    let seen := (List.range 16).any fun k => (s.port k).marked.contains m
    let t := s.setPort p { q with marks := ms, marked := addNew q.marked m }
    match t.member? m.1 with
    | some c => .next (t.memberMarker c m.2 (!seen && !(c.st != .running && c.round = m.2)))
    | none => .next (t.relayMarker s m)

/- Ports that go down. -/

/-- A context has traffic that is routed over a port: to its gang's members, to its host, or to its endpoints (R187). -/
def State.routedOver (s : State) (p : Nat) (c : Ctx) : Bool :=
  let by' (node : Nat) : Bool := node ≠ s.node && s.portOf node = some p
  (c.gang ≠ 0 && s.tables.gangs.any fun g => g.1.1 = c.gang && by' g.2)
    || (hostNode s.ctxs s.ctxs.length c).any by' || c.endpoints.any fun e => by' e.2.node

/-- A port goes down: its replay buffer is lost, and 0x2C1 is recorded on every context with traffic over it (R187). -/
def State.portDown (s : State) (p : Nat) : State :=
  let q := s.port p
  let s := s.setPort p { q with up := false, replay := [], replays := [] }
  (s.ctxs.filter fun c => c.st != .ended && c.st != .waiting && s.routedOver p c).foldl (fun s c =>
    s.takeFault ⟨0x2C1, .port p, c.num, 0, 0, 0, true, false⟩) s

/-- GWYNLINK_PORT_DOWN: sixteen consecutive replays of one flit (R187). -/
def execGwynlinkPortDown (p : Nat) (s : State) : Out :=
  .next (if (s.port p).up && (s.port p).replays.any (16 ≤ ·) then s.portDown p else s)

/-- 100 µs in cycles of 1.5 GHz (R234, log 3). -/
def silenceCycles : Nat := 150000

/-- LINK_SILENCE_TIMEOUT: a port that has received no link flit for 100 µs goes down (R234). -/
def execLinkSilenceTimeout (p : Nat) (s : State) : Out :=
  .next (if (s.port p).up && (s.port p).lastRx + silenceCycles ≤ s.cycle then s.portDown p else s)

/-- A port that firmware has trained: both ends start their sequences again (R187, R194, log 10). -/
def Port.trained (q : Port) (now : Nat) : Port := { Port.reset with up := true, rx := q.rx, tx := q.tx, lastRx := now }

/-- GWYNLINK_PORT_RETRAIN: a port that is down carries link flits again (R187). -/
def execGwynlinkPortRetrain (p : Nat) (s : State) : Out :=
  let q := s.port p
  .next (if q.up then s else s.setPort p (q.trained s.cycle))

/-- ROUTING_TABLE_LOAD: firmware loads or reloads the tables (R185, R193, R234). -/
def execRoutingTableLoad (tables : RoutingTables) (s : State) : Out := .next { s with tables := tables }

end Sys2Proof.Machine
end

