-- ==== Sys2Proof/Machine/HostEvents.lean ====
section
/-!
DEFINITION. What a host or another module asks of the module: the messages of R188 to R192 and the attestation report
(R194, R195). Each event takes the oldest message that has arrived, if it is of its kind.
-/

namespace Sys2Proof.Machine

/- Messages. -/

/-- KIND of a message (R188). -/
def Msg.kind (m : Msg) : Nat := ofBytes (m.bytes.take 1)
/-- The body's length by the header (R188). -/
def Msg.len (m : Msg) : Nat := ofBytes ((m.bytes.drop 2).take 2)
/-- The body. -/
def Msg.body (m : Msg) : List Byte := (m.bytes.drop 8).take m.len
/-- `n` bytes of the body from offset `o`. -/
def Msg.field (m : Msg) (o n : Nat) : Nat := ofBytes ((m.body.drop o).take n)

/-- A header or a body that breaks its layout of some bytes (R188, R189). -/
def Msg.bad (m : Msg) (layout : Nat) : Bool :=
  m.bytes.length < 8 || 232 < m.len || ofBytes ((m.bytes.drop 1).take 1) ≠ 0 || m.body.length < layout

/-- OP of an EPDATA (R190). -/
def Msg.epOp (m : Msg) : Nat := m.field 3 1

/-- The kinds that the module knows (R188); COMPL goes the other way. An EPDATA of another OP is dropped with them
(R190). -/
def Msg.known (m : Msg) : Bool :=
  m.kind = 1 || m.kind = 2 || m.kind = 3 || m.kind = 4 || (m.kind = 5 && m.epOp < 4) || m.kind = 7 || m.kind = 8

/-- A message is dropped and answered with a COMPL of KIND 1 and cause 0x041 (R188, R189). -/
def State.dropMsg (s : State) (m : Msg) (r : Nat) : State := s.sendCompl m.node (if r ≤ 41 then r else 0) 1 0 0x041 0

/-- Act on the oldest message if it is of a kind. A module that does not run its firmware drops it (R194, log 44). -/
def onMessage (sel : Msg → Bool) (s : State) (body : Msg → State → State) : Out :=
  match s.hostIn with
  | [] => .next s
  | m :: rest =>
    if !(sel m) then .next s
    else if s.boot = .running then .next (body m { s with hostIn := rest })
    else .next { s with hostIn := rest }

/-- A command fails: its record goes to a control tile, and the host hears of it (R189, R231). -/
def State.hostFail (s : State) (m : Msg) (f : Flt) (launch : Nat) : State :=
  let told := (s.ctx? f.ctx).any (fun c => (hostNode s.ctxs s.ctxs.length c) = some m.node) && hostCopied f
  let s := s.takeFault f
  if told then s else s.sendCompl m.node f.place.region 1 launch f.cause f.detail

/- Features. -/

/-- The features that the module supports: the four that the spec describes (R191, log 44). -/
def supported : BitVec 128 := 0xF

/-- HOST_FEAT: the first FEAT after a reset fixes the acknowledged vector; every FEAT is answered with it (R191). -/
def execHostFeat (s : State) : Out :=
  onMessage (·.kind = 1) s fun m s =>
    if m.bad 16 then s.dropMsg m 0
    else
      let v := s.feat.getD (BitVec.ofNat 128 (m.field 0 16) &&& supported)
      { s with feat := some v }.sendMsg m.node 1 (bytesOf 16 v.toNat)

/- CFGW. -/

/-- The end of tier 1 (R112). -/
def tier1End : Nat := 2 ^ 39

/-- A CFGW with LOAD. -/
def Msg.load (m : Msg) : Bool := (m.field 1 1).testBit 0

/-- A CFGW that breaks its layout or its limits (R189). -/
def Msg.cfgwBad (m : Msg) : Bool :=
  let nw := m.field 2 2
  m.bad 24 || 41 < m.field 0 1 || 1 < m.field 1 1 || 26 < nw || (m.load && nw ≠ 0) || 4095 < m.field 4 2
    || (!m.load && (m.field 4 2 ≠ 0 || m.field 16 8 ≠ 0)) || m.field 6 2 ≠ 0 || m.field 8 8 % 8 ≠ 0
    || tier1End < m.field 8 8 + 8 * max nw 1 || 2 ^ 42 ≤ m.field 16 8 || m.body.length < 24 + 8 * nw

/-- HOST_CFGW: the words are written into tier 1 (R189). -/
def execHostCfgw (s : State) : Out :=
  onMessage (fun m => m.kind = 2 && !m.load) s fun m s =>
    if m.cfgwBad then s.dropMsg m (m.field 0 1)
    else s.writeMain (m.field 8 8) ((m.body.drop 24).take (8 * m.field 2 2))

/-- The context that a command names, if a LAUNCH of the message's host created it (R189). -/
def State.ownCtx (s : State) (m : Msg) (num : Nat) : Option Ctx := (s.ctx? num).filter fun c => c.host = some m.node

/-- HOST_CFGW_LOAD: the control tile performs CFGLD by physical address. A load that waits for the pager keeps its
message (R189, R251, log 44). -/
def execHostCfgwLoad (s : State) : Out :=
  onMessage (fun m => m.kind = 2 && m.load) s fun m t =>
    let r := m.field 0 1
    match (if m.cfgwBad then none else t.ownCtx m (m.field 4 2)) with
    | none => t.dropMsg m r
    | some c =>
      match t.cfgld c .phys (m.field 8 8) (m.field 16 8) with
      | .ok (_, t) => t.sendCompl m.node r 0 c.launch 0 0
      | .fault cause a d => t.hostFail m ⟨cause, .loader r, c.num, 0, a, d, false, true⟩ c.launch
      | .miss va => { s with hostIn := { m with waits := true } :: t.hostIn }.askPager c.num va r

/- LAUNCH and END. -/

/-- A LAUNCH that breaks its layout or its limits (R189, R286). -/
def Msg.launchBad (m : Msg) : Bool :=
  m.bad 24 || 41 < m.field 0 1 || m.field 2 6 ≠ 0 || m.field 8 8 % 64 ≠ 0 || tier1End < m.field 8 8 + 64
    || m.field 16 8 = 0 || 2 ^ 42 ≤ m.field 16 8

/-- An image in tier 1 holds entry sections: its launch is a program load (R50, R189). -/
def State.holdsEntries (s : State) (img : Word) : Bool :=
  match s.readImage .phys true img.toNat with
  | .ok i => i.entries ≠ []
  | .fault _ _ _ | .miss _ => false

/-- HOST_LAUNCH: LAUNCH by physical address; the arbiter accepts the launch of a program or of a fabric configuration
(R50, R189, R216, R286). -/
def execHostLaunch (s : State) : Out :=
  onMessage (·.kind = 3) s fun m s =>
    let r := m.field 0 1
    let h := m.field 8 8
    if m.launchBad then s.dropMsg m r
    else match descOf (wordsOf 8 (s.readMain h 64)) with
      | none => s.hostFail m ⟨0x041, .control r, 0, 0, 0, 0, false, true⟩ 0
      | some d =>
        if d.gang ≠ 0 && !s.hasFeature 1 then s.hostFail m ⟨0x303, .control r, 0, 0, 0, 0, false, true⟩ 0
        else if 256 ≤ s.waiting then s.hostFail m ⟨0x301, .control r, 0, 0, 0, 0, false, true⟩ 0
        else s.accept { d.ctx (word h) (m.field 16 8) r (m.field 1 1) with
          host := some m.node, program := s.holdsEntries d.img }

/-- The block contexts of a program context stop where they stand (R189). -/
def State.stopBlocks (s : State) (num : Nat) : State :=
  (List.range 42).foldl (fun s r => (List.range 4).foldl (fun s b =>
    let x := s.bctx r b
    if x.ctx = num && x.st != .idle && x.st != .stopped then s.stopBlock r b else s) s) s

/-- A context is to end: at once, or once it is Frozen; a program's launched contexts end in the same way, and it ends
with the last of them (R189, log 44). `fuel` bounds the depth of launches. -/
def State.endTree (s : State) : Nat → Ctx → State
  | 0, _ => s
  | k + 1, c =>
    let s := if c.program then s.stopBlocks c.num else s
    let s := (s.ctxs.filter fun x => x.parent = some c.launch && x.st != .ended).foldl (fun s x => s.endTree k x) s
    match c.st with
    | .running => if c.program then s else s.markCtx c.launch 0 none false true
    | .freezing => s.mapCtx c.launch fun c => { c with endAfter := true }
    | .waiting | .loading | .frozen | .stopped => s.endCtx c.launch true
    | .ended => s

/-- An END that breaks its layout (R189). -/
def Msg.endBad (m : Msg) : Bool := m.bad 8 || 4095 < m.field 0 2 || m.field 2 6 ≠ 0

/-- HOST_END (R189). -/
def execHostEnd (s : State) : Out :=
  onMessage (·.kind = 8) s fun m s =>
    if m.endBad then s.dropMsg m 0
    else
      let num := m.field 0 2
      match s.ctx? num with
      | some c =>
        if c.host ≠ some m.node || (c.sys && !(s.tables.privileged.contains m.node)) then
          s.hostFail m ⟨0x103, .control c.home, num, 0, 0, 0, false, true⟩ c.launch
        else (s.endTree (s.ctxs.length + 1) c).endPrograms
      | none => s.hostFail m ⟨0x103, .control 0, num, 0, 0, 0, false, true⟩ 0

/- Endpoints. -/

/-- An ATTACH that breaks its layout or its limits (R190). -/
def Msg.attachBad (m : Msg) : Bool :=
  m.bad 24 || 4095 < m.field 0 2 || 63 < m.field 2 1 || m.field 3 1 ≠ 0 || 8191 < m.field 4 2 || m.field 6 2 ≠ 0

/-- HOST_ATTACH: the endpoint's range, its position 0; an extent of 0 detaches it (R116, R190, R191). -/
def execHostAttach (s : State) : Out :=
  onMessage (·.kind = 4) s fun m s =>
    let ep := m.field 2 1
    let e : Endpoint := ⟨m.field 4 2, m.field 8 8, m.field 16 8, 0⟩
    match (if m.attachBad then none else s.ctx? (m.field 0 2)) with
    | none => s.dropMsg m 0
    | some c =>
      if e.node < 4096 && !s.hasFeature 2 then s.hostFail m ⟨0x303, .control c.home, c.num, 0, 0, 0, false, true⟩ c.launch
      else s.mapCtx c.launch fun c =>
        { c with endpoints := if e.ext = 0 then erase ep c.endpoints else put ep e c.endpoints }

/-- An EPDATA that breaks its layout or its limits (R190). -/
def Msg.epdataBad (m : Msg) : Bool :=
  let data := if m.epOp = 1 || m.epOp = 2 then m.field 4 4 else 0
  m.bad (32 + data) || 4095 < m.field 0 2 || 63 < m.field 2 1 || 200 < m.field 4 4 || m.field 24 8 ≠ 0

/-- The data bytes. -/
def Msg.data (m : Msg) : List Byte := (m.body.drop 32).take (m.field 4 4)

/-- The physical address of an EPDATA's position within a range that this module holds (log 45). -/
def Msg.target (m : Msg) : Nat := Config.exportBase m.node (m.field 0 2) (m.field 2 1) + m.field 8 8

/-- Answer an EPDATA in its own terms (R190). -/
def State.answer (s : State) (m : Msg) (op' : Nat) (data : List Byte) : State :=
  s.sendEpdata (m.field 0 2) (m.field 2 1) op' (m.field 8 8) (m.field 16 8) m.node (m.field 4 4) data

/-- Serve an EPDATA request of another module, with feature bit 2; one from a host is dropped (R5, R190, R191, log 44). -/
def serveEpdata (op' : Nat) (s : State) (body : Msg → State → State) : Out :=
  onMessage (fun m => m.kind = 5 && m.epOp = op') s fun m s =>
    if m.epdataBad || 4096 ≤ m.node then s.dropMsg m 0
    else if !s.hasFeature 2 then s.hostFail m ⟨0x303, .control 0, 0, 0, 0, 0, false, true⟩ 0
    else body m s

/-- EPDATA_READ_REQUEST: the module answers with the bytes of its memory (R190). -/
def execEpdataReadRequest (s : State) : Out :=
  serveEpdata 0 s fun m s => s.answer m 1 (s.readMain m.target (m.field 4 4))

/-- EPDATA_WRITE_DATA: the bytes are written and acknowledged (R190). -/
def execEpdataWriteData (s : State) : Out :=
  serveEpdata 2 s fun m s => (s.writeMain m.target m.data).answer m 3 []

/-- The bytes or acknowledgements that a waiting transfer has had, and what it needs. -/
def Held.transfer? (h : Held) (rid : Nat) : Option (List Byte × Nat) :=
  match h.why with
  | .transfer r got need => if r = rid then some (got, need) else none
  | _ => none

/-- What a transfer does once its last answer has come: a HIN emits its bytes, a HOUT its completion, a SNAP the image's
size. A HOUT of a committed block has nothing left to do (R280, R281, R322). -/
def State.transferred (s : State) (op : Issued) (got : List Byte) : State :=
  match decodeWord (!siteIsBlock op.site) op.word with
  | .ok (.hin n) => s.replyData op n (hinValue op n got) false
  | .ok (.hout n) => if op.released then s else s.complete op n 1 .system false 0
  | .ok (.snap n) => s.emitWord op n (word op.count) true
  | _ => s

/-- An answer reaches the transfer that its RID names; an answer to none is dropped. -/
def State.transferIn (s : State) (rid : Nat) (bs : List Byte) : State :=
  match takeFirst (fun (h : Held) => (h.transfer? rid).isSome) s.held with
  | none => s
  | some (h, rest) =>
    match h.transfer? rid with
    | none => s
    | some (got, need) =>
      let got := got ++ bs
      if need ≤ got.length then { s with held := rest }.transferred h.op (got.take need)
      else { s with held := rest ++ [{ h with why := .transfer rid got need }] }

/-- EPDATA_READ_DATA: the bytes reach the HIN that waits for them (R190). -/
def execEpdataReadData (s : State) : Out :=
  onMessage (fun m => m.kind = 5 && m.epOp = 1) s fun m s =>
    if m.epdataBad then s.dropMsg m 0 else s.transferIn (m.field 16 8) m.data

/-- EPDATA_WRITE_ACK: one part of a HOUT or SNAP is acknowledged (R190). -/
def execEpdataWriteAck (s : State) : Out :=
  onMessage (fun m => m.kind = 5 && m.epOp = 3) s fun m s =>
    if m.epdataBad then s.dropMsg m 0 else s.transferIn (m.field 16 8) [1]

/- Attestation. -/

/-- The attestation report; answer number `k` has its own signatures (R194, R195). -/
def State.report? (s : State) (nonce : Nat) (k : Nat) : List Byte :=
  bytesOf 48 s.flash.digest.toNat ++ bytesOf 48 s.flash.pagerDigest.toNat ++ bytesOf 48 s.flash.fuseDigest.toNat
    ++ bytesOf 48 nonce ++ bytesOf 2 (s.node % 2 ^ 13) ++ bytesOf 1 (s.boot = .running : Bool).toNat ++ bytesOf 5 0
    ++ (List.range 384).map (Config.rsaByte k) ++ (List.range 16224).map (Config.slhByte k)

/-- A report goes out as 76 ATTEST messages (R195). -/
def State.sendReport (s : State) (node : Nat) (report : List Byte) : State :=
  (List.range 76).foldl (fun s k =>
    s.sendMsg node 7 (bytesOf 4 (224 * k) ++ bytesOf 4 16808 ++ (report.drop (224 * k)).take 224)) s

/-- HOST_ATTEST: the report of R195; in the recovery state a failure report, which needs no feature (R191, R194). -/
def execHostAttest (s : State) : Out :=
  match s.hostIn with
  | [] => .next s
  | m :: rest =>
    if m.kind ≠ 7 || s.boot = .off then .next s
    else
      let s := { s with hostIn := rest }
      if m.bad 48 then .next (s.dropMsg m 0)
      else if s.boot = .running && !s.hasFeature 3 then
        .next (s.hostFail m ⟨0x303, .control 0, 0, 0, 0, 0, false, true⟩ 0)
      else .next ({ s with counter := s.counter + 1 }.sendReport m.node (s.report? (m.field 0 48) s.counter))

/-- HOST_MESSAGE_UNKNOWN (R188). -/
def execHostMessageUnknown (s : State) : Out := onMessage (fun m => !m.known) s fun m s => s.dropMsg m 0

end Sys2Proof.Machine
end

