-- ==== Sys2Proof/Machine/Boot.lean ====
section
/-!
DEFINITION. Power-on, firmware and the thermal trip (R194, R196), and the errors that cannot be corrected (R113, R124,
R232, R233).
-/

namespace Sys2Proof.Machine

/- Boot. -/

/-- The frames that the pager has at boot: the upper half of tier 1, and what tier 2 is populated (R123, log 43). -/
def Pager.booted (tier2 : List (Nat × Nat)) : Pager := ⟨[], [(2 ^ 38, 2 ^ 38)], tier2, []⟩

/-- POWER_ON_BOOT: volatile state is lost. Where both signatures verify, the firmware trains the ports, zeroes memory and
loads the pager configuration; else the module is in the recovery state (R194). What is still to arrive from outside, and the
model's own fields, stay (log 5). -/
def execPowerOnBoot (s : State) : Out :=
  let on := { State.reset with
    flash := s.flash, node := s.node, tables := s.tables, fuse := s.fuse, tier2 := s.tier2
    hostIn := s.hostIn, agenda := s.agenda, counter := s.counter, turn := s.turn
    ports := (List.range 16).map fun p => (p, (s.port p).trained 0) }
  .next (if s.flash.rsaOk && s.flash.slhOk then { on with boot := .running, pager := Pager.booted s.tier2 }
    else { on with boot := .recovery })

/-- NEW_FIRMWARE_IMAGE: a module in the recovery state takes a new image into its flash (R194, log 5). -/
def execNewFirmwareImage (image : Firmware) (s : State) : Out :=
  .next (if s.boot = .recovery then { s with flash := image } else s)

/-- THERMAL_TRIP: every context stops, one that waits so that it is granted no more, and the ports go down (R196, log 76). -/
def execThermalTrip (_ : Die) (s : State) : Out :=
  let s := (s.ctxs.filter fun c => c.st != .ended && c.st != .waiting).foldl (fun s c => s.stopCtx c.num) s
  let s := { s with ctxs := s.ctxs.map fun c => if c.st = .waiting then { c with stopAfter := true } else c }
  .next ((List.range 16).foldl (fun s p =>
    s.setPort p { s.port p with up := false, replay := [], replays := [] }) s)

/- Errors. -/

/-- UNCORRECTABLE_COMMITTED_ERROR: machine check 0x380 (R233). -/
def execUncorrectableCommittedError (ctx : Nat) (place : ErrorPlace) (s : State) : Out :=
  match place with
  | .memory pa =>
    .next (s.takeFault ⟨0x380, .channel (channelOf pa), ctx, 0, word (pa / 16 * 16), word (channelOf pa), true, false⟩)
  | .tile t off => .next (s.takeFault ⟨0x380, .tile t, ctx, 0, word off, word (tileSrc t), true, false⟩)

/-- SPECULATIVE_ROW_ERROR: the row is marked bad and event 0x381 is posted; nothing stops. The same error in a committed
row is a machine check (R109, R124). -/
def execSpeculativeRowError (t : TileId) (row : Nat) (s : State) : Out :=
  let m := s.mtile t
  let ctx := match m.active with | some p => p.ctx | none => 0
  if m.win + m.spec ≤ row then .next s
  else if row < m.win then execUncorrectableCommittedError ctx (.tile t (row * m.rowBytes)) s
  else
    let lines := if m.lines.length ≤ row then freshLines (m.win + m.spec) else m.lines
    let s := s.setMtile t { m with lines := setNth lines row { m.line row with bad := true } }
    .next (s.takeFault ⟨0x381, .tile t, ctx, 0, 0, 0, false, false⟩)

/-- MATCHING_STORE_ECC: 0x382, and the context stops (R232, R233). -/
def execMatchingStoreEcc (t : TileId) (ctx : Nat) (s : State) : Out :=
  .next (s.takeFault ⟨0x382, .tile t, ctx, 0, 0, 0, true, false⟩)

/-- The contexts that have a plane in a region (R232). -/
def State.planesIn (s : State) (r : Nat) : List Nat :=
  let g := s.region r
  (g.activeCtx.toList ++ (g.shadow.map (·.ctx)).toList ++ g.reserved.toList).eraseDups

/-- CONFIGURATION_MEMORY_ECC: 0x383 on every context with a plane in the region (R232, R233). -/
def execConfigurationMemoryEcc (r : Nat) (s : State) : Out :=
  .next ((s.planesIn r).foldl (fun s n => s.takeFault ⟨0x383, .loader r, n, 0, 0, 0, true, false⟩) s)

end Sys2Proof.Machine
end

