-- ==== Sys2Proof/Machine/Dispatch.lean ====
section
/-!
DEFINITION. The one dispatch of an instruction or an event to its meaning.
-/

namespace Sys2Proof.Machine

/-- The effect of an instruction word that has issued, or of an event of the machine (R78). -/
def exec (i : Instr) (s : State) : Host.Outcome State Fault Refusal :=
  match i with
  | .powerOnBoot => Sys2Proof.Machine.execPowerOnBoot s
  | .thermalTrip die => Sys2Proof.Machine.execThermalTrip die s
  | .uncorrectableCommittedError ctx place => Sys2Proof.Machine.execUncorrectableCommittedError ctx place s
  | .speculativeRowError t row => Sys2Proof.Machine.execSpeculativeRowError t row s
  | .matchingStoreEcc t ctx => Sys2Proof.Machine.execMatchingStoreEcc t ctx s
  | .configurationMemoryEcc region => Sys2Proof.Machine.execConfigurationMemoryEcc region s
  | .bridgeLaneFail toward lane => Sys2Proof.Machine.execBridgeLaneFail toward lane s
  | .routerArbitrate t => Sys2Proof.Machine.execRouterArbitrate t s
  | .reassemblyTimeout t => Sys2Proof.Machine.execReassemblyTimeout t s
  | .throttleWindowEnd t => Sys2Proof.Machine.execThrottleWindowEnd t s
  | .linkFlitReceive port => Sys2Proof.Machine.execLinkFlitReceive port s
  | .gwynlinkPortDown port => Sys2Proof.Machine.execGwynlinkPortDown port s
  | .linkSilenceTimeout port => Sys2Proof.Machine.execLinkSilenceTimeout port s
  | .gangMarkerReceive port => Sys2Proof.Machine.execGangMarkerReceive port s
  | .routingTableLoad tables => Sys2Proof.Machine.execRoutingTableLoad tables s
  | .hostFeat => Sys2Proof.Machine.execHostFeat s
  | .hostCfgw => Sys2Proof.Machine.execHostCfgw s
  | .hostCfgwLoad => Sys2Proof.Machine.execHostCfgwLoad s
  | .hostLaunch => Sys2Proof.Machine.execHostLaunch s
  | .hostAttach => Sys2Proof.Machine.execHostAttach s
  | .epdataReadRequest => Sys2Proof.Machine.execEpdataReadRequest s
  | .epdataReadData => Sys2Proof.Machine.execEpdataReadData s
  | .epdataWriteData => Sys2Proof.Machine.execEpdataWriteData s
  | .epdataWriteAck => Sys2Proof.Machine.execEpdataWriteAck s
  | .hostAttest => Sys2Proof.Machine.execHostAttest s
  | .hostEnd => Sys2Proof.Machine.execHostEnd s
  | .hostMessageUnknown => Sys2Proof.Machine.execHostMessageUnknown s
  | .arbiterGrant => Sys2Proof.Machine.execArbiterGrant s
  | .seedInjection ctx => Sys2Proof.Machine.execSeedInjection ctx s
  | .tokenMatch t => Sys2Proof.Machine.execTokenMatch t s
  | .skeinRefill t => Sys2Proof.Machine.execSkeinRefill t s
  | .issue who => Sys2Proof.Machine.execIssue who s
  | .killMarkReceive t => Sys2Proof.Machine.execKillMarkReceive t s
  | .storeBufferRelease region => Sys2Proof.Machine.execStoreBufferRelease region s
  | .drainPass t node => Sys2Proof.Machine.execDrainPass t node s
  | .planeSwap region => Sys2Proof.Machine.execPlaneSwap region s
  | .spliceTileSwitch t => Sys2Proof.Machine.execSpliceTileSwitch t s
  | .bankWake t => Sys2Proof.Machine.execBankWake t s
  | .generatorStart t g => Sys2Proof.Machine.execGeneratorStart t g s
  | .generatorStop t g => Sys2Proof.Machine.execGeneratorStop t g s
  | .heldWriteResume t => Sys2Proof.Machine.execHeldWriteResume t s
  | .lineCommit t => Sys2Proof.Machine.execLineCommit t s
  | .pageWalk region => Sys2Proof.Machine.execPageWalk region s
  | .pagerFaultService die => Sys2Proof.Machine.execPagerFaultService die s
  | .parkedAccessReissue region => Sys2Proof.Machine.execParkedAccessReissue region s
  | .pageMigration ctx page => Sys2Proof.Machine.execPageMigration ctx page s
  | .verdictCellReply t => Sys2Proof.Machine.execVerdictCellReply t s
  | .sanrmCountReached t => Sys2Proof.Machine.execSanrmCountReached t s
  | .mmaExecute t => Sys2Proof.Machine.execMmaExecute t s
  | .blockFetch region bc => Sys2Proof.Machine.execBlockFetch region bc s
  | .blockCommit region bc => Sys2Proof.Machine.execBlockCommit region bc s
  | .blockStallTimeout region bc => Sys2Proof.Machine.execBlockStallTimeout region bc s
  | .markerDelivery ctx el => Sys2Proof.Machine.execMarkerDelivery ctx el s
  | .elementQuiet ctx el => Sys2Proof.Machine.execElementQuiet ctx el s
  | .eventRecordEnqueue region => Sys2Proof.Machine.execEventRecordEnqueue region s
  | .nop n => Sys2Proof.Machine.execNop n s
  | .mov n => Sys2Proof.Machine.execMov n s
  | .const n => Sys2Proof.Machine.execConst n s
  | .nullTok n => Sys2Proof.Machine.execNullTok n s
  | .steer n => Sys2Proof.Machine.execSteer n s
  | .gate n => Sys2Proof.Machine.execGate n s
  | .wave n => Sys2Proof.Machine.execWave n s
  | .bound n => Sys2Proof.Machine.execBound n s
  | .exitl n => Sys2Proof.Machine.execExitl n s
  | .pushf n => Sys2Proof.Machine.execPushf n s
  | .popf n => Sys2Proof.Machine.execPopf n s
  | .tagrd n => Sys2Proof.Machine.execTagrd n s
  | .tagwr n => Sys2Proof.Machine.execTagwr n s
  | .call n => Sys2Proof.Machine.execCall n s
  | .ret n => Sys2Proof.Machine.execRet n s
  | .join n => Sys2Proof.Machine.execJoin n s
  | .joinCount n => Sys2Proof.Machine.execJoinCount n s
  | .drainFabric n => Sys2Proof.Machine.execDrainFabric n s
  | .drainBlock n => Sys2Proof.Machine.execDrainBlock n s
  | .pchk n => Sys2Proof.Machine.execPchk n s
  | .br n => Sys2Proof.Machine.execBr n s
  | .brc n => Sys2Proof.Machine.execBrc n s
  | .bcall n => Sys2Proof.Machine.execBcall n s
  | .bret n => Sys2Proof.Machine.execBret n s
  | .grd n => Sys2Proof.Machine.execGrd n s
  | .gwr n => Sys2Proof.Machine.execGwr n s
  | .add n => Sys2Proof.Machine.execAdd n s
  | .sub n => Sys2Proof.Machine.execSub n s
  | .mul n => Sys2Proof.Machine.execMul n s
  | .mulh n => Sys2Proof.Machine.execMulh n s
  | .mad n => Sys2Proof.Machine.execMad n s
  | .div n => Sys2Proof.Machine.execDiv n s
  | .min n => Sys2Proof.Machine.execMin n s
  | .max n => Sys2Proof.Machine.execMax n s
  | .andI n => Sys2Proof.Machine.execAndI n s
  | .orI n => Sys2Proof.Machine.execOrI n s
  | .xorI n => Sys2Proof.Machine.execXorI n s
  | .andn n => Sys2Proof.Machine.execAndn n s
  | .shl n => Sys2Proof.Machine.execShl n s
  | .shr n => Sys2Proof.Machine.execShr n s
  | .sar n => Sys2Proof.Machine.execSar n s
  | .clz n => Sys2Proof.Machine.execClz n s
  | .popc n => Sys2Proof.Machine.execPopc n s
  | .cmp n => Sys2Proof.Machine.execCmp n s
  | .sel n => Sys2Proof.Machine.execSel n s
  | .ext n => Sys2Proof.Machine.execExt n s
  | .lea n => Sys2Proof.Machine.execLea n s
  | .fadd n => Sys2Proof.Machine.execFadd n s
  | .fsub n => Sys2Proof.Machine.execFsub n s
  | .fmul n => Sys2Proof.Machine.execFmul n s
  | .ffma n => Sys2Proof.Machine.execFfma n s
  | .fdiv n => Sys2Proof.Machine.execFdiv n s
  | .fsqrt n => Sys2Proof.Machine.execFsqrt n s
  | .frcp n => Sys2Proof.Machine.execFrcp n s
  | .frsq n => Sys2Proof.Machine.execFrsq n s
  | .fmin n => Sys2Proof.Machine.execFmin n s
  | .fmax n => Sys2Proof.Machine.execFmax n s
  | .fsgn n => Sys2Proof.Machine.execFsgn n s
  | .fcmp n => Sys2Proof.Machine.execFcmp n s
  | .fcls n => Sys2Proof.Machine.execFcls n s
  | .fcvt n => Sys2Proof.Machine.execFcvt n s
  | .frnd n => Sys2Proof.Machine.execFrnd n s
  | .fscl n => Sys2Proof.Machine.execFscl n s
  | .bcst n => Sys2Proof.Machine.execBcst n s
  | .shuf n => Sys2Proof.Machine.execShuf n s
  | .pack n => Sys2Proof.Machine.execPack n s
  | .unpk n => Sys2Proof.Machine.execUnpk n s
  | .vred n => Sys2Proof.Machine.execVred n s
  | .scan n => Sys2Proof.Machine.execScan n s
  | .tred n => Sys2Proof.Machine.execTred n s
  | .rng n => Sys2Proof.Machine.execRng n s
  | .ld n => Sys2Proof.Machine.execLd n s
  | .st n => Sys2Proof.Machine.execSt n s
  | .ldv n => Sys2Proof.Machine.execLdv n s
  | .stv n => Sys2Proof.Machine.execStv n s
  | .gth n => Sys2Proof.Machine.execGth n s
  | .sct n => Sys2Proof.Machine.execSct n s
  | .sctCompact n => Sys2Proof.Machine.execSctCompact n s
  | .ird n => Sys2Proof.Machine.execIrd n s
  | .iwr n => Sys2Proof.Machine.execIwr n s
  | .irst n => Sys2Proof.Machine.execIrst n s
  | .hin n => Sys2Proof.Machine.execHin n s
  | .hout n => Sys2Proof.Machine.execHout n s
  | .aadd n => Sys2Proof.Machine.execAadd n s
  | .amin n => Sys2Proof.Machine.execAmin n s
  | .amax n => Sys2Proof.Machine.execAmax n s
  | .alog n => Sys2Proof.Machine.execAlog n s
  | .axch n => Sys2Proof.Machine.execAxch n s
  | .acas n => Sys2Proof.Machine.execAcas n s
  | .red n => Sys2Proof.Machine.execRed n s
  | .mma n => Sys2Proof.Machine.execMma n s
  | .mmaz n => Sys2Proof.Machine.execMmaz n s
  | .acrd n => Sys2Proof.Machine.execAcrd n s
  | .acwr n => Sys2Proof.Machine.execAcwr n s
  | .scle n => Sys2Proof.Machine.execScle n s
  | .ctrn n => Sys2Proof.Machine.execCtrn n s
  | .vopen n => Sys2Proof.Machine.execVopen n s
  | .vacc n => Sys2Proof.Machine.execVacc n s
  | .vclose n => Sys2Proof.Machine.execVclose n s
  | .vchk n => Sys2Proof.Machine.execVchk n s
  | .vthrRaise n => Sys2Proof.Machine.execVthrRaise n s
  | .vthrReset n => Sys2Proof.Machine.execVthrReset n s
  | .vtopk n => Sys2Proof.Machine.execVtopk n s
  | .saadd n => Sys2Proof.Machine.execSaadd n s
  | .sanrm n => Sys2Proof.Machine.execSanrm n s
  | .sacnt n => Sys2Proof.Machine.execSacnt n s
  | .sazro n => Sys2Proof.Machine.execSazro n s
  | .saevc n => Sys2Proof.Machine.execSaevc n s
  | .salod n => Sys2Proof.Machine.execSalod n s
  | .lbind n => Sys2Proof.Machine.execLbind n s
  | .lfeed n => Sys2Proof.Machine.execLfeed n s
  | .lqry n => Sys2Proof.Machine.execLqry n s
  | .lsusp n => Sys2Proof.Machine.execLsusp n s
  | .lresm n => Sys2Proof.Machine.execLresm n s
  | .ldrop n => Sys2Proof.Machine.execLdrop n s
  | .cfgld n => Sys2Proof.Machine.execCfgld n s
  | .cfgsw n => Sys2Proof.Machine.execCfgsw n s
  | .splice n => Sys2Proof.Machine.execSplice n s
  | .launch n => Sys2Proof.Machine.execLaunch n s
  | .seed n => Sys2Proof.Machine.execSeed n s
  | .evwait n => Sys2Proof.Machine.execEvwait n s
  | .evpost n => Sys2Proof.Machine.execEvpost n s
  | .markFreeze n => Sys2Proof.Machine.execMarkFreeze n s
  | .markGang n => Sys2Proof.Machine.execMarkGang n s
  | .markResume n => Sys2Proof.Machine.execMarkResume n s
  | .snap n => Sys2Proof.Machine.execSnap n s
  | .rstr n => Sys2Proof.Machine.execRstr n s
  | .xlinv n => Sys2Proof.Machine.execXlinv n s
  | .throt n => Sys2Proof.Machine.execThrot n s
  | .sysrd n => Sys2Proof.Machine.execSysrd n s
  | .sysrdFltdrop n => Sys2Proof.Machine.execSysrdFltdrop n s
  | .syswrMode n => Sys2Proof.Machine.execSyswrMode n s
  | .syswrThrotwin n => Sys2Proof.Machine.execSyswrThrotwin n s
  | .syswr n => Sys2Proof.Machine.execSyswr n s
  | .trap n => Sys2Proof.Machine.execTrap n s
  | .halt n => Sys2Proof.Machine.execHalt n s
  | .gwynlinkPortRetrain port => Sys2Proof.Machine.execGwynlinkPortRetrain port s
  | .zeroingEnd what => Sys2Proof.Machine.execZeroingEnd what s
  | .newFirmwareImage image => Sys2Proof.Machine.execNewFirmwareImage image s

end Sys2Proof.Machine
end

