-- ==== Sys2Proof/Machine/Schedule.lean ====
section
/-!
DEFINITION. The model's own schedule (log 2): the moves that something in the state asks for, one of which a step takes
when the agenda names none. The spec fixes no order among them; time passing is always one of them. No statement rests on
the choice.
-/

namespace Sys2Proof.Machine

/-- A router has a flit to offer in this cycle (R177, R182). -/
def State.offers (s : State) (t : TileId) : Bool :=
  (s.ctile t).inject ≠ [] && (s.ctile t).router.arb ≤ s.cycle && (s.router t).injects ≤ s.cycle

/-- Some router has yet to arbitrate in this cycle (R178). -/
def State.meshWaits (s : State) : Bool := s.flits ≠ [] || s.ctiles.any fun x => s.offers x.1

/-- Cycles pass, one after another while flits are under way; each waits until every router has arbitrated (R177, R178). -/
def State.passCycles (s : State) : Nat → State
  | 0 => s
  | n + 1 =>
    if s.meshWaits then s
    else if s.next = [] ∧ s.late = [] then { s with cycle := s.cycle + (n + 1) }
    else ({ s with cycle := s.cycle + 1 }.meshCycle).passCycles n

/-- A move if a test holds. -/
def offer (b : Bool) (i : Instr) : List Move := if b then [.run i] else []

/-- What the head message asks for (R188). -/
def State.hostMoves (s : State) : List Move :=
  match s.hostIn with
  | [] => []
  | m :: _ =>
    if !m.known then [.run .hostMessageUnknown]
    else match m.kind with
      | 1 => [.run .hostFeat]
      | 2 =>
        if m.load then offer (!(s.pagerOwes (m.field 4 2))) .hostCfgwLoad else [.run .hostCfgw]
      | 3 => [.run .hostLaunch]
      | 4 => [.run .hostAttach]
      | 5 => match m.epOp with
        | 0 => [.run .epdataReadRequest]
        | 1 => [.run .epdataReadData]
        | 2 => [.run .epdataWriteData]
        | _ => [.run .epdataWriteAck]
      | 7 => [.run .hostAttest]
      | _ => [.run .hostEnd]

/-- The moves of the ports. -/
def State.portMoves (s : State) : List Move :=
  s.ports.flatMap fun (x : Nat × Port) =>
    offer (x.2.rx ≠ []) (.linkFlitReceive x.1) ++ offer (x.2.marks.head?.any (!s.markWaits ·)) (.gangMarkerReceive x.1)
      ++ offer (x.2.up && x.2.replays.any (16 ≤ ·)) (.gwynlinkPortDown x.1)
      ++ offer (x.2.up && x.2.lastRx + silenceCycles ≤ s.cycle) (.linkSilenceTimeout x.1)

/-- The moves of contexts. -/
def State.ctxMoves (s : State) : List Move :=
  offer (s.nextGrant.isSome || (s.ctxs.any fun c => s.unloaded c && !(s.pagerOwes c.num)) || s.ctxs.any s.programOver)
      .arbiterGrant
    ++ s.ctxs.flatMap fun c =>
      offer (s.configured c) (.seedInjection c.num)
        ++ (if c.st != .freezing then [] else
          (c.markers.map fun e => .run (.markerDelivery c.num e))
            ++ (c.quiet.filter (s.quietAt c)).map fun e => .run (.elementQuiet c.num e))

/-- The moves of a compute tile. -/
def State.computeMoves (s : State) (t : TileId) (c : CTile) : List Move :=
  offer (c.own.any (fun q => !(s.early t q)) || c.ingress.any (s.movable t)
      || (c.ingress.length < 64 && (c.stream ≠ [] || c.reasm.any fun x => x.whole && s.hasRoom t x.typ x.cargo)))
      (.tokenMatch t)
    ++ offer (c.refill.any fun q => !(c.holds (tagCtx q.tok.tag))) (.skeinRefill t)
    ++ offer ((s.readyEntry t).isSome || s.reseats t) (.issue (.tile t))
    ++ offer (c.kills ≠ []) (.killMarkReceive t) ++ offer (s.nextMma t).isSome (.mmaExecute t)
    ++ offer c.reading?.isSome (.verdictCellReply t)
    ++ (match c.active with
      | none => []
      | some p => if c.drains = [] then [] else
        ((List.range p.ins.length).filter (s.passes t)).map fun i => .run (.drainPass t i))
    ++ offer (s.offers t) (.routerArbitrate t)
    ++ offer (c.reasm.any fun x => x.since + 65536 ≤ s.cycle) (.reassemblyTimeout t)
    ++ offer (c.router.start + 1024 ≤ s.ownCycle t) (.throttleWindowEnd t)

/-- The routers that flits stand at. -/
def State.routerMoves (s : State) : List Move :=
  ((s.flits.map fun (x : TileId × Nat × Flit) => x.1).eraseDups.filter fun t => (s.ctile t).router.arb ≤ s.cycle).map
    fun t => .run (.routerArbitrate t)

/-- The moves of a memory tile. -/
def State.memoryMoves (s : State) (t : TileId) (m : MTile) : List Move :=
  offer (m.gated && m.active.isSome) (.bankWake t) ++ offer m.zeroing (.zeroingEnd (.tile t))
    ++ (m.gens.flatMap fun (x : Nat × Gen) => match x.2.run with
      | none => offer (x.2.waiting ≠ [] && !x.2.paused) (.generatorStart t x.1)
      | some op => if (x.2.pos = [] && x.2.chan = []) || op.walk.isSome then [.run (.generatorStop t x.1)] else [.element t x.1])
    ++ offer (m.waiting.any fun op => m.serves op && !(isCountWait op)) (.heldWriteResume t)
    ++ offer (!m.asleep && m.mode? = some 2 && m.waiting.any fun op => plainToken op && op.node = 1035) (.lineCommit t)
    ++ offer (!m.asleep && m.reads.any (countReached m t)) (.sanrmCountReached t)
    ++ offer (m.waiting.any fun op => 1024 ≤ op.node && op.ta.nul && s.tileDrained t op) (.drainPass t 0)

/-- The moves of a block context. -/
def State.blockMoves (s : State) (r bc : Nat) (x : BlockCtx) : List Move :=
  match x.st with
  | .idle | .stopped => []
  | .fetch _ => offer (!x.held && !(s.storesPending r bc) && !(s.pagerOwes x.ctx)) (.blockFetch r bc)
  | .run b =>
    ((List.range b.ins.length).filter b.canFire).map (fun n => .run (.issue (.block r bc n)))
      ++ offer (b.complete && !(s.pagerOwes x.ctx) && (List.range b.ins.length).all (!b.canFire ·)) (.blockCommit r bc)
      ++ offer (x.lastFire + 65536 ≤ s.cycle) (.blockStallTimeout r bc)

/-- The moves of a region. -/
def State.regionMoves (s : State) (r : Nat) (g : Region) : List Move :=
  offer (g.inbound.any fun i => takes? g.queue i.record) (.eventRecordEnqueue r)
    ++ offer (g.storeBuf.any fun op => s.mayPerform op (isStoreOpc op.opc)) (.storeBufferRelease r)
    ++ offer (g.walks ≠ []) (.pageWalk r) ++ (if g.requests = [] then [] else [.serve r])
    ++ offer (g.parked.any fun p => p.answered && !(s.frozenOp p.op)) (.parkedAccessReissue r)
    ++ offer (s.swapReady r) (.planeSwap r)
    ++ g.bcs.zipIdx.flatMap fun x => s.blockMoves r x.2 x.1

/-- The records that head what the Lace arrays hold (R205, R206). -/
def State.laceMoves (s : State) : List Move :=
  s.lace.flatMap fun (x : Nat × LaceArray) => match x.2.out with
    | .event r rec' :: _ => offer (takes? (s.region r).queue rec') (.eventRecordEnqueue r)
    | .fifo t _ :: _ => offer (s.mtile t).fifoRoom (.heldWriteResume t)
    | [] => if x.2.next.isSome then [.lace x.1] else []

/-- The operations whose wait is over. -/
def State.heldMoves (s : State) : List Move := s.held.flatMap fun h => offer (s.waitOver h) (.issue h.op.site)

/-- The tiles that a splice can switch. -/
def State.spliceMoves (s : State) : List Move :=
  s.ctxs.flatMap fun c => if c.splice.isNone then [] else
    ((s.spliceTiles c).filter (s.canSwitch c)).map fun t => .run (.spliceTileSwitch t)

/-- Every move that something asks for; time passes last. -/
def State.moves (s : State) : List Move :=
  if s.boot = .off then [.run .powerOnBoot]
  else
    s.hostMoves ++ s.portMoves ++ s.ctxMoves
      ++ (s.ctiles.flatMap fun (x : TileId × CTile) => s.computeMoves x.1 x.2)
      ++ s.routerMoves
      ++ (s.mtiles.flatMap fun (x : TileId × MTile) => s.memoryMoves x.1 x.2)
      ++ (s.regions.flatMap fun (x : Nat × Region) => s.regionMoves x.1 x.2)
      ++ s.heldMoves ++ s.laceMoves ++ s.spliceMoves
      ++ ([Die.w, Die.e].flatMap fun d =>
        offer (s.pager.faults.any fun x => x.1 = d && (s.servePage d x.2).isSome) (.pagerFaultService d))
      ++ ((s.pager.moving.filter (!s.moveWaits ·)).map fun x => .run (.pageMigration x.ctx x.base))
      ++ [.cycles 1]

/-- The move of a step that the agenda does not name: they come in turn. -/
def State.nextMove (s : State) : Move := nth (.cycles 1) s.moves (s.turn % s.moves.length)

/-- The operation that a word issues as when it is placed as the next instruction. -/
def fetchedOp (w : Word) : Issued :=
  let fabric := match decodeWord true w with | .ok _ => true | .error _ => false
  { site := if fabric then .tile ⟨.w, 0, 2⟩ else .block 0 0 0, word := w, ctx := 0, tag := 0, node := 0, draw := 0,
    a := none, b := none, c := none, p := none, konst := none, mode := ⟨.rne, false, false⟩, released := false,
    walk := none }

end Sys2Proof.Machine
end

