-- ==== Sys2Proof/Machine/Step.lean ====
section
/-!
DEFINITION. One step of the machine: the word that an element has issued runs, else the next entry of the agenda, else
the move that the model's own schedule chooses (logs 1 and 2).
-/

namespace Sys2Proof.Machine

/-- Perform one move. -/
def perform (m : Move) (s : State) : Host.Outcome State Fault Refusal :=
  match m with
  | .run i => exec i s
  | .cycles n => .next (s.passCycles n)
  | .element t g => .next (s.moveElement t g)
  | .serve r => .next (s.serveRequest r)
  | .lace a => .next (s.laceGo a)
  | .strike t port => .next (s.strike t port)

/-- One step. -/
def step (s : State) : Host.Outcome State Fault Refusal :=
  match s.issue with
  | some op =>
    match decodeWord (!siteIsBlock op.site) op.word with
    | .ok i => exec i s
    | .error _ => .fault .undecodable
  | none =>
    match s.agenda with
    | m :: rest => perform m { s with agenda := rest }
    | [] => perform s.nextMove { s with turn := s.turn + 1 }

/-- The state with an instruction standing where `step` takes its next one: the issued word of compute tile W(0, 2), or
of instruction 0 of a block context where the word is valid in block mode only. -/
def State.withFetchWord (s : State) (nbits w : Nat) : State :=
  { s with issue := some (fetchedOp (BitVec.ofNat 64 (w % 2 ^ nbits))) }

end Sys2Proof.Machine
end

