-- ==== Sys2Proof/Safety.lean ====
section
/-!
DEFINITION. What a claim may call a safe run: a step that answers a next state, and the form of memory that every
step keeps.
-/

namespace Sys2Proof.Machine

/-- The step goes on. -/
def Safe (s : State) : Prop := ∃ t, step s = .next t

/-- Every byte of the machine: main memory, and the banks of every memory tile (R112, R118). -/
def memOf (s : State) : List Host.Cell × (TileId → List Host.Cell) := (s.main.cells, fun t => (s.mtile t).banks)

/-- Every memory of the machine is in its canonical form: main memory and the banks of every memory tile. -/
def MemoryInv (s : State) : Prop := Memory.wf s = true ∧ ∀ t, cellsWf (s.mtile t).banks = true

end Sys2Proof.Machine
end

