-- ==== Sys2Proof/Certificates/Slice0/Obligations.lean ====
section
/-!
DEFINITION. The statements made of this model, each over every state and every operand that its hypotheses admit.
The vocabulary stands first in the namespace Claims: what the spec says of elements, tokens and tiles, said
without the model's own operations wherever a short way of saying it exists.
-/

namespace Sys2Proof.Claims

open Sys2Proof.Machine

/-- The state has `op` as its issued word, and the firing condition of `n` lets it run (R34, R82). -/
structure Issues (s : State) (op : Issued) (n : Niw) : Prop where
  issued : s.issue = some op
  fires : firing n.prd op = .run

/-- The state in which an issued operation has its effect: the word is taken, and in a block the count of cycles
without firing starts again (R45). -/
def after (s : State) (op : Issued) : State := ({ s with issue := none } : State).touch op

/-- The state once the word has been taken. -/
def taken (s : State) : State := { s with issue := none }

/-- Element `j` of a lane (R86). -/
def elemAt (f : Fmt) (lane j : Nat) : BitVec f.width := BitVec.ofNat f.width (lane / 2 ^ (f.width * j))

/-- Operand `k` of element `j`, of the lanes of all operands. -/
def operand (f : Fmt) (ls : List Nat) (k j : Nat) : BitVec f.width := elemAt f (ls.getD k 0) j

/-- Lane `i` of every operand; none where some operand's mask leaves it out (R23). -/
def lanesAt (vs : List Value) (i : Nat) : Option (List Nat) := vs.mapM fun v => laneAt v i

/-- How many lanes a value has. -/
def laneCount (v : Value) : Nat := if v.isVec then 16 else 1

/-- The word of a lane, whatever the mask says. -/
def rawLane (v : Value) (i : Nat) : Word :=
  match v with
  | .scalar w => w
  | .vector ls _ => ls.getD i 0

/-- A result has the operands' layout and mask (R23, R240): a vector if one of them is, a lane where every operand
has it, zero elsewhere, and element `j` of lane `i` is what `g` makes of the operands' lanes there. -/
structure ElementWise (f : Fmt) (vs : List Value) (g : List Nat → Nat → BitVec f.width) (v : Value) : Prop where
  shape : v.isVec = vs.any (·.isVec)
  part : ∀ i, i < laneCount v → ∀ ls, lanesAt vs i = some ls →
    laneAt v i = some (rawLane v i).toNat ∧ ∀ j, j < f.perLane → elemAt f (rawLane v i).toNat j = g ls j
  masked : ∀ i, i < laneCount v → lanesAt vs i = none → laneAt v i = none ∧ rawLane v i = 0

/-- The value of an integer element (R86). -/
def valueOf (f : Fmt) (x : BitVec f.width) : Int := if f.signed then x.toInt else (x.toNat : Int)

/-- The nearest value of an integer format (R86). -/
def limited (f : Fmt) (v : Int) : BitVec f.width :=
  if f.signed then BitVec.ofInt f.width (max (-(2 ^ (f.width - 1))) (min (2 ^ (f.width - 1) - 1) v))
  else BitVec.ofInt f.width (max 0 (min (2 ^ f.width - 1) v))

/-- The instruction completes: it emits a value of this element function under its own tag, predicate 1, with the
poison of its operands, to its targets (R23, R101, R239, R240). -/
def Gives (i : Instr) (s : State) (op : Issued) (n : Niw) (f : Fmt) (vs : List Value)
    (g : List Nat → Nat → BitVec f.width) : Prop :=
  ∃ v, exec i s = .next ((after s op).emit op n ⟨op.tag, v, true, op.poisoned, false⟩) ∧ ElementWise f vs g v

/-- The condition c of a comparison (R255): EQ, NE, LT, LE, GT, GE. -/
def condition (c : Nat) (a b : Int) : Prop :=
  (c = 0 ∧ a = b) ∨ (c = 1 ∧ a ≠ b) ∨ (c = 2 ∧ a < b) ∨ (c = 3 ∧ a ≤ b) ∨ (c = 4 ∧ a > b) ∨ (c = 5 ∧ a ≥ b)

end Sys2Proof.Claims

open Sys2Proof Sys2Proof.Machine Sys2Proof.Claims

/-- R51, R53, R78: the encoder and the decoder agree on every instruction that is well formed in a mode. -/
def Obligations.DecodeOfEncode : Prop :=
  ∀ (fabric : Bool) (i : Instr), i.wellFormed fabric = true →
    ∃ w, encode i = some w ∧ decodeWord fabric w = .ok i

/-- R51, R53, R79: what the decoder accepts in a mode is well formed in it, and its word is the one it was read
from, so that no bit of a word is dropped and no two words stand for one instruction. -/
def Obligations.DecodedIsEncoded : Prop :=
  ∀ (fabric : Bool) (w : BitVec 64) (i : Instr), decodeWord fabric w = .ok i →
    i.wellFormed fabric = true ∧ encode i = some w

/-- R51: the fields of a word stand where the spec puts them. The word is built here by shifting each field to its
place, and the decoder of its fields gives every one of them back. -/
def Obligations.FieldsOfWord : Prop :=
  ∀ (opc : BitVec 8) (fmt : Fmt) (rnd : Rnd) (prd : Prd) (ari : BitVec 2) (xw : Bool) (imm : BitVec 8)
    (s0 s1 s2 : Slot) (d0 d1 d2 : BitVec 9),
    fieldsOf (opc.setWidth 64 <<< 56 ||| BitVec.ofNat 64 fmt.code <<< 52 ||| BitVec.ofNat 64 rnd.code <<< 49
        ||| BitVec.ofNat 64 prd.code <<< 47 ||| ari.setWidth 64 <<< 45 ||| (BitVec.ofBool xw).setWidth 64 <<< 44
        ||| imm.setWidth 64 <<< 36
        ||| (1#64 <<< 35 ||| BitVec.ofNat 64 s0.code <<< 33 ||| d0.setWidth 64 <<< 24)
        ||| (1#64 <<< 23 ||| BitVec.ofNat 64 s1.code <<< 21 ||| d1.setWidth 64 <<< 12)
        ||| (1#64 <<< 11 ||| BitVec.ofNat 64 s2.code <<< 9 ||| d2.setWidth 64))
      = .ok ⟨fmt, rnd, prd, ari, xw, imm, some ⟨s0, d0⟩, some ⟨s1, d1⟩, some ⟨s2, d2⟩⟩

/-- R79, R51, R53, R76, R239: the causes with which words that stand for no instruction are refused: a reserved opcode
is 0x040, an opcode of the other mode 0x044, a format that the entry does not accept 0x042, RND = 111 is 0x043, and a
target with V = 0 and another bit set is 0x041.
The model's choice in it: of several bad fields, the one that its order of the checks meets first gives the cause, log 53. -/
def Obligations.RefusedWords : Prop :=
  (∀ fabric (w : BitVec 64), rule (w.toNat / 2 ^ 56) = none → decodeWord fabric w = .error 0x040) ∧
  (∀ (w : BitVec 64) r, rule (w.toNat / 2 ^ 56) = some r → r.fab = false → decodeWord true w = .error 0x044) ∧
  (∀ (w : BitVec 64) r, rule (w.toNat / 2 ^ 56) = some r → r.blk = false → decodeWord false w = .error 0x044) ∧
  (∀ fabric (w : BitVec 64) r, rule (w.toNat / 2 ^ 56) = some r → (if fabric then r.fab else r.blk) = true →
    r.fmts.testBit (w.toNat / 2 ^ 52 % 16) = false → decodeWord fabric w = .error 0x042) ∧
  (∀ fabric (w : BitVec 64), headCause fabric w = none → w.toNat / 2 ^ 49 % 8 = 7 →
    decodeWord fabric w = .error 0x043) ∧
  (∀ fabric (w : BitVec 64), headCause fabric w = none → w.toNat / 2 ^ 49 % 8 ≠ 7 →
    w.toNat / 2 ^ 35 % 2 = 0 → w.toNat / 2 ^ 24 % 2 ^ 11 ≠ 0 → decodeWord fabric w = .error 0x041)

/-- R78: words written out from the encodings of the spec, field by field (opcode, FMT, RND, PRD, ARI, XW, IMM8, and
the targets V, SLOT, DEST), and the instructions that they stand for. -/
def Obligations.DecodeSamples : Prop :=
  -- ADD Z32, two operands, to slot a of entry 0
  decodeWord true 0x2060400800000000 = .ok (.add ⟨.z32, .rne, .always, 2, false, 0, some ⟨.a, 0⟩, none, none⟩) ∧
  -- RET to slot a of entry 10
  decodeWord true 0x0E0020080A000000 = .ok (.ret ⟨.s8, .rne, .always, 1, false, 0, some ⟨.a, 10⟩, none, none⟩) ∧
  -- FFMA F32 rounded to nearest, three operands, to slot b of entry 3
  decodeWord true 0x43E0600A03000000 = .ok (.ffma ⟨.f32, .rne, .always, 3, false, 0, some ⟨.b, 3⟩, none, none⟩) ∧
  -- LD Z64 with its base in the constant table, to slot a of entry 1
  decodeWord true 0x7070300801000000 = .ok (.ld ⟨.z64, .rne, .always, 1, true, 0, some ⟨.a, 1⟩, none, none⟩) ∧
  -- BR of a block
  decodeWord false 0x1200200000000000 = .ok (.br ⟨.s8, .rne, .always, 1, false, 0, none, none, none⟩) ∧
  -- MARK #2 of a control tile's block
  decodeWord false 0xE700402000000000 = .ok (.markResume ⟨.s8, .rne, .always, 2, false, 2, none, none, none⟩) ∧
  -- VTHR raise F32, two operands
  decodeWord true 0xA4E0400000000000 = .ok (.vthrRaise ⟨.f32, .rne, .always, 2, false, 0, none, none, none⟩) ∧
  -- an opcode that the map leaves out
  decodeWord true 0xFF00000000000000 = .error 0x040

/-- R86, R240, R245, R293, R295, R299, R326: the arithmetic of integer elements. ADD and SUB wrap, or clamp where SAT is
set; MUL gives the low and MULH the high half of the product; MAD forms a·b + c modulo 2^w; MIN and MAX take one of
their elements as the format orders them. Each completes for every operand. -/
def Obligations.IntegerArithmetic : Prop :=
  ∀ (s : State) (op : Issued) (n : Niw), Issues s op n → n.fmt.isFloat = false →
    let vs := operandVals op n (splat n.fmt)
    let a := fun (ls : List Nat) j => operand n.fmt ls 0 j
    let b := fun (ls : List Nat) j => operand n.fmt ls 1 j
    let c := fun (ls : List Nat) j => operand n.fmt ls 2 j
    let val := valueOf n.fmt
    (n.imm.getLsbD 7 = false → Gives (.add n) s op n n.fmt vs fun ls j => a ls j + b ls j) ∧
    (n.imm.getLsbD 7 = true → Gives (.add n) s op n n.fmt vs fun ls j => limited n.fmt (val (a ls j) + val (b ls j))) ∧
    (n.imm.getLsbD 7 = false → Gives (.sub n) s op n n.fmt vs fun ls j => a ls j - b ls j) ∧
    (n.imm.getLsbD 7 = true → Gives (.sub n) s op n n.fmt vs fun ls j => limited n.fmt (val (a ls j) - val (b ls j))) ∧
    (Gives (.mul n) s op n n.fmt vs fun ls j => a ls j * b ls j) ∧
    (Gives (.mulh n) s op n n.fmt vs fun ls j => BitVec.ofInt n.fmt.width (val (a ls j) * val (b ls j) / 2 ^ n.fmt.width)) ∧
    (Gives (.mad n) s op n n.fmt vs fun ls j => a ls j * b ls j + c ls j) ∧
    (Gives (.min n) s op n n.fmt vs fun ls j => if val (a ls j) ≤ val (b ls j) then a ls j else b ls j) ∧
    (Gives (.max n) s op n n.fmt vs fun ls j => if val (a ls j) ≤ val (b ls j) then b ls j else a ls j) ∧
    -- a constant operand is one element in every position
    (∀ (w : Word) j, j < n.fmt.perLane → elemAt n.fmt (splat n.fmt w).toNat j = w.setWidth n.fmt.width)

/-- R240, R245, R254, R302, R305, R314, R320, R340: the bitwise operations, the shifts (a count of w or more shifts every
bit out, and SAR then leaves copies of bit w − 1), the counts of leading zeros and of set bits, and SEL. -/
def Obligations.BitwiseAndShifts : Prop :=
  ∀ (s : State) (op : Issued) (n : Niw), Issues s op n → n.fmt.isFloat = false →
    let vs := operandVals op n (splat n.fmt)
    let a := fun (ls : List Nat) j => operand n.fmt ls 0 j
    let b := fun (ls : List Nat) j => operand n.fmt ls 1 j
    (Gives (.andI n) s op n n.fmt vs fun ls j => a ls j &&& b ls j) ∧
    (Gives (.orI n) s op n n.fmt vs fun ls j => a ls j ||| b ls j) ∧
    (Gives (.xorI n) s op n n.fmt vs fun ls j => a ls j ^^^ b ls j) ∧
    (Gives (.andn n) s op n n.fmt vs fun ls j => a ls j &&& ~~~ b ls j) ∧
    (Gives (.shl n) s op n n.fmt vs fun ls j => a ls j <<< (b ls j).toNat) ∧
    (Gives (.shr n) s op n n.fmt vs fun ls j => a ls j >>> (b ls j).toNat) ∧
    (Gives (.sar n) s op n n.fmt vs fun ls j => (a ls j).sshiftRight (b ls j).toNat) ∧
    (Gives (.clz n) s op n n.fmt vs fun ls j => (a ls j).clz) ∧
    (Gives (.popc n) s op n n.fmt vs fun ls j =>
      BitVec.ofNat n.fmt.width ((List.range n.fmt.width).countP fun k => (a ls j).getLsbD k)) ∧
    (Gives (.sel n) s op n n.fmt vs fun ls j => if operand n.fmt ls 2 j = 0 then b ls j else a ls j)

/-- R240, R258: DIV gives the quotient truncated toward zero, or with bit 0 of IMM8 the remainder, signed or not as the
format is, when no divisor is zero; a zero divisor among the elements that take part raises 0x0C2 and nothing is
emitted. -/
def Obligations.Division : Prop :=
  ∀ (s : State) (op : Issued) (n : Niw), Issues s op n → n.fmt.isFloat = false →
    let vs := operandVals op n (splat n.fmt)
    let a := fun (ls : List Nat) j => operand n.fmt ls 0 j
    let b := fun (ls : List Nat) j => operand n.fmt ls 1 j
    let zero := ∃ i ls j, i < (if vs.any (·.isVec) then 16 else 1) ∧ lanesAt vs i = some ls ∧ j < n.fmt.perLane ∧ b ls j = 0
    (¬ zero → Gives (.div n) s op n n.fmt vs fun ls j =>
      match n.fmt.signed, n.imm.getLsbD 0 with
      | true, false => (a ls j).sdiv (b ls j)
      | true, true => (a ls j).srem (b ls j)
      | false, false => (a ls j).udiv (b ls j)
      | false, true => (a ls j).umod (b ls j)) ∧
    (zero → exec (.div n) s = .next ((after s op).opFault op 0x0C2 0 0))

/-- R255, R263, R292: CMP gives 1 or 0 per element and a predicate that holds when some element takes part and every one
that does compares true; EXT takes the field that its descriptor names, extended as the format says, and nothing when it
starts at or above the element's width; LEA adds a shifted lane to a lane modulo 2^64.
The model's choices in it: that EXT reads its descriptor whole is log 13. -/
def Obligations.CompareExtractAddress : Prop :=
  ∀ (s : State) (op : Issued) (n : Niw), Issues s op n → n.fmt.isFloat = false →
    (let vs := operandVals op n (splat n.fmt)
     let hold := fun (ls : List Nat) j => condition (n.imm.toNat / 8 % 8)
       (valueOf n.fmt (operand n.fmt ls 0 j)) (valueOf n.fmt (operand n.fmt ls 1 j))
     n.imm.toNat / 8 % 8 < 6 → ∃ v pred,
      exec (.cmp n) s = .next ((after s op).emit op n ⟨op.tag, v, pred, op.poisoned, false⟩) ∧
      (∃ g, ElementWise n.fmt vs g v ∧ ∀ ls j, (hold ls j → g ls j = 1) ∧ (¬ hold ls j → g ls j = 0)) ∧
      (pred = true ↔ (∃ i, i < laneCount v ∧ (lanesAt vs i).isSome) ∧
        ∀ i ls j, i < laneCount v → lanesAt vs i = some ls → j < n.fmt.perLane → hold ls j)) ∧
    (Gives (.ext n) s op n n.fmt (operandVals op n id) fun ls j =>
      let d := ls.getD 1 0
      let p := d % 64
      let l := d / 64 % 64 + 1
      let k := min (p + l) n.fmt.width - p
      if n.fmt.width ≤ p then 0
      else if n.fmt.signed then ((operand n.fmt ls 0 j).extractLsb' p k).signExtend n.fmt.width
      else ((operand n.fmt ls 0 j).extractLsb' p k).setWidth n.fmt.width) ∧
    (Gives (.lea n) s op n .s64 (operandVals op n id) fun ls _ =>
      BitVec.ofNat 64 (ls.getD 0 0) + BitVec.ofNat 64 (ls.getD 1 0) <<< (n.imm.toNat % 64))

namespace Sys2Proof.Claims

open Sys2Proof.Machine

/-- The element of operand `k` at position `j`, in the format in which the node reads that operand: zero where the
format does not reach, and a constant's one element in every position (R59, R264). -/
def floatOperand (e : FloatEnv) (ls : List Nat) (k j : Nat) : Nat :=
  if e.kon = some k then (elemAt (e.fmtOf k) (ls.getD k 0) 0).toNat
  else if j < (e.fmtOf k).perLane then (elemAt (e.fmtOf k) (ls.getD k 0) j).toNat else 0

/-- The exact operands at position `j` (R87, R89). -/
def exacts (e : FloatEnv) (ls : List Nat) (j : Nat) : List Exact :=
  (List.range ls.length).map fun k => decodeElem (e.fmtOf k) (floatOperand e ls k j)

/-- No operand at position `j` is an abandoned value, nor, in trap mode, a NaR (R93, R265). -/
def readable (e : FloatEnv) (ls : List Nat) (j : Nat) : Bool :=
  (List.range ls.length).all fun k => !abandonedElem (e.fmtOf k) (floatOperand e ls k j)
    && !(e.ntrp && isNaR (e.fmtOf k) (floatOperand e ls k j))

/-- An exact result rounded once into the destination, with whether it sets poison: where every operand was finite or
the destination is tapered, and the result is not (R60, R96, R98, R101); none where the destination cannot take it (0x0C5). -/
def rounded (e : FloatEnv) (i j : Nat) (finite : Bool) (x : Exact) : Option (Nat × Bool) :=
  (convertTo e.dest e.rnd e.sat (if e.nneg && x.neg then Exact.rat false 0 1 else x) (e.u i j)).map fun c =>
    (c, e.psn && (finite || tapered e.dest) && e.dest.isFloat && nonFinite e.dest c)

/-- Stage 5 on an element that the node has formed in format `f`: converted with CVE = 1, else a negative one is zero with
NNEG = 1 and any other keeps its bits (R60). -/
def stageFive (e : FloatEnv) (f : Fmt) (i j v : Nat) : Option (Nat × Bool) :=
  let x := decodeElem f v
  if e.cve then rounded e i j x.finite x else some (if e.nneg && x.neg then 0 else v, false)

/-- The code that a float operation leaves at element `j` of lane `i`. -/
def floatCode (e : FloatEnv) (g : List Exact → Exact) (i j : Nat) (ls : List Nat) : Option (Nat × Bool) :=
  if readable e ls j then rounded e i j ((exacts e ls j).all (·.finite)) (g (exacts e ls j)) else none

/-- Lanes of `count` elements each made by `code`, in the operands' lanes; positions above them are zero. -/
structure CodeWise (dest : Fmt) (count : Nat) (vs : List Value) (code : Nat → Nat → List Nat → Option (Nat × Bool))
    (v : Value) (psn : Bool) : Prop where
  shape : v.isVec = vs.any (·.isVec)
  part : ∀ i, i < laneCount v → ∀ ls, lanesAt vs i = some ls →
    laneAt v i = some (rawLane v i).toNat ∧ ∀ j, j < dest.perLane → (elemAt dest (rawLane v i).toNat j).toNat =
      if j < count then (((code i j ls).map (·.1)).getD 0) % 2 ^ dest.width else 0
  masked : ∀ i, i < laneCount v → lanesAt vs i = none → laneAt v i = none ∧ rawLane v i = 0
  poison : psn = true ↔ ∃ i ls j, i < laneCount v ∧ lanesAt vs i = some ls ∧ j < count ∧
    (code i j ls).any (·.2) = true

/-- No element that takes part fails. -/
def allGiven (count : Nat) (vs : List Value) (code : Nat → Nat → List Nat → Option (Nat × Bool)) : Prop :=
  ∀ i ls j, i < (if vs.any (·.isVec) then 16 else 1) → lanesAt vs i = some ls → j < count → code i j ls ≠ none

/-- Where no element fails, the instruction emits a value of these codes with predicate 1. -/
def GivesCodes (i : Instr) (s : State) (op : Issued) (n : Niw) (dest : Fmt) (count : Nat) (vs : List Value)
    (code : Nat → Nat → List Nat → Option (Nat × Bool)) : Prop :=
  allGiven count vs code → ∃ v psn,
    exec i s = .next ((after s op).emit op n ⟨op.tag, v, true, op.poisoned || psn, false⟩) ∧
    CodeWise dest count vs code v psn

/-- Stage 5 on a formed value whose elements are of format `f`: it passes unchanged where the node does not convert (R60). -/
def Fused (e : FloatEnv) (f : Fmt) (v w : Value) (psn : Bool) : Prop :=
  if e.cve || e.nneg then
    CodeWise e.dest f.perLane [v] (fun i j ls => stageFive e f i j (elemAt f (ls.getD 0 0) j).toNat) w psn
  else w = v ∧ psn = false

/-- Stage 5 finds every element of a formed value convertible. -/
def fusable (e : FloatEnv) (f : Fmt) (v : Value) : Prop :=
  (e.cve || e.nneg) = true → allGiven f.perLane [v] fun i j ls => stageFive e f i j (elemAt f (ls.getD 0 0) j).toNat

/-- The instruction emits a value that it has formed in elements of FMT, after stage 5 (R60). -/
def EmitsFused (i : Instr) (s : State) (op : Issued) (n : Niw) (v : Value) : Prop :=
  let e := (after s op).floatEnv op n n.fmt false
  fusable e n.fmt v → ∃ w psn, Fused e n.fmt v w psn ∧
    exec i s = .next ((after s op).emit op n ⟨op.tag, w, true, op.poisoned || psn, false⟩)

/-- The value of an exact number that is rational. -/
def ratValue : Exact → ℚ
  | .rat s n d => (if s then -1 else 1) * (n : ℚ) / d
  | _ => 0

end Sys2Proof.Claims

/-- R60, R94 to R101, R264 to R266, R270 to R272: every arithmetic float instruction decodes its operands, takes the exact
result and rounds it once into its destination; a value that leaves the finite numbers sets poison in poison mode.
The model's choices in it: the constants of the generator are log 11, that NNEG acts with CVE = 0 is log 54, and FRND's ties
are log 12. -/
def Obligations.FloatArithmetic : Prop :=
  ∀ (s : State) (op : Issued) (n : Niw), Issues s op n → n.fmt.isFloat = true →
    let e := (after s op).floatEnv op n n.fmt false
    let gives (i : Instr) (g : List Exact → Exact) : Prop :=
      GivesCodes i s op n e.dest n.fmt.perLane (operandVals op n id) (floatCode e g)
    let x (xs : List Exact) (k : Nat) : Exact := xs.getD k .nan
    let down : Bool := e.rnd = .rdn
    gives (.fadd n) (fun xs => (x xs 0).add down (x xs 1)) ∧
    gives (.fsub n) (fun xs => (x xs 0).add down (x xs 1).negate) ∧
    gives (.fmul n) (fun xs => (x xs 0).mul (x xs 1)) ∧
    gives (.ffma n) (fun xs => ((x xs 0).mul (x xs 1)).add down (x xs 2)) ∧
    gives (.fdiv n) (fun xs => (x xs 0).div (x xs 1)) ∧
    gives (.fsqrt n) (fun xs => (x xs 0).sqrt) ∧
    gives (.frcp n) (fun xs => (Exact.rat false 1 1).div (x xs 0)) ∧
    gives (.frsq n) (fun xs => (x xs 0).rsqrt) ∧
    gives (.fmin n) (fun xs => pickNumber false (x xs 0) (x xs 1)) ∧
    gives (.fmax n) (fun xs => pickNumber true (x xs 0) (x xs 1)) ∧
    (GivesCodes (.frnd n) s op n e.dest n.fmt.perLane (operandVals op n id) fun i j ls =>
      floatCode e (fun xs => roundIntegral n.fmt e.rnd (x xs 0) (e.u i j)) i j ls)

/-- R93, R265: an abandoned value among the elements that take part raises 0x0C0, and nothing is emitted. -/
def Obligations.AbandonedOperand : Prop :=
  ∀ (s : State) (op : Issued) (n : Niw), Issues s op n → n.fmt.isFloat = true →
    let e := (after s op).floatEnv op n n.fmt false
    e.ntrp = false → e.dest.isFloat = true →
    (∃ i ls j k, i < (if (operandVals op n id).any (·.isVec) then 16 else 1) ∧ lanesAt (operandVals op n id) i = some ls ∧
      j < n.fmt.perLane ∧ k < ls.length ∧ abandonedElem (e.fmtOf k) (floatOperand e ls k j) = true) →
    ∀ i ∈ [Instr.fadd n, .fsub n, .fmul n, .ffma n, .fdiv n, .fsqrt n, .frcp n, .frsq n, .fmin n, .fmax n, .frnd n, .fcmp n],
      exec i s = .next ((after s op).opFault op 0x0C0 0 0)

/-- R94, R266, R271: the exact operations, as arithmetic of rational numbers, and what they give for zeros, infinities
and NaN. -/
def Obligations.ExactOperations : Prop :=
  (∀ (down s t : Bool) (n d m e : Nat), 0 < d → 0 < e →
    let x := Exact.rat s n d
    let y := Exact.rat t m e
    (ratValue (x.add down y) = ratValue x + ratValue y ∧ (x.add down y).finite = true ∧
      (s ≠ t → ratValue x + ratValue y = 0 → (x.add down y).neg = down) ∧ (s = t → (x.add down y).neg = s)) ∧
    (ratValue (x.mul y) = ratValue x * ratValue y ∧ (x.mul y).finite = true ∧ (x.mul y).neg = (s != t)) ∧
    (0 < m → ratValue (x.div y) = ratValue x / ratValue y ∧ (x.div y).finite = true ∧ (x.div y).neg = (s != t)) ∧
    (0 < n → m = 0 → x.div y = .inf (s != t)) ∧ (n = 0 → m = 0 → x.div y = .nan) ∧
    (0 < n → s = false → ∃ a b, x.sqrt = .root false a b ∧ (a : ℚ) / b = ratValue x) ∧
    (0 < n → s = true → x.sqrt = .nan ∧ x.rsqrt = .nan) ∧
    (n = 0 → x.sqrt.isZero = true ∧ x.sqrt.neg = s ∧ x.rsqrt = .inf s) ∧
    (0 < n → s = false → ∃ a b, x.rsqrt = .root false a b ∧ (a : ℚ) / b = 1 / ratValue x) ∧
    (∀ k : Int, ratValue (x.scale k) = ratValue x * (2 : ℚ) ^ k ∧ (x.scale k).neg = s) ∧
    (∀ u, (Exact.inf u).add down y = .inf u ∧ x.add down (.inf u) = .inf u ∧
      (0 < n → x.mul (.inf u) = .inf (s != u)) ∧ (n = 0 → x.mul (.inf u) = .nan) ∧
      (x.div (.inf u)).isZero = true ∧ (x.div (.inf u)).neg = (s != u) ∧ (Exact.inf u).div y = .inf (u != t))) ∧
  (∀ down s t, (Exact.inf s).add down (.inf t) = (if s = t then .inf s else .nan) ∧
    (Exact.inf s).mul (.inf t) = .inf (s != t) ∧ (Exact.inf s).div (.inf t) = .nan ∧
    (Exact.inf false).sqrt = .inf false ∧ (Exact.inf true).sqrt = .nan ∧ (Exact.inf true).rsqrt = .nan ∧
    ratValue (Exact.inf false).rsqrt = 0) ∧
  (∀ down x, Exact.nan.add down x = .nan ∧ x.add down .nan = .nan ∧ Exact.nan.mul x = .nan ∧ x.mul .nan = .nan ∧
    Exact.nan.div x = .nan ∧ x.div .nan = .nan ∧ Exact.nan.sqrt = .nan ∧ Exact.nan.rsqrt = .nan)

namespace Sys2Proof.Claims

open Sys2Proof.Machine

/-- A finite number other than zero. -/
def isNumber : Exact → Prop
  | .rat _ n d | .root _ n d => 0 < n ∧ 0 < d
  | _ => False

/-- The magnitude of a number is at least `r`, which is not negative. -/
def reaches : Exact → ℚ → Prop
  | .rat _ n d, r => r ≤ (n : ℚ) / d
  | .root _ n d, r => r ^ 2 ≤ (n : ℚ) / d
  | _, _ => False

/-- The magnitude of a number is above `r`, which is not negative. -/
def exceeds : Exact → ℚ → Prop
  | .rat _ n d, r => r < (n : ℚ) / d
  | .root _ n d, r => r ^ 2 < (n : ℚ) / d
  | _, _ => False

/-- A mode chooses `hi`, of the neighbours `lo` < |x| < `hi`, for a sign and the least significant bit of the code of `lo`; a
draw takes it where u < ⌊2^32·(|x| − lo)/(hi − lo)⌋ (R95, R96). -/
def choosesHi (mode : Rnd) (odd : Bool) (x : Exact) (lo hi : ℚ) (u : Nat) : Prop :=
  match mode with
  | .rne => exceeds x ((lo + hi) / 2) ∨ (reaches x ((lo + hi) / 2) ∧ odd = true)
  | .rtz => False
  | .rup => x.neg = false
  | .rdn => x.neg = true
  | .rna => reaches x ((lo + hi) / 2)
  | .sto => reaches x (lo + ((u : ℚ) + 1) * (hi - lo) / 2 ^ 32)
  | .ctx => False

/-- One of two answers, by the neighbour that a mode chooses. -/
def byChoice (c : Prop) {α : Type} (y hi lo : α) : Prop := (c → y = hi) ∧ (¬ c → y = lo)

end Sys2Proof.Claims

/-- R87, R89, R95 to R98: a code of a float or tapered format is the code of its own value, and every number that a format can
hold is rounded to itself, in every mode, whatever the draw. A number between two codes goes to the one that the mode chooses;
a tapered format keeps what lies beyond its range at its ends; beyond the largest finite magnitude of a binary format the
mode chooses between that and the next step, and what reaches or passes the next step overflows, to an infinity, the largest
magnitude or a NaN, as mode, format and saturate bit say. Conversion to an integer rounds by the mode to a neighbouring
integer, which is clamped, or refused, out of range. -/
def Obligations.Rounding : Prop :=
  (∀ (f : Fmt) (v : Nat), f.isFloat = true → v < 2 ^ f.width → decodeElem f v ≠ .nan →
    ∀ mode sat u, roundTo f mode sat (decodeElem f v) u = v) ∧
  (∀ (f : Fmt) (x : Exact) (mode : Rnd) (sat : Bool) (u : Nat), f.isFloat = true → isNumber x → mode ≠ .ctx →
    let mag (c : Nat) : ℚ := ratValue (decodeElem f c)
    let code (c : Nat) : Nat := (if x.neg then 2 ^ (f.width - 1) else 0) + c
    let top := maxCode f
    let next : ℚ := 2 * mag top - mag (top - 1)
    let past : Nat :=
      if sat then code top
      else if f = .e4m3 then 0x7F
      else match mode with
        | .rtz => code top
        | .rup => if x.neg then code top else code (top + 1)
        | .rdn => if x.neg then code (top + 1) else code top
        | _ => code (top + 1)
    (∀ c, c ≤ top → reaches x (mag c) → ¬ exceeds x (mag c) → roundTo f mode sat x u = code c) ∧
    (∀ c, c < top → (tapered f = true → 0 < c) → exceeds x (mag c) → ¬ reaches x (mag (c + 1)) →
      byChoice (choosesHi mode (c % 2 = 1) x (mag c) (mag (c + 1)) u) (roundTo f mode sat x u) (code (c + 1)) (code c)) ∧
    (tapered f = true → (exceeds x (mag top) → roundTo f mode sat x u = code top) ∧
      (¬ reaches x (mag 1) → roundTo f mode sat x u = code 1)) ∧
    (tapered f = false →
      (exceeds x (mag top) → ¬ reaches x next →
        byChoice (choosesHi mode (top % 2 = 1) x (mag top) next u) (roundTo f mode sat x u) past (code top)) ∧
      (reaches x next → roundTo f mode sat x u = past))) ∧
  (∀ (f : Fmt) (mode : Rnd) (sat : Bool) (u : Nat), f.isFloat = true →
    let sign (s : Bool) : Nat := if s then 2 ^ (f.width - 1) else 0
    roundTo f mode sat .nan u = nanCode f ∧
    (∀ s d, 0 < d → roundTo f mode sat (.rat s 0 d) u = if tapered f then 0 else sign s) ∧
    (∀ s, roundTo f mode sat (.inf s) u =
      if tapered f then 2 ^ (f.width - 1)
      else if f = .e4m3 then (if sat then sign s + maxCode f else 0x7F) else sign s + (maxCode f + 1)) ∧
    (∀ x, convertTo f mode sat x u = some (roundTo f mode sat x u))) ∧
  (∀ (f : Fmt) (x : Exact) (mode : Rnd) (sat : Bool) (u : Nat), f.isFloat = false → mode ≠ .ctx →
    let least : Int := if f.signed then -2 ^ (f.width - 1) else 0
    let most : Int := if f.signed then 2 ^ (f.width - 1) - 1 else 2 ^ f.width - 1
    let put (v : Int) : Option Nat :=
      if least ≤ v ∧ v ≤ most then some (BitVec.ofInt f.width v).toNat
      else if sat then some (BitVec.ofInt f.width (max least (min most v))).toNat else none
    let signed (m : Nat) : Int := if x.neg then -(m : Int) else m
    (isNumber x → ∀ q : Nat, reaches x q → ¬ reaches x (q + 1) →
      (¬ exceeds x q → convertTo f mode sat x u = put (signed q)) ∧
      (exceeds x q → byChoice (choosesHi mode (q % 2 = 1) x q (q + 1) u) (convertTo f mode sat x u)
        (put (signed (q + 1))) (put (signed q)))) ∧
    (∀ s d, 0 < d → convertTo f mode sat (.rat s 0 d) u = some 0) ∧
    convertTo f mode sat .nan u = (if sat then some 0 else none) ∧
    (∀ s, convertTo f mode sat (.inf s) u =
      if sat then some (BitVec.ofInt f.width (if s then least else most)).toNat else none))

/-- R267 to R269, R273, R274: FSCL multiplies by a power of two and rounds once (an exponent past
±8,192 is taken as that, the model's choice of log 47, which no format tells apart); FSGN changes the sign bit alone (not of a
tapered zero or NaR), each operand read in the format that stage 2 names, and stage 5 converts it where the node fuses; FCMP compares values, unordered ones only for the
conditions that say so; FCLS gives class codes; FCVT converts elements h·c to h·c + c − 1 of every lane, integers by
truncation or clamping and all others through their exact value.
The model's choices in it: that NNEG acts with CVE = 0 is log 54, the sign of FSGN under an override is log 55, and
the position that counts for FCVT's draws is log 87. -/
def Obligations.FloatScaleSignCompareConvert : Prop :=
  ∀ (s : State) (op : Issued) (n : Niw), Issues s op n →
    let e := (after s op).floatEnv op n n.fmt false
    (n.fmt.isFloat = true →
      GivesCodes (.fscl n) s op n e.dest n.fmt.perLane (operandVals op n id) fun i j ls =>
        let v := floatOperand e ls 0 j
        let k := BitVec.ofNat n.fmt.width (floatOperand { e with fmtB := n.fmt } ls 1 j)
        if abandonedElem e.fmtA v || (e.ntrp && isNaR e.fmtA v) then none
        else rounded e i j (decodeElem e.fmtA v).finite ((decodeElem e.fmtA v).scale (max (-8192) (min 8192 k.toInt)))) ∧
    (n.fmt.isFloat = true →
      GivesCodes (.fsgn n) s op n e.dest n.fmt.perLane (operandVals op n id) fun i j ls =>
        let a := floatOperand e ls 0 j
        let top := e.fmtA.width - 1
        let sign := if n.imm.toNat / 8 % 4 = 0 then !a.testBit top
          else if n.imm.toNat / 8 % 4 = 1 then false else (floatOperand e ls 1 j).testBit (e.fmtB.width - 1)
        let r := (if tapered e.fmtA && a % 2 ^ top = 0 then a else sign.toNat * 2 ^ top + a % 2 ^ top) % 2 ^ n.fmt.width
        let x := decodeElem n.fmt r
        if e.cve then rounded e i j x.finite x else some (if e.nneg && x.neg then 0 else r, false)) ∧
    (n.fmt.isFloat = true →
      let hold (ls : List Nat) (j : Nat) : Bool :=
        let o := ((exacts e ls j).getD 0 .nan).cmp ((exacts e ls j).getD 1 .nan)
        match n.imm.toNat / 8 % 8 with
        | 0 => o = some .eq | 1 => o ≠ some .eq | 2 => o = some .lt | 3 => o = some .lt || o = some .eq
        | 4 => o = some .gt | 5 => o = some .gt || o = some .eq | 6 => o = none | _ => o ≠ none
      let code (_ j : Nat) (ls : List Nat) : Option (Nat × Bool) :=
        if readable e ls j then some ((hold ls j).toNat, false) else none
      let vs := operandVals op n id
      allGiven n.fmt.perLane vs code → ∃ v pred,
        exec (.fcmp n) s = .next ((after s op).emit op n ⟨op.tag, v, pred, op.poisoned, false⟩) ∧
        CodeWise n.fmt n.fmt.perLane vs code v false ∧
        (pred = true ↔ (∃ i, i < laneCount v ∧ (lanesAt vs i).isSome) ∧
          ∀ i ls j, i < laneCount v → lanesAt vs i = some ls → j < n.fmt.perLane → hold ls j = true)) ∧
    (n.fmt.isFloat = true →
      let vs := operandVals op n id
      let cls (ls : List Nat) (j : Nat) : Nat := classOf e.fmtA (floatOperand e ls 0 j)
      ∃ v pred, exec (.fcls n) s = .next ((after s op).emit op n ⟨op.tag, v, pred, op.poisoned, false⟩) ∧
        CodeWise n.fmt n.fmt.perLane vs (fun _ j ls => some (cls ls j, false)) v false ∧
        (pred = true ↔ (∃ i, i < laneCount v ∧ (lanesAt vs i).isSome) ∧
          ∀ i ls j, i < laneCount v → lanesAt vs i = some ls → j < n.fmt.perLane →
            n.imm.getLsbD (classBit (cls ls j)) = true ∧ (n.imm.getLsbD 7 = true → cls ls j ≤ 3))) ∧
    (let d := Fmt.ofCode (n.imm.toNat % 16)
     let e := (after s op).floatEnv op n d (n.imm.getLsbD 4)
     let c := min n.fmt.perLane d.perLane
     let h := n.imm.toNat / 32
     GivesCodes (.fcvt n) s op n e.dest c (operandVals op n id) fun i j ls =>
       let p := h * c + j
       let x := if p < n.fmt.perLane then floatOperand e ls 0 p else 0
       let v := valueOf e.fmtA (BitVec.ofNat e.fmtA.width x)
       if e.fmtA.isFloat then
         (if abandonedElem e.fmtA x || (e.ntrp && isNaR e.fmtA x) then none
          else rounded e i j (decodeElem e.fmtA x).finite (decodeElem e.fmtA x))
       else if e.dest.isFloat then rounded e i j true (.rat (v < 0) v.natAbs 1)
       else some ((if e.sat then limited e.dest v else BitVec.ofInt e.dest.width v).toNat, false))

namespace Sys2Proof.Claims

open Sys2Proof.Machine

/-- The instruction completes: it emits this value under its own tag, with this predicate and the poison of its
operands, to its targets. -/
def Emits (i : Instr) (s : State) (op : Issued) (n : Niw) (v : Value) (pred : Bool) : Prop :=
  exec i s = .next ((after s op).emit op n ⟨op.tag, v, pred, op.poisoned, false⟩)

/-- The source lane of a swizzle (R58): identity, reversal, rotation, broadcast, butterfly, transposition. -/
def sourceLane (mode arg n : Nat) : Nat :=
  if mode = 1 then 15 - n
  else if mode = 2 then (n + arg) % 16
  else if mode = 3 then arg
  else if mode = 4 then n ^^^ 2 ^ arg
  else if mode = 5 then n / 4 + 4 * (n % 4)
  else n

/-- Two elements combined by a reduction: o = 0 adds, 1 takes the smaller and 2 the larger (R103). -/
def merged (f : Fmt) (rnd : Rnd) (o a b : Nat) : Nat :=
  let x := BitVec.ofNat f.width a
  let y := BitVec.ofNat f.width b
  if f.isFloat then
    (if o = 0 then roundTo f rnd false ((decodeElem f a).add (rnd = .rdn) (decodeElem f b)) 0
     else roundTo f .rne false (pickNumber (o ≠ 1) (decodeElem f a) (decodeElem f b)) 0)
  else if o = 0 then (x + y).toNat
  else if o = 1 then (if valueOf f x ≤ valueOf f y then x else y).toNat
  else (if valueOf f x ≤ valueOf f y then y else x).toNat

/-- The same where a position may be absent: an absent one passes the other unchanged (R103). -/
def merged? (f : Fmt) (rnd : Rnd) (o : Nat) (x y : Option Nat) : Option Nat :=
  match x, y with
  | some a, some b => some (merged f rnd o a b)
  | some a, none => some a
  | none, y => y

/-- The canonical tree of height `h` over leaves in index order: its left half is the tree over the first 2^(h−1) leaves
(R103). -/
def canonical (f : Fmt) (rnd : Rnd) (o : Nat) : Nat → List (Option Nat) → Option Nat
  | 0, l => l.head?.join
  | h + 1, l => merged? f rnd o (canonical f rnd o h (l.take (2 ^ h))) (canonical f rnd o h (l.drop (2 ^ h)))

/-- Element `p` of a token in position order: lane p / (64/w), element p mod (64/w); none where its lane takes no part
(R315). -/
def position (f : Fmt) (v : Value) (p : Nat) : Option Nat :=
  if p < laneCount v * f.perLane then
    (laneAt v (p / f.perLane)).map fun l => (elemAt f l (p % f.perLane)).toNat
  else none

/-- All positions of a token. -/
def allPositions (f : Fmt) (v : Value) : List (Option Nat) :=
  (List.range (laneCount v * f.perLane)).map (position f v)

end Sys2Proof.Claims

/-- R23, R58, R248, R303, R309, R321, R335: the lane moves. BCST fills every lane with lane l; SHUF takes each lane from the lane that its mode or its index names; PACK gathers one
element of each lane into consecutive positions, cut or clamped; UNPK spreads elements over lanes, sign-extended for
signed formats; stage 5 may convert both where FMT is a float or tapered format; RNG draws 64 bits for each lane that takes
part.
The model's choices in it: the lanes that BCST's mask clears are log 14, and stage 5 on PACK and UNPK is log 29. -/
def Obligations.LaneMoves : Prop :=
  ∀ (s : State) (op : Issued) (n : Niw), Issues s op n →
    (∃ v, Emits (.bcst n) s op n v true ∧ v.isVec = true ∧ ∀ i, i < 16 →
      let l := if op.ta.isVec then n.imm.toNat % 16 else 0
      if (laneAt op.ta.val l).isSome
      then rawLane v i = rawLane op.ta.val l ∧ (laneAt v i).isSome = (laneAt op.ta.val i).isSome
      else laneAt v i = none ∧ rawLane v i = 0) ∧
    (n.ari = 1 → op.ta.isVec = false → Emits (.shuf n) s op n op.ta.val true) ∧
    (n.ari = 1 → op.ta.isVec = true → ∃ v, Emits (.shuf n) s op n v true ∧ v.isVec = true ∧ ∀ i, i < 16 →
      let j := sourceLane (n.imm.toNat / 16) (n.imm.toNat % 16) i
      j < 16 → laneAt v i = laneAt op.ta.val j ∧ (laneAt op.ta.val j = none → rawLane v i = 0)) ∧
    (n.ari = 2 → op.ta.isVec = false → op.tb.isVec = false → Emits (.shuf n) s op n op.ta.val true) ∧
    (n.ari = 2 → op.ta.isVec = false → op.tb.isVec = true → exec (.shuf n) s = .next ((after s op).opFault op 0x042 0 0)) ∧
    (n.ari = 2 → op.ta.isVec = true → ∃ v, Emits (.shuf n) s op n v true ∧ v.isVec = true ∧ ∀ i, i < 16 →
      let j := (rawLane op.tb.val i).toNat % 16
      if (laneAt op.tb.val i).isSome then laneAt v i = laneAt op.ta.val j else laneAt v i = none ∧ rawLane v i = 0) ∧
    (let k := n.fmt.perLane
     let cut (l : Nat) : BitVec n.fmt.width :=
       if n.imm.getLsbD 0 then limited n.fmt (if n.fmt.signed then (BitVec.ofNat 64 l).toInt else (l : Int))
       else BitVec.ofNat n.fmt.width l
     (n.imm.getLsbD 0 = true → n.fmt.isFloat = false) →
     ∃ v, EmitsFused (.pack n) s op n v ∧ v.isVec = op.ta.isVec ∧
      (op.ta.isVec = false → v = .scalar (word (cut op.ta.word.toNat).toNat)) ∧
      (op.ta.isVec = true → ∀ i, i < 16 →
        ((laneAt v i).isSome = true ↔ ∃ p, p < 16 ∧ p / k = i ∧ (laneAt op.ta.val p).isSome = true) ∧
        ∀ j, j < k → elemAt n.fmt (rawLane v i).toNat j =
          if k * i + j < 16 then ((laneAt op.ta.val (k * i + j)).map cut).getD 0 else 0)) ∧
    (∃ v, EmitsFused (.unpk n) s op n v ∧ v.isVec = true ∧ ∀ p, p < 16 →
      laneAt v p = (position n.fmt op.ta.val p).map (fun e =>
        (if n.fmt.signed then (BitVec.ofNat n.fmt.width e).signExtend 64 else BitVec.ofNat 64 e).toNat) ∧
      (position n.fmt op.ta.val p = none → rawLane v p = 0)) ∧
    (let key := (after s op).drawKey op
     let c0 := if siteIsBlock op.site then op.ta.word.toNat % 2 ^ 32 else key.2.1
     let c1 := if siteIsBlock op.site then op.ta.word.toNat / 2 ^ 32 else key.2.2
     ∃ v, Emits (.rng n) s op n v true ∧ v.isVec = op.ta.isVec ∧ ∀ i, i < laneCount v →
      let r := philox key.1 c0 c1 (2 ^ 31 + 256 * op.draw + n.imm.toNat) i
      if (laneAt op.ta.val i).isSome then rawLane v i = word (r.1 + 2 ^ 32 * r.2.1) ∧ (laneAt v i).isSome
      else laneAt v i = none ∧ rawLane v i = 0)

/-- R103, R315, R337: VRED combines the elements of one token by the canonical tree; with none that takes part it emits
zero with predicate 0. SCAN leaves at each position the combination, from the left, of the elements up to it, or before
it in the exclusive form, starting from the identity. Stage 5 may convert both. A float add whose mode resolves to STO
raises 0x041.
The model's choices in it: that NNEG acts with CVE = 0 is log 54, and the 0x041 of RND 110 is log 87. -/
def Obligations.Reductions : Prop :=
  ∀ (s : State) (op : Issued) (n : Niw), Issues s op n →
    let e := (after s op).floatEnv op n n.fmt false
    let ps := allPositions n.fmt op.ta.val
    let o := n.imm.toNat % 4
    let finite := ps.all fun x => x.all fun v => !nonFinite n.fmt v
    let five := stageFive e n.fmt
    let drawn : Bool := e.rnd = .sto && n.fmt.isFloat && o = 0
    (drawn = true → ∀ i ∈ [Instr.vred n, .scan n], exec i s = .next ((after s op).opFault op 0x041 0 0)) ∧
    (drawn = false → o < 3 → (ps.all fun x => x.all fun v => !abandonedElem n.fmt v) = true →
    ((∀ x ∈ ps, x = none) → Emits (.vred n) s op n (.scalar 0) false) ∧
    (∀ r, canonical n.fmt e.rnd o (clog2 ps.length) ps = some r →
      let bad := e.psn && n.fmt.isFloat && nonFinite n.fmt r && finite
      ∀ c, five 0 0 r = some c → exec (.vred n) s = .next ((after s op).emit op n
        ⟨op.tag, .scalar (word (c.1 % 2 ^ e.dest.width)), true, op.poisoned || (c.2 || bad), false⟩)) ∧
    (let start : Nat := if n.fmt.isFloat then (if o = 0 then 0 else signBit n.fmt (o = 2) + (maxCode n.fmt + 1))
        else if o = 0 then 0 else if o = 1 then (BitVec.ofInt n.fmt.width (intMax n.fmt)).toNat
        else (BitVec.ofInt n.fmt.width (intMin n.fmt)).toNat
     let upTo (p : Nat) : Nat := (ps.take p).foldl (fun acc x => (merged? n.fmt e.rnd o (some acc) x).getD acc) start
     let at' (i j : Nat) : Nat := upTo (i * n.fmt.perLane + j + if n.imm.getLsbD 2 then 0 else 1)
     let code (i j : Nat) (_ : List Nat) : Option (Nat × Bool) := five i j (at' i j)
     let bad : Prop := e.psn = true ∧ n.fmt.isFloat = true ∧ finite = true ∧
       ∃ i ls j, i < laneCount op.ta.val ∧ lanesAt [op.ta.val] i = some ls ∧ j < n.fmt.perLane ∧ nonFinite n.fmt (at' i j) = true
     allGiven n.fmt.perLane [op.ta.val] code → ∃ v psn psn',
      exec (.scan n) s = .next ((after s op).emit op n ⟨op.tag, v, true, op.poisoned || psn', false⟩) ∧
      CodeWise e.dest n.fmt.perLane [op.ta.val] code v psn ∧ (psn' = true ↔ psn = true ∨ bad)))

namespace Sys2Proof.Claims

open Sys2Proof.Machine

/-- The widths of the first `k` fields together (R24). -/
def widthOfFirst (ws : List Nat) (k : Nat) : Nat := (ws.take k).sum

/-- A tag from its CTX, DEPTH and field area (R24). -/
def tagOf (ctx depth area : Nat) : Word := BitVec.ofNat 64 (ctx * 2 ^ 52 + depth * 2 ^ 48 + area)

/-- CTX, DEPTH and field area of a tag (R24). -/
def ctxOf (t : Word) : Nat := t.toNat / 2 ^ 52
/-- DEPTH. -/
def depthOf (t : Word) : Nat := t.toNat / 2 ^ 48 % 16
/-- The field area. -/
def areaOf (t : Word) : Nat := t.toNat % 2 ^ 48

/-- Field `k` of a tag, from the outermost (R24). -/
def fieldOfTag (ws : List Nat) (t : Word) (k : Nat) : Nat :=
  areaOf t / 2 ^ (48 - widthOfFirst ws (k + 1)) % 2 ^ ws.getD k 4

/-- The tag with value `v` pushed as a new innermost field (R25). -/
def pushed (ws : List Nat) (t : Word) (v : Nat) : Word :=
  tagOf (ctxOf t) (depthOf t + 1) ((areaOf t + v * 2 ^ (48 - widthOfFirst ws (depthOf t + 1))) % 2 ^ 48)

/-- A push is allowed: fewer than twelve fields, room in the area, and a value that fits (R25). -/
def pushable (ws : List Nat) (t : Word) (v : Nat) : Prop :=
  depthOf t < 12 ∧ widthOfFirst ws (depthOf t + 1) ≤ 48 ∧ v < 2 ^ ws.getD (depthOf t) 4

/-- The tag without its innermost field (R25). -/
def popped (ws : List Nat) (t : Word) : Word :=
  tagOf (ctxOf t) (depthOf t - 1)
    (areaOf t / 2 ^ (48 - widthOfFirst ws (depthOf t - 1)) * 2 ^ (48 - widthOfFirst ws (depthOf t - 1)))

/-- The innermost field's value (R25). -/
def innermostOf (ws : List Nat) (t : Word) : Nat := fieldOfTag ws t (depthOf t - 1)

/-- The tag with field `k` set to `v` (R331). -/
def withField (ws : List Nat) (t : Word) (k v : Nat) : Word :=
  tagOf (ctxOf t) (depthOf t) (areaOf t - fieldOfTag ws t k * 2 ^ (48 - widthOfFirst ws (k + 1))
    + v * 2 ^ (48 - widthOfFirst ws (k + 1)))

/-- Emits slot a's value under another tag. -/
def Retags (i : Instr) (s : State) (op : Issued) (n : Niw) (tag : Word) : Prop :=
  exec i s = .next ((after s op).emit op n ⟨tag, op.ta.val, true, op.poisoned, false⟩)

/-- The instruction takes the exception of this cause, and does nothing else. -/
def Faults (i : Instr) (s : State) (op : Issued) (cause : Nat) : Prop :=
  exec i s = .next ((after s op).opFault op cause 0 0)

/-- No gathering of this aggregate tag is under way at the node. -/
def noGather (s : State) (t : TileId) (c : Ctx) (tag : Word) (node : Nat) : Prop :=
  (∀ e ∈ (s.ctile t).entries, e.tag = tag → e.node = node → e.agg = .none) ∧ c.skein = []

/-- CONST, NULL and GRD take PRD 11 as 00 (R256, R276, R301). -/
def unbubbled (n : Niw) : Niw := { n with prd := if n.prd = .bub then .always else n.prd }

/-- Instruction `op` runs in a block that has not counted an exit. -/
structure InBlock (s : State) (op : Issued) (r bc : Nat) (b : Block) : Prop where
  site : ∃ k, op.site = .block r bc k
  held : op.released = false
  runs : s.block? r bc = some b

end Sys2Proof.Claims

/-- R34, R256, R284, R275, R298, R300, R301, R304, R325: NOP consumes; MOV, JOIN and GATE pass slot a on; CONST emits its
constant; NULL emits nulls; PCHK replaces the predicate by its test; STEER picks one of two targets. -/
def Obligations.MovesAndSteering : Prop :=
  ∀ (s : State) (op : Issued) (n : Niw),
    (Issues s op n →
      exec (.nop n) s = .next (after s op) ∧ Emits (.mov n) s op n op.ta.val true ∧
      Emits (.join n) s op n op.ta.val true ∧ Emits (.gate n) s op n op.ta.val true ∧
      (let some? := ∃ i l, laneAt op.ta.val i = some l ∧ i < laneCount op.ta.val
       let all := ∀ i l, i < laneCount op.ta.val → laneAt op.ta.val i = some l → l ≠ 0
       let any := ∃ i l, i < laneCount op.ta.val ∧ laneAt op.ta.val i = some l ∧ l ≠ 0
       let m := n.imm.toNat % 4
       let test := (m = 0 ∧ op.ta.pred = true) ∨ (m = 1 ∧ some? ∧ all) ∨ (m = 2 ∧ any) ∨ (m = 3 ∧ op.ta.psn = true)
       ∃ p, Emits (.pchk n) s op n op.ta.val p ∧ (p = true ↔ (test ↔ n.imm.getLsbD 2 = false)))) ∧
    (Issues s op (unbubbled n) →
      Emits (.const n) s op n (.scalar (op.konst.getD 0)) true ∧
      exec (.nullTok n) s = .next ((after s op).emit op n ⟨op.tag, .scalar 0, true, false, true⟩)) ∧
    (s.issue = some op → (∀ p ∈ op.p, p.nul = false) →
      let first := ((n.prd = .always ∨ n.prd = .bub) ∧ op.ta.pred = true) ∨ (n.prd = .ift ∧ ∀ p ∈ op.p, p.pred = true) ∨
        (n.prd = .iff ∧ ∀ p ∈ op.p, p.pred = false)
      let tok : Tok := ⟨op.tag, op.ta.val, true, op.poisoned, op.ta.nul⟩
      (first → exec (.steer n) s = .next ((after s op).emit1 op n.t0 tok)) ∧
      (¬ first → exec (.steer n) s = .next ((after s op).emit1 op n.t1 tok)))

/-- R24, R25, R250, R306, R330: PUSHF and CALL push a field, POPF pops the innermost, TAGRD reads a part of the tag; a push
that does not fit raises 0x081 and a pop or a field that is not there 0x082. -/
def Obligations.TagFields : Prop :=
  ∀ (s : State) (op : Issued) (n : Niw), Issues s op n →
    let ws := (after s op).widths op
    let t := op.tag
    let d := depthOf t
    (n.ari ≠ 2 → (pushable ws t n.imm.toNat → Retags (.pushf n) s op n (pushed ws t n.imm.toNat)) ∧
      (¬ pushable ws t n.imm.toNat → Faults (.pushf n) s op 0x081)) ∧
    (n.ari = 2 → op.tb.isVec = false →
      (pushable ws t op.tb.word.toNat → Retags (.pushf n) s op n (pushed ws t op.tb.word.toNat)) ∧
      (¬ pushable ws t op.tb.word.toNat → Faults (.pushf n) s op 0x081)) ∧
    (n.ari = 2 → op.tb.isVec = true → Faults (.pushf n) s op 0x042) ∧
    (pushable ws t n.imm.toNat → Retags (.call n) s op n (pushed ws t n.imm.toNat)) ∧
    (¬ pushable ws t n.imm.toNat → Faults (.call n) s op 0x081) ∧
    (0 < d → Retags (.popf n) s op n (popped ws t)) ∧ (d = 0 → Faults (.popf n) s op 0x082) ∧
    (let part := n.imm.toNat / 16 % 4
     let k := n.imm.toNat % 16
     (part = 0 → k < d → Emits (.tagrd n) s op n (.scalar (word (fieldOfTag ws t (d - 1 - k)))) true) ∧
     (part = 0 → d ≤ k → Faults (.tagrd n) s op 0x082) ∧
     (part = 1 → Emits (.tagrd n) s op n (.scalar (word (ctxOf t))) true) ∧
     (part = 2 → Emits (.tagrd n) s op n (.scalar (word d)) true) ∧
     (part = 3 → Emits (.tagrd n) s op n (.scalar t) true))

/-- R40, R308, R331: RET pops the call-site field s and emits to the route entry s above TGT0's, 0x045 past the table's end;
TAGWR writes a field, or in a system context the CTX or the whole tag. -/
def Obligations.ReturnsAndTagWrites : Prop :=
  ∀ (s : State) (op : Issued) (n : Niw), Issues s op n →
    let ws := (after s op).widths op
    let t := op.tag
    let d := depthOf t
    (∀ u p t0, op.site = .tile u → (s.ctile u).active = some p → n.t0 = some t0 → 0 < d →
      let k := t0.dest.toNat + innermostOf ws t
      (k < p.routes.length → exec (.ret n) s = .next ((after s op).route op u k t0.slot
        (stage6 p ⟨popped ws t, op.ta.val, true, op.poisoned, false⟩))) ∧
      (p.routes.length ≤ k → Faults (.ret n) s op 0x045)) ∧
    (d = 0 → Faults (.ret n) s op 0x082) ∧
    (op.tb.isVec = true → Faults (.tagwr n) s op 0x042) ∧
    (op.tb.isVec = false →
      let part := n.imm.toNat / 16 % 4
      let k := n.imm.toNat % 16
      let v := op.tb.word.toNat
      let system := (after s op).isSystem op.ctx
      (part = 0 → d ≤ k → Faults (.tagwr n) s op 0x082) ∧
      (part = 0 → k < d → v < 2 ^ ws.getD (d - 1 - k) 4 → Retags (.tagwr n) s op n (withField ws t (d - 1 - k) v)) ∧
      (part = 0 → k < d → 2 ^ ws.getD (d - 1 - k) 4 ≤ v → Faults (.tagwr n) s op 0x081) ∧
      (part ≠ 0 → system = false → Faults (.tagwr n) s op 0x103) ∧
      (part = 1 → system = true → v < 4096 → Retags (.tagwr n) s op n (tagOf v d (areaOf t))) ∧
      (part = 1 → system = true → 4096 ≤ v → Faults (.tagwr n) s op 0x081) ∧
      (2 ≤ part → system = true → depthOf op.tb.word ≤ 12 → widthOfFirst ws (depthOf op.tb.word) ≤ 48 →
        areaOf op.tb.word % 2 ^ (48 - widthOfFirst ws (depthOf op.tb.word)) = 0 →
        Retags (.tagwr n) s op n op.tb.word) ∧
      (2 ≤ part → system = true → ¬ (depthOf op.tb.word ≤ 12 ∧ widthOfFirst ws (depthOf op.tb.word) ≤ 48 ∧
        areaOf op.tb.word % 2 ^ (48 - widthOfFirst ws (depthOf op.tb.word)) = 0) → Faults (.tagwr n) s op 0x081))

/-- R35, R38, R249, R262, R338: BOUND opens a loop instance with its window and emits iteration 0; WAVE records its
iteration as continuing and emits under the next one; EXITL sets the kill mark and emits under the entering tag once every
earlier iteration has continued, and is held until then; above the kill mark a token is discarded. A second BOUND of an
entering tag, or a second resolution of an iteration, raises 0x085. Under SPLICE a tile that has not switched yet has the
instances of the predecessor.
The model's choices in it: the region that a record holds, and the predecessor's instances, are log 70. -/
def Sys2Proof.Claims.Loops : Prop :=
  ∀ (s : State) (op : Issued) (n : Niw) (t : TileId) (c : Ctx), Issues s op n → op.site = .tile t →
    (after s op).ctx? op.ctx = some c →
    let s1 := after s op
    let ws := s1.widths op
    let d := depthOf op.tag
    let behind := c.behind op.site
    let loops := if behind then c.former else c.loops
    let room := c.skein.length + (c.loops.length + c.former.length) < 2 ^ c.skl
    let tok (tag : Word) : Tok := ⟨tag, op.ta.val, true, op.poisoned, false⟩
    (n.imm ≠ 0 → (∀ r ∈ loops, r.tag ≠ op.tag) → pushable ws op.tag 0 → room →
      exec (.bound n) s = .next ((s1.mapCtx c.launch (·.mapGen behind (·.putLoop
          ⟨op.tag, some (t, op.node), some n.imm.toNat, 0, [], [], [], [], false, none, [], some (regionOf t)⟩))).emit op n
        (tok (pushed ws op.tag 0)))) ∧
    (n.imm = 0 ∨ (∃ r ∈ loops, r.tag = op.tag) → Faults (.bound n) s op 0x085) ∧
    (d = 0 → Faults (.wave n) s op 0x082 ∧ Faults (.exitl n) s op 0x082) ∧
    (0 < d → ∀ old, loops.find? (·.tag = popped ws op.tag) = some old →
      let r := { old with home := some (old.home.getD (regionOf t)) }
      let i := innermostOf ws op.tag
      let below := ∀ k ∈ r.kill, i ≤ k
      let fresh := i ∉ r.cont ∧ i ∉ r.exited
      (below → fresh → i + 1 < 2 ^ ws.getD (d - 1) 4 →
        exec (.wave n) s = .next ((s1.resolveLoop behind c { r with cont := i :: r.cont }).emit op n
          (tok (withField ws op.tag (d - 1) (i + 1))))) ∧
      (below → fresh → 2 ^ ws.getD (d - 1) 4 ≤ i + 1 → Faults (.wave n) s op 0x081) ∧
      (¬ fresh → Faults (.wave n) s op 0x085 ∧ Faults (.exitl n) s op 0x085) ∧
      (¬ below → fresh → exec (.wave n) s = .next s1 ∧ exec (.exitl n) s = .next s1) ∧
      (below → fresh → (∀ k, k < i → k ∈ r.cont) → decodeWord true op.word = .ok (.exitl n) →
        exec (.exitl n) s = .next (((s1.loopChanged behind c { r with exited := i :: r.exited, kill := some i, exits := [] }).broadcastKill
          behind c (popped ws op.tag) i).emit op n (tok (popped ws op.tag)))) ∧
      (below → fresh → (∃ k, k < i ∧ k ∉ r.cont) →
        exec (.exitl n) s = .next (s1.loopChanged behind c { r with exited := i :: r.exited, exits := r.exits ++ [op] })))

/-- R33, R127, R259, R285, R333, R334: TRED and the counting JOIN gather their inputs under the popped tag. A single input
is the whole; the first of two waits in the store; the second completes the count, and the two combine in index order
whatever their order of arrival. DRAIN in fabric mode sends a null token to every target. -/
def Sys2Proof.Claims.Gathering : Prop :=
  ∀ (s : State) (op : Issued) (n : Niw) (t : TileId) (c : Ctx), Issues s op n → op.site = .tile t →
    (after s op).ctx? op.ctx = some c →
    let s1 := after s op
    let ws := s1.widths op
    let g := popped ws op.tag
    let j := innermostOf ws op.tag
    let e := s1.floatEnv op n n.fmt false
    let u := s1.ctile t
    (exec (.drainFabric n) s = .next (s1.emitTo op (s1.drainTargets op n) ⟨op.tag, .scalar 0, true, false, true⟩)) ∧
    (0 < depthOf op.tag → n.imm = 0x80 → j = 0 → noGather s1 t c g op.node →
      exec (.joinCount n) s = .next (s1.emit op n ⟨g, .scalar (completion 1 .tile false 0 |||
        (op.ta.word &&& 0x00003FFF00000000)), true, op.poisoned, false⟩)) ∧
    (0 < depthOf op.tag → n.imm = 0x81 → j < 2 → noGather s1 t c g op.node → ∀ p, u.active = some p →
      s1.launched? c.launch = some c → u.noWay c (Entry.gather g op.node (.count [(j, op.ta.word)] op.poisoned)) = false →
      exec (.joinCount n) s = .next (s1.setCtile t { u with entries := u.entries ++
        [{ Entry.gather g op.node (.count [(j, op.ta.word)] op.poisoned) with way := true }] })) ∧
    (0 < depthOf op.tag → n.imm = 0x81 → j < 2 → ∀ w psn rest x,
      takeFirst (fun e : Entry => e.tag = g && e.node = op.node && e.agg ≠ .none) u.entries = some (x, rest) →
      x.agg = .count [(1 - j, w)] psn →
      let a := if j = 0 then op.ta.word else w
      let b := if j = 0 then w else op.ta.word
      let cause (x : Word) : Nat := x.toNat / 2 ^ 36 % 1024
      exec (.joinCount n) s = .next ((s1.setCtile t { u with entries := rest }).emit op n ⟨g, .scalar
        (word (2 + max (a.toNat / 2 ^ 32 % 8) (b.toNat / 2 ^ 32 % 8) * 2 ^ 32
          + (a.getLsbD 35 || b.getLsbD 35).toNat * 2 ^ 35
          + (if cause a ≠ 0 then cause a else cause b) * 2 ^ 36)), true, psn || op.poisoned, false⟩)) ∧
    (let cw : Word := if n.ari = 2 then op.tb.word else op.konst.getD 0
     (n.ari = 2 → op.tb.isVec = false) → op.ta.isVec = false → op.ta.pred = true → n.fmt.isFloat = false →
     n.imm.toNat % 4 < 3 → 0 < depthOf op.tag →
     (cw = 1 → j = 0 → noGather s1 t c g op.node →
       exec (.tred n) s = .next (s1.emit op n ⟨g, op.ta.val, true, op.poisoned, false⟩)) ∧
     (cw = 2 → j < 2 → noGather s1 t c g op.node → ∀ p, u.active = some p → s1.launched? c.launch = some c →
       let x := Entry.gather g op.node (.tree cw false
         [⟨0, j, some ((allPositions n.fmt op.ta.val).map fun v => v.map word), false, op.poisoned⟩] [j])
       u.noWay c x = false →
       exec (.tred n) s = .next (s1.setCtile t { u with entries := u.entries ++ [{ x with way := true }] })) ∧
     (cw = 2 → j < 2 → ∀ w psn rest x,
       takeFirst (fun e : Entry => e.tag = g && e.node = op.node && e.agg ≠ .none) u.entries = some (x, rest) →
       x.agg = .tree 2 false [⟨0, 1 - j, some ((allPositions n.fmt (.scalar w)).map fun v => v.map word), false, psn⟩] [1 - j] →
       ∃ r : Word, (∀ k, k < n.fmt.perLane → (elemAt n.fmt r.toNat k).toNat = merged n.fmt e.rnd (n.imm.toNat % 4)
           (elemAt n.fmt (if j = 0 then op.ta.word else w).toNat k).toNat
           (elemAt n.fmt (if j = 0 then w else op.ta.word).toNat k).toNat) ∧
         exec (.tred n) s = .next ((s1.setCtile t { u with entries := rest }).emit op n
           ⟨g, .scalar r, true, psn || op.poisoned, false⟩)))

/-- R45, R82, R246, R276, R278, R279: BR, BRC, BCALL, BRET and HALT count the one exit of their block, a second one raises
0x342, and BRET on an empty stack 0x340; GRD emits a global register as last committed, and GWR counts its register and
holds the value for the commit. -/
def Obligations.BlockExitsAndRegisters : Prop :=
  ∀ (s : State) (op : Issued) (n : Niw) (r bc : Nat) (b : Block), InBlock (after s op) op r bc b →
    let s1 := after s op
    (Issues s op (unbubbled n) →
      Emits (.grd n) s op n (.scalar ((s1.bctx r bc).g.getD (n.imm.toNat % 64) 0)) true) ∧
    (Issues s op n →
    let leaves (i : Instr) (x : Exit) : Prop :=
      (b.exit = none → exec i s = .next (s1.mapBlock r bc fun b => { b with exit := some x })) ∧
      (b.exit ≠ none → Faults i s op 0x342)
    (op.ta.isVec = false → leaves (.br n) (.to op.ta.word)) ∧
    (op.ta.isVec = false → op.tb.isVec = false → op.tc.isVec = false →
      leaves (.brc n) (.to (if op.tc.word = 0 then op.tb.word else op.ta.word))) ∧
    (op.ta.isVec = false → op.tb.isVec = false → leaves (.bcall n) (.call op.ta.word op.tb.word)) ∧
    (∀ a l, (s1.bctx r bc).stack = a :: l → leaves (.bret n) (.ret a)) ∧
    ((s1.bctx r bc).stack = [] → Faults (.bret n) s op 0x340) ∧
    leaves (.halt n) .halt ∧
    (let g := n.imm.toNat % 64
     (b.wm.testBit g = true → b.doneW.testBit g = false → exec (.gwr n) s = .next (s1.mapBlock r bc fun b =>
       { b with doneW := b.doneW + 2 ^ g, writes := b.writes ++ [(g, op.ta.word)] })) ∧
     (b.wm.testBit g = false ∨ b.doneW.testBit g = true → Faults (.gwr n) s op 0x344)))

/-- What Claims.Loops and Claims.Gathering say, together. -/
def Obligations.LoopsAndGathers : Prop := Claims.Loops ∧ Claims.Gathering

namespace Sys2Proof.Claims

open Sys2Proof.Machine

/-- The `k` bytes from a physical address as a little-endian number (R113). -/
def numberAt (s : State) (pa k : Nat) : Nat := ∑ i ∈ Finset.range k, (s.byteAt (pa + i)).toNat * 256 ^ i

/-- An access of `len` bytes at `va` that no address check stops: in the low half, aligned, outside the code windows; or
in the high half, of a system context (R119, R242, R247). -/
def Legal (system : Bool) (va len : Nat) : Prop :=
  va % len = 0 ∧
  ((va < 2 ^ 55 ∧ va + len ≤ 2 ^ 55 ∧ (va + len ≤ 0x007FFF0000000000 ∨ 0x007FFF0000000000 + 42 * 2 ^ 24 ≤ va)) ∨
   (2 ^ 64 - 2 ^ 55 ≤ va ∧ va + len ≤ 2 ^ 64 ∧ system = true))

/-- The access is legal, and the translation cache of the operation's region holds a page for it that allows it: its
physical address is `pa` (R119, R120, R122). -/
structure Translated (s : State) (op : Issued) (need : Need) (va len pa : Nat) : Prop where
  legal : Legal (s.isSystem op.ctx) va len
  cached : ∃ e, s.tcFind (siteRegion op.site) op.ctx va = some e ∧ permits e.leaf need = true ∧
    pa = leafBase e.leaf + (va - e.base)
  fresh : op.walk = none

/-- A translated access of the region's memory port, whose lanes of the die bridge, there and back, have not failed where its
channel stands on the other die (R111, R184). -/
structure Reaches (s : State) (op : Issued) (need : Need) (va len pa : Nat) : Prop extends
    Translated s op need va len pa where
  carried : s.laneDown op (portLane op pa) pa = false
  answered : s.replyDown op pa = false

/-- The same of an element that a Carder performs (R114, R184). -/
structure ByCarder (s : State) (op : Issued) (need : Need) (va len pa : Nat) : Prop extends
    Translated s op need va len pa where
  carried : s.laneDown op (carderLane pa) pa = false

/-- A fabric memory instruction that stage 6 sends to main memory and that its wave chain lets be performed (R105,
R129). -/
structure AtMain (s : State) (op : Issued) (n : Niw) (store : Bool) : Prop where
  site : ∃ t, op.site = .tile t
  home : s.homeTile op n = none
  chain : s.mayPerform op store = true
  format : n.fmt ≠ .t6

/-- A fabric memory instruction whose TGT0 names a memory tile in this mode, awake, on a channel that is neither a
generator's nor a line buffer's for commands (R105 to R107, R109, R117, R118). -/
structure AtTile (s : State) (op : Issued) (n : Niw) (store : Bool) (m : TileId) (mode : Nat) : Prop where
  site : ∃ t, op.site = .tile t
  home : ∃ ch, s.homeTile op n = some (m, ch) ∧ ch < 12 ∧ (ch = 11 → mode ≠ 2)
  chain : s.mayPerform op store = true
  mode : (s.mtile m).mode? = some mode
  awake : (s.mtile m).asleep = false
  format : n.fmt ≠ .t6

/-- Operands that a store acts on: predicates of 1, no poison, no null (R34, R101). -/
structure Clean (op : Issued) : Prop where
  preds : op.allTrue = true
  unpoisoned : op.poisoned = false
  noNull : op.anyNull = false

/-- A block's load meets none of its own block's stores: every store of a lower LSID is counted, and none is held (R44). -/
structure BlockLoad (s : State) (op : Issued) (n : Niw) : Prop where
  site : ∃ r bc k b, op.site = .block r bc k ∧ s.block? r bc = some b ∧ b.stores = []
  lower : s.lowerDone op n = true
  format : n.fmt ≠ .t6

/-- The completion of a store at main memory (R127): count 1 and scope 3. -/
def stored (s : State) (op : Issued) (n : Niw) : State := s.reply op n (.scalar (word (1 + 3 * 2 ^ 32))) op.poisoned

/-- The completion of a store at a memory tile (R127): count 1 and scope 0. -/
def storedTile (s : State) (op : Issued) (n : Niw) : State := s.reply op n (.scalar 1) op.poisoned

/-- The instruction replies, from a state `u`, with a value that it has formed in elements of FMT, after stage 5 (R60). -/
def RepliesFused (i : Instr) (s u : State) (op : Issued) (n : Niw) (v : Value) (psn : Bool) : Prop :=
  let e := u.floatEnv op n n.fmt false
  fusable e n.fmt v → ∃ w p, Fused e n.fmt v w p ∧ exec i s = .next (u.reply op n w (psn || p))

/-- The value of a loaded element (R290). -/
def extended (f : Fmt) (v : Nat) : Word :=
  if f.signed then (BitVec.ofNat f.width v).signExtend 64 else (BitVec.ofNat f.width v).setWidth 64

end Sys2Proof.Claims

/-- R105, R113, R277, R290: loads of main memory. LD reads w/8 bytes, least significant first, and extends them as the
format says; LDV reads the selected lanes, each an aligned word, and the others are zero and masked off; GTH reads the
element of each index at base + index·2^s. Stage 5 may convert what each of them brings. A failed lane of the bridge loses
the request, or the reply, and 0x2C0 is recorded.
The model's choices in it: the mask of a gathered vector is log 24, stage 5 on loads is log 29, the lanes and what a failed
one loses are log 75, and the place that such a record names is log 4. -/
def Obligations.LoadsFromMain : Prop :=
  ∀ (s : State) (op : Issued) (n : Niw), Issues s op n → op.ta.isVec = false → op.ta.psn = false →
    let s1 := after s op
    let a := op.ta.word.toNat
    let w := n.fmt.width / 8
    (∀ pa, AtMain s1 op n false ∨ BlockLoad s1 op n → Reaches s1 op .read a w pa →
      RepliesFused (.ld n) s s1 op n (.scalar (extended n.fmt (numberAt s1 pa w))) op.poisoned) ∧
    -- a failed lane of the bridge loses the request, or the reply
    (∀ pa, AtMain s1 op n false → Translated s1 op .read a w pa → s1.laneDown op (portLane op pa) pa = true →
      exec (.ld n) s = .next (s1.takeFault ⟨0x2C0, .bridge (dieOf (siteRegion op.site / 21)), 0, 0, 0, 0, false, false⟩)) ∧
    (∀ pa, AtMain s1 op n false → Translated s1 op .read a w pa → s1.laneDown op (portLane op pa) pa = false →
      s1.replyDown op pa = true → ∃ u : State, (∀ x, u.byteAt x = s1.byteAt x) ∧ exec (.ld n) s = .next (u.takeFault
        ⟨0x2C0, .bridge (dieOf (1 - siteRegion op.site / 21)), 0, 0, 0, 0, false, false⟩)) ∧
    (∀ (mask : BitVec 16) (pas : Nat → Nat), AtMain s1 op n false →
      (n.ari = 2 → op.tb.isVec = false ∧ mask = op.tb.word.setWidth 16) → (n.ari ≠ 2 → mask = 0xFFFF) →
      a < 2 ^ 55 ∨ 2 ^ 64 - 2 ^ 55 ≤ a →
      (∀ j, j < 16 → mask.getLsbD j = true → Reaches s1 op .read (a + 8 * j) 8 (pas j)) →
      ∃ v, RepliesFused (.ldv n) s s1 op n v op.poisoned ∧ v.isVec = true ∧ ∀ j, j < 16 →
        (mask.getLsbD j = true → laneAt v j = some (numberAt s1 (pas j) 8)) ∧
        (mask.getLsbD j = false → laneAt v j = none ∧ rawLane v j = 0)) ∧
    (∀ pas : Nat → Nat, AtMain s1 op n false → op.allTrue = true → op.poisoned = false →
      let address (l : Nat) : Int := (a : Int) + (BitVec.ofNat 64 l).toInt * 2 ^ (n.imm.toNat % 64)
      (∀ k l, k < laneCount op.tb.val → laneAt op.tb.val k = some l → 0 ≤ address l ∧
        ByCarder s1 op .read (address l).toNat w (pas k)) →
      ∃ v, RepliesFused (.gth n) s s1 op n v false ∧ v.isVec = true ∧ ∀ k, k < laneCount op.tb.val →
        ((laneAt op.tb.val k).isSome = true → elemAt n.fmt (rawLane v (k / n.fmt.perLane)).toNat (k % n.fmt.perLane)
            = BitVec.ofNat n.fmt.width (numberAt s1 (pas k) w) ∧ (laneAt v (k / n.fmt.perLane)).isSome = true) ∧
        (laneAt op.tb.val k = none → elemAt n.fmt (rawLane v (k / n.fmt.perLane)).toNat (k % n.fmt.perLane) = 0))

/-- R45, R113, R115, R127, R317, R318, R324: stores to main memory. ST writes w/8 bytes and STV the selected lanes, and both
then emit a completion of scope 3; a block's ST is counted and held until the commit. SCT writes each element of slot c at
its index, the higher of two at one address staying; its compacting form writes the elements in rank order from p0 on,
and stops at the bound with 0x106, to be resumed. Every other byte of main memory is as it was.
The model's choices in it: the bound of a compacting scatter is log 25, a scalar of STV log 26. -/
def Obligations.StoresToMain : Prop :=
  ∀ (s : State) (op : Issued) (n : Niw), Issues s op n → MemoryInv s → Clean op → op.ta.isVec = false →
    let s1 := after s op
    let a := op.ta.word.toNat
    let w := n.fmt.width / 8
    (∀ pa, op.tb.isVec = false → AtMain s1 op n true → Reaches s1 op .write a w pa → ∃ u,
      exec (.st n) s = .next (stored u op n) ∧ numberAt u pa w = op.tb.word.toNat % 2 ^ n.fmt.width ∧
      u.mtiles = s1.mtiles ∧ ∀ x, x < pa ∨ pa + w ≤ x → u.byteAt x = s1.byteAt x) ∧
    (∀ pa r bc b, op.tb.isVec = false → n.fmt ≠ .t6 → InBlock s1 op r bc b → Translated s1 op .write a w pa →
      let k := n.imm.toNat % 32
      (b.sm.testBit k = true → b.doneS.testBit k = false → exec (.st n) s = .next (s1.mapBlock r bc fun b =>
        { b with doneS := b.doneS + 2 ^ k, stores := b.stores ++ [⟨k, { op with released := true }⟩] })) ∧
      (b.sm.testBit k = false ∨ b.doneS.testBit k = true → Faults (.st n) s op 0x343)) ∧
    (∀ (mask : BitVec 16) (pas : Nat → Nat), AtMain s1 op n true →
      (n.ari = 3 → op.tc.isVec = false ∧ mask = op.tc.word.setWidth 16) → (n.ari ≠ 3 → mask = 0xFFFF) →
      a < 2 ^ 55 ∨ 2 ^ 64 - 2 ^ 55 ≤ a →
      let part (j : Nat) : Prop := j < 16 ∧ mask.getLsbD j = true ∧ (laneAt op.tb.val j).isSome = true
      (∀ j, part j → Reaches s1 op .write (a + 8 * j) 8 (pas j)) → ∃ u,
      exec (.stv n) s = .next (stored u op n) ∧
      (∀ j, part j → (∀ k, part k → j < k → pas j + 8 ≤ pas k ∨ pas k + 8 ≤ pas j) →
        laneAt op.tb.val j = some (numberAt u (pas j) 8)) ∧
      u.mtiles = s1.mtiles ∧ ∀ x, (∀ j, part j → x < pas j ∨ pas j + 8 ≤ x) → u.byteAt x = s1.byteAt x) ∧
    (∀ pas : Nat → Nat, AtMain s1 op n true →
      let address (l : Nat) : Int := (a : Int) + (BitVec.ofNat 64 l).toInt * 2 ^ (n.imm.toNat % 64)
      let parts : List Nat := (List.range 16).filter fun k =>
        k < laneCount op.tb.val && (laneAt op.tb.val k).isSome && (position n.fmt op.tc.val k).isSome
      (∀ k ∈ parts, ∀ l, laneAt op.tb.val k = some l →
        0 ≤ address l ∧ ByCarder s1 op .write (address l).toNat w (pas k)) →
      ∃ u, exec (.sct n) s = .next (u.reply op n (.scalar (word (parts.length + 3 * 2 ^ 32))) false) ∧
        (∀ k ∈ parts, (∀ k' ∈ parts, k < k' → pas k + w ≤ pas k' ∨ pas k' + w ≤ pas k) →
          position n.fmt op.tc.val k = some (numberAt u (pas k) w)) ∧
        u.mtiles = s1.mtiles ∧ ∀ x, (∀ k ∈ parts, x < pas k ∨ pas k + w ≤ x) → u.byteAt x = s1.byteAt x) ∧
    (∀ pas : Nat → Nat, op.tb.isVec = false → op.count = 0 → op.bound = none → AtMain s1 op n true →
      let p0 := op.tb.word.toNat % 2 ^ 32
      let bound := op.tb.word.toNat / 2 ^ 32
      let es := (allPositions n.fmt op.tc.val).filterMap id
      let now := if p0 + es.length ≤ bound then es.length else bound - p0
      (∀ r, r < now → ByCarder s1 op .write (a + (p0 + r) * 2 ^ (n.imm.toNat % 64)) w (pas r)) →
      ∃ u, (∀ r, r < now → (∀ r', r' < now → r < r' → pas r + w ≤ pas r' ∨ pas r' + w ≤ pas r) →
          es[r]? = some (numberAt u (pas r) w)) ∧
        u.mtiles = s1.mtiles ∧ (∀ x, (∀ r, r < now → x < pas r ∨ pas r + w ≤ x) → u.byteAt x = s1.byteAt x) ∧
        (now = es.length → exec (.sctCompact n) s = .next (u.reply op n (.scalar (word (now + 3 * 2 ^ 32))) false)) ∧
        (now < es.length → ∃ u', exec (.sctCompact n) s = .next u' ∧ (∀ x, u'.byteAt x = u.byteAt x) ∧
          ∃ d, u'.scatters = s1.scatters ++ [⟨d, op, bound, now⟩] ∧
          ∃ r q, r ∈ (u'.region q).inbound.map (·.record) ∧ ∃ src k tk f di co ro ad de la,
            r = .fault src k 0x106 tk f di co ro op.ctx op.tag ad de la ∧ de = word now))

/-- R105 to R109, R290, R324: loads and stores at memory tiles. An operand store takes ST into the buffer that is being
filled; a FIFO gives its oldest element to LD and appends what ST stores; a line buffer reads zero from a row that has
not been written, and takes stores in speculative rows only. A request on a generator's channel starts the generator.
The model's choices in it: an instruction on channels 12 to 15 is log 66, stage 5 on loads is log 29, and the lanes that a
FIFO element takes from a scalar are log 26. -/
def Obligations.TileAccesses : Prop :=
  ∀ (s : State) (op : Issued) (n : Niw) (m : TileId), Issues s op n → MemoryInv s → op.ta.isVec = false → Clean op →
    let s1 := after s op
    let x := s1.mtile m
    let a := op.ta.word.toNat
    let w := n.fmt.width / 8
    (∀ e es, AtTile s1 op n false m 1 → x.elemBytes = 8 → x.fifo = e :: es →
      RepliesFused (.ld n) s (s1.setMtile m { x with fifo := es }) op n (.scalar (extended n.fmt (ofBytes e))) false) ∧
    (AtTile s1 op n false m 2 → a + w ≤ (x.win + x.spec) * x.rowBytes → a % w = 0 →
      (x.line (a / x.rowBytes)).written = false → RepliesFused (.ld n) s s1 op n (.scalar 0) false) ∧
    (AtTile s1 op n false m 0 ∨ AtTile s1 op n false m 3 →
      exec (.ld n) s = .next ((s1.takeFault ⟨0x103, .tile m, op.ctx, op.tag, op.ta.word, 0, false, false⟩).reply op n
        (.scalar (completion 1 .tile true 0x103)) false)) ∧
    (AtTile s1 op n true m 0 → op.tb.isVec = false → a + w ≤ x.depth → a % w = 0 → x.isFull x.fill = false → ∃ u,
      exec (.st n) s = .next (storedTile u op n) ∧ u.main = s1.main ∧
      (u.mtile m).full = x.full ++ (if a + w = x.depth then [(x.fill, op.tag)] else []) ∧
      (u.mtile m).fill = (if a + w = x.depth then (x.fill + 1) % x.buffers else x.fill) ∧
      ∀ k, cellGet (u.mtile m).banks k = if x.fill * x.depth + a ≤ k ∧ k < x.fill * x.depth + a + w
        then (op.tb.word >>> (8 * (k - (x.fill * x.depth + a)))).setWidth 8 else cellGet x.banks k) ∧
    (AtTile s1 op n true m 1 → op.tb.isVec = false → x.elemBytes = 8 → x.fifoRoom = true → ∃ e,
      exec (.st n) s = .next (storedTile (s1.setMtile m { x with fifo := x.fifo ++ [e] }) op n) ∧
      ofBytes e = op.tb.word.toNat % 2 ^ n.fmt.width ∧ e.length = 8) ∧
    (∀ e : List Byte, AtTile s1 op n true m 1 → n.ari ≠ 3 → x.elemBytes = 128 → x.fifoRoom = true → e.length = 128 →
      (∀ j, j < 16 → ofBytes ((e.drop (8 * j)).take 8) = match op.tb.val with
        | .scalar b => b.toNat
        | .vector ls _ => (ls.getD j 0).toNat) →
      exec (.stv n) s = .next (storedTile (s1.setMtile m { x with fifo := x.fifo ++ [e] }) op n)) ∧
    (∀ t ch store, op.site = .tile t → s1.homeTile op n = some (m, ch) → 12 ≤ ch → s1.mayPerform op store = true →
      n.fmt ≠ .t6 → (store = false → exec (.ld n) s = .next (s1.toMemTile { op with member := some op.node } m ch op.ta)) ∧
        (store = true → op.tb.isVec = false →
          exec (.st n) s = .next (s1.toMemTile { op with member := some op.node } m ch op.ta))) ∧
    (AtTile s1 op n true m 2 → op.tb.isVec = false → a + w ≤ (x.win + x.spec) * x.rowBytes → a % w = 0 →
      a / x.rowBytes < x.win →
      exec (.st n) s = .next ((s1.takeFault ⟨0x103, .tile m, op.ctx, op.tag, op.ta.word, 0, false, false⟩).reply op n
        (.scalar (completion 1 .tile true 0x103)) false)) ∧
    -- a returning atomic at the buffer that is being filled (R242)
    (AtTile s1 op n true m 0 → op.tb.isVec = false → op.c.any (·.isVec) = false → n.prd ≠ .ift →
      a + 8 ≤ x.depth → a % 8 = 0 → x.isFull x.fill = false →
      let old := word (ofBytes (s1.readBank m (x.fill * x.depth + a) 8))
      ∃ u : State, exec (.aadd n) s = .next (u.reply op n (.scalar old) false) ∧ u.main = s1.main ∧
        word (ofBytes (u.readBank m (x.fill * x.depth + a) 8)) = old + op.tb.word)

/-- R119, R127, R242, R247: an address that is not canonical raises 0x100, a range that leaves its
half 0x101, a misaligned one 0x102, and a half or a window that the context may not reach 0x103. In fabric mode the record
is made and a completion with NOEF and the cause is emitted, and memory is not touched; in a block the block stops. -/
def Sys2Proof.Claims.AddressFaults : Prop :=
  ∀ (s : State) (op : Issued) (n : Niw) (c : Nat), Issues s op n → Clean op → op.ta.isVec = false → op.tb.isVec = false →
    let s1 := after s op
    let va := op.ta.word.toNat
    let w := n.fmt.width / 8
    let top := va / 2 ^ 55
    (c = 0x100 ∧ top ≠ 0 ∧ top ≠ 511) ∨
    (c = 0x101 ∧ ((top = 0 ∧ 2 ^ 55 < va + w) ∨ (top = 511 ∧ 2 ^ 64 < va + w))) ∨
    (c = 0x102 ∧ ((top = 0 ∧ va + w ≤ 2 ^ 55) ∨ (top = 511 ∧ va + w ≤ 2 ^ 64)) ∧ va % w ≠ 0) ∨
    (c = 0x103 ∧ va % w = 0 ∧ top = 511 ∧ va + w ≤ 2 ^ 64 ∧ s1.isSystem op.ctx = false) ∨
    (c = 0x103 ∧ va % w = 0 ∧ 0x007FFF0000000000 ≤ va ∧ va + w ≤ 0x007FFF0000000000 + 42 * 2 ^ 24) →
    (∀ t, op.site = .tile t →
      let u := (s1.takeFault ⟨c, .tile t, op.ctx, op.tag, op.ta.word, 0, false, false⟩).reply op n
        (.scalar (word (1 + 3 * 2 ^ 32 + 2 ^ 35 + c * 2 ^ 36))) false
      (AtMain s1 op n false → exec (.ld n) s = .next u) ∧ (AtMain s1 op n true → exec (.st n) s = .next u)) ∧
    (n.fmt ≠ .t6 → (∃ r bc k, op.site = .block r bc k) → op.released = false →
      exec (.st n) s = .next (s1.opFault op c op.ta.word 0))

/-- R34, R101, R127, R242: a sink whose operand has predicate 0 has no effect, and one whose operand is poisoned has none
either and records 0x0C1. In fabric mode both emit a completion with NOEF, in a block the LSID of a store is counted.
The model's choices in it: CAUSE 0x0C1 of a poisoned sink is log 21. -/
def Sys2Proof.Claims.SinksWithoutEffect : Prop :=
  ∀ (s : State) (op : Issued) (n : Niw), Issues s op n →
    let s1 := after s op
    let void (u : State) (scope : Nat) (cause : Nat) : State :=
      u.reply op n (.scalar (word (1 + scope * 2 ^ 32 + 2 ^ 35 + cause * 2 ^ 36))) op.poisoned
    let noted := s1.takeFault ⟨0x0C1, op.place, op.ctx, op.tag, 0, 0, false, false⟩
    (∀ t, op.site = .tile t → s1.homeTile op n = none → ∀ i ∈ [Instr.st n, .stv n, .iwr n],
      (op.allTrue = false → exec i s = .next (void s1 3 0)) ∧
      (op.allTrue = true → op.anyNull = false → op.poisoned = true → exec i s = .next (void noted 3 0x0C1))) ∧
    (∀ t, op.site = .tile t → s1.homeTile op n = none →
      ∀ i ∈ [Instr.aadd n, .amin n, .amax n, .alog n, .axch n, .acas n],
      (op.allTrue = false → exec i s = .next (void s1 3 0)) ∧
      (op.allTrue = true → op.anyNull = false → op.poisoned = true → exec i s = .next (void noted 3 0x0C1))) ∧
    (∀ r bc b, InBlock s1 op r bc b → op.allTrue = false →
      let k := n.imm.toNat % 32
      b.sm.testBit k = true → b.doneS.testBit k = false →
      ∀ i ∈ [Instr.st n, .iwr n, .hout n],
        exec i s = .next (s1.mapBlock r bc fun b => { b with doneS := b.doneS + 2 ^ k }))

/-- R110, R282: write-once words of main memory. IRD of a full word answers it, of any other defers and queues the reader;
IWR of a word that is not full makes it full, stores the value and answers every queued reader in order under its own
tag; IWR of a full word raises 0x104; IRST of a full word makes it empty, or deferred where a reader waits.
The model's choices in it: that IRST is no sink is log 28, and stage 5 on IRD is log 29. -/
def Obligations.WriteOnceWords : Prop :=
  ∀ (s : State) (op : Issued) (n : Niw) (pa : Nat), Issues s op n → Clean op → op.ta.isVec = false →
    let s1 := after s op
    Reaches s1 op .once op.ta.word.toNat 8 pa →
    let full := look pa s1.main.wstate = some .full
    let mine := (s1.main.readers.filter fun r => r.1 = pa).map (·.2)
    let others := s1.main.readers.filter fun r => r.1 ≠ pa
    (AtMain s1 op n false →
      (full → RepliesFused (.ird n) s s1 op n (.scalar (s1.wordAt pa)) false) ∧
      (¬ full → exec (.ird n) s = .next { s1 with main := { s1.main with
        wstate := put pa .deferred s1.main.wstate, readers := s1.main.readers ++ [(pa, op)] } })) ∧
    (AtMain s1 op n true → op.tb.isVec = false →
      (¬ full → exec (.iwr n) s = .next (stored ((({ s1 with main := { s1.main with
          wstate := put pa .full s1.main.wstate, readers := others } } : State).writeMain pa
          (bytesOf 8 op.tb.word.toNat)).answerAll op.tb.word mine) op n)) ∧
      (full → exec (.iwr n) s = .next ((s1.takeFault ⟨0x104, .channel (channelOf pa), op.ctx, op.tag, op.ta.word, 0,
        false, false⟩).reply op n (.scalar (completion 1 .whole true 0x104)) false))) ∧
    (AtMain s1 op n true →
      (full → exec (.irst n) s = .next (stored (({ s1 with main := { s1.main with
          wstate := (if s1.main.readers.any (·.1 = pa) then put pa .deferred else id) (erase pa s1.main.wstate) } } : State).writeMain pa (List.replicate 8 0)) op n)) ∧
      (¬ full → exec (.irst n) s = .next (stored s1 op n)))

/-- R134, R241, R242: each returning atomic reads the word, stores what its operation makes of it, and replies with the
old word: sums modulo 2^64, the smaller or larger as the format orders them, AND, OR, XOR and AND NOT, exchange; ACAS
stores slot c only where the word equals slot b. In a block the LSID is counted and the held stores of lower LSID are released
first, each performed in LSID order; the atomic acts on what they leave. -/
def Obligations.AtomicOperations : Prop :=
  ∀ (s : State) (op : Issued) (n : Niw) (pa : Nat), Issues s op n → Clean op →
    op.ta.isVec = false → op.tb.isVec = false → op.c.any (·.isVec) = false →
    (n.prd = .ift → ∀ p ∈ op.p, tagCtx p.tag = tagCtx op.tag) →
    let s1 := after s op
    Reaches s1 op .both op.ta.word.toNat 8 pa →
    let le (x y : Word) : Bool := if n.fmt.signed then x.toInt ≤ y.toInt else x.toNat ≤ y.toNat
    let logic (o : Nat) (x y : Word) : Word :=
      if o = 0 then x &&& y else if o = 1 then x ||| y else if o = 2 then x ^^^ y else x &&& ~~~ y
    let k := n.imm.toNat % 32
    -- the held stores of a block below an LSID, in LSID order
    let below (b : Block) (l : List HeldStore) : Prop :=
      l.Perm (b.stores.filter (·.lsid < k)) ∧ l.Pairwise fun x y => x.lsid < y.lsid
    let acts (u : State) (f : Word → Option Word) : State :=
      (match f (u.wordAt pa) with
        | some x => u.writeMain pa (bytesOf 8 x.toNat)
        | none => u).reply op n (.scalar (u.wordAt pa)) false
    let swaps (i : Instr) (f : Word → Option Word) : Prop :=
      (AtMain s1 op n true → exec i s = .next (acts s1 f)) ∧
      (∀ r bc b l, InBlock s1 op r bc b → s1.lowerDone op n = true → below b l →
        s1.heldMiss l = none → s1.anyMustWait l = false → (s1.countNulled op n).block? r bc ≠ none →
        let u := ((s1.countNulled op n).releaseBelow op k).mapBlock r bc fun b => { b with fixed := true }
        u.laneDown op (portLane op pa) pa = false → u.replyDown op pa = false → exec i s = .next (acts u f))
    let b := op.tb.word
    swaps (.aadd n) (fun x => some (x + b)) ∧
    swaps (.amin n) (fun x => some (if le x b then x else b)) ∧
    swaps (.amax n) (fun x => some (if le x b then b else x)) ∧
    swaps (.alog n) (fun x => some (logic (n.imm.toNat / 32 % 4) x b)) ∧
    swaps (.axch n) (fun _ => some b) ∧
    swaps (.acas n) (fun x => if x = b then some op.tc.word else none) ∧
    -- what the release does
    (∀ (u : State) r bc b l, InBlock u op r bc b → below b l →
      let u' := u.mapBlock r bc fun b => { b with stores := b.stores.filter (k ≤ ·.lsid) }
      u'.anyMustWait l = false → u.releaseBelow op k = l.foldl (fun u h => u.performHeld h.op) u')

/-- R103, R134, R307: RED. The one leaf of a reduction of one leaf is combined with the word in memory by the canonical
tree, in one write, and completes; the first leaf of several opens the reduction and waits; the last of several combines all of
them in index order with the word in memory, and every leaf completes, in index order. An order token of another
context raises 0x181, and a leaf word out of its limits, or a float add whose mode resolves to STO, 0x041.
The model's choices in it: what a leaf with another word does is log 27, and the 0x041 of RND 110 is log 87. -/
def Obligations.ReductionIntoMemory : Prop :=
  ∀ (s : State) (op : Issued) (n : Niw) (pa : Nat), Issues s op n → Clean op → op.released = false →
    op.ta.isVec = false → op.tb.isVec = false → op.tc.isVec = false →
    let s1 := after s op
    let w := if n.fmt = .f32 then 4 else 8
    let rnd := op.mode.resolve n.rnd
    let o := n.imm.toNat / 32 % 4
    let v := op.tb.word.toNat % 2 ^ n.fmt.width
    let lw := op.tc.word.toNat
    let drawn : Bool := rnd = .sto && n.fmt.isFloat && o = 0
    let refused (cause : Nat) : Prop := exec (.red n) s = .next ((s1.takeFault ⟨cause, op.place, op.ctx, op.tag,
      op.ta.word, 0, false, false⟩).reply op n (.scalar (completion 1 .whole true cause)) false)
    AtMain s1 op n true →
    (n.prd = .ift → (∃ p ∈ op.p, tagCtx p.tag ≠ tagCtx op.tag) → refused 0x181) ∧
    ((n.prd = .ift → ∀ p ∈ op.p, tagCtx p.tag = tagCtx op.tag) →
    (lw % 2 ^ 20 = 0 ∨ lw / 2 ^ 20 % 2 ^ 12 ≠ 0 ∨ lw % 2 ^ 20 ≤ lw / 2 ^ 32 % 2 ^ 20 ∨ lw / 2 ^ 52 ≠ 0 ∨ drawn = true →
      refused 0x041) ∧
    (drawn = false → (n.fmt = .f32 ∨ n.fmt = .s64 ∨ n.fmt = .z64 ∨ n.fmt = .f64) → o < 3 →
    Reaches s1 op .both op.ta.word.toNat w pa → abandonedElem n.fmt v = false → decodeWord true op.word = .ok (.red n) →
    (s1.reds = [] → op.tc.word = 1 → exec (.red n) s = .next (stored (s1.writeMain pa
      (bytesOf w (merged n.fmt rnd o (numberAt s1 pa w) v))) op n)) ∧
    (∀ c i : Nat, s1.reds = [] → 1 < c → c < 2 ^ 20 → i < c → op.tc.word = word (c + i * 2 ^ 32) →
      exec (.red n) s = .next { s1 with reds := [⟨op.ctx, op.ta.word, pa, c, word (n.fmt.code + 16 * o), rnd,
        [⟨i, some (word v), op, 0⟩], false⟩] }) ∧
    (∀ (c i : Nat) (leaves : List RedLeaf), 1 < c → c < 2 ^ 20 → i < c → op.tc.word = word (c + i * 2 ^ 32) →
      s1.reds = [⟨op.ctx, op.ta.word, pa, c, word (n.fmt.code + 16 * o), rnd, leaves, false⟩] →
      leaves.length + 1 = c → (leaves.map (·.index)).Nodup →
      (∀ l ∈ leaves, l.index < c ∧ l.index ≠ i ∧ l.op.niw = n) →
      let all : List RedLeaf := ⟨i, some (word v), op, 0⟩ :: leaves
      let leaf (j : Nat) : Option RedLeaf := all.find? (·.index = j)
      let values := (List.range c).map fun j => (leaf j).bind fun l => l.val.map (·.toNat)
      ∃ x, canonical n.fmt rnd o (clog2 c) values = some x ∧
        exec (.red n) s = .next (((List.range c).filterMap leaf).foldl
          (fun u l => u.reply l.op n (.scalar (completion 1 .whole l.val.isNone l.cause)) l.op.poisoned)
          (({ s1 with reds := [] } : State).writeMain pa (bytesOf w (merged n.fmt rnd o (numberAt s1 pa w) x)))))))

/-- R116, R190, R280: HIN asks the endpoint's node for the bytes at the endpoint's position, moves the position and waits
for the answer; HOUT sends its bytes there and waits for the acknowledgement; an endpoint that the context does not have,
or a transfer past its extent, raises 0x105.
The model's choices in it: a scalar of a vector HOUT is log 26. -/
def Obligations.HostEndpoints : Prop :=
  ∀ (s : State) (op : Issued) (n : Niw) (c : Ctx) (t : TileId), Issues s op n → Clean op → op.site = .tile t →
    op.ta.isVec = false → (n.imm.getLsbD 7 = true ∨ op.tb.isVec = false) →
    let s1 := after s op
    s1.ctx? op.ctx = some c → s1.mayPerform op false = true → s1.mayPerform op true = true →
    -- a memory tile that TGT0 names refuses both
    (∀ m ch, s1.homeTile op n = some (m, ch) → ch < 11 → n.fmt ≠ .t6 → ∀ i ∈ [Instr.hin n, .hout n],
      exec i s = .next ((s1.takeFault ⟨0x103, .tile m, op.ctx, op.tag, op.ta.word, 0, false, false⟩).reply op n
        (.scalar (completion 1 .tile true 0x103)) false)) ∧
    (s1.homeTile op n = none →
    let ep := op.ta.word.toNat
    let len := if n.imm.getLsbD 7 then 128 else n.fmt.width / 8
    let asks (e : Endpoint) (kind : Nat) (bs : List Byte) : State :=
      ({ s1 with rid := (s1.rid + 1) % 2 ^ 64 } : State).sendMsg e.node 5
        (bytesOf 2 c.num ++ bytesOf 1 ep ++ bytesOf 1 kind ++ bytesOf 4 len ++ bytesOf 8 e.pos ++ bytesOf 8 s1.rid
          ++ bytesOf 8 0 ++ bs)
    let turned (cause : Nat) : State := (s1.takeFault ⟨cause, .tile t, op.ctx, op.tag, op.ta.word, 0, false, false⟩).reply
      op n (.scalar (completion 1 .system true cause)) false
    (∀ e, ep < 64 → look ep c.endpoints = some e → e.pos + len ≤ e.ext → 4096 ≤ e.node ∨ s1.hasFeature 2 = true →
      exec (.hin n) s = .next (((asks e 0 []).moveEndpoint c.num ep len).hold op (.transfer s1.rid [] len)) ∧
      (n.fmt ≠ .t6 → ∃ bs, bs.length = len ∧
        (n.imm.getLsbD 7 = false → ofBytes bs = op.tb.word.toNat % 2 ^ n.fmt.width) ∧
        (n.imm.getLsbD 7 = true → ∀ j, j < 16 → ofBytes ((bs.drop (8 * j)).take 8) = (laneAt op.tb.val j).getD 0) ∧
        exec (.hout n) s = .next (((asks e 2 bs).moveEndpoint c.num ep len).hold op (.transfer s1.rid [] 1)))) ∧
    (64 ≤ ep ∨ look ep c.endpoints = none ∨ (∃ e, look ep c.endpoints = some e ∧ e.ext < e.pos + len) →
      exec (.hin n) s = .next (turned 0x105) ∧ (n.fmt ≠ .t6 → exec (.hout n) s = .next (turned 0x105))))

/-- What Claims.AddressFaults and Claims.SinksWithoutEffect say, together. -/
def Obligations.AccessesWithoutEffect : Prop := Claims.AddressFaults ∧ Claims.SinksWithoutEffect

namespace Sys2Proof.Claims

open Sys2Proof.Machine

/-- Element (r, k) of an operand buffer: 256 bytes for each of its 16 rows, elements side by side (R69, R172). -/
def bufferElem (f : Fmt) (buf : List Byte) (r k : Nat) : Nat :=
  ofBytes ((buf.drop (256 * r)).take 256) / 2 ^ (f.width * k) % 2 ^ f.width

/-- Blocks of 32 elements in an operand row: 4 in the 16-bit formats, 10 in T6, 8 in the others (R69). -/
def blockCount (f : Fmt) : Nat := if f.width = 16 then 4 else if f = .t6 then 10 else 8

/-- The scale byte of block b of row r; 127, which is 1.0, in the 16-bit formats (R69, R102). -/
def bufferScale (f : Fmt) (buf : List Byte) (r b : Nat) : Nat :=
  if f.width = 16 then 127 else (buf.getD (4096 + blockCount f * r + b) 0).toNat

/-- The sum of the products of two lists of exact values. -/
def exactDot : List (Exact × Exact) → Exact
  | [] => .rat false 0 1
  | [(x, y)] => x.mul y
  | (x, y) :: l => (x.mul y).add false (exactDot l)

/-- Stage 2 of a tile applies block scales (R59). -/
def scalesApplied (s : State) (t : TileId) : Bool := (s.ctile t).active.any fun p => (nth 0 p.stages 1).getLsbD 42

/-- One block sum of element (i, j): 32 exact products summed exactly, scaled where stage 2 says so, rounded once into F32
(R59, R102). -/
def blockTerm (scaled : Bool) (f : Fmt) (ba bb : List Byte) (i j b : Nat) : Nat :=
  let sa := if scaled then bufferScale f ba i b else 127
  let sb := if scaled then bufferScale f bb j b else 127
  let ps := (List.range 32).map fun t =>
    (decodeElem f (bufferElem f ba i (32 * b + t)), decodeElem f (bufferElem f bb j (32 * b + t)))
  if sa = 255 ∨ sb = 255 then nanCode .f32 else roundTo .f32 .rne false ((exactDot ps).scale ((sa : Int) + sb - 254)) 0

/-- Element (i, j) of an accumulator tile. -/
def accAt (q : Acc) (i j : Nat) : BitVec 32 := (q.rows.getD i []).getD j 0

/-- Emits these tokens one after another. -/
def emitEach (s : State) (op : Issued) (n : Niw) (ts : List Tok) : State := ts.foldl (fun u t => u.emit op n t) s

/-- Element `r` of a packed vector (R303). -/
def packedAt (f : Fmt) (v : Value) (r : Nat) : Nat := (elemAt f (rawLane v (r / f.perLane)).toNat (r % f.perLane)).toNat

/-- VCHK's and VTOPK's order: the greater value first, then the lower index (R155). -/
def above (x y : Word) : Prop :=
  let o := (decodeElem .f32 (x.toNat % 2 ^ 32)).cmp (decodeElem .f32 (y.toNat % 2 ^ 32))
  o = some .gt ∨ (o = some .eq ∧ x.toNat / 2 ^ 32 < y.toNat / 2 ^ 32)

end Sys2Proof.Claims

/-- R42, R59, R102, R103, R172, R173, R296, R297: MMA and MMAZ queue at the matrix block, or raise 0x1C2 when an MMA of the queue
names the same accumulator tile. MMA_EXECUTE takes an operation whose buffers are full and whose turn has come, adds to every
element of the accumulator tile (of a zeroed one under MMAZ) the canonical tree of the block sums, records the format and emits
the completion; a buffer becomes empty when no other queued operation reads it. An abandoned value in C raises 0x0C0 (R93).
The model's choices in it: the targets beside a memory tile are log 46, the turn of an operation log 56; that a cleared BSA leaves
every scale at 1.0 is log 57. -/
def Obligations.MatrixMultiply : Prop :=
  ∀ (s : State) (t : TileId), let q (n : Niw) : Nat := n.imm.toNat % 8
  (∀ op n a b, Issues s op n → op.site = .tile t → op.ta.isVec = false → op.tb.isVec = false →
    let s1 := after s op
    let c := s1.ctile t
    s1.operandTile t op.ta.word = some a → s1.operandTile t op.tb.word = some b →
    ((∃ o ∈ c.mma, q o.niw = q n) → Faults (.mma n) s op 0x1C2 ∧ Faults (.mmaz n) s op 0x1C2) ∧
    ((∀ o ∈ c.mma, q o.niw ≠ q n) → (rowShape n.fmt).2.2 ≤ (s1.mtile a.1).depth →
      (rowShape n.fmt).2.2 ≤ (s1.mtile b.1).depth →
      exec (.mmaz n) s = .next (s1.setCtile t { c with mma := c.mma ++ [op] }) ∧
      ((∀ f ∈ (c.acc (q n)).fmt, f = n.fmt) →
        exec (.mma n) s = .next (s1.setCtile t { c with mma := c.mma ++ [op] })) ∧
      ((∃ f, (c.acc (q n)).fmt = some f ∧ f ≠ n.fmt) → Faults (.mma n) s op 0x1C1))) ∧
  (∀ op rest n (zero : Bool) a b, (s.ctile t).mma = op :: rest →
    decodeWord true op.word = .ok (if zero then .mmaz n else .mma n) → op.site = .tile t →
    (n.fmt.width = 16 ∨ n.fmt.width = 8 ∨ n.fmt = .t6) → n.fmt.isFloat = true → op.mode.ntrp = false →
    s.operandTile t op.ta.word = some a → s.operandTile t op.tb.word = some b →
    (s.ctile t).q.length = 8 → (s.mtile a.1).isFull a.2 = true → (s.mtile b.1).isFull b.2 = true →
    s.inTurn t op = true →
    let others (x : TileId × Nat) : Bool := (s.setCtile t { s.ctile t with mma := rest }).hasReader x
    let buf (x : TileId × Nat) : List Byte := s.readBank x.1 (x.2 * (s.mtile x.1).depth) 4256
    let old (i j : Nat) : Nat := if zero then 0 else (accAt ((s.ctile t).acc (q n)) i j).toNat
    (zero = false → ((s.ctile t).acc (q n)).abandoned = true → ∃ u : State, exec (.mmaExecute t) s = .next (u.opFault op 0x0C0 0 0) ∧
      u.ctile t = { s.ctile t with mma := rest }) ∧
    (zero = true ∨ ((s.ctile t).acc (q n)).abandoned = false → ∃ u : State, exec (.mmaExecute t) s = .next (u.emit op n ⟨op.tag, .scalar 1, true, op.poisoned, false⟩) ∧
      (u.ctile t).mma = rest ∧ ((u.ctile t).acc (q n)).fmt = some n.fmt ∧
      (u.mtile a.1).isFull a.2 = others a ∧ (u.mtile b.1).isFull b.2 = others b ∧
      (∀ k, k ≠ q n → (u.ctile t).acc k = (s.ctile t).acc k) ∧
      ∀ i j, i < 16 → j < 16 → ∀ r, canonical .f32 .rne 0 (clog2 (blockCount n.fmt))
          ((List.range (blockCount n.fmt)).map fun k => some (blockTerm (scalesApplied s t) n.fmt (buf a) (buf b) i j k)) = some r →
        accAt ((u.ctile t).acc (q n)) i j = BitVec.ofNat 32 (merged .f32 .rne 0 (old i j) r)))

/-- R173, R243, R244, R257: ACRD emits the sixteen rows of an accumulator tile in order, each under the tag with its number
pushed: two binary32 elements to a lane, or widened to F64 in each lane, after stage 5. ACWR replaces the elements of the
row that its tag's innermost field names whose lanes take part; under a mode that draws, its F64 form raises 0x041. CTRN keeps the
rows of a block until the sixteenth comes, and then emits the columns, after stage 5.
The model's choices in it: stage 5 on the columns is log 29, and with which tag it draws, and ACWR under DRND = STO, are log 87. -/
def Sys2Proof.Claims.AccumulatorAccess : Prop :=
  ∀ (s : State) (op : Issued) (n : Niw) (t : TileId), Issues s op n → op.site = .tile t →
    let s1 := after s op
    let c := s1.ctile t
    let ws := s1.widths op
    let q := n.imm.toNat % 8
    let idle := ∀ o ∈ c.mma, o.niw.imm.toNat % 8 ≠ q
    (∀ (raw vs : Nat → Value) (ps : Nat → Bool), idle → pushable ws op.tag 15 → n.fmt = .f32 ∨ n.fmt = .f64 →
      (∀ r, r < 16 → (raw r).isVec = true ∧
        (n.fmt = .f32 → (∀ i, i < 16 → (laneAt (raw r) i).isSome = decide (i < 8)) ∧ ∀ j, j < 16 →
          packedAt .f32 (raw r) j = (accAt (c.acc q) r j).toNat) ∧
        (n.fmt = .f64 → ∀ j, j < 16 → laneAt (raw r) j = some
          (roundTo .f64 .rne false (decodeElem .f32 (accAt (c.acc q) r j).toNat) 0)) ∧
        (∃ l m, raw r = .vector l m ∧ l.length = 16 ∧ ∀ i, 8 ≤ i → n.fmt = .f32 → l.getD i 0 = 0) ∧
        (s1.floatEnv op n n.fmt false).fuse (raw r) = .ok ⟨vs r, true, ps r⟩) →
      exec (.acrd n) s = .next (emitEach s1 op n ((List.range 16).map fun r =>
        ⟨pushed ws op.tag r, vs r, true, op.poisoned || (ps r || (c.acc q).psn), false⟩))) ∧
    (¬ idle → Faults (.acrd n) s op 0x1C2) ∧
    (let r := innermostOf ws op.tag
     op.ta.isVec = true → 0 < depthOf op.tag → r < 16 → idle → c.q.length = 8 → (c.acc q).rows.length = 16 →
     n.fmt = .f32 ∨ n.fmt = .f64 → (n.fmt = .f64 → op.mode.resolve n.rnd ≠ .sto) → ∃ u : State,
      exec (.acwr n) s = .next (u.emit op n ⟨op.tag, .scalar 1, true, op.poisoned, false⟩) ∧
      (∀ k, k ≠ q → (u.ctile t).acc k = c.acc k) ∧ ((u.ctile t).acc q).fmt = none ∧
      ∀ i j, i < 16 → j < 16 → accAt ((u.ctile t).acc q) i j =
        if i = r then
          match position n.fmt op.ta.val j with
          | some e => BitVec.ofNat 32 (if n.fmt = .f64 then
              roundTo .f32 (op.mode.resolve n.rnd) false (decodeElem .f64 e) 0 else e)
          | none => accAt (c.acc q) i j
        else accAt (c.acc q) i j) ∧
    (op.ta.isVec = false → Faults (.acwr n) s op 0x042) ∧
    (op.ta.isVec = true → n.fmt = .f64 → op.mode.resolve n.rnd = .sto → Faults (.acwr n) s op 0x041) ∧
    (let agg := popped ws op.tag
     let r := innermostOf ws op.tag
     let row : List Word := (List.range 16).map fun k => word ((position n.fmt op.ta.val k).getD 0)
     op.ta.isVec = true → 0 < depthOf op.tag → r < 16 → 16 ≤ n.fmt.width → n.fmt ≠ .t6 →
     (c.corner = none → exec (.ctrn n) s = .next (s1.setCtile t { c with
        corner := some ⟨agg, [(r, row)], op.poisoned⟩ })) ∧
     (∀ k, c.corner = some k → k.tag ≠ agg → exec (.ctrn n) s = .next (s1.hold op .corner)) ∧
     (∀ k, c.corner = some k → k.tag = agg → r ∈ k.rows.map (·.1) →
        exec (.ctrn n) s = .next ((s1.setCtile t { c with corner := none }).opFault op 0x1C3 0 0)) ∧
     (∀ k (rows : Nat → List Word), c.corner = some k → k.tag = agg → k.rows.length = 15 → r ∉ k.rows.map (·.1) →
        rows r = row → (∀ x ∈ k.rows, rows x.1 = x.2) → (∀ i, i < 16 → i = r ∨ i ∈ k.rows.map (·.1)) → pushable ws agg 15 →
        ∃ v : Nat → Value, (∀ x, x < 16 → (v x).isVec = true ∧
            (∀ i, i < 16 → (laneAt (v x) i).isSome = decide (i < 16 / n.fmt.perLane)) ∧
            ∀ i, i < 16 → packedAt n.fmt (v x) i = ((rows i).getD x 0).toNat % 2 ^ n.fmt.width) ∧
          let e (x : Nat) : FloatEnv := (s1.floatEnv op n n.fmt false).under (pushed ws agg x)
          ((∀ x, x < 16 → fusable (e x) n.fmt (v x)) → ∃ (w : Nat → Value) (ps : Nat → Bool),
            (∀ x, x < 16 → Fused (e x) n.fmt (v x) (w x) (ps x)) ∧
            exec (.ctrn n) s = .next (emitEach (s1.setCtile t { c with corner := none }) op n ((List.range 16).map fun x =>
              ⟨pushed ws agg x, w x, true, (k.psn || op.poisoned) || ps x, false⟩)))))

/-- R92, R316: SCLE forms the E8M0 scale of an element (127 for zero, the exponent less the format's largest one otherwise),
decodes a scale as a power of two, or multiplies two scales; a value that has no scale raises 0x0C4.
The model's choices in it: that stage 5 converts a decoded scale alone, and the two elements in a lane, are log 29; that NNEG acts
with CVE = 0 is log 54. -/
def Sys2Proof.Claims.BlockScales : Prop :=
  ∀ (s : State) (op : Issued) (n : Niw), Issues s op n → n.xw = false →
    let form := n.imm.toNat % 4
    n.ari = (if form = 2 then 2 else 1) → form < 3 →
    let largest : Int := if n.fmt = .t8 then 12 else if n.fmt = .e5m2 then 15 else 8
    let e := { (after s op).floatEnv op n .f32 false with fmt := .f32 }
    let five (i j v : Nat) : Option (Nat × Bool) :=
      let x := decodeElem .f32 v
      if e.cve then rounded e i j x.finite x else some (if e.nneg && x.neg then 0 else v, false)
    let code (i j : Nat) (ls : List Nat) : Option (Nat × Bool) :=
      let a := (operand .f32 ls 0 j).toNat
      let x := decodeElem .f32 a
      let sa := a % 256
      let sb := (operand .f32 ls 1 j).toNat % 256
      if form = 0 then
        (if x.finite = false then none
         else if x.isZero then some (127, false)
         else some ((max 0 (Int.log 2 |ratValue x| - largest + 127)).toNat, false))
      else if form = 1 then
        (five i j (if sa = 255 then nanCode .f32
            else roundTo .f32 .rne false ((Exact.rat false 1 1).scale ((sa : Int) - 127)) 0)).map fun c =>
          (c.1, c.2 || (op.mode.psn && sa = 255))
      else if sa = 255 ∨ sb = 255 then some (255, false)
      else if 127 ≤ sa + sb ∧ sa + sb - 127 ≤ 254 then some (sa + sb - 127, false) else none
    GivesCodes (.scle n) s op n (if form = 1 then e.dest else .f32) 2 (operandVals op n id) code ∧
    (¬ allGiven 2 (operandVals op n id) code →
      ∃ p, exec (.scle n) s = .next ((after s op).opFault op (if form = 1 then 0x0C5 else 0x0C4) 0 p))

/-- R145 to R152, R336: VOPEN claims a slot with the descriptor's fields, and for SIGN emits block index 1 at once; VACC adds
its block term, rounded once, tests the bounds and emits the next block index, with predicate 1 while the slot is live;
VCLOSE emits the sum, or the abandoned value, through stage 5 and frees the slot, or raises 0x202 when more blocks are due; a
fault frees the slot of its tag; VCHK tests for abandoned values.
The model's choices in it: that stage 5 converts what VCLOSE emits is log 77, and that NNEG acts with CVE = 0 is log 54. -/
def Sys2Proof.Claims.VerdictSlots : Prop :=
  ∀ (s : State) (op : Issued) (n : Niw) (t : TileId), Issues s op n → op.site = .tile t →
    let s1 := after s op
    let c := s1.ctile t
    let d := op.ta.word.toNat
    let qv := decodeElem .f32 (d % 2 ^ 32)
    let m := d / 2 ^ 32 % 2 ^ 12
    let kind := d / 2 ^ 44 % 4
    let slot : Verdict := ⟨op.tag, .live, 0, 0, 0x7F800000, BitVec.ofNat 32 d, m, kind, d / 2 ^ 46 % 2 ^ 16, 0xFF800000,
      op.tb.word, 0, op.ta.psn, kind ≠ 0, if kind = 0 then none else some op⟩
    let freed := s1.setCtile t { c with verdicts := c.verdicts.filter (·.tag ≠ op.tag) }
    let good := kind < 3 ∧ m ≠ 0 ∧ d / 2 ^ 62 = 0 ∧ qv.finite = true ∧ d / 2 ^ 31 % 2 = 0
    (op.ta.isVec = false → good → c.slot? op.tag = none → c.verdicts.length < 64 →
      (kind = 0 → exec (.vopen n) s = .next ((s1.setCtile t { c with verdicts := c.verdicts ++ [slot] }).emit op n
        ⟨op.tag, .scalar 1, true, op.ta.psn || op.p.any (·.psn), false⟩)) ∧
      (∀ pa, kind ≠ 0 → op.tb.psn = false → op.tb.isVec = false → Translated s1 op .read op.tb.word.toNat 8 pa →
        exec (.vopen n) s = .next (s1.setCtile t { c with verdicts := c.verdicts ++ [slot] }))) ∧
    (op.ta.isVec = false → (¬ good ∨ (kind = 0 ∧ c.slot? op.tag ≠ none)) →
      exec (.vopen n) s = .next (freed.opFault op 0x200 0 0)) ∧
    (c.slot? op.tag = none → Faults (.vacc n) s op 0x200 ∧ Faults (.vclose n) s op 0x200) ∧
    (∀ v, c.slot? op.tag = some v → op.ta.isVec = false → op.tb.isVec = false →
      let b := op.ta.word.toNat % 2 ^ 32
      let w := op.tb.word.toNat
      let x := decodeElem .f32 b
      let u := decodeElem .f32 (w % 2 ^ 32)
      let j := w / 2 ^ 32 % 2 ^ 12
      let psn := v.psn || op.poisoned
      isAbandoned b = false →
      (v.st = .abandoned → exec (.vacc n) s = .next ((s1.putSlot t { v with psn := psn }).emit op n
        ⟨op.tag, .scalar (word (j + 1)), false, psn, false⟩)) ∧
      (v.st = .live → w / 2 ^ 56 = 0 → j = v.j + 1 → u.finite = true → u.neg = false ∨ u.isZero = true →
        (u.cmp (decodeElem .f32 v.uprev.toNat) ≠ some .gt) → (j = v.m → u.isZero = true) → x.finite = true →
        (exactAbs x).cmp (rup ((f32 v.uprev).mul (f32 v.q))) ≠ some .gt → op.mode.psn = false →
        ∃ v', exec (.vacc n) s = .next ((s1.putSlot t v').emit op n
            ⟨op.tag, .scalar (word (j + 1)), v'.st = .live, psn, false⟩) ∧
          v'.p = BitVec.ofNat 32 (roundTo .f32 .rne false ((decodeElem .f32 v.p.toNat).add false x) 0) ∧ v'.j = j ∧
          v'.uprev = BitVec.ofNat 32 w ∧ v'.m = v.m ∧ v'.q = v.q ∧ v'.tag = v.tag ∧
          (let hilo := bounds (f32 v'.p) (f32 v'.uprev) (f32 v'.q) (v'.m - v'.j)
           let zero := Exact.rat false 0 1
           let ends (k : Nat) : Prop := v'.st = .abandoned ∧ v'.v = k
           if j < v.m ∧ (f32 v'.p).finite = true then
             (v.kind = 0 → (hilo.1.cmp zero = some .lt → ends 1) ∧
               (hilo.1.cmp zero ≠ some .lt → zero.cmp hilo.2 = some .lt → ends 2) ∧
               (hilo.1.cmp zero ≠ some .lt → zero.cmp hilo.2 ≠ some .lt → v'.st = .live)) ∧
             (v.kind ≠ 0 → (hilo.1.cmp (f32 v.theta) = some .lt → ends 0) ∧
               (hilo.1.cmp (f32 v.theta) ≠ some .lt → v'.st = .live ∧ v'.reading = true))
           else v'.st = if j = v.m then .complete else .live)) ∧
      (v.st ≠ .abandoned → j ≠ v.j + 1 → exec (.vacc n) s = .next ((s1.freeSlot t op.tag).opFault op 0x201 0 0))) ∧
    (∀ v, c.slot? op.tag = some v →
      let e := { freed.floatEnv op n .f32 false with fmt := .f32 }
      let closes (r : Nat) : Prop := ∀ x, (if e.cve then rounded e 0 0 (decodeElem .f32 r).finite (decodeElem .f32 r)
          else some (if e.nneg && (decodeElem .f32 r).neg then 0 else r, false)) = some x →
        exec (.vclose n) s = .next (freed.emit op n
          ⟨op.tag, .scalar (word (x.1 % 2 ^ e.dest.width)), true, op.poisoned || (x.2 || v.psn), false⟩)
      (v.st = .complete → closes v.p.toNat) ∧
      (v.st = .abandoned → 0x7FB00000 + v.v < 2 ^ 32 → closes (0x7FB00000 + v.v)) ∧
      (v.st = .live → exec (.vclose n) s = .next (freed.opFault op 0x202 0 0))) ∧
    (let among (e : Nat) : Prop := if op.ta.isVec then ∃ p, p < 32 ∧ position .f32 op.ta.val p = some e
        else e = op.ta.word.toNat % 2 ^ 32
     ∃ p, Emits (.vchk n) s op n op.ta.val p ∧ (p = true ↔ (∃ e, among e) ∧ ∀ e, among e → isAbandoned e = true))

/-- R134, R153, R154: the raising VTHR stores its value in the threshold cell when it is greater, and the resetting one stores
it and increments the epoch; both complete with scope 3. The reply of a cell's read sets θ where the epochs agree, ends the
read, and lets the VOPEN that waits for it emit. -/
def Sys2Proof.Claims.ThresholdCells : Prop :=
  (∀ (s : State) (op : Issued) (n : Niw) (pa : Nat), Issues s op n → Clean op → op.ta.isVec = false →
    op.tb.isVec = false → op.inBlock = none →
    let s1 := after s op
    Translated s1 op .both op.ta.word.toNat 8 pa →
    let cell := s1.wordAt pa
    let v := op.tb.word.toNat % 2 ^ 32
    let done (u : State) : State := u.emit op n ⟨op.tag, .scalar (word (1 + 3 * 2 ^ 32)), true, false, false⟩
    cell.toNat / 2 ^ 48 = 0 → isAbandoned v = false →
    ((decodeElem .f32 v).cmp (decodeElem .f32 (cell.toNat % 2 ^ 32)) = some .gt →
      exec (.vthrRaise n) s = .next (done (s1.writeMain pa (bytesOf 8 (cell.toNat / 2 ^ 32 * 2 ^ 32 + v))))) ∧
    ((decodeElem .f32 v).cmp (decodeElem .f32 (cell.toNat % 2 ^ 32)) ≠ some .gt →
      exec (.vthrRaise n) s = .next (done (s1.writeMain pa (bytesOf 8 cell.toNat)))) ∧
    (exec (.vthrReset n) s = .next (done (s1.writeMain pa (bytesOf 8
      ((cell.toNat / 2 ^ 32 + 1) % 2 ^ 16 * 2 ^ 32 + if decodeElem .f32 v = .nan then 0xFF800000 else v)))))) ∧
  (∀ (s : State) (t : TileId) (v : Verdict) (c : Ctx) (pa : Nat),
    (s.ctile t).verdicts.find? (fun v => v.reading && !((s.ctile t).frozen.contains (tagCtx v.tag))) = some v → s.ctx? (tagCtx v.tag) = some c →
    s.walkByte c.root .read v.cell.toNat = .ok pa →
    let cell := s.wordAt pa
    let v' : Verdict := { v with reading := false, opener := none, theta :=
      if cell.toNat / 2 ^ 32 % 2 ^ 16 = v.epoch then BitVec.ofNat 32 (cell.toNat % 2 ^ 32) else v.theta }
    let u := s.putSlot t v'
    (v.opener = none → exec (.verdictCellReply t) s = .next u) ∧
    (∀ op n, v.opener = some op → decodeWord true op.word = .ok (.vopen n) → op.site = .tile t →
      exec (.verdictCellReply t) s = .next (u.emit op n ⟨op.tag, .scalar 1, true, v.psn || op.p.any (·.psn), false⟩)))

/-- R155, R176: VTOPK with a count of one emits the best k of its candidates, the greatest value first and the lower index
first among equals, leaving NaNs out; a count out of range raises 0x041, another count than the list's 0x180, and an abandoned
value other than 0x7FB00000 raises 0x0C0. -/
def Obligations.TopLists : Prop :=
  ∀ (s : State) (op : Issued) (n : Niw) (t : TileId) (c : Ctx), Issues s op n → op.site = .tile t →
    (after s op).ctx? op.ctx = some c → op.tb.isVec = false →
    let s1 := after s op
    let k := n.imm.toNat % 64 + 1
    let lanes := n.imm.getLsbD 7
    let g := if lanes then op.tag else popped (s1.widths op) op.tag
    let ins : List Word := if lanes then ((List.range 16).filterMap (laneAt op.ta.val)).map word else [op.ta.word]
    let number (w : Word) : Prop := decodeElem .f32 (w.toNat % 2 ^ 32) ≠ .nan
    (op.tb.word = 0 ∨ 2 ^ 20 < op.tb.word.toNat → Faults (.vtopk n) s op 0x041) ∧
    -- another count than the list's, or an input too many, is told before what the values are
    (∀ e k' total got es psn, 0 < op.tb.word.toNat → op.tb.word.toNat ≤ 2 ^ 20 → op.ta.isVec = lanes →
      (lanes = false → 0 < depthOf op.tag) →
      (s1.takeAgg t c g op.node).1 = some e → e.agg = .topk k' total got es psn → total ≠ op.tb.word.toNat ∨ total ≤ got →
      exec (.vtopk n) s = .next (s1.opFault op 0x180 0 0)) ∧
    (0 < op.tb.word.toNat → op.tb.word.toNat ≤ 2 ^ 20 → op.ta.isVec = lanes → (lanes = false → 0 < depthOf op.tag) →
      noGather s1 t c g op.node → (∃ w ∈ ins, isAbandoned (w.toNat % 2 ^ 32) = true ∧ w.toNat % 2 ^ 32 ≠ 0x7FB00000) →
      exec (.vtopk n) s = .next (s1.opFault op 0x0C0 0 0)) ∧
    (op.tb.word = 1 → op.ta.isVec = lanes → n.imm.getLsbD 6 = false → k ≤ 16 → (lanes = false → 0 < depthOf op.tag) →
      noGather s1 t c g op.node → (∀ w ∈ ins, isAbandoned (w.toNat % 2 ^ 32) = true → w.toNat % 2 ^ 32 = 0x7FB00000) →
      ∃ (l : List Word) (v : Value),
        exec (.vtopk n) s = .next (s1.emitTo op [n.t0, n.t1, n.t2] ⟨g, v, true, op.poisoned, false⟩) ∧
        (∀ i, i < 16 → laneAt v i = (l[i]?).map (·.toNat)) ∧ v.isVec = true ∧
        l.Pairwise (fun x y => ¬ above y x) ∧
        (∃ rest, (l ++ rest).Perm (ins.filter fun w => decodeElem .f32 (w.toNat % 2 ^ 32) ≠ .nan) ∧
          (rest ≠ [] → l.length = k) ∧ ∀ x ∈ l, ∀ y ∈ rest, ¬ above y x) ∧ (∀ w ∈ l, number w))

/-- What Claims.VerdictSlots and Claims.ThresholdCells say, together. -/
def Obligations.Verdicts : Prop := Claims.VerdictSlots ∧ Claims.ThresholdCells

/-- What Claims.AccumulatorAccess and Claims.BlockScales say, together. -/
def Obligations.AccumulatorsAndScales : Prop := Claims.AccumulatorAccess ∧ Claims.BlockScales

namespace Sys2Proof.Claims

open Sys2Proof.Machine

/-- The memory tile that receives a stream accumulator request: the SACC tile of a fabric node's TGT0, or tile HT of a
block's own region; it is awake (R117, R160). -/
structure RowHome (s : State) (op : Issued) (n : Niw) (t : TileId) : Prop where
  place : (op.ta.word.toNat / 2 ^ 60 = 0 ∧ (∃ x, op.site = .tile x) ∧ ∃ ch, s.homeTile op n = some (t, ch)) ∨
    ∃ r bc k, op.site = .block r bc k ∧ t = memTile r (op.ta.word.toNat / 2 ^ 60)
  mode : (s.mtile t).mode? = some 4
  awake : (s.mtile t).asleep = false

/-- The row that an access word names is defined at its home (R158, R161). -/
structure RowAt (s : State) (op : Issued) (t : TileId) (x : Row) : Prop where
  row : (s.mtile t).row? (op.ta.word.toNat % 2 ^ 8) = some x
  home : x.home = memIndex t

/-- A reply of a stream accumulator instruction goes to TGT1 and TGT2 of a node, or to a block's targets (R160). -/
def repliesRow (s : State) (op : Issued) (n : Niw) (v : Value) (psn : Bool) : State :=
  s.emitTo op (if op.inBlock.isSome then [n.t0, n.t1, n.t2] else [n.t1, n.t2]) ⟨op.tag, v, true, psn, false⟩

/-- Its completion, of count 1 and this scope (R127, R128). -/
def completesRow (s : State) (op : Issued) (n : Niw) (scope : Nat) : State :=
  repliesRow s op n (.scalar (word (1 + scope * 2 ^ 32))) false

/-- Tile scope for a row in one tile, region scope for a striped one (R128, R162). -/
def scopeOf (smask : Nat) : Nat := if ((Finset.range 16).filter fun k => smask.testBit k = true).card ≤ 1 then 0 else 1

/-- Every stripe tile's Σ is the sum of the squares of the elements it holds (R158). -/
def SumsExact (s : State) (r : Nat) (x : Row) : Prop :=
  ∀ k, k < 16 → x.smask.testBit k = true → ∃ z, (s.mtile (memTile r k)).row? x.num = some z ∧
    (z.sigma : Int) = ∑ c ∈ Finset.range x.n, if (elemPlace r x c).1 = memTile r k then s.elem r x c ^ 2 else 0

/-- What one added value comes to in units of 2⁻²⁴ (R162). -/
def addend (f : Fmt) (mode : Rnd) (v : Nat) : Int :=
  if f = .s64 then (BitVec.ofNat 64 v).toInt else
    match decodeElem f v with
    | .inf neg => if neg then -(2 ^ 48) else 2 ^ 48
    | x => roundToInt mode (x.scale 24) 0

/-- The element range (R158). -/
def clamped (y : Int) : Int := max (-(2 ^ 47)) (min (2 ^ 47 - 1) y)

/-- A definition may place this row: the limits of R159 and R161 hold, in SACC tiles of one configuration that are
awake. -/
structure Placeable (s : State) (t : TileId) (x : Row) : Prop where
  home : x.home = memIndex t ∧ memIndex t < 16 ∧ x.smask.testBit (memIndex t) = true ∧ x.smask < 2 ^ 16
  room : x.base + stripeLen x.n x.smask ≤ 131072
  tiles : ∀ k, k < 16 → x.smask.testBit k = true →
    let m := s.mtile (memTile (regionOf t) k)
    m.mode? = some 4 ∧ m.asleep = false ∧ m.active.map (·.ctx) = (s.mtile t).active.map (·.ctx) ∧
    ∀ y, y ∈ m.rows → (y.num = x.num → y.home = x.home) ∧ (y.num ≠ x.num →
      y.base + stripeLen y.n y.smask ≤ x.base ∨ x.base + stripeLen x.n x.smask ≤ y.base)

/-- The row stands in every stripe tile of its mask, but for Σ, and the stripes of an old definition that the new one
does not name have let it go (R161). -/
def Placed (old u : State) (t : TileId) (x : Row) : Prop :=
  (∀ k, k < 16 → x.smask.testBit k = true → ∃ z, (u.mtile (memTile (regionOf t) k)).row? x.num = some z ∧
    { z with sigma := 0 } = { x with sigma := 0 }) ∧ SumsExact u (regionOf t) x ∧
  ∀ y k, (old.mtile t).row? x.num = some y → k < 16 → y.smask.testBit k = true → x.smask.testBit k = false →
    (u.mtile (memTile (regionOf t) k)).row? x.num = none

/-- A definition word's row, with these contents (R161). -/
def defined (t : TileId) (w n : Nat) (eps : Word) (trap sat psn : Bool) (count : Nat) : Row :=
  ⟨w % 2 ^ 8, memIndex t, n, eps, trap, sat, psn, count, w / 2 ^ 24 % 2 ^ 17, w / 2 ^ 41 % 2 ^ 16, 0⟩

/-- A range of `len` bytes from `va`, aligned to 16, in the low half; the translation cache holds its pages, word `k` of
it is at `pas k`, and no two words meet. -/
structure Spans (s : State) (op : Issued) (need : Need) (va len : Nat) (pas : Nat → Nat) : Prop where
  legal : va % 16 = 0 ∧ va < 2 ^ 55 ∧ va + len ≤ 2 ^ 55 ∧
    (va + len ≤ 0x007FFF0000000000 ∨ 0x007FFF0000000000 + 42 * 2 ^ 24 ≤ va)
  cached : ∀ k, 8 * k < len → ∃ e, s.tcFind (siteRegion op.site) op.ctx (va + 8 * k) = some e ∧
    permits e.leaf need = true ∧ pas k = leafBase e.leaf + (va + 8 * k - e.base)
  apart : ∀ j k, 8 * j < len → 8 * k < len → j ≠ k → pas j + 8 ≤ pas k ∨ pas k + 8 ≤ pas j
  fresh : op.walk = none

/-- `k` bytes from byte `off` of such a range, as a little-endian number. -/
def spanNumber (s : State) (pas : Nat → Nat) (off k : Nat) : Nat :=
  ∑ i ∈ Finset.range k, (s.byteAt (pas ((off + i) / 8) + (off + i) % 8)).toNat * 256 ^ i

/-- The bytes of such a range hold the image of a row with these elements (R166). -/
structure Image (s : State) (pas : Nat → Nat) (x : Row) (num : Nat) (e : Nat → Int) : Prop where
  flags : spanNumber s pas 0 2 = num + x.sat.toNat * 2 ^ 8 + x.psn.toNat * 2 ^ 9 + x.trap.toNat * 2 ^ 10
  length : spanNumber s pas 2 2 = x.n - 1
  count : spanNumber s pas 4 4 = x.count
  eps : spanNumber s pas 8 8 = x.eps.toNat
  sum : (spanNumber s pas 16 16 : Int) = ∑ c ∈ Finset.range x.n, e c ^ 2
  elems : ∀ c, c < x.n → (BitVec.ofNat 48 (spanNumber s pas (32 + 6 * c) 6)).toInt = e c

/-- A binary64 value that may stand as ε: finite and not negative (R158). -/
def GoodEps (w : Word) : Prop := w.getLsbD 63 = false ∧ (decodeElem .f64 w.toNat).finite = true

end Sys2Proof.Claims

/-- R158, R162: SAADD counts the add and adds element e of its values to column COL + e, exactly, clamped into the element
range, each stripe's Σ staying the sum of the squares; every other element stays. An add that saturates sets SAT, and in
trap mode raises 0x242, sets PSN and changes no element.
The model's choice in it: that a float add under DRND = STO raises 0x041 is log 87. -/
def Obligations.StreamAdds : Prop :=
  ∀ (s : State) (op : Issued) (n : Niw) (t : TileId) (x : Row), Issues s op n → MemoryInv s → Clean op → (∃ y, op.site = .tile y) →
    op.ta.isVec = false → op.ta.word.toNat / 2 ^ 24 = 0 → (n.ari = 3 → op.tc.word.toNat < 2 ^ 32) →
    let s1 := after s op
    RowHome s1 op n t → RowAt s1 op t x → x.count < 2 ^ 32 - 1 → 0 < x.n → x.smask ≠ 0 → x.smask < 2 ^ 16 →
    regionOf t < 42 → SumsExact s1 (regionOf t) x →
    let col := op.ta.word.toNat / 2 ^ 8 % 2 ^ 16
    let old (c : Nat) : Int := s1.elem (regionOf t) x c
    let takes (e v : Nat) : Prop := position n.fmt op.tb.val e = some v
    let exact (e v : Nat) : Int := old (col + e) + addend n.fmt (op.mode.resolve n.rnd) v
    -- a rounding that draws is turned away before the row counts it
    (n.fmt ≠ .s64 → op.mode.resolve n.rnd = .sto → exec (.saadd n) s = .next (repliesRow
      (s1.faultAt op op.place 0x041 op.ta.word 0) op n
      (.scalar (word (1 + scopeOf x.smask * 2 ^ 32 + 2 ^ 35 + 0x041 * 2 ^ 36))) false)) ∧
    ((n.fmt = .s64 ∨ op.mode.resolve n.rnd ≠ .sto) →
    (∀ e v, takes e v → col + e < x.n ∧ (n.fmt = .s64 ∨ decodeElem n.fmt v ≠ .nan)) →
    let saturates : Prop := ∃ e v, takes e v ∧ clamped (exact e v) ≠ exact e v
    (x.trap = false ∨ ¬ saturates → ∃ (u : State) (z : Row),
      exec (.saadd n) s = .next (completesRow u op n (scopeOf x.smask)) ∧
      (u.mtile t).row? x.num = some z ∧ z.count = x.count + 1 ∧ z.psn = x.psn ∧
      (z.sat = true ↔ x.sat = true ∨ saturates) ∧ SumsExact u (regionOf t) x ∧
      (∀ e v, takes e v → u.elem (regionOf t) x (col + e) = clamped (exact e v)) ∧
      ∀ c, c < x.n → (∀ e v, takes e v → c ≠ col + e) → u.elem (regionOf t) x c = old c) ∧
    (x.trap = true ∧ saturates → ∃ (u u' : State) (z : Row), exec (.saadd n) s = .next u' ∧
      u' = repliesRow (u.faultAt op (.tile t) 0x242 op.ta.word 0) op n
        (.scalar (word (1 + scopeOf x.smask * 2 ^ 32 + 2 ^ 35 + 0x242 * 2 ^ 36))) false ∧
      (u.mtile t).row? x.num = some z ∧ z.count = x.count + 1 ∧ z.psn = true ∧ z.sat = true ∧
      SumsExact u (regionOf t) x ∧ ∀ c, c < x.n → u.elem (regionOf t) x c = old c))

/-- R164, R165: SANRM on a row whose count has been reached emits C columns, column COL + i times the row's scale times
gain i, rounded once, and stage 5 may convert it; before that, and where 64 reads wait there already, it waits at the home and
runs again when the count has been reached. SACNT replies with
the row's status, 0 for a row that is not defined.
The model's choices in it: that stage 5 converts what SANRM emits is log 77, that NNEG acts with CVE = 0 is log 54, and that SANRM
under DRND = STO raises 0x041 is log 87. -/
def Obligations.StreamReads : Prop :=
  (∀ (s : State) (op : Issued) (n : Niw) (t : TileId) (x : Row), Issues s op n → MemoryInv s → op.ta.isVec = false →
    let s1 := (after s op).fix op
    let w := op.ta.word.toNat
    let r := regionOf t
    RowHome (after s op) op n t →
    (RowAt s1 op t x → (∃ y, op.site = .tile y) → op.tc.isVec = false → op.tc.word.toNat < 2 ^ 32 →
      w / 2 ^ 30 = 0 → r < 42 → x.smask < 2 ^ 16 → SumsExact s1 r x →
      (op.mode.resolve n.rnd = .sto → exec (.sanrm n) s = .next ((after s op).faultAt op op.place 0x041 op.ta.word 0)) ∧
      (op.mode.resolve n.rnd ≠ .sto →
      let col := w / 2 ^ 8 % 2 ^ 16
      let c := w / 2 ^ 24 % 2 ^ 6 + 1
      let gain (i : Nat) : Nat := if op.tb.isVec then (position .f32 op.tb.val i).getD 0x3F800000
        else op.tb.word.toNat % 2 ^ 32
      let f64 (v : Exact) : Exact := decodeElem .f64 (roundTo .f64 .rne false v 0)
      let total := (∑ k ∈ Finset.range x.n, s1.elem r x k ^ 2).toNat
      let mean := f64 (((f64 (.rat false total 1)).scale (-48)).div (.rat false x.n 1))
      let scale := f64 (f64 (mean.add false (decodeElem .f64 x.eps.toNat))).rsqrt
      let e := s1.floatEnv op n n.fmt false
      let five (i v : Nat) : Option (Nat × Bool) :=
        let y := decodeElem n.fmt v
        if e.cve then rounded e (i / n.fmt.perLane) (i % n.fmt.perLane) y.finite y
        else some (if e.nneg && y.neg then 0 else v, false)
      let column (i : Nat) : Nat := roundTo n.fmt (op.mode.resolve n.rnd) (n.imm.getLsbD 0)
        (((Exact.rat (decide (s1.elem r x (col + i) < 0)) (s1.elem r x (col + i)).natAbs 1).scale (-24)).mul scale
          |>.mul (decodeElem .f32 (gain i))) 0
      let crowd := 64 ≤ ((s1.mtile t).waiting.filter isCountWait).length
      (x.count < op.tc.word.toNat ∨ (op.count = 0 ∧ crowd) → c ≤ 32 → c ≤ 16 * n.fmt.perLane → col + c ≤ x.n → exec (.sanrm n) s =
        .next (s1.setMtile t { s1.mtile t with waiting := (s1.mtile t).waiting ++ [op] })) ∧
      (op.tc.word.toNat ≤ x.count → op.count ≠ 0 ∨ ¬ crowd → op.mode.psn = false → c ≤ 32 → c ≤ 16 * n.fmt.perLane →
        col + c ≤ x.n → (∀ i, i < c → isAbandoned (gain i) = false) → (∀ i, i < c → five i (column i) ≠ none) →
        ∃ v, exec (.sanrm n) s = .next (repliesRow s1 op n v (x.psn || op.poisoned)) ∧ v.isVec = true ∧
          (∀ i, i < 16 * n.fmt.perLane → i % n.fmt.perLane < e.dest.perLane →
            (elemAt e.dest (rawLane v (i / n.fmt.perLane)).toNat (i % n.fmt.perLane)).toNat =
              if i < c then ((five i (column i)).map (·.1)).getD 0 % 2 ^ e.dest.width else 0) ∧
          ∀ j, j < 16 → ((laneAt v j).isSome = true ↔ j * n.fmt.perLane < c)))) ∧
    (w / 2 ^ 24 % 2 ^ 36 = 0 →
      (RowAt s1 op t x → exec (.sacnt n) s = .next (repliesRow s1 op n (.scalar (word (x.count + x.sat.toNat * 2 ^ 32 +
        x.psn.toNat * 2 ^ 33 + x.trap.toNat * 2 ^ 34 + 2 ^ 35))) op.poisoned)) ∧
      ((s1.mtile t).row? (w % 2 ^ 8) = none → exec (.sacnt n) s = .next (repliesRow s1 op n (.scalar 0) op.poisoned)))) ∧
  (∀ (s : State) (t : TileId) (op : Issued) (n : Niw) (x : Row) (rest : List Issued),
    s.issue = none → (s.mtile t).asleep = false → (s.mtile t).waiting = op :: rest → op.node < 1024 →
    (decodeWord true op.word = .ok (.sanrm n) ∨ decodeWord true op.word = .ok (.saevc n)) →
    RowAt s op t x → op.tc.word.toNat ≤ x.count → exec (.sanrmCountReached t) s =
      .next { s.setMtile t { s.mtile t with waiting := rest } with issue := some { op with count := 1 } })

/-- R161, R166 to R168: SAZRO defines a row of zeros over its stripes. SAEVC writes the row's image to memory, and
undefines the row when IMM8[0] is 1; SALOD places the row of an image that passes its checks, and so gives back the row
that was evicted. -/
def Obligations.StreamRowImages : Prop :=
  ∀ (s : State) (op : Issued) (n : Niw) (t : TileId), Issues s op n → MemoryInv s → Clean op → op.ta.isVec = false →
    op.tb.isVec = false → regionOf t < 42 →
    let s1 := (after s op).fix op
    let w := op.ta.word.toNat
    let r := regionOf t
    RowHome (after s op) op n t →
    (w / 2 ^ 58 % 4 = 0 → n.ari ≠ 3 → GoodEps op.tb.word →
      let x := defined t w (w / 2 ^ 8 % 2 ^ 16 + 1) op.tb.word (w.testBit 57) false false 0
      Placeable s1 t x → ∃ u, exec (.sazro n) s = .next (completesRow u op n (scopeOf x.smask)) ∧ Placed s1 u t x ∧
        ∀ c, c < x.n → u.elem r x c = 0) ∧
    (∀ x pas, w / 2 ^ 24 % 2 ^ 36 = 0 → op.tc.isVec = false → op.tc.word.toNat < 2 ^ 32 → RowAt s1 op t x →
      op.tc.word.toNat ≤ x.count → op.count ≠ 0 ∨ ((s1.mtile t).waiting.filter isCountWait).length < 64 →
      Spans s1 op .write op.tb.word.toNat (32 + 6 * x.n) pas → x.n ≤ 65536 →
      x.count < 2 ^ 32 → x.num < 256 → 0 < x.n → x.smask < 2 ^ 16 → SumsExact s1 r x →
      ∃ u, exec (.saevc n) s = .next (completesRow u op n 3) ∧ Image u pas x x.num (s1.elem r x) ∧
        (∀ b, (∀ i, i < 32 + 6 * x.n → b ≠ pas (i / 8) + i % 8) → u.byteAt b = s1.byteAt b) ∧
        (n.imm.getLsbD 0 = false → u.mtiles = s1.mtiles) ∧
        (n.imm.getLsbD 0 = true → ∀ k, k < 16 → x.smask.testBit k = true → (u.mtile (memTile r k)).row? x.num = none)) ∧
    (∀ (y : Row) (pas : Nat → Nat) (num : Nat) (e : Nat → Int), w / 2 ^ 58 % 4 = 0 → w / 2 ^ 57 % 2 = 0 →
      w / 2 ^ 8 % 2 ^ 16 = 0 → n.ari ≠ 3 → 0 < y.n → y.n ≤ 65536 → y.count < 2 ^ 32 → num < 256 → GoodEps y.eps →
      Spans s1 op .read op.tb.word.toNat (32 + 6 * y.n) pas → Image s1 pas y num e →
      (∀ c, c < y.n → -(2 ^ 47) ≤ e c ∧ e c < 2 ^ 47) →
      let x := defined t w y.n y.eps y.trap y.sat y.psn y.count
      Placeable s1 t x → ∃ u, exec (.salod n) s = .next (completesRow u op n (scopeOf x.smask)) ∧ Placed s1 u t x ∧
        ∀ c, c < x.n → u.elem r x c = e c)

namespace Sys2Proof.Claims

open Sys2Proof.Machine

/-- The scalar operands of a Lace instruction are scalars and none of its operands is poisoned (R198, R288). -/
def LaceOperands (op : Issued) (scalars : List Tok) : Prop := op.poisoned = false ∧ scalars.any (·.isVec) = false

/-- The issued word carries this opcode and these fields. -/
def Carries (op : Issued) (opc : Nat) (n : Niw) : Prop := op.opc = opc ∧ op.niw = n

/-- The handle in slot a names stream `st` in slot `k` of array `a`, which is in one of these states, is held by the
requesting context, and runs on graph `g`; no record holds the array and no operation is at it (R199, R200, R205, R213). -/
structure OnStream (s : State) (op : Issued) (states : List SState) (a k : Nat) (st : Stream) (g : Graph) : Prop where
  place : a < 8 ∧ k < 16 ∧ op.ta.word.toNat = k + a * 16 + st.bid * 2 ^ 8 + st.hctx * 2 ^ 40
  slot : (s.array a).slot k = st
  state : st.st ∈ states ∧ st.st ≠ .free
  owner : st.ctx = op.ctx ∧ st.bid < 2 ^ 32 ∧ st.hctx < 2 ^ 12
  graph : (s.array a).graph = some g
  idle : (s.array a).out = [] ∧ (s.array a).ops = []

/-- The bind word names array `a` with nothing reserved set; its FIFO tile, if any, is a 64-byte FIFO tile of the context;
slot `k` is the array's lowest Free one, no record holds the array, and no operation is at it (R197, R199, R213, R237). -/
structure Binds (s : State) (op : Issued) (a k : Nat) : Prop where
  array : op.tb.word.toNat % 8 = a
  word : op.tb.word.toNat / 2 ^ 21 = 0 ∧ op.tb.word.toNat / 8 % 64 < 42
  fifo : bindFen op.tb.word = true → ((s.mtile (bindTile op.tb.word)).mode? = some 1 ∧
    (s.mtile (bindTile op.tb.word)).elemBytes = 64 ∧
    ∃ p, (s.mtile (bindTile op.tb.word)).active = some p ∧ p.ctx = op.ctx)
  slot : k < 16 ∧ ((s.array a).slot k).st = .free ∧ ∀ j, j < k → ((s.array a).slot j).st ≠ .free
  idle : (s.array a).out = [] ∧ (s.array a).ops = []

/-- The stack action of a cell at position `pos` takes one stack to another (R201). -/
def acts (x : Cell) (pos : Nat) (s s' : List (Nat × Nat)) : Prop :=
  (x.sact = 0 ∧ s' = s) ∨ (x.sact = 1 ∧ s' = s ++ [(pos % 2 ^ 32, x.ssym)]) ∨
  (x.sact = 2 ∧ ∃ p, s = s' ++ [(p, x.ssym)]) ∨ (x.sact = 3 ∧ ∃ t, s = s' ++ [t])

/-- Cell `k` may follow a configuration (R74, R201). -/
def follows (g : Graph) (c : Conf) (k : Nat) : Prop :=
  match c.cell with
  | none => g.stb ≤ k ∧ k < g.stb + g.stn
  | some i => (g.cell i).sbase ≤ k ∧ k < (g.cell i).sbase + (g.cell i).scnt

/-- One step of R201 on a set of configurations. -/
def stepped (g : Graph) (pos sym : Nat) (A : Set Conf) : Set Conf :=
  { c' | ∃ c ∈ A, ∃ k, c'.cell = some k ∧ follows g c k ∧ (g.entry sym).1 = true ∧
    (nth 0 g.sets (g.cell k).cset).testBit (g.entry sym).2 = true ∧ acts (g.cell k) (pos + 1) c.stack c'.stack }

/-- The active set after a list of symbols. -/
def activeAfter (g : Graph) : Nat → List Nat → Set Conf → Set Conf
  | _, [], A => A
  | pos, x :: xs, A => activeAfter g (pos + 1) xs (stepped g pos x A)

/-- A configuration of another stream of the array. -/
def OfOthers (x : LaceArray) (k : Nat) (c : Conf) : Prop := ∃ j, j ≠ k ∧ c ∈ (x.slot j).confs

/-- Every step of a feed stays within the array's 65,536 active entries and 262,144 stack nodes (R203). -/
def Fits (x : LaceArray) (g : Graph) (k pos : Nat) (syms : List Nat) (A : Set Conf) : Prop :=
  ∀ i, i < syms.length →
    let now := activeAfter g pos (syms.take i) A
    let next := activeAfter g pos (syms.take (i + 1)) A
    (∀ l : List Conf, l.Nodup → (∀ c ∈ l, c ∈ next) →
      l.length + ((List.range 16).map fun j => if j = k then 0 else (x.slot j).confs.length).sum ≤ 65536) ∧
    ∀ l : List (List (Nat × Nat)), l.Nodup →
      (∀ y ∈ l, y ≠ [] ∧ ∃ c, (c ∈ now ∨ c ∈ next ∨ OfOthers x k c) ∧ y <+: c.stack) → l.length ≤ 262144

/-- A stream holds exactly this set of configurations, each once. -/
def Holds (st : Stream) (A : Set Conf) : Prop := st.confs.Nodup ∧ ∀ c, c ∈ st.confs ↔ c ∈ A

/-- An accepting configuration (R201). -/
def accepting (g : Graph) (c : Conf) : Prop := ∃ k, c.cell = some k ∧ (g.cell k).acc = true

open Classical in
/-- The status that LFEED replies with, for this active set at this position (R207). -/
noncomputable def statusOf (g : Graph) (cs : List Conf) (pos : Nat) : Nat :=
  cs.length + (if ∃ c ∈ cs, accepting g c then 2 ^ 17 else 0) + (if ∃ c ∈ cs, accepting g c ∧ c.stack = [] then 2 ^ 18 else 0)
    + (if cs = [] then 2 ^ 19 else 0) + pos % 2 ^ 32 * 2 ^ 32

/-- Base class `b` may come next in this set (R208). -/
def mayFollow (g : Graph) (pos : Nat) (A : Set Conf) (b : Nat) : Prop :=
  ∃ c ∈ A, ∃ k s', follows g c k ∧ (nth 0 g.sets (g.cell k).cset).testBit b = true ∧ acts (g.cell k) (pos + 1) c.stack s'

/-- The event record of cell `c` (R205). -/
def eventOf (a k : Nat) (st : Stream) (seq pos c count : Nat) : LaceOut :=
  .event (st.bind.toNat / 8 % 64) (.lace (0xC000 + 16 * a + k) seq (pos % 2 ^ 32) c count st.ctx)

/-- What a stream may hold: configurations of the graph's cells, each once; positions and symbols that fit their fields;
the pre-start configuration alone, at position 0 (R199, R201, R209). -/
structure GoodConfs (g : Graph) (cs : List Conf) (pos seq : Nat) : Prop where
  once : cs.Nodup ∧ 0 < g.cells.length
  cells : ∀ c ∈ cs, ∀ k, c.cell = some k → k < g.cells.length ∧ k < 2 ^ 14
  nodes : ∀ c ∈ cs, ∀ p ∈ c.stack, p.1 < 2 ^ 32 ∧ p.2 < 2 ^ 8
  start : ∀ c ∈ cs, c.cell = none → cs = [⟨none, []⟩] ∧ pos = 0
  sizes : cs.length ≤ 65536 ∧ (nodeList cs).length ≤ 262144 ∧ pos < 2 ^ 64 ∧ seq < 2 ^ 32

end Sys2Proof.Claims

/-- R201 to R204, R207: LFEED steps its symbols in order, each step taking every configuration to each successor whose class
set holds the symbol's class and whose stack action is possible. The reply gives the size of the active set, whether it
accepts, and the position. A cell with RPT 10 that configurations reach posts one event record under the next sequence
number, and the reply waits until it is accepted. While a record holds an array, a request only joins those at the array. A
step that passes the array's limits raises 0x280, changes nothing, and leaves the stream Held.
The model's choices in it: which predecessor is recorded is log 30. -/
def Obligations.LaceFeeding : Prop :=
  ∀ (s : State) (op : Issued) (n : Niw) (a k : Nat) (st : Stream) (g : Graph), Issues s op n → Carries op 0xC1 n →
    LaceOperands op [op.ta] →
    let s1 := (after s op).fix op
    (∀ (r : Nat) (x : Record) (l : List LaceOut), op.ta.word.toNat / 16 % 8 = a → (s1.array a).out = .event r x :: l →
      (∀ y ∈ (s1.array a).ops, y.away = false) →
      exec (.lfeed n) s = .next (s1.setArray a { s1.array a with
        ops := (s1.array a).ops ++ [⟨op, .start, false, false⟩] })) ∧
    (OnStream s1 op [.bound] a k st g → st.confs.Nodup → st.pos < 2 ^ 64 → st.seq < 2 ^ 32 →
    let count := n.imm.toNat % 64 + 1
    let given := (allPositions .z16 op.tb.val).filterMap id
    let syms := given.take count
    let A : Set Conf := { c | c ∈ st.confs }
    let A' := activeAfter g st.pos syms A
    (given.length < count → exec (.lfeed n) s = .next ((s1.setSlot a k { st with st := .held }).faultAt op (.lace a (some k))
      0x041 op.ta.word 0)) ∧
    (count ≤ given.length → Fits (s1.array a) g k st.pos syms A →
      ((∀ i, (g.cell i).rpt = 0) → ∃ st' : Stream, Holds st' A' ∧ st' = { st with
          confs := st'.confs, pos := (st.pos + count) % 2 ^ 64 } ∧
        exec (.lfeed n) s = .next (((s1.setSlot a k st').setArray a { (s1.setSlot a k st').array a with last := k }).emit op n
          ⟨op.tag, .scalar (word (statusOf g st'.confs st'.pos)), decide (∃ c ∈ st'.confs, c.cell.any fun i => (g.cell i).acc),
            false, false⟩)) ∧
      (count = 1 → (∀ c ∈ A', ∀ i, c.cell = some i → (g.cell i).rpt = 0 ∨ (g.cell i).rpt = 2) →
        ∃ (u : State) (cells : List (Nat × Nat)), exec (.lfeed n) s = .next u ∧ cells.Pairwise (fun x y => x.1 < y.1) ∧
          (∀ i m, (i, m) ∈ cells ↔ (g.cell i).rpt = 2 ∧ 0 < m ∧
            m = ((((u.array a).slot k).confs).filter fun c => c.cell = some i).length) ∧
          Holds ((u.array a).slot k) A' ∧ ((u.array a).slot k).seq = (st.seq + cells.length) % 2 ^ 32 ∧
          (u.array a).out = (cells.zipIdx).map (fun x =>
            eventOf a k st ((st.seq + x.2) % 2 ^ 32) ((st.pos + 1) % 2 ^ 64) x.1.1 x.1.2) ∧
          (cells ≠ [] → (u.array a).ops = [⟨op, .feed [], false, false⟩] ∧
            let v := u.setArray a { u.array a with out := [] }
            v.laceGo a = (v.setArray a { v.array a with ops := [] }).emit op n
              ⟨op.tag, .scalar (word (statusOf g ((u.array a).slot k).confs ((u.array a).slot k).pos)),
                decide (∃ c ∈ ((u.array a).slot k).confs, c.cell.any fun i => (g.cell i).acc), false, false⟩))) ∧
    (∀ l : List Conf, count = 1 → count ≤ given.length → l.Nodup → (∀ c, c ∈ l ↔ c ∈ A') →
      (s1.array a).confs.length ≤ 65536 → 65536 + st.confs.length < l.length + (s1.array a).confs.length →
        exec (.lfeed n) s = .next ((s1.setSlot a k { st with st := .held }).faultAt op (.lace a (some k)) 0x280 op.ta.word
          (word l.length))))

/-- R197, R199, R200, R212: LBIND binds the array's lowest Free slot under its next bind number to the graph of slot a's
image, loaded unless it is there, with the pre-start configuration at position 0, and replies with the handle; it raises
0x283 when another graph has a bound stream. LDROP frees a Bound or Held stream and keeps its bind number. A handle that
names no stream of the context raises 0x284. -/
def Obligations.LaceBinding : Prop :=
  ∀ (s : State) (op : Issued) (n : Niw) (a k : Nat), Issues s op n →
    let s1 := (after s op).fix op
    (∀ (len : Nat) (bs : List Byte), Carries op 0xC0 n → LaceOperands op [op.ta, op.tb] → Binds s1 op a k →
      s1.readVirt op op.ta.word.toNat 16 8 = .ok (bs.take 16) → ofBytes (bs.take 8) / 2 ^ 24 % 2 ^ 32 = len →
      2 ≤ len → len + 1 ≤ 3 + 16384 + 4 * 1024 + 2 * 16384 →
      s1.readVirt op op.ta.word.toNat (8 * (len + 1)) 8 = .ok bs → bs.length = 8 * (len + 1) →
      let check := word (ofBytes (bs.drop (8 * len)))
      let ncell := ofBytes ((bs.drop 8).take 8) % 2 ^ 15
      let same (g : Graph) : Prop := g.check = check ∧ g.cells.length = ncell
      let st : Stream := ⟨.bound, (((s1.array a).slot k).bid + 1) % 2 ^ 32, op.ctx, op.tb.word, [⟨none, []⟩], 0, 0, op.ctx⟩
      let bound (u : State) : State := (u.setSlot a k st).emit op n
        ⟨op.tag, .scalar (word (k + a * 16 + st.bid * 2 ^ 8 + op.ctx * 2 ^ 40)), true, false, false⟩
      (∀ g, (s1.array a).graph = some g → same g → exec (.lbind n) s = .next (bound s1)) ∧
      (∀ g, (s1.array a).graph = some g → ¬ same g → (∃ j, j < 16 ∧ ((s1.array a).slot j).st ≠ .free) →
        exec (.lbind n) s = .next (s1.faultAt op (.lace a none) 0x283 0 1)) ∧
      ((∀ g, (s1.array a).graph = some g → ¬ same g ∧ ∀ j, j < (s1.array a).slots.length →
          ((s1.array a).slot j).st = .free) →
        (∀ g, graphOf (wordsOf (len + 1) bs) = some g →
          exec (.lbind n) s = .next (bound (s1.setArray a { s1.array a with graph := some g }))) ∧
        (graphOf (wordsOf (len + 1) bs) = none → exec (.lbind n) s =
          .next ((s1.setArray a (s1.array a)).faultAt op (.lace a none) 0x283 0 2)))) ∧
    (LaceOperands op [op.ta] → (∀ st g, Carries op 0xC5 n → OnStream s1 op [.bound, .held] a k st g →
      exec (.ldrop n) s = .next ((s1.setSlot a k ⟨.free, st.bid, 0, 0, [], 0, 0, 0⟩).emit op n
        ⟨op.tag, .scalar op.ta.word, true, false, false⟩)) ∧
      (op.ta.word.toNat / 16 % 8 = a → (s1.array a).out = [] → (s1.array a).ops = [] →
        (let st := (s1.array a).slot (op.ta.word.toNat % 16)
         st.st = .free ∨ st.bid % 2 ^ 32 ≠ op.ta.word.toNat / 2 ^ 8 % 2 ^ 32 ∨ st.ctx ≠ op.ctx) →
        let t := (s1.setArray a (s1.array a)).faultAt op (.lace a none) 0x284 op.ta.word 0
        (Carries op 0xC5 n → exec (.ldrop n) s = .next t) ∧ (Carries op 0xC1 n → exec (.lfeed n) s = .next t)))

/-- R208: LQRY with no forced token writes the mask of the vocabulary tokens that may come next, the OR of the rows of
every class that may follow, and replies with their number and the lowest of them. Words 3 to 5 of its descriptor are read
only when L > 0. -/
def Sys2Proof.Claims.LaceQueries : Prop :=
  ∀ (s : State) (op : Issued) (n : Niw) (a k : Nat) (st : Stream) (g : Graph) (ws : List Word) (rows : Nat → List Byte)
    (ps : List (Nat × Nat)) (m : Nat),
    Issues s op n → Carries op 0xC2 n → LaceOperands op [op.ta, op.tb, op.tc] → op.tc.word.toNat < 256 →
    let s1 := (after s op).fix op
    OnStream s1 op [.bound] a k st g →
    ws.length = (if op.tc.word = 0 then 3 else 6) → s1.readVirt op op.tb.word.toNat (8 * ws.length) 8 = .ok (wordBytes ws) →
    let w (i : Nat) : Nat := (ws.getD i 0).toNat
    let vb := w 1 % 2 ^ 32
    let v := w 1 / 2 ^ 32
    w 0 % 64 = 0 → w 2 % 64 = 0 → vb % 64 = 0 → 64 ≤ vb → vb ≤ 2 ^ 20 → 0 < v → v ≤ 8 * vb →
    (∀ b, b < 256 → s1.readVirt op (w 0 + b * vb) vb 64 = .ok (rows b)) →
    s1.range op .write (w 2) vb 64 = .ok ps →
    (∀ i, m.testBit i = true ↔ i < v ∧ ∃ b, b < 256 ∧ mayFollow g st.pos { c | c ∈ st.confs } b ∧
      (ofBytes (rows b)).testBit i = true) →
    ∀ ts : List Nat, ts.Pairwise (· < ·) → (∀ i, i ∈ ts ↔ m.testBit i = true) →
    op.tc.word = 0 ∨ ts.length ≠ 1 →
    exec (.lqry n) s = .next (((s1.writePieces ps (bytesOf vb m)).setArray a (s1.array a)).emit op n
      ⟨op.tag, .scalar (word (ts.length + ts.headD 0 * 2 ^ 32)), decide (ts.length = 1), false, false⟩)

/-- R209 to R211: LSUSP writes the stream's image, its header, the bound graph's check word, the position, the report cursor,
the counts and the check word in their places, and replies with its size; an area that is too small raises 0x281 with that
size, and the stream is Held. LRESM of an image binds a slot with the same configurations, position and cursor. -/
def Sys2Proof.Claims.LaceImages : Prop :=
  (∀ (g : Graph) (cs : List Conf) (pos seq : Nat), GoodConfs g cs pos seq → ∃ cs' : List Conf,
    imageConfs g (saveImage g.check cs pos seq) = some cs' ∧ cs'.Perm cs ∧
    saveImage g.check cs' pos seq = saveImage g.check cs pos seq) ∧
  (∀ (g : Graph) (cs : List Conf) (pos seq : Nat), GoodConfs g cs pos seq →
    let ws := saveImage g.check cs pos seq
    let nn := (nodeList cs).length
    ws.length = 6 + cs.length + nn ∧ (ws.getD 0 0).toNat = 0x4C53 * 2 ^ 48 + 2 ^ 40 + ws.length ∧ ws.getD 1 0 = g.check ∧
    (ws.getD 2 0).toNat = pos ∧ (ws.getD 3 0).toNat = seq ∧ (ws.getD 4 0).toNat = cs.length + nn * 2 ^ 32 ∧
    ws.getLastD 0 = crcWords ws.dropLast) ∧
  (∀ (s : State) (op : Issued) (n : Niw) (a k : Nat) (g : Graph), Issues s op n →
    LaceOperands op [op.ta, op.tb, op.tc] →
    let s1 := (after s op).fix op
    (∀ st, Carries op 0xC3 n → OnStream s1 op [.bound, .held] a k st g → op.tc.word.toNat < 2 ^ 32 →
      let ws := saveImage g.check st.confs st.pos st.seq
      (op.tc.word.toNat < 8 * ws.length → exec (.lsusp n) s = .next ((s1.setSlot a k { st with st := .held }).faultAt op
        (.lace a (some k)) 0x281 op.ta.word (word (8 * ws.length)))) ∧
      (∀ ps, 8 * ws.length ≤ op.tc.word.toNat → s1.range op .write op.tb.word.toNat (8 * ws.length) 8 = .ok ps →
        exec (.lsusp n) s = .next (((s1.writePieces ps (wordBytes ws)).setSlot a k
          (if n.imm.getLsbD 0 then ⟨.free, st.bid, 0, 0, [], 0, 0, 0⟩ else { st with st := .bound })).emit op n
            ⟨op.tag, .scalar (word (8 * ws.length)), true, false, false⟩))) ∧
    (∀ (cs : List Conf) (pos seq len : Nat) (bs : List Byte), Carries op 0xC4 n → Binds s1 op a k → GoodConfs g cs pos seq →
      (s1.array a).graph = some g →
      s1.readVirt op op.ta.word.toNat 16 8 = .ok (bs.take 16) → ofBytes (bs.take 8) / 2 ^ 24 % 2 ^ 32 = len →
      2 ≤ len → len + 1 ≤ 3 + 16384 + 4 * 1024 + 2 * 16384 →
      s1.readVirt op op.ta.word.toNat (8 * (len + 1)) 8 = .ok bs → bs.length = 8 * (len + 1) →
      g.check = word (ofBytes (bs.drop (8 * len))) → g.cells.length = ofBytes ((bs.drop 8).take 8) % 2 ^ 15 →
      let ws := saveImage g.check cs pos seq
      s1.readVirt op op.tc.word.toNat 8 8 = .ok ((wordBytes ws).take 8) →
      s1.readVirt op op.tc.word.toNat (8 * ws.length) 8 = .ok (wordBytes ws) →
      (s1.array a).confs.length + cs.length ≤ 65536 →
      (nodeList (s1.array a).confs).length + (nodeList cs).length ≤ 262144 →
      ∃ st : Stream, st.confs.Perm cs ∧
        st = ⟨.bound, (((s1.array a).slot k).bid + 1) % 2 ^ 32, op.ctx, op.tb.word, st.confs, pos, seq, op.ctx⟩ ∧
        exec (.lresm n) s = .next ((s1.setSlot a k st).emit op n
          ⟨op.tag, .scalar (word (k + a * 16 + st.bid * 2 ^ 8 + op.ctx * 2 ^ 40)), true, false, false⟩)))

/-- What Claims.LaceQueries and Claims.LaceImages say, together. -/
def Obligations.LaceQueriesAndImages : Prop := Claims.LaceQueries ∧ Claims.LaceImages

namespace Sys2Proof.Claims

open Sys2Proof.Machine

/-- A scalar token's word is a launch number of a context that has not ended (R294). -/
def NamesLive (s : State) (w : Word) (x : Ctx) : Prop := s.launched? w.toNat = some x ∧ x.st ≠ .ended

/-- The issuer may command the context: its home is this tile, or it is a system configuration of the same tenant or of
tenant 0 (R66, R294, R319). -/
def Commands (s : State) (op : Issued) (x : Ctx) : Prop :=
  x.home = siteRegion op.site ∨ ∃ c, s.ctx? op.ctx = some c ∧ c.sys = true ∧ (c.ten = 0 ∨ c.ten = x.ten)

/-- Emits a scalar of this predicate. -/
def emitsWord (s : State) (op : Issued) (n : Niw) (w : Word) (pred : Bool) : State :=
  s.emit op n ⟨op.tag, .scalar w, pred, op.poisoned, false⟩

/-- The target, slot and value of a seed record as a token of context `num` (R49, R67, R319). -/
def seedToken (x : SeedRec) (num : Nat) : Parcel :=
  let q := parcelOf x.ctl x.tag [x.val]
  { q with tok := { q.tok with tag := tagOf num (depthOf x.tag) (areaOf x.tag) } }

/-- A drain for a slot of a context (R174). -/
def drainParcel (q : Parcel) (num : Nat) : Parcel :=
  ⟨q.tile, q.node, q.slot, ⟨tagOf num 0 0, .scalar 0, true, false, true⟩, false⟩

/-- From `s` to `u` one drain has been sent to every distinct slot that the context's seeds target (R174, R323). -/
def DrainsSent (s u : State) (x : Ctx) : Prop :=
  ∀ t, ∃ l : List Parcel, l.Nodup ∧ (u.ctile t).stream = (s.ctile t).stream ++ l ∧
    ∀ q, q ∈ l ↔ q.tile = t ∧ ∃ r ∈ x.seeds, q = drainParcel (parcelOf r.ctl r.tag [r.val]) x.num

/-- The eight words of a launch descriptor keep their limits (R216). -/
structure GoodDescriptor (ws : List Word) : Prop where
  eight : ws.length = 8
  image : (ws.getD 0 0).toNat % 8 = 0
  part : 2 ≤ (ws.getD 2 0).toNat % 2 ^ 12 ∧ (ws.getD 2 0).toNat % 2 ^ 12 ≤ 2048
  skl : 6 ≤ (ws.getD 2 0).toNat / 2 ^ 16 % 2 ^ 5 ∧ (ws.getD 2 0).toNat / 2 ^ 16 % 2 ^ 5 ≤ 24
  zero2 : (ws.getD 2 0).toNat / 2 ^ 12 % 2 ^ 4 = 0 ∧ (ws.getD 2 0).toNat / 2 ^ 24 = 0
  zero3 : (ws.getD 3 0).toNat / 2 ^ 32 = 0
  root : (ws.getD 4 0).toNat % 2 ^ 12 = 0 ∧ (ws.getD 4 0).toNat / 2 ^ 52 = 0
  rest : ws.getD 5 0 = 0 ∧ ws.getD 6 0 = 0 ∧ ws.getD 7 0 = 0

/-- A context that a launch of these words has brought to the arbiter (R216, R218, R287). -/
structure Launched (s : State) (ws : List Word) (x : Ctx) : Prop where
  waits : x.st = .waiting ∧ x.arrival = s.cycle ∧ x.launch = s.nextLaunch
  words : x.img = ws.getD 0 0 ∧ x.seed = ws.getD 1 0 ∧ x.part = (ws.getD 2 0).toNat % 2 ^ 12 ∧
    x.skl = (ws.getD 2 0).toNat / 2 ^ 16 % 2 ^ 5 ∧ x.prio = (ws.getD 2 0).toNat / 2 ^ 21 % 2 ^ 3

/-- The arbiter holds one launch more, under the next launch number. -/
def accepted (s : State) (x : Ctx) : State :=
  { s with ctxs := s.ctxs.filter (fun c => decide (c.launch ≠ s.nextLaunch)) ++ [x]
           nextLaunch := if s.nextLaunch + 1 = 2 ^ 32 then 1 else s.nextLaunch + 1 }

/-- The scope that an event record reaches (R128): its own region, its die, or the module. -/
def scopeBetween (here home : Nat) : Nat := if here = home then 1 else if here / 21 = home / 21 then 2 else 3

/-- EVWAIT's selection: records of the launch number, or with IMM8[0] = 1 Lace records of that launch's context (R261). -/
def picks (s : State) (n : Niw) (ln : Nat) : Record → Prop
  | .post _ _ _ l _ _ _ _ => n.imm.getLsbD 0 = false ∧ l = ln
  | .fault _ _ _ _ _ _ _ _ _ _ _ _ l => n.imm.getLsbD 0 = false ∧ l = ln
  | .marker _ _ _ _ l => n.imm.getLsbD 0 = false ∧ l = ln
  | .lace _ _ _ _ _ c => n.imm.getLsbD 0 = true ∧ ∃ x, s.launched? ln = some x ∧ x.num = c

/-- What EVWAIT emits for a record (R261). -/
def told : Record → Word × Bool
  | .post _ _ v _ _ _ _ _ => (v, true)
  | .fault _ _ _ _ _ _ _ _ _ _ _ d _ => (d, false)
  | .marker _ _ r _ _ => (word r, true)
  | .lace _ _ pos cell _ _ => (word (pos + cell * 2 ^ 32), true)

/-- Where an issuer stands in the mesh: a control tile behind the router of its region's first tile. -/
def standOf : Issuer → TileId
  | .tile t => t
  | .block r _ _ => firstTile r

/-- A waiting EVWAIT of region `r` selects a record of the region's queue. -/
def OlderTakes (s : State) (r : Nat) : Prop := ∃ h ∈ s.held, h.why = .record ∧ siteRegion h.op.site = r ∧
  ∃ y ∈ (s.region r).queue, picks s h.op.niw h.op.ta.word.toNat y

/-- From `u` to `v` a context has ended: it holds nothing, no plane stands in its number, and all else of memory and of the
other contexts is as it was (R220, R322). -/
structure ReleasedFrom (u v : State) (x : Ctx) : Prop where
  ended : ∃ y, v.launched? x.launch = some y ∧ y.st = .ended ∧ y.loops = [] ∧ y.skein = [] ∧ y.endpoints = []
  planes : ∀ t p, (v.ctile t).active = some p → p.ctx ≠ x.num
  main : v.main.cells = u.main.cells
  others : ∀ y, y.launch ≠ x.launch → (y ∈ v.ctxs ↔ y ∈ u.ctxs)

/-- A MARK names a live context that it may command, not its own, and goes behind no other that waits for it (R294). -/
structure Marks (s : State) (op : Issued) (x : Ctx) : Prop where
  live : NamesLive s op.ta.word x
  first : op.count ≠ 0 ∨ ∀ h ∈ s.held, h.why ≠ .start x.launch
  other : x.num ≠ op.ctx
  may : Commands s op x
  scalar : op.ta.isVec = false ∧ op.tb.isVec = false

end Sys2Proof.Claims

/-- R47, R48, R174, R251, R253, R259, R323: CFGLD puts an image's planes into the shadow planes of its regions and emits the
image's length; CFGSW waits for the swap of its regions, and swaps one without an active configuration at once. DRAIN sends
a drain to every slot that the launch's seeds target, and waits for the swap; SPLICE hands the shadow planes to the running
context, sends the drains, and waits for its tiles to switch.
The model's choices in it: the order of the checks is logs 17 and 18; that a block's CFGSW counts among the operations that its
commit fixes is log 16. -/
def Obligations.ConfigurationsAndSwaps : Prop :=
  ∀ (s : State) (op : Issued) (n : Niw) (c : Ctx), Issues s op n → op.niw = n → op.ta.isVec = false →
    (after s op).ctx? op.ctx = some c →
    let s1 := after s op
    let rs := op.tb.word.toNat
    let set := op.ta.word.toNat
    (op.tb.isVec = false →
      (rs = 0 ∨ 2 ^ 42 ≤ rs → Faults (.cfgld n) s op 0x041) ∧
      (0 < rs → rs < 2 ^ 42 → (∃ r, rs.testBit r = true ∧ (c.rset.testBit r = false ∨ (s1.region r).reserved.isSome = true)) →
        Faults (.cfgld n) s op 0x301) ∧
      (∀ img todo, 0 < rs → rs < 2 ^ 42 → s1.readImage (.virt c.root c.sys) false set = .ok img → img.rset = rs →
        (∀ r, rs.testBit r = true → c.rset.testBit r = true ∧ (s1.region r).reserved = none ∧
          s1.loadingSet.testBit r = false ∧
          ∀ l, (s1.region r).shadow = some l → l.byCfgld = true ∧ l.ctx = c.num ∧ l.img = img.check) →
        (∀ r, Nat.testBit todo r = true ↔ rs.testBit r = true ∧ (s1.region r).shadow = none) →
        (todo = 0 → exec (.cfgld n) s = .next (emitsWord s1 op n (word img.len) true)) ∧
        (∀ u, todo ≠ 0 → s1.loadFabric c img todo true = .ok u →
          exec (.cfgld n) s = .next (emitsWord u op n (word img.len) true) ∧
          ∀ r, rs.testBit r = true → ∃ l, (u.region r).shadow = some l ∧ l.byCfgld = true ∧ l.ctx = c.num ∧
            l.img = img.check))) ∧
    ((2 ^ 42 ≤ set → Faults (.cfgsw n) s op 0x041) ∧
      (set < 2 ^ 42 → (∃ r, set.testBit r = true ∧ c.rset.testBit r = false) → Faults (.cfgsw n) s op 0x301) ∧
      (set = 0 → exec (.cfgsw n) s = .next (emitsWord s1 op n op.ta.word true)) ∧
      (0 < set → set < 2 ^ 42 → (∀ r, set.testBit r = true → c.rset.testBit r = true) →
        (∀ r, set.testBit r = true → (s1.region r).activeCtx.isSome = true) →
        exec (.cfgsw n) s = .next (s1.hold op (.swap set))) ∧
      (∀ r, r < 42 → set = 2 ^ r → c.rset.testBit r = true → (s1.region r).activeCtx = none → s1.held = [] →
        exec (.cfgsw n) s = .next (emitsWord ((s1.swapRegion r).fix op) op n op.ta.word true))) ∧
    ((∀ x, s1.launched? set = some x → x.home = siteRegion op.site →
        (x.st = .ended → exec (.drainBlock n) s = .next (emitsWord s1 op n op.ta.word true)) ∧
        (x.st ≠ .ended → ∃ u : State, exec (.drainBlock n) s = .next u ∧ DrainsSent s1 u x ∧
          u.held = s1.held ++ [⟨op, .drain x.launch x.rset⟩] ∧ u.mtiles = s1.mtiles ∧ u.main = s1.main)) ∧
      ((∀ x, s1.launched? set = some x → x.home ≠ siteRegion op.site) → Faults (.drainBlock n) s op 0x041)) ∧
    (∀ x, NamesLive s1 op.ta.word x → op.tb.isVec = false →
      (x.st ≠ .running → Faults (.splice n) s op 0x084) ∧
      (x.st = .running → ¬ Commands s1 op x → Faults (.splice n) s op 0x103) ∧
      (x.st = .running → Commands s1 op x → rs ≠ x.rset ∨ x.splice.isSome = true → Faults (.splice n) s op 0x302) ∧
      (x.st = .running → Commands s1 op x → 0 < rs → rs < 2 ^ 42 → rs = x.rset → x.splice = none →
        (∀ r, rs.testBit r = true → ∃ l, (s1.region r).shadow = some l ∧ l.byCfgld = true ∧ l.ctx = c.num ∧ l.rset = rs) →
        (∃ t p, rs.testBit (regionOf t) = true ∧ regionOf t < 42 ∧ t ∈ tilesOf (regionOf t) ∧ isCompute t = true ∧
          (s1.ctile t).active = some p ∧ p.ctx = x.num) →
        ∃ (u : State) (y : Ctx), exec (.splice n) s = .next u ∧ DrainsSent s1 u x ∧
          u.held = s1.held ++ [⟨op, .splice x.launch⟩] ∧ u.launched? x.launch = some y ∧ y.splice.isSome = true ∧
          y.switched = [] ∧ y.st = .running ∧ (∀ r, rs.testBit r = true → ∃ l, (u.region r).shadow = some l ∧ l.ctx = x.num) ∧
          ∀ t p, rs.testBit (regionOf t) = true → t ∈ tilesOf (regionOf t) → isCompute t = true →
            (s1.ctile t).shadow = some p → ∃ p', (u.ctile t).shadow = some p' ∧ p' = { p with ctx := x.num }))

/-- R49, R216, R218, R286, R287, R319: LAUNCH reads its descriptor and brings a context of its own tenant and gang, and of its
mode as it fired, to the arbiter, under the next launch number; SEED reads its record once and sends the token into a running
context, or keeps it until the context runs. The arbiter grants a waiting launch the
lowest free number and reserves its regions. When a context's planes stand, its seeds are sent, in table order, and it runs,
and LAUNCH emits the launch number.
The model's choices in it: the lowest free number is log 9, the time of reading a launch log 17. -/
def Obligations.LaunchesAndSeeds : Prop :=
  (∀ (s : State) (op : Issued) (n : Niw) (c : Ctx), Issues s op n → op.ta.isVec = false → op.tb.isVec = false →
    (after s op).ctx? op.ctx = some c →
    let s1 := after s op
    let h := op.ta.word.toNat
    let rs := op.tb.word.toNat
    (2 ^ 42 ≤ rs ∨ rs = 0 ∨ h % 64 ≠ 0 → Faults (.launch n) s op 0x041) ∧
    (∀ ws, 0 < rs → rs < 2 ^ 42 → h % 64 = 0 → s1.readVirt op h 64 64 = .ok (wordBytes ws) → ws.length = 8 →
      (¬ GoodDescriptor ws → Faults (.launch n) s op 0x041) ∧
      (GoodDescriptor ws → c.gang = 0 ∨ s1.hasFeature 1 = true → s1.waiting < 256 → ∃ x : Ctx,
        exec (.launch n) s = .next (accepted s1 x) ∧ Launched s1 ws x ∧ x.rset = rs ∧ x.home = siteRegion op.site ∧
        x.k = n.imm.toNat ∧ x.parent = some c.launch ∧ x.gang = c.gang ∧ x.ten = c.ten ∧ x.root = c.root ∧
        x.mode = (if op.count = 0 then c.mode else word (op.count - 1)) ∧
        (∃ k, x.req = some { op with count := k }) ∧ x.host = none ∧ x.program = false)) ∧
    (∀ x ctl tag val, NamesLive s1 op.ta.word x → Commands s1 op x → x.st = .running ∨ x.st = .freezing ∨ x.st = .frozen →
      (op.record = [] → s1.readVirt op op.tb.word.toNat 24 8 = .ok (wordBytes [ctl, tag, val])) →
      (op.record ≠ [] → op.record = [ctl, tag, val]) →
      let r : SeedRec := ⟨ctl, tag, val⟩
      let o : Issued := { op with record := [ctl, tag, val] }
      let q := parcelOf ctl tag [val]
      ctl.toNat % 2 ^ 35 = 0 → ctl.getLsbD 38 = false → ctl.toNat / 2 ^ 39 % 8 = 0 → tag.toNat / 2 ^ 52 = 0 →
      (∀ p, look q.tile (s1.planesOf x.num) = some p → seedFits (s1.planesOf x.num) x.rset p.widths r = true) →
      (look q.tile (s1.planesOf x.num)).isSome = true →
      (x.st ≠ .running → exec (.seed n) s = .next (s1.hold o (.running x.launch))) ∧
      (x.st = .running → ∃ v : State,
        exec (.seed n) s = .next (emitsWord v o n op.ta.word true) ∧ v.mtiles = s1.mtiles ∧ v.main = s1.main ∧
        (v.ctile q.tile).stream = (s1.ctile q.tile).stream ++ [seedToken r x.num] ∧
        ∀ t, t ≠ q.tile → v.ctile t = s1.ctile t))) ∧
  (∀ (s : State) (c : Ctx) (num : Nat), s.launched? c.launch = some c → (s.ctxs.map (·.launch)).Nodup → c.st = .waiting → c.program = false → c.stopAfter = false →
    (∀ d ∈ s.ctxs, d.st = .waiting → d = c) → (∀ d ∈ s.ctxs, d.st ≠ .loading ∧ d.program = false) →
    (∀ r, r < 42 → c.rset.testBit r = true → (s.region r).shadow = none ∧ (s.region r).reserved = none ∧
      s.loadingSet.testBit r = false) →
    (∃ r, r < 42 ∧ c.rset.testBit r = true) →
    (∀ r, r < 42 → (s.region r).activeCtx ≠ some num ∧ ∀ l, (s.region r).shadow = some l → l.ctx ≠ num) →
    1 ≤ num → num < 4096 → (∀ d ∈ s.ctxs, d.st ≠ .waiting → d.st ≠ .ended → d.num ≠ num) →
    (∀ k, 1 ≤ k → k < num → ∃ d ∈ s.ctxs, d.st ≠ .waiting ∧ d.st ≠ .ended ∧ d.num = k) →
    let d : Ctx := { c with num := num, st := .loading }
    ∃ u : State, exec .arbiterGrant s = .next ((u.tryLoad d).endPrograms) ∧ u.launched? c.launch = some d ∧
      (∀ r, r < 42 → (u.region r).reserved = if c.rset.testBit r then some num else (s.region r).reserved) ∧
      u.ctiles = s.ctiles ∧ u.mtiles = s.mtiles ∧ u.main = s.main) ∧
  (∀ (s : State) (c : Ctx), s.ctx? c.num = some c → s.launched? c.launch = some c → c.st = .loading → c.program = false →
    c.image = none → c.host = none → (∀ r, r < 42 → c.rset.testBit r = true → (s.region r).activeCtx = some c.num) →
    ∃ v : State, (∀ t, (v.ctile t).stream = (s.ctile t).stream ++
        (c.seeds.filter fun x => (seedToken x c.num).tile = t).map fun x => seedToken x c.num) ∧
      v.mtiles = s.mtiles ∧ v.main = s.main ∧ (∃ d, v.launched? c.launch = some d ∧ d.st = .running ∧ d.num = c.num) ∧
      (c.req = none → exec (.seedInjection c.num) s = .next v) ∧
      (∀ op, c.req = some op → exec (.seedInjection c.num) s = .next (emitsWord v op op.niw (word c.launch) true)))

/-- R128, R205, R230, R260, R261: EVPOST sends a record as a TYPE 011 packet to its context's home tile, and completes once
the queue there has taken it, with the scope that the record has reached; an operand with predicate 0 posts nothing. A queue
takes its records in order; a fault record that finds fewer than two entries free is dropped and counted. EVWAIT takes the
oldest record that it selects from its own tile's queue, or waits; one that fired earlier goes first.
The model's choices in it: the 256 entries of KIND 0x30 are log 40, a control tile's place in the mesh is log 68; that a block's
EVWAIT counts among the operations that its commit fixes is log 16. -/
def Sys2Proof.Claims.EventQueues : Prop :=
  (∀ (s : State) (op : Issued) (n : Niw) (c : Ctx), Issues s op n → op.niw = n → (after s op).ctx? op.ctx = some c → c.home < 42 →
    let s1 := after s op
    let src := op.place.fields.1
    let r := siteRegion op.site
    (op.ta.pred = false ∨ op.anyNull = true → exec (.evpost n) s =
      .next (emitsWord s1 op n (word (1 + scopeBetween r c.home * 2 ^ 32 + 2 ^ 35)) true)) ∧
    (op.ta.pred = true → op.anyNull = false → ∃ (u : State) (f : Flit), exec (.evpost n) s = .next u ∧
      let k := lookD 0 src s1.seqs
      let t := standOf op.site
      (u.ctile t).inject = (s1.ctile t).inject ++ [f] ∧ f.cargo = .post op ∧ f.typ = 3 ∧ f.dst = firstTile c.home ∧
      f.flast = 0 ∧ f.age = 0 ∧ f.data.toNat = (word (src + 2 ^ 16 + k * 2 ^ 32)).toNat + op.ta.word.toNat * 2 ^ 64 +
        (word (c.launch + c.num * 2 ^ 32 + n.imm.toNat * 2 ^ 48 + op.ta.psn.toNat * 2 ^ 56)).toNat * 2 ^ 128 +
        op.ta.tag.toNat * 2 ^ 192 ∧
      lookD 0 src u.seqs = (k + 1) % 2 ^ 32 ∧ (∀ v, v ≠ t → u.ctile v = s1.ctile v) ∧ u.mtiles = s1.mtiles ∧
      u.main = s1.main) ∧
    (op.ta.isVec = false → ∀ (pre post : List Record) (x : Record),
      (∀ y ∈ pre, ¬ picks s1 n op.ta.word.toNat y) →
      let waits := exec (.evwait n) s = .next (s1.hold { op with count := 1 } .record)
      ((s1.region r).queue = pre → waits) ∧ (op.count = 0 → OlderTakes s1 r → waits) ∧
      ((s1.region r).queue = pre ++ x :: post → picks s1 n op.ta.word.toNat x → op.count ≠ 0 ∨ ¬ OlderTakes s1 r → exec (.evwait n) s =
        .next (emitsWord ((s1.setRegion r { s1.region r with queue := pre ++ post }).fix op) op n (told x).1 (told x).2)))) ∧
  (∀ (s : State) (r : Nat) (i : Inbound) (rest : List Inbound), (s.region r).inbound = i :: rest →
    let g := s.region r
    (∀ src seq v ln num code psn tag, i.record = .post src seq v ln num code psn tag → queueSize g.queue < 240 →
      let u := s.setRegion r { g with inbound := rest, queue := g.queue ++ [i.record] }
      (i.op = none → exec (.eventRecordEnqueue r) s = .next u) ∧
      (∀ op, i.op = some op → exec (.eventRecordEnqueue r) s = .next
        (emitsWord u op op.niw (word (1 + scopeBetween (siteRegion op.site) r * 2 ^ 32)) true))) ∧
    (∀ src seq k tk f di co ro num tag ad de ln, i.record = .fault src seq k tk f di co ro num tag ad de ln → i.op = none →
      (queueSize g.queue + 2 ≤ 256 → exec (.eventRecordEnqueue r) s =
        .next (s.setRegion r { g with inbound := rest, queue := g.queue ++ [i.record] })) ∧
      (255 ≤ queueSize g.queue → exec (.eventRecordEnqueue r) s =
        .next (s.setRegion r { g with inbound := rest, drop := min (2 ^ 32 - 1) (g.drop + 1) }))))

/-- R221 to R223, R228, R294: MARK of a running context makes it Freezing under its round, a marker on its way to each of
its elements, and waits for the delivery; of the gang form the gang marker goes out on every port that is up once the member
is Frozen. MARK #2 of a Frozen
context lets it run again and delivers what SINK tiles hold. In any other state MARK emits the round that stands, with
predicate 0. An element that the marker reaches freezes, the last one lets MARK emit; when the last element is quiet the
context is Frozen.
The model's choices in it: what is quiet is log 20, which ports bring a gang's marker, and that it is sent once the member is
Frozen, is log 72; that a block's MARK counts among the operations that its commit fixes is log 16. -/
def Sys2Proof.Claims.Marking : Prop :=
  (∀ (s : State) (op : Issued) (n : Niw) (x : Ctx), Issues s op n → Marks (after s op) op x →
    let s1 := after s op
    let round := op.tb.word.toNat
    let good := 0 < round ∧ round < 2 ^ 32
    let marked (u : State) (gang : Bool) : Prop := u.held = s1.held ++ [⟨op, .delivery x.launch round⟩] ∧
      ∃ y, u.launched? x.launch = some y ∧ y.st = .freezing ∧ y.round = round ∧ y.issuer = some (siteRegion op.site) ∧
        y.markers = y.quiet ∧ y.gangMark = gang ∧ (∀ e, e ∈ y.markers ↔ e ∈ s1.elements x)
    (¬ good → Faults (.markFreeze n) s op 0x041) ∧
    (good → (x.st = .running → ∃ u : State, exec (.markFreeze n) s = .next u ∧ marked u false ∧ u.ctiles = s1.ctiles ∧
        u.mtiles = s1.mtiles ∧ u.main = s1.main) ∧
      (x.st = .freezing ∨ x.st = .frozen ∨ x.st = .stopped →
        exec (.markFreeze n) s = .next (emitsWord s1 op n (word x.round) false))) ∧
    (good → x.gang ≠ 0 → s1.hasFeature 1 = true → (∀ g ∈ s1.tables.gangs, g.1.1 = x.gang → s1.node ≤ g.2) →
      (x.st = .running → ∃ u : State, exec (.markGang n) s = .next u ∧ marked u true ∧ u.ports = s1.ports) ∧
      (x.st = .frozen → exec (.markGang n) s = .next (emitsWord s1 op n (word x.round) false))) ∧
    (x.st = .running ∨ x.st = .freezing ∨ x.st = .stopped →
      exec (.markResume n) s = .next (emitsWord s1 op n (word x.round) false)) ∧
    (x.st = .frozen → ∃ v : State, exec (.markResume n) s = .next (emitsWord v op n (word x.round) true) ∧
      (∃ y, v.launched? x.launch = some y ∧ y.st = .running) ∧ (∀ t, x.num ∉ (v.ctile t).frozen) ∧
      (∀ m q, q ∈ (v.mtile m).sink → tagCtx q.tok.tag ≠ x.num) ∧
      ∀ m q, s1.mtile m ≠ MTile.reset → q ∈ (s1.mtile m).sink → tagCtx q.tok.tag = x.num →
        (∃ e, (q.tile, e) ∈ s1.ctiles) → q ∈ (v.ctile q.tile).ingress)) ∧
  (∀ (s : State) (c : Ctx) (el : Element), s.ctx? c.num = some c → s.launched? c.launch = some c → c.st = .freezing →
    (el ∈ c.markers → (∀ h ∈ s.held, h.why ≠ .delivery c.launch c.round) →
      ∃ u : State, exec (.markerDelivery c.num el) s = .next u ∧
      (∃ y, u.launched? c.launch = some y ∧ y.st = .freezing ∧ y.markers = c.markers.filter (fun e => decide (e ≠ el))) ∧
      (∀ t, el = .tile t → isCompute t = true → c.num ∈ (u.ctile t).frozen) ∧
      (∀ t, el ≠ .tile t → u.ctile t = s.ctile t) ∧ u.main.cells = s.main.cells) ∧
    (∀ op, el ∈ c.markers → (∀ e ∈ c.markers, e = el) → s.held = [⟨op, .delivery c.launch c.round⟩] →
      (∀ r b, el ≠ .block r b) → ∃ v : State, v.held = [] ∧
        exec (.markerDelivery c.num el) s = .next (emitsWord v op op.niw (word c.round) true)) ∧
    (el ∈ c.quiet → s.quietAt c el = true →
      (∀ e ∈ c.quiet, e ≠ el → exec (.elementQuiet c.num el) s =
        .next (s.mapCtx c.launch fun c => { c with quiet := c.quiet.filter (fun e => decide (e ≠ el)) })) ∧
      (∀ r, (∀ e ∈ c.quiet, e = el) → c.endAfter = false → c.gangMark = false → c.issuer = some r →
        ∃ (u : State) (y : Ctx) (k : Nat), exec (.elementQuiet c.num el) s = .next u ∧ u.launched? c.launch = some y ∧
          y.st = (if c.stopAfter then .stopped else .frozen) ∧ y.quiet = [] ∧ (u.region r).inbound = (s.region r).inbound ++
            [⟨.marker (0x8000 + c.home) k c.round c.num c.launch, none⟩]) ∧
      ((∀ e ∈ c.quiet, e = el) → c.endAfter = false → c.gangMark = true →
        (∃ p, p < 16 ∧ (s.port p).up = true ∧ s.peer p < 4096 ∧ (c.gang, c.round) ∉ (s.port p).marked) →
        ∃ (u : State) (y : Ctx), exec (.elementQuiet c.num el) s = .next u ∧ u.launched? c.launch = some y ∧
          y.st = (if c.stopAfter then .stopped else .frozen) ∧ y.gangMark = true ∧ u.regions = s.regions ∧
          ∀ p, p < 16 → (s.port p).up = true →
            ∃ k, (u.port p).replay = (s.port p).replay ++ [(k, .marker c.gang c.round)])))

/-- R226, R310, R322: SNAP of a Frozen or Stopped context writes an image whose header and check word are those of R226, and
emits its size; IMM8[0] ends the context, whose planes and tables go. With IMM8[1] the image goes to an endpoint in messages of at
most 200 bytes, and SNAP waits for their acknowledgements. RSTR of such an image brings a context with its round, mode and
descriptor to the arbiter.
The model's choices in it: what a section's body holds beyond what the spec lays out is free, log 6; that a block's SNAP counts
among the operations that its commit fixes is log 16. -/
def Obligations.SnapshotsAndRestores : Prop :=
  ∀ (s : State) (op : Issued) (n : Niw), Issues s op n → op.ta.isVec = false → op.tb.isVec = false →
    let s1 := after s op
    (op.tc.isVec = false → ∀ x, NamesLive s1 op.ta.word x → Commands s1 op x →
      (x.st = .running → exec (.snap n) s = .next (emitsWord s1 op n 0 false)) ∧
      (x.st = .freezing → exec (.snap n) s = .next (s1.hold op (.frozen x.launch))) ∧
      (x.st = .frozen ∨ x.st = .stopped → (∀ i ∈ s1.images, { i with words := [] } ≠ s1.snapshotOf x i.id) →
        ∃ (ws : List Word) (i : Snapshot),
        i = { s1.snapshotOf x s1.images.length with words := ws } ∧
        (ws.getD 0 0).toNat = 0x5A53 * 2 ^ 48 + 2 ^ 40 + ws.length % 2 ^ 32 ∧
        ws.getD 1 0 = word (x.num + x.round * 2 ^ 32) ∧ ws.getD 2 0 = x.handle ∧ ws.getD 3 0 = word x.rset ∧
        ws.getD 4 0 = x.mode ∧ ws.getLastD 0 = crcWords ws.dropLast ∧
        (op.tc.word.toNat < 8 * ws.length → exec (.snap n) s =
          .next (({ s1 with images := s1.images ++ [i] } : State).opFault op 0x101 0 (word (8 * ws.length)))) ∧
        let s2 : State := { s1 with images := s1.images ++ [i] }
        let size := 8 * ws.length
        (size ≤ op.tc.word.toNat →
          (∀ ps, n.imm.getLsbD 1 = false → s1.range op .write op.tb.word.toNat size 8 = .ok ps →
            let u := (s2.fix op).writePieces ps (wordBytes ws)
            (n.imm.getLsbD 0 = false → exec (.snap n) s = .next (emitsWord u op n (word size) true)) ∧
            (n.imm.getLsbD 0 = true → ∃ v, ReleasedFrom u v x ∧ exec (.snap n) s = .next (emitsWord v op n (word size) true))) ∧
          (∀ d, n.imm.getLsbD 1 = true → s1.ctx? op.ctx = some d → d.num = op.ctx →
            let ep := op.tb.word.toNat
            (64 ≤ ep ∨ look ep d.endpoints = none ∨ (∃ e, look ep d.endpoints = some e ∧ e.ext < e.pos + size) →
              exec (.snap n) s = .next (s2.opFault op 0x105 op.tb.word 0)) ∧
            (∀ e, ep < 64 → look ep d.endpoints = some e → e.pos + size ≤ e.ext → 4096 ≤ e.node ∨ s1.hasFeature 2 = true →
              ∃ u v : State, ∃ ms : List Msg,
              (n.imm.getLsbD 0 = false → v = u) ∧ (n.imm.getLsbD 0 = true → ReleasedFrom u v x) ∧
              exec (.snap n) s = .next v ∧ u.hostOut = s1.hostOut ++ ms ∧ ms.length = (size + 199) / 200 ∧
              (∀ k m, ms[k]? = some m → ∃ q, let bs := ((wordBytes ws).drop (200 * k)).take 200
                m = (⟨e.node, bytesOf 1 5 ++ bytesOf 1 0 ++ bytesOf 2 (32 + bs.length) ++ bytesOf 4 q ++ (bytesOf 2 d.num
                  ++ bytesOf 1 ep ++ bytesOf 1 2 ++ bytesOf 4 bs.length ++ bytesOf 8 (e.pos + 200 * k) ++ bytesOf 8 s1.rid
                  ++ bytesOf 8 0 ++ bs), false⟩ : Msg)) ∧
              u.main = s1.main ∧ u.rid = (s1.rid + 1) % 2 ^ 64 ∧
              (∃ y, u.ctx? op.ctx = some y ∧ look ep y.endpoints = some { e with pos := e.pos + size }) ∧
              u.held = s1.held ++ [⟨{ op with count := size }, .transfer s1.rid [] ms.length⟩]))))) ∧
    (∀ (c : Ctx) (ws ds : List Word),
      let a := op.ta.word.toNat
      let rs := op.tb.word.toNat
      s1.ctx? op.ctx = some c → 0 < rs → rs < 2 ^ 42 → a % 8 = 0 → 9 ≤ ws.length → ws.length < 2 ^ 32 →
      (ws.getD 0 0).toNat = 0x5A53 * 2 ^ 48 + 2 ^ 40 + ws.length → ws.getLastD 0 = crcWords ws.dropLast →
      s1.readVirt op a 64 8 = .ok (wordBytes (ws.take 8)) → s1.readVirt op a (8 * ws.length) 8 = .ok (wordBytes ws) →
      (ws.getD 2 0).toNat % 64 = 0 → s1.readVirt op (ws.getD 2 0).toNat 64 8 = .ok (wordBytes ds) → GoodDescriptor ds → s1.waiting < 256 →
      ((Finset.range 42).filter fun r => rs.testBit r = true).card =
        ((Finset.range 42).filter fun r => (ws.getD 3 0).toNat.testBit r = true).card →
      ∃ (x : Ctx) (is : List Snapshot), exec (.rstr n) s = .next (accepted { s1 with images := s1.images ++ is } x) ∧ Launched s1 ds x ∧ x.rset = rs ∧ x.handle = ws.getD 2 0 ∧
        x.mode = ws.getD 4 0 ∧ x.round = (ws.getD 1 0).toNat / 2 ^ 32 ∧ x.parent = some c.launch ∧ x.req = some op ∧
        (∀ i, s1.images.find? (fun i => decide (i.words = ws)) = some i → x.image = some i.id ∧ is = []))

/-- R99, R182, R183, R230, R327 to R329: SYSRD reads the registers, and SYS.FLTDROP clears as it is read; SYSWR of SYS.MODE
and SYS.THROTWIN writes them and emits the old value, the latter for a system configuration alone; any other register raises
0x103. THROT gives the status of a router or of a region's routers.
The model's choices in it: that a block's SYSRD of FLTDROP, SYSWR and clearing THROT count among the operations that its commit
fixes is log 16; how far a router's window is ahead is a free value, log 90. -/
def Obligations.SystemRegisters : Prop :=
  ∀ (s : State) (op : Issued) (n : Niw) (c : Ctx), Issues s op n → (after s op).ctx? op.ctx = some c →
    let s1 := after s op
    let r := siteRegion op.site
    let gives (v : Word) : Prop := exec (.sysrd n) s = .next (emitsWord s1 op n v true)
    let throt (ts : List TileId) : Word :=
      let sum (f : Router → Nat) : Nat := (ts.map fun t => f (s1.router t)).sum
      word (min 65535 (sum (·.last)) + min 65535 (sum (·.twin)) * 2 ^ 16 + sum (·.throttled.toNat) * 2 ^ 32)
    (n.imm = 0 → gives c.mode) ∧ (n.imm = 1 → gives (((s1.feat.getD 0).setWidth 64))) ∧
    (n.imm = 2 → gives (((s1.feat.getD 0 >>> 64).setWidth 64))) ∧ (n.imm = 3 → gives s1.throtwin) ∧
    (n.imm = 4 → gives (throt (tilesOf r))) ∧
    (n.imm = 6 → gives (word (s1.node % 2 ^ 13 + r / 21 * 2 ^ 13 + r * 2 ^ 14))) ∧
    (n.imm = 7 → gives (word (c.launch % 2 ^ 32 + c.num * 2 ^ 32))) ∧
    (exec (.sysrdFltdrop n) s = .next (emitsWord ((s1.setRegion r { s1.region r with drop := 0 }).fix op) op n
      (word (s1.region r).drop) true)) ∧
    (∀ t, op.site = .tile t → exec (.throt n) s = .next (emitsWord s1 op n (throt [t]) true)) ∧
    (op.ta.isVec = false →
      let w := op.ta.word
      (Faults (.syswr n) s op 0x103) ∧
      (6 ≤ w.toNat % 8 ∨ 32 ≤ w.toNat → Faults (.syswrMode n) s op 0x041) ∧
      (w.toNat % 8 < 6 → w.toNat < 32 → ∃ v : State, exec (.syswrMode n) s = .next (emitsWord v op n c.mode true) ∧
        v.ctx? op.ctx = some { c with mode := w } ∧ v.main = s1.main ∧ v.ctiles = s1.ctiles ∧ v.mtiles = s1.mtiles) ∧
      (c.sys = false → Faults (.syswrThrotwin n) s op 0x103) ∧
      (c.sys = true → 2 ^ 16 ≤ w.toNat ∨ 4096 < w.toNat % 2 ^ 13 → Faults (.syswrThrotwin n) s op 0x041) ∧
      (c.sys = true → w.toNat < 2 ^ 16 → w.toNat % 2 ^ 13 ≤ 4096 → ∃ v : State,
        exec (.syswrThrotwin n) s = .next (emitsWord v op n s1.throtwin true) ∧ v.throtwin = w ∧ v.cycle = s1.cycle ∧
        (∀ t : TileId, t.col < 28 → t.row < 24 → v.router t = s1.router t) ∧ v.main = s1.main ∧ v.mtiles = s1.mtiles) ∧
      (∀ q bc k, op.site = .block q bc k → (42 ≤ w.toNat → Faults (.throt n) s op 0x041) ∧
        (w.toNat < 42 → ∃ v : State, exec (.throt n) s = .next (emitsWord v op n (throt (tilesOf w.toNat)) true) ∧
          (n.imm.getLsbD 0 = false → v = s1) ∧
          (n.imm.getLsbD 0 = true → ∀ t ∈ tilesOf w.toNat, (v.ctile t).router.twin = 0) ∧
          v.main = s1.main ∧ v.mtiles = s1.mtiles)))

/-- R125, R318, R339: XLINV takes every translation of its context over its range out of the named regions' caches and
leaves the others, and completes with scope 3 unless an access of the context there is not performed yet, which it waits for; a bad region set or an empty range raises 0x041, another context's range 0x103
unless a system configuration asks. -/
def Sys2Proof.Claims.Invalidation : Prop :=
  ∀ (s : State) (op : Issued) (n : Niw), Issues s op n → op.ta.isVec = false → op.tb.isVec = false →
    op.tc.isVec = false →
    let s1 := after s op
    let base := op.ta.word.toNat
    let len := op.tb.word.toNat
    let set := op.tc.word.toNat % 2 ^ 42
    let num := op.tc.word.toNat / 2 ^ 52
    (set = 0 ∨ len = 0 ∨ op.tc.word.toNat / 2 ^ 42 % 2 ^ 10 ≠ 0 → Faults (.xlinv n) s op 0x041) ∧
    (set ≠ 0 → 0 < len → op.tc.word.toNat / 2 ^ 42 % 2 ^ 10 = 0 → base + len ≤ 2 ^ 55 →
      (num ≠ op.ctx → s1.isSystem op.ctx = false → Faults (.xlinv n) s op 0x103) ∧
      (num = op.ctx ∨ s1.isSystem op.ctx = true →
        (∀ m ∈ s1.mtiles, ∀ p, m.2.active = some p ∨ m.2.shadow = some p → p.ctx ≠ num) → s1.scatters = [] →
        ∃ v : State,
        ((∀ r ∈ s1.reds, ∀ l ∈ r.leaves, l.op.ctx ≠ num) → (∀ r ∈ s1.main.readers, r.2.ctx ≠ num) →
          exec (.xlinv n) s = .next (emitsWord v op n (word (1 + 3 * 2 ^ 32)) true)) ∧
        (s1.unperformed num base len ((List.range 42).filter fun r => set.testBit r) = true →
          exec (.xlinv n) s = .next (v.hold op .transit)) ∧
        (∀ r e, r < 42 → (e ∈ (v.region r).tc ↔ e ∈ (s1.region r).tc ∧
          (set.testBit r = true → ¬ (e.ctx = num ∧ e.base < base + len ∧ base < e.base + e.size)))) ∧
        v.mtiles = s1.mtiles ∧ v.main = s1.main ∧ v.ctiles = s1.ctiles))

/-- What Claims.EventQueues and Claims.Marking say, together. -/
def Obligations.RecordsAndMarkers : Prop := Claims.EventQueues ∧ Claims.Marking

namespace Sys2Proof.Claims

open Sys2Proof.Machine

/-- A record has set out for a region's event queue, after those that already have. -/
def Logged (s u : State) (r : Nat) (x : Record) : Prop :=
  (u.region r).inbound.map (·.record) = (s.region r).inbound.map (·.record) ++ [x]

/-- A cause of which no copy goes to the host and which stops no context by itself (R231, R233). -/
def Plain (cause : Nat) : Prop := cause / 64 ≠ 5 ∧ ¬ (0x2C1 ≤ cause ∧ cause ≤ 0x2C2) ∧ cause ≠ 0x380 ∧ cause ≠ 0x382 ∧ cause ≠ 0x383

/-- From `s` to `u` a running context has been marked with round 0, to be Stopped once it is quiet (R233). -/
def MarkedToStop (u : State) (c : Ctx) : Prop :=
  ∃ y, u.launched? c.launch = some y ∧ y.st = .freezing ∧ y.stopAfter = true ∧ y.round = 0

/-- A context stands in the machine under its number and its launch number. -/
def Alive (s : State) (c : Ctx) : Prop := s.ctx? c.num = some c ∧ s.launched? c.launch = some c

end Sys2Proof.Claims

/-- R45, R127, R230 to R233, R332: a fault of an operation goes as one record, with the cause, the element, the tag and
the operands that its rule names, to the event queue of its context's home; in block mode the block context stops, in fabric
mode the context goes on. TRAP records its cause and slot a's value; in fabric mode the value then goes on to the targets
unless STOP is set, which stops the context.
The model's choices in it: FLG[0] of a TRAP in a block is log 51. -/
def Sys2Proof.Claims.FaultsTaken : Prop :=
  (∀ (s : State) (op : Issued) (c : Ctx) (cause : Nat) (addr detail : Word), s.ctx? op.ctx = some c → Plain cause →
    let u := s.opFault op cause addr detail
    (∀ t, op.site = .tile t → u.ctxs = s.ctxs ∧ u.ctiles = s.ctiles ∧ u.mtiles = s.mtiles ∧ u.main = s.main ∧
      Logged s u c.home (.fault (tileSrc t) (lookD 0 (tileSrc t) s.seqs) cause (if isCompute t then 0 else 1)
        (if cause = 0x106 then 2 else 0) (dieNum t.die) t.col t.row op.ctx op.tag addr detail c.launch)) ∧
    (∀ r bc b, InBlock s op r bc b → (u.bctx r bc).st = .stopped ∧ u.ctiles = s.ctiles ∧ u.main.cells = s.main.cells ∧
      Logged s u c.home (.fault (0x8000 + r) (lookD 0 (0x8000 + r) s.seqs) cause 2 (if cause = 0x106 then 3 else 1) (r / 21)
        (r % 21) 0 op.ctx op.tag addr detail c.launch))) ∧
  (∀ (s : State) (op : Issued) (n : Niw) (c : Ctx), Issues s op n → op.tb.isVec = false →
    let s1 := after s op
    s1.ctx? op.ctx = some c →
    let stop := n.imm.getLsbD 6
    let cause := 0x3C0 + n.imm.toNat % 64
    let detail := if n.ari = 2 then op.tb.word else 0
    let p := op.place.fields
    let rec' (flg : Nat) : Record := .fault p.1 (lookD 0 p.1 s1.seqs) cause p.2.1 flg p.2.2.1 p.2.2.2.1 p.2.2.2.2 op.ctx
      op.ta.tag op.ta.word detail c.launch
    (∀ t, op.site = .tile t → stop = false → ∃ v : State,
      exec (.trap n) s = .next (v.emit op n ⟨op.tag, op.ta.val, true, op.poisoned, false⟩) ∧ Logged s1 v c.home (rec' 0) ∧
      v.ctxs = s1.ctxs ∧ v.ctiles = s1.ctiles ∧ v.mtiles = s1.mtiles ∧ v.main = s1.main) ∧
    (∀ t, op.site = .tile t → stop = true → c.st = .running → Alive s1 c → c.num = op.ctx → ∃ v : State,
      exec (.trap n) s = .next v ∧ Logged s1 v c.home (rec' 5) ∧ MarkedToStop v c ∧ v.ctiles = s1.ctiles ∧ v.main = s1.main) ∧
    (∀ r bc b, InBlock s1 op r bc b → ∃ v : State, exec (.trap n) s = .next v ∧ (v.bctx r bc).st = .stopped ∧
      Logged s1 v c.home (rec' (if stop then 5 else 1)) ∧ v.ctiles = s1.ctiles ∧ v.main.cells = s1.main.cells ∧
      (stop = true → c.st = .running → Alive s1 c → c.num = op.ctx → MarkedToStop v c)))

/-- R109, R124, R196, R231 to R233: an error in committed memory is machine check 0x380, one in a matching store 0x382, one
in configuration memory 0x383; each is recorded, and the context stops. An error in a speculative row marks the row and posts
0x381, and nothing stops. The thermal trip stops every context, one that waits for its grant so that it gets none, and takes
the ports down.
The model's choices in it: the trip without a port record is log 19, a launch that waits is log 76. -/
def Sys2Proof.Claims.MachineChecks : Prop :=
  (∀ (s : State) (c : Ctx), Alive s c → c.st = .running →
    (∀ pa, let k := channelOf pa; ∃ (u : State) (m f d x y : Nat),
      exec (.uncorrectableCommittedError c.num (.memory pa)) s = .next u ∧ MarkedToStop u c ∧ u.main = s.main ∧
      Logged s u c.home (.fault m f 0x380 6 5 d x y c.num 0 (word (pa / 16 * 16)) (word k) c.launch)) ∧
    (∀ t off, ∃ (u : State) (k : Nat), exec (.uncorrectableCommittedError c.num (.tile t off)) s = .next u ∧ MarkedToStop u c ∧
      Logged s u c.home (.fault (tileSrc t) k 0x380 (if isCompute t then 0 else 1) 5 (dieNum t.die) t.col t.row c.num 0 (word off)
        (word (tileSrc t)) c.launch)) ∧
    (∀ t, ∃ (u : State) (k : Nat), exec (.matchingStoreEcc t c.num) s = .next u ∧ MarkedToStop u c ∧ u.main = s.main ∧
      Logged s u c.home (.fault (tileSrc t) k 0x382 (if isCompute t then 0 else 1) 5 (dieNum t.die) t.col t.row c.num 0 0 0
        c.launch)) ∧
    (∀ r, r < 42 → (s.region r).activeCtx = some c.num → (s.region r).shadow = none → (s.region r).reserved = none →
      ∃ (u : State) (k : Nat), exec (.configurationMemoryEcc r) s = .next u ∧ MarkedToStop u c ∧
        Logged s u c.home (.fault (0x8400 + r) k 0x383 8 5 (r / 21) (r % 21) 0 c.num 0 0 0 c.launch))) ∧
  (∀ (s : State) (t : TileId) (row : Nat) (p : MPlane) (c : Ctx), (s.mtile t).active = some p → Alive s c → c.num = p.ctx →
    let m := s.mtile t
    m.lines.length = m.win + m.spec → m.win ≤ row → row < m.win + m.spec → ∃ (u : State) (k : Nat),
      exec (.speculativeRowError t row) s = .next u ∧ ((u.mtile t).line row) = { m.line row with bad := true } ∧
      (∀ i, i ≠ row → (u.mtile t).line i = m.line i) ∧ (u.mtile t).banks = m.banks ∧ u.ctxs = s.ctxs ∧
      Logged s u c.home (.fault (tileSrc t) k 0x381 (if isCompute t then 0 else 1) 0 (dieNum t.die) t.col t.row p.ctx 0 0 0
        c.launch)) ∧
  (∀ (s : State) (d : Die), ∃ u : State, exec (.thermalTrip d) s = .next u ∧ (∀ p, p < 16 → (u.port p).up = false) ∧
    (∀ c, Alive s c → (s.ctxs.map (·.launch)).Nodup →
      (∀ d ∈ s.ctxs, d.num = c.num → d = c ∨ d.st = .ended ∨ d.st = .waiting) → c.st = .running → MarkedToStop u c) ∧
    ((s.ctxs.map (·.launch)).Nodup → ∀ c ∈ s.ctxs, c.st = .waiting → { c with stopAfter := true } ∈ u.ctxs ∧
      { c with stopAfter := true } ∉ u.arbiterOrder) ∧
    u.main = s.main ∧ u.ctiles = s.ctiles ∧ u.mtiles = s.mtiles)

/-- What Claims.FaultsTaken and Claims.MachineChecks say, together. -/
def Obligations.FaultsAndChecks : Prop := Claims.FaultsTaken ∧ Claims.MachineChecks

namespace Sys2Proof.Claims

open Sys2Proof.Machine

/-- The instructions with the firing rule of R34: every constructor named here takes the four outcomes from PRD. -/
def plainlyFired : List (Niw → Instr) :=
  [.nop, .mov, .gate, .wave, .bound, .exitl, .pushf, .popf, .tagrd, .tagwr, .call, .ret, .join, .drainFabric,
   .drainBlock, .pchk, .fscl, .fsgn, .fcmp, .fcls, .fcvt, .fadd, .fsub, .fmul, .ffma, .fdiv, .fsqrt, .frcp, .frsq,
   .fmin, .fmax, .frnd, .tred, .joinCount, .cmp, .ext, .lea, .add, .sub, .mul, .mulh, .mad, .div, .min, .max, .andI,
   .orI, .xorI, .andn, .shl, .shr, .sar, .clz, .popc, .sel, .lfeed, .lbind, .lresm, .lsusp, .ldrop, .lqry, .bcst,
   .shuf, .pack, .unpk, .vred, .scan, .rng, .mma, .mmaz, .acrd, .acwr, .scle, .ctrn, .snap, .rstr, .sanrm, .sacnt,
   .cfgld, .cfgsw, .splice, .launch, .seed, .evwait, .markFreeze, .markGang, .markResume, .xlinv, .throt, .sysrd,
   .sysrdFltdrop, .syswrMode, .syswrThrotwin, .syswr, .trap, .vopen, .vacc, .vclose, .vchk, .vtopk]

/-- The value in a slot of an entry. -/
def slotOf (e : Entry) : Slot → Option Tok
  | .a => e.a | .b => e.b | .c => e.c | .p => e.p

/-- Slots that a node of this ARI and PRD takes (R30, R53). -/
def takesSlot (n : Niw) (k : Slot) : Prop :=
  (k = .a ∧ 1 ≤ n.ari.toNat) ∨ (k = .b ∧ 2 ≤ n.ari.toNat) ∨ (k = .c ∧ 3 ≤ n.ari.toNat) ∨
    (k = .p ∧ (n.prd = .ift ∨ n.prd = .iff))

/-- A node of a tile's active plane, not a GATE, in a template at or above the base that the tile's map gives, whose
context runs on this module and is not frozen at the tile. -/
structure NodeAt (s : State) (t : TileId) (c : Ctx) (p : CPlane) (node opc : Nat) (n : Niw) : Prop where
  plane : (s.ctile t).active = some p ∧ p.ctx = c.num
  ctx : Alive s c ∧ c.num ∉ (s.ctile t).frozen ∧ c.loops = [] ∧ c.splice = none
  base : ∃ b, look c.num (s.ctile t).map = some b ∧ b ≤ node
  word : opc ≠ 0x05 ∧ ∃ w i, p.ins[node]? = some w ∧ decodeWord true w = .ok i ∧ i.parts = some (opc, n)
  template : ∃ x ∈ p.tpls, x.1 ≤ node ∧ node < x.1 + x.2

/-- A node that gathers several tokens of one tag and slot: TRED, the counting JOIN, VTOPK (R32, R176, R285). -/
def GathersAt (opc : Nat) (n : Niw) : Prop := opc = 0x66 ∨ opc = 0xA5 ∨ (opc = 0x0F ∧ n.imm.getLsbD 7 = true)

/-- Slot `k` of the vector operand buffer is held neither by these entries nor by `e` (R29). -/
def FreeSlot (l : List Entry) (e : Entry) (k : Nat) : Prop := k < 128 ∧ k ∉ e.vslots ∧ ∀ d ∈ l, k ∉ d.vslots

/-- The slots of the vector operand buffer that `e` holds once it has taken this token: one more for a vector (R29). -/
def Slotted (l : List Entry) (e : Entry) (tok : Tok) (vs : List Nat) : Prop :=
  if tok.isVec = true then ∃ k, vs = e.vslots ++ [k] ∧ FreeSlot l e k else vs = e.vslots

/-- The token that the matching store takes next is `q`: it heads the tile's own queue, and no other waits (R28). -/
structure Arrives (s : State) (t : TileId) (q : Parcel) : Prop where
  own : (s.ctile t).own = [q]
  others : (s.ctile t).stream = [] ∧ (s.ctile t).ingress = [] ∧ (s.ctile t).reasm = []
  here : q.succ = false

end Sys2Proof.Claims

/-- R28 to R32, R53: the matching store takes a token by its tag and node. A token that completes its entry makes it ready;
one that does not waits there for the rest, its key taking a free way and its vector value a free slot of the vector operand
buffer; without a free slot the entry spills. A second token for a slot raises 0x080, but opens an entry of its own at a node
that gathers; a slot that the node does not take raises 0x046, a node that is none 0x045, a context that the tile does not
hold 0x084.
The model's choices in it: tokens that cannot be taken and the wait of the head are log 36; that the inputs of a gathering node take
entries of their own is log 61. -/
def Sys2Proof.Claims.Matching : Prop :=
  (∀ (s : State) (t : TileId) (q : Parcel) (c : Ctx) (p : CPlane) (opc : Nat) (n : Niw), Arrives s t q →
    NodeAt s t c p q.node opc n → tagCtx q.tok.tag = c.num → q.tok.nul = false →
    let x := s.ctile t
    let mine (e : Entry) : Prop := e.tag = q.tok.tag ∧ e.node = q.node
    let full (e : Entry) : Prop := ∀ k, takesSlot n k → k = q.slot ∨ (slotOf e k).isSome = true
    let empty : Entry := ⟨q.tok.tag, q.node, none, none, none, none, .none, none, false, none, false, []⟩
    let put (e : Entry) : Entry := e.fill q.slot q.tok
    (takesSlot n q.slot →
      (∀ e l l', x.entries = l ++ e :: l' → (∀ d ∈ l, ¬ mine d) → mine e → e.agg = .none → e.parked = false →
        (slotOf e q.slot = none → e.way = true → e.ready = none → e.vslots.length = e.vectors → ∃ u : State,
          exec (.tokenMatch t) s = .next u ∧ u.mtiles = s.mtiles ∧ u.main = s.main ∧ (u.ctile t).own = [] ∧
          (q.tok.isVec = false ∨ (∃ k, FreeSlot (l ++ l') e k) → ∃ vs, Slotted (l ++ l') e q.tok vs ∧
            (full e → (u.ctile t).entries = l ++ l' ++ [{ put e with ready := some s.cycle, vslots := vs }]) ∧
            (¬ full e → (u.ctile t).entries = l ++ l' ++ [{ put e with vslots := vs }])) ∧
          (q.tok.isVec = true → (∀ k, ¬ FreeSlot (l ++ l') e k) → ¬ full e → c.skein = [] → ∃ y : Ctx,
            u.launched? c.launch = some y ∧ y.skein = [.entry t { put e with way := false, reserved := none, vslots := [] }] ∧
            (u.ctile t).entries = l ++ l')) ∧
        (∀ old, slotOf e q.slot = some old → ¬ GathersAt opc n → ∃ (u : State) (k : Nat), exec (.tokenMatch t) s = .next u ∧
          (u.ctile t).entries = x.entries ∧ Logged s u c.home (.fault (tileSrc t) k 0x080 (if isCompute t then 0 else 1) 0
            (dieNum t.die) t.col t.row c.num q.tok.tag old.word q.tok.word c.launch))) ∧
      ((∀ e ∈ x.entries, mine e → GathersAt opc n ∧ (slotOf e q.slot).isSome = true) → c.skein = [] →
        q.tok.isVec = false ∨ (∃ k, FreeSlot x.entries empty k) →
        ∃ (u : State) (vs : List Nat), exec (.tokenMatch t) s = .next u ∧ u.mtiles = s.mtiles ∧ Slotted x.entries empty q.tok vs ∧
        (full empty → (u.ctile t).entries = x.entries ++ [{ put empty with ready := some s.cycle, vslots := vs }]) ∧
        (¬ full empty → (x.entries.filter fun e => e.way && decide (setIndex e.tag e.node = setIndex q.tok.tag q.node)).length < 8 →
          (x.entries.filter fun e => e.way && decide (tagCtx e.tag = c.num)).length < c.part →
          (u.ctile t).entries = x.entries ++ [{ put empty with way := true, vslots := vs }]))) ∧
    (¬ takesSlot n q.slot → ∃ (u : State) (k : Nat), exec (.tokenMatch t) s = .next u ∧ (u.ctile t).entries = x.entries ∧
      Logged s u c.home (.fault (tileSrc t) k 0x046 (if isCompute t then 0 else 1) 0 (dieNum t.die) t.col t.row c.num q.tok.tag
        0 0 c.launch))) ∧
  (∀ (s : State) (t : TileId) (q : Parcel), Arrives s t q →
    (∀ (c : Ctx) (p : CPlane) (b : Nat), Alive s c → tagCtx q.tok.tag = c.num → (s.ctile t).active = some p → p.ctx = c.num →
      look c.num (s.ctile t).map = some b → c.num ∉ (s.ctile t).frozen →
      q.node < b ∨ (∀ x ∈ p.tpls, q.node < x.1 ∨ x.1 + x.2 ≤ q.node) → ∃ (u : State) (k : Nat),
      exec (.tokenMatch t) s = .next u ∧ (u.ctile t).entries = (s.ctile t).entries ∧ Logged s u c.home (.fault (tileSrc t) k
        0x045 (if isCompute t then 0 else 1) 0 (dieNum t.die) t.col t.row c.num q.tok.tag 0 0 c.launch)) ∧
    ((s.ctile t).active = none ∨ (∃ p, (s.ctile t).active = some p ∧ p.ins[q.node]? = none ∧
        look (tagCtx q.tok.tag) (s.ctile t).map = none) → ∃ (u : State) (k : Nat),
      exec (.tokenMatch t) s = .next u ∧ (u.ctile t).entries = (s.ctile t).entries ∧ Logged s u (regionOf t) (.fault (tileSrc t) k
        0x084 (if isCompute t then 0 else 1) 0 (dieNum t.die) t.col t.row (tagCtx q.tok.tag) q.tok.tag 0 0 0)))

/-- R26, R28, R30, R34, R38, R39, R44, R82, R111, R129, R144: a token that waits for its spilled entry meets it, the first in
tag order. A tile issues its oldest ready entry, and a load or store of main memory sets out for the region's memory port; a
block issues any instruction whose tokens are there. A kill mark frees the entries and held stores above it; the store
buffer gives back the first member in tag order that may be performed. An instruction whose predicate token does not agree
with PRD consumes its operands, a bubble passes on with predicate 0, and a null makes nulls.
The model's choices in it: a memory port's place in the mesh is log 68, PRD before nulls is log 60, and that a bubble goes to the
targets of a reply alone where TGT0 names a memory tile is log 46. -/
def Sys2Proof.Claims.IssuingAndFiring : Prop :=
  (∀ (s : State) (t : TileId) (q : Parcel) (l l' : List Parcel) (c : Ctx) (p : CPlane) (opc : Nat) (n : Niw)
      (e : Entry), NodeAt s t c p q.node opc n → (s.ctile t).refill = l ++ q :: l' →
    (∀ d ∈ l ++ l', tagLt q.tok.tag d.tok.tag = true) → tagCtx q.tok.tag = c.num → takesSlot n q.slot → e.vslots = [] →
    c.skein = [.entry t e] → e.tag = q.tok.tag → e.node = q.node → e.agg = .none → e.parked = false → e.ready = none →
    slotOf e q.slot = none → (∀ k, takesSlot n k → k = q.slot ∨ (slotOf e k).isSome = true) → ∃ (u : State) (y : Ctx)
      (vs : List Nat), exec (.skeinRefill t) s = .next u ∧ (u.ctile t).refill = l ++ l' ∧ u.launched? c.launch = some y ∧
      y.skein = [] ∧ (∀ k ∈ vs, FreeSlot (s.ctile t).entries e k) ∧ vs.length ≤ (e.fill q.slot q.tok).vectors ∧
      (u.ctile t).entries = (s.ctile t).entries ++ [{ e.fill q.slot q.tok with ready := some s.cycle, vslots := vs }]) ∧
  (∀ (s : State) (t : TileId) (c : Ctx) (p : CPlane) (opc : Nat) (n : Niw) (w : Word) (e : Entry) (l l' : List Entry),
    s.issue = none → s.held = [] → NodeAt s t c p e.node opc n → tagCtx e.tag = c.num → p.ins[e.node]? = some w →
    opc ∉ [0x90, 0x91, 0x95, 0xA0, 0xC0, 0xC4] →
    (s.ctile t).entries = l ++ e :: l' → e ∉ l → e.ready.isSome = true → e.parked = false →
    (∀ d ∈ l ++ l', d.ready.isSome = true → e.ready.getD 0 < d.ready.getD 0 ∨ (e.ready = d.ready ∧ tagLt e.tag d.tag = true)) →
    (nth 0 p.stages 1).toNat / 2 ^ 53 % 2 ^ 3 = 0 → ∃ (u : State) (op : Issued), exec (.issue (.tile t)) s = .next u ∧
      op.site = .tile t ∧ op.word = w ∧ op.ctx = c.num ∧ op.tag = e.tag ∧ op.node = e.node ∧ op.a = e.a ∧ op.raw = e.a ∧
      op.b = e.b ∧ op.c = e.c ∧ op.p = e.p ∧ op.mode = p.mode ∧ (n.xw = false → op.konst = none) ∧ op.away = none ∧
      (¬ (0x70 ≤ opc ∧ opc ≤ 0x73) → ¬ (0xC0 ≤ opc ∧ opc ≤ 0xC5) →
        u = { s.setCtile t { s.ctile t with entries := l ++ l' } with issue := some op }) ∧
      (0x70 ≤ opc → opc ≤ 0x73 → firing n.prd op = .run → s.homeTile op n = none → t.col < 28 → t.row < 24 → u.issue = none ∧
        (u.ctile t).entries = l ++ l' ∧ ∃ fs, fs ≠ [] ∧ (u.ctile t).inject = (s.ctile t).inject ++ fs ∧ ∀ f ∈ fs, f.typ = 1 ∧
          f.dst = firstTile (regionOf t) ∧ f.cargo = .request { op with away := some (firstTile (regionOf t)) })) ∧
  (∀ (s : State) (r bc k : Nat) (b : Block) (w : Word) (i : Instr) (opc : Nat) (n : Niw), s.issue = none → s.held = [] →
    s.block? r bc = some b → b.ins[k]? = some w → decodeWord false w = .ok i → i.parts = some (opc, n) → n.xw = false →
    opc ≠ 0x05 → k ∉ b.fired → (∀ x, takesSlot n x → (look (k, x) b.toks).isSome = true) → ∃ (u : State) (op : Issued),
      exec (.issue (.block r bc k)) s = .next u ∧ u.issue = some op ∧ op.site = .block r bc k ∧ op.word = w ∧
      op.ctx = (s.bctx r bc).ctx ∧ op.tag = tagOf (op.ctx % 4096) 0 0 ∧ op.a = look (k, .a) b.toks ∧ op.b = look (k, .b) b.toks ∧
      op.c = look (k, .c) b.toks ∧ op.p = look (k, .p) b.toks ∧ op.mode = b.mode ∧
      u.block? r bc = some { b with fired := b.fired ++ [k] } ∧ u.main = s.main ∧ u.mtiles = s.mtiles) ∧
  (∀ (s : State) (t : TileId) (k : Kill) (rest : List Kill) (p : CPlane), (s.ctile t).kills = k :: rest →
    (s.ctile t).active = some p → tagCtx k.tag ∉ (s.ctile t).frozen →
    let above (tag : Word) : Prop := ∃ i, iterationOf (fullWidths p.widths) k.tag tag = some i ∧ k.mark < i
    ∃ u : State, exec (.killMarkReceive t) s = .next u ∧ (u.ctile t).kills = rest ∧
      (∀ e, e ∈ (u.ctile t).entries ↔ e ∈ (s.ctile t).entries ∧ (e.ready.isSome = true ∨ ¬ above e.tag)) ∧
      (∀ o, o ∈ (u.region (regionOf t)).storeBuf ↔ o ∈ (s.region (regionOf t)).storeBuf ∧
        ¬ (o.site = .tile t ∧ above o.tag)) ∧ u.main = s.main ∧ u.mtiles = s.mtiles) ∧
  (∀ (s : State) (r : Nat) (op : Issued) (l l' : List Issued), s.issue = none → (s.region r).storeBuf = l ++ op :: l' →
    (∀ o ∈ l ++ l', s.mayPerform o (isStoreOpc o.opc) = true →
      tagLt op.tag o.tag = true ∨ (op.tag = o.tag ∧ op.node < o.node)) → s.mayPerform op (isStoreOpc op.opc) = true →
    exec (.storeBufferRelease r) s =
      .next { s.setRegion r { s.region r with storeBuf := l ++ l' } with issue := some op }) ∧
  (∀ (s : State) (op : Issued) (n : Niw), s.issue = some op → ∀ mk ∈ plainlyFired,
    let nulls := ∃ x ∈ [op.a, op.b, op.c, op.p], ∃ tok, x = some tok ∧ tok.nul = true
    let zero := ∃ x ∈ [op.a, op.b, op.c], ∃ tok, x = some tok ∧ tok.pred = false
    let fails := ∃ tok, op.p = some tok ∧ tok.nul = false ∧ (n.prd = .ift ∧ tok.pred = false ∨ n.prd = .iff ∧ tok.pred = true)
    (fails → exec (mk n) s = .next (taken s)) ∧
    (¬ fails → nulls → exec (mk n) s = .next ((after s op).emit op n ⟨op.tag, .scalar 0, true, false, true⟩)) ∧
    (¬ nulls → n.prd = .bub → zero → exec (mk n) s = .next ((after s op).sendTo op ((after s op).replyTargets op n)
      ⟨op.tag, (op.raw.getD op.ta).val, false, op.poisoned, false⟩)))

/-- What Claims.Matching and Claims.IssuingAndFiring say, together. -/
def Obligations.MatchingAndFiring : Prop := Claims.Matching ∧ Claims.IssuingAndFiring

namespace Sys2Proof.Claims

open Sys2Proof.Machine

/-- The drain that a node sends on: an operation without operands, under its context's tag (R47, R259). -/
def drainOp (t : TileId) (p : CPlane) (node : Nat) (w : Word) : Issued :=
  ⟨.tile t, w, p.ctx, tagOf (p.ctx % 4096) 0 0, node, 0, none, none, none, none, none, p.mode, false, none, 0, none, none, none, none, []⟩

/-- A drain token of a context (R259). -/
def drainOf (num : Nat) : Tok := ⟨tagOf (num % 4096) 0 0, .scalar 0, true, false, true⟩

/-- Address bits 56 to 12, walked to a 4 KiB page in tier 1 by five entries of which the last is the leaf; the tables stand in
tier 1 (R120). -/
structure SmallPage (s : State) (root va : Nat) (leaf : Word) : Prop where
  tier1 : root < 2 ^ 39
  tables : ∃ t4 t3 t2 t1, (s.wordAt (root + 8 * (va / 2 ^ 48 % 2 ^ 8))).toNat = t4 + 1 ∧
    (s.wordAt (t4 + 8 * (va / 2 ^ 39 % 2 ^ 9))).toNat = t3 + 1 ∧ (s.wordAt (t3 + 8 * (va / 2 ^ 30 % 2 ^ 9))).toNat = t2 + 1 ∧
    (s.wordAt (t2 + 8 * (va / 2 ^ 21 % 2 ^ 9))).toNat = t1 + 1 ∧ s.wordAt (t1 + 8 * (va / 2 ^ 12 % 2 ^ 9)) = leaf ∧
    (∀ t ∈ [t4, t3, t2, t1], t % 2 ^ 12 = 0 ∧ t < 2 ^ 39)
  leaf : leaf.toNat % 2 ^ 5 = 3 ∧ leaf.toNat / 2 ^ 9 % 2 ^ 3 = 0 ∧ leafBase leaf + 4096 ≤ 2 ^ 39

end Sys2Proof.Claims

/-- R63, R106 to R109, R117, R118, R127, R128: a gated memory tile with a configuration wakes. A start runs an idle generator
that is enabled and whose pages are in place; one that is not enabled raises 0x107, one that would reach the storage of an SACC,
CODE or SINK tile 0x103. When its elements have moved, its position returns to zero and the completion carries their count, with
the scope of what it wrote. A COMMIT makes
the first rows of the speculative window, as many as are asked for, written and without error, the last committed ones, and
completes with their number. A request that waits runs again once the tile can serve it.
The model's choices in it: completions of refused requests are log 38, tiles that no generator reaches log 67, a COMMIT of more rows than WIN log 48. -/
def Sys2Proof.Claims.MemoryTileEvents : Prop :=
  ∀ (s : State) (t : TileId), let m := s.mtile t
    (m.active.isSome = true → exec (.bankWake t) s = .next (s.setMtile t { m with gated := false })) ∧
    exec (.zeroingEnd (.tile t)) s = .next (s.setMtile t { m with zeroing := false }) ∧
    (∀ g op rest, (m.gen g).run = none → (m.gen g).waiting = op :: rest → descEn (m.desc g) = true →
      s.genClosed t (m.desc g) = false → descSpace (m.desc g) ≠ 1 ∨ (m.gen g).frames ≠ [] → exec (.generatorStart t g) s =
        .next (s.setMtile t (m.setGen g { m.gen g with waiting := rest, run := some op, moved := 0 }))) ∧
    (∀ g op rest, (m.gen g).run = none → (m.gen g).waiting = op :: rest →
      let refused (cause : Nat) : Prop := exec (.generatorStart t g) s = .next ((s.setMtile t (m.setGen g { m.gen g with
        waiting := rest })).partFault op op.niw 0 (.tile t) (if descSpace (m.desc g) = 2 then .region
          else if descSpace (m.desc g) = 1 ∧ descOut (m.desc g) = true then .whole else .tile) cause 0 0)
      (descEn (m.desc g) = false → refused 0x107) ∧
      (descEn (m.desc g) = true → (m.mode? = some 4 ∨ m.mode? = some 5 ∨ m.mode? = some 6) → refused 0x103)) ∧
    (∀ g op, (m.gen g).run = some op → (m.gen g).pos = [] → (m.gen g).chan = [] → op.walk = none → m.mode? ≠ some 0 → descSpace (m.desc g) ≠ 2 →
      exec (.generatorStop t g) s = .next ((s.setMtile t (m.setGen g
        { m.gen g with run := none, pos := [0, 0, 0, 0], moved := 0, paused := false })).reply op op.niw
          (.scalar (word ((m.gen g).moved % 2 ^ 32 +
            (if descSpace (m.desc g) = 1 ∧ descOut (m.desc g) = true then 3 else 0) * 2 ^ 32))) op.poisoned)) ∧
    (∀ op l l', s.issue = none → (∀ a, a < 8 → ∀ bs k, (s.array a).out ≠ .fifo t bs :: k) → m.waiting = l ++ op :: l' →
      (∀ o ∈ l, m.serves o = false) → op.node < 1024 → m.asleep = false →
      ((m.mode? = some 0 ∧ m.full.any (fun f => decide (f.1 = m.fill)) = false) ∨
        (m.mode? = some 1 ∧ isStoreOpc op.opc = true ∧ (m.fifo.length + 1) * m.elemBytes ≤ m.depth) ∨
        (m.mode? = some 1 ∧ isStoreOpc op.opc = false ∧ m.fifo ≠ [])) →
      exec (.heldWriteResume t) s = .next { s.setMtile t { m with waiting := l ++ l' } with issue := some op }) ∧
    (∀ op rest k, m.asleep = false → m.mode? = some 2 → m.waiting = op :: rest → op.node = 1035 → op.ta.nul = false →
      op.ta.isVec = false → op.ta.word.toNat ≤ m.spec → op.ta.word.toNat < 256 → m.lines.length = m.win + m.spec →
      (∀ i, i < k → (m.line (m.win + i)).written = true ∧ (m.line (m.win + i)).bad = false) →
      (k = op.ta.word.toNat ∨ (k < op.ta.word.toNat ∧
        ((m.line (m.win + k)).written = false ∨ (m.line (m.win + k)).bad = true))) →
      ∃ v : State, exec (.lineCommit t) s = .next (v.reply op op.niw (.scalar (word k)) op.poisoned) ∧
        (v.mtile t).waiting = rest ∧ (v.mtile t).banks = m.banks ∧
        (∀ i, i < m.win → (v.mtile t).line i = m.line (i + k)) ∧
        (∀ i, i < m.spec → ((v.mtile t).line (m.win + i)).written = false ∧ ((v.mtile t).line (m.win + i)).bad = false) ∧
        v.main = s.main)

/-- R40, R47, R48, R129, R174, R253, R323: a node that a drain has reached on every slot passes it, once, to each of its
targets, a RET to the entry of each call site; a memory tile without work passes it back. A region whose context has drained swaps its planes; a tile under a splice
switches to the successor, and the last one completes SPLICE.
The model's choices in it: when a memory tile or a region without nodes switches is log 37, the arcs of RET are log 74. -/
def Sys2Proof.Claims.DrainsAndSwitches : Prop :=
  (∀ (s : State) (t : TileId) (node : Nat) (p : CPlane) (w : Word) (opc : Nat) (n : Niw), isCompute t = true →
    (s.ctile t).active = some p → p.ins[node]? = some w →
    (∃ i, decodeWord true w = .ok i ∧ i.parts = some (opc, n)) → s.passes t node = true →
    (∀ o ∈ (s.region (regionOf t)).storeBuf, ¬ (o.site = .tile t ∧ o.node = node)) → ∃ v : State,
    (opc ≠ 0x0E → exec (.drainPass t node) s =
      .next (v.emitTo (drainOp t p node w) (v.drainTargets (drainOp t p node w) n) (drainOf p.ctx))) ∧
    (∀ k, opc = 0x0E → n.t0 = some k → exec (.drainPass t node) s = .next (p.sites.foldl
      (fun u x => u.route (drainOp t p node w) t (k.dest.toNat + x) k.slot (drainOf p.ctx)) v)) ∧
    v.ctile t = { s.ctile t with passed := (s.ctile t).passed ++ [node] } ∧ (∀ u, u ≠ t → v.ctile u = s.ctile u) ∧
    v.mtiles = s.mtiles ∧ v.main = s.main) ∧
  (∀ (s : State) (t : TileId) (op : Issued) (rest : List Issued), isCompute t = false → (s.mtile t).waiting = op :: rest →
    1024 ≤ op.node → op.node < 1036 → op.ta.nul = true → s.tileDrained t op = true → exec (.drainPass t 0) s =
      .next ((s.setMtile t { s.mtile t with waiting := rest }).emitTo op [op.niw.t1, op.niw.t2] (drainOf op.ctx))) ∧
  (∀ (s : State) (r : Nat), r < 42 → s.swapReady r = true → s.held = [] →
    (∀ n, (s.region r).activeCtx = some n → ∃ g ∈ s.regions, g.1 ≠ r ∧ g.2.activeCtx = some n) → ∃ u : State,
    exec (.planeSwap r) s = .next u ∧ (u.region r).activeCtx = (s.region r).shadow.map (·.ctx) ∧ (u.region r).shadow = none ∧
    (∀ t ∈ tilesOf r, isCompute t = true → (u.ctile t).active = (s.ctile t).shadow ∧ (u.ctile t).shadow = none) ∧
    (∀ t ∈ tilesOf r, isCompute t = false → (u.mtile t).active = (s.mtile t).shadow ∧ (u.mtile t).shadow = none) ∧
    u.main = s.main) ∧
  (∀ (s : State) (t : TileId) (c : Ctx) (l : Loaded) (p : CPlane), Alive s c → c.st = .running → c.splice = some l →
    (∀ d ∈ s.ctxs, d.splice.isSome = true → d = c) → isCompute t = true → s.canSwitch c t = true →
    (s.ctile t).shadow = some p → p.ctx = c.num → (s.ctxs.map (·.launch)).Nodup →
    let ts := s.spliceTiles c
    (¬ (∀ v ∈ ts, v ∈ c.switched ∨ v = t) → ∃ (u : State) (y : Ctx), exec (.spliceTileSwitch t) s = .next u ∧
      (u.ctile t).active = some p ∧ (u.ctile t).shadow = none ∧ u.launched? c.launch = some y ∧
      y.switched = c.switched ++ [t] ∧ u.main = s.main) ∧
    (∀ op, (∀ v ∈ ts, v ∈ c.switched ∨ v = t) → s.held = [⟨op, .splice c.launch⟩] → ∃ (v : State) (y : Ctx),
      exec (.spliceTileSwitch t) s = .next (emitsWord v op op.niw op.ta.word true) ∧ (v.ctile t).active = some p ∧
      v.launched? c.launch = some y ∧ y.splice = none ∧ y.img = l.img ∧ v.held = []))

/-- R110, R120, R122, R123 (frames as log 43 gives them out): an access that missed runs again with the page's translation in the
cache, or with the fault of the table; an access to a page that is not present parks, and a fault flit sets out for the pager
corner; of those that have been answered the first in tag order runs again. The pager gives such a page a zeroed frame, makes its leaf valid, and lets the parked accesses run again. A page that
migrates is first in transit, with no translation left; then it arrives in its new frame with its contents.
The model's choices in it: a port's place behind its region's first tile and what a fault flit carries are log 68, the steps of a
page move are log 79. -/
def Sys2Proof.Claims.Paging : Prop :=
  (∀ (s : State) (root va : Nat) (leaf : Word), va < 2 ^ 55 → SmallPage s root va leaf →
    s.walk root va = .page (va / 4096 * 4096) 4096 leaf) ∧
  (∀ (s : State) (r : Nat) (op : Issued) (va : Nat) (rest : List (Issued × Nat)) (c : Ctx), s.issue = none →
    (s.region r).walks = (op, va) :: rest → s.ctx? op.ctx = some c →
    (∀ base size leaf, s.walk c.root va = .page base size leaf → ∃ u : State, exec (.pageWalk r) s = .next u ∧
      u.issue = some op ∧ (u.region r).walks = rest ∧ ⟨op.ctx, base, size, leaf⟩ ∈ (u.region r).tc ∧ u.main = s.main ∧
      u.mtiles = s.mtiles) ∧
    (∀ k, s.walk c.root va = .fault k → exec (.pageWalk r) s = .next
      ({ s.setRegion r { s.region r with walks := rest } with issue := some { op with walk := some (k, va) } })) ∧
    (∀ q bc k, op.site = .block q bc k → s.walk c.root va = .park → (∀ f ∈ s.pageFaults, f.ctx = op.ctx → f.va ≠ va) →
      r < 42 → ∃ (u : State) (f : Flit), exec (.pageWalk r) s = .next u ∧
        (u.region r).parked = (s.region r).parked ++ [⟨op, va, false⟩] ∧ (u.region r).walks = rest ∧
        (u.ctile (firstTile r)).inject = (s.ctile (firstTile r)).inject ++ [f] ∧ f.typ = 4 ∧
        f.dst = ⟨if r < 21 then .w else .e, 0, 0⟩ ∧ f.cargo = .fault ⟨op.ctx, va, r, false⟩)) ∧
  (∀ (s : State) (r : Nat) (x : ParkedAcc) (l l' : List ParkedAcc), s.issue = none → (s.region r).parked = l ++ x :: l' →
    (∀ y ∈ l ++ l', y.answered = true → tagLt x.op.tag y.op.tag = true ∨ (x.op.tag = y.op.tag ∧ x.op.node < y.op.node)) →
    x.answered = true → (∃ q bc k, x.op.site = .block q bc k) →
    exec (.parkedAccessReissue r) s =
      .next { s.setRegion r { s.region r with parked := l ++ l' } with issue := some x.op }) ∧
  (∀ (s : State) (d : Die) (f : PageFault) (c : Ctx) (pa low : Nat) (w : Word) (frame : Nat) (free : List (Nat × Nat)),
    MemoryInv s → s.pager.faults = [(d, f)] → s.ctx? f.ctx = some c → c.num = f.ctx → s.walk c.root f.va = .park →
    s.leafAt c.root f.va = some (pa, 0, low, w) → low = 12 → w.toNat / 2 ^ 60 = 1 → w.toNat / 2 ^ 2 % 2 ^ 3 = 0 →
    frame % 4096 = 0 → s.pager.free1 = (frame, 4096) :: free → pa % 8 = 0 → pa + 8 ≤ frame ∨ frame + 4096 ≤ pa →
    (∀ m ∈ s.mtiles, m.2.gens = []) → (∀ t, (s.mtile t).gens = []) → ∃ u : State,
    exec (.pagerFaultService d) s = .next u ∧ u.pager.faults = [] ∧ u.pager.free1 = free ∧
      (∀ x, frame ≤ x → x < frame + 4096 → u.byteAt x = 0) ∧
      (let v := (u.wordAt pa).toNat
       v % 4 = 3 ∧ v / 2 ^ 12 % 2 ^ 40 = frame / 4096 % 2 ^ 40 ∧ v / 2 ^ 5 % 2 ^ 4 = w.toNat / 2 ^ 5 % 2 ^ 4 ∧ v.testBit 9 = false) ∧
      (∀ x, (x < frame ∨ frame + 4096 ≤ x) → (x < pa ∨ pa + 8 ≤ x) → u.byteAt x = s.byteAt x) ∧
      (∀ r x, x ∈ (u.region r).parked → x.op.ctx = c.num → x.va / 4096 = f.va / 4096 → x.answered = true)) ∧
  (∀ (s : State) (c : Ctx) (page pa new : Nat) (w leaf : Word) (free : List (Nat × Nat)), MemoryInv s → s.ctx? c.num = some c →
    page % 4096 = 0 → pa % 8 = 0 → s.leafAt c.root page = some (pa, 0, 12, w) → w.toNat / 2 ^ 2 % 2 ^ 3 = 0 → w.getLsbD 9 = false →
    (∀ t, (s.mtile t).gens = [] ∧ (s.mtile t).active = none ∧ (s.mtile t).shadow = none) →
    (∀ m ∈ s.mtiles, m.2.gens = [] ∧ m.2.active = none ∧ m.2.shadow = none) →
    (s.walk c.root page = .page page 4096 leaf → s.hasFeature 0 = true → s.pager.free2 = (new, 4096) :: free → new % 4096 = 0 →
      (∀ x ∈ s.pager.moving, x.ctx = c.num → x.base + x.size ≤ page ∨ page < x.base) → ∃ u : State,
      exec (.pageMigration c.num page) s = .next u ∧ u.pager.free2 = free ∧
      u.pager.moving = s.pager.moving ++ [⟨c.num, page, 4096, new⟩] ∧
      (let v := (u.wordAt pa).toNat; v % 2 = 0 ∧ v / 2 ^ 60 = 2 ∧ ∀ i, 1 ≤ i → i < 60 → v.testBit i = w.getLsbD i) ∧
      (∀ r e, r < 42 → e ∈ (u.region r).tc → e.ctx = c.num → ¬ (e.base < page + 4096 ∧ page < e.base + e.size)) ∧
      ∀ x, (x < pa ∨ pa + 8 ≤ x) → u.byteAt x = s.byteAt x) ∧
    (s.pager.moving = [⟨c.num, page, 4096, new⟩] → w.getLsbD 0 = false → w.toNat / 2 ^ 60 = 2 → 2 ^ 39 ≤ new →
      s.moveWaits ⟨c.num, page, 4096, new⟩ = false → s.scatters = [] →
      let old := leafBase w
      (old + 4096 ≤ new ∨ new + 4096 ≤ old) → (pa + 8 ≤ old ∨ old + 4096 ≤ pa) → (pa + 8 ≤ new ∨ new + 4096 ≤ pa) → ∃ u : State,
      exec (.pageMigration c.num page) s = .next u ∧ u.pager.moving = [] ∧
      (∀ i, i < 4096 → u.byteAt (new + i) = s.byteAt (old + i)) ∧
      (let v := (u.wordAt pa).toNat
       v % 4 = 3 ∧ v / 2 ^ 12 % 2 ^ 40 = new / 4096 % 2 ^ 40 ∧ v.testBit 9 = true ∧ v / 2 ^ 5 % 2 ^ 4 = w.toNat / 2 ^ 5 % 2 ^ 4) ∧
      (∀ r x, x ∈ (u.region r).parked → x.op.ctx = c.num → x.va / 4096 = page / 4096 → x.answered = true) ∧
      ∀ x, (x < old ∨ old + 4096 ≤ x) → (x < new ∨ new + 4096 ≤ x) → (x < pa ∨ pa + 8 ≤ x) → u.byteAt x = s.byteAt x))

/-- R43 to R45, R85, R130, R246, R278, R279: a block context fetches the block at its address and runs it with no token and
nothing counted. A block whose stores, registers and exit are all counted commits: its stores reach memory, its registers hold
what was written, and the context goes on where its exit says. A block in which nothing fires for 65,536 cycles raises 0x341
and stops.
The model's choices in it: the order of the checks of a fetch is log 41, operations that outlive their block log 42. -/
def Obligations.BlockEvents : Prop :=
  ∀ (s : State) (r bc : Nat), MemoryInv s → bc < (s.region r).bcs.length → let x := s.bctx r bc
    (∀ va c b, x.st = .fetch va → x.held = false → s.ctx? x.ctx = some c → s.storesPending r bc = false →
      s.readBlock r c va.toNat = .ok b → exec (.blockFetch r bc) s =
        .next (s.setBctx r bc { x with st := .run b, lastFire := s.cycle }) ∧ b.addr = va ∧ b.toks = [] ∧ b.fired = [] ∧
        b.doneS = 0 ∧ b.doneW = 0 ∧ b.exit = none ∧ b.stores = [] ∧ b.writes = []) ∧
    (∀ va c, x.st = .fetch va → x.held = false → Alive s c → x.ctx = c.num → s.storesPending r bc = false → c.program = false →
      (∀ d ∈ s.ctxs, d.program = false) → va.toNat % 64 ≠ 0 → ∃ (u : State) (k : Nat), exec (.blockFetch r bc) s = .next u ∧
        (u.bctx r bc).st = .stopped ∧ Logged s u c.home (.fault (0x8000 + r) k 0x340 2 1 (r / 21) (r % 21) 0 c.num
          (tagOf (c.num % 4096) 0 0) va 0 c.launch)) ∧
    (∀ b e, x.st = .run b → b.exit = some e → b.doneS = b.sm → b.doneW = b.wm → b.stores = [] → b.hin = [] →
      (∀ d ∈ s.ctxs, d.program = false) → ∃ u : State, exec (.blockCommit r bc) s = .next u ∧ u.main.cells = s.main.cells ∧
        (u.bctx r bc).commits = x.commits + 1 ∧ (u.bctx r bc).ctx = x.ctx ∧
        (∀ k v, k < x.g.length → (b.writes.map (·.1)).Nodup → (k, v) ∈ b.writes → (u.bctx r bc).g.getD k 0 = v) ∧
        (∀ k, k ∉ b.writes.map (·.1) → (u.bctx r bc).g.getD k 0 = x.g.getD k 0) ∧
        (∀ t, e = .to t → (u.bctx r bc).st = .fetch t ∧ (u.bctx r bc).stack = x.stack) ∧
        (∀ t ret, e = .call t ret → (u.bctx r bc).st = .fetch t ∧ (u.bctx r bc).stack = (ret :: x.stack).take 16) ∧
        (∀ t, e = .ret t → (u.bctx r bc).st = .fetch t ∧ (u.bctx r bc).stack = x.stack.drop 1) ∧
        (e = .halt → (u.bctx r bc).st = .idle)) ∧
    (∀ b e op n k c pa leaf, x.st = .run b → b.exit = some e → b.doneS = b.sm → b.doneW = b.wm → b.hin = [] → k < 32 →
      b.stores = [⟨k, op⟩] → decodeWord false op.word = .ok (.st n) → op.released = true → n.fmt.width % 8 = 0 → s.ctx? op.ctx = some c →
      (∀ d ∈ s.ctxs, d.program = false) → op.ta.isVec = false → op.tb.isVec = false → op.poisoned = false →
      let a := op.ta.word.toNat
      a % (n.fmt.width / 8) = 0 → a < 2 ^ 55 → a < 0x007FFF0000000000 ∨ 0x007FFF0000000000 + 42 * 2 ^ 24 ≤ a →
      s.walk c.root a = .page (a / 4096 * 4096) 4096 leaf → leaf.getLsbD 6 = true →
      pa = leafBase leaf + a % 4096 → ∃ u : State, exec (.blockCommit r bc) s = .next u ∧
        numberAt u pa (n.fmt.width / 8) = op.tb.word.toNat % 2 ^ n.fmt.width ∧
        ∀ y, y < pa ∨ pa + n.fmt.width / 8 ≤ y → u.byteAt y = s.byteAt y) ∧
    (∀ b c, x.st = .run b → x.lastFire + 65536 ≤ s.cycle → Alive s c → x.ctx = c.num → (∀ d ∈ s.ctxs, d.program = false) →
      ∃ (u : State) (k : Nat) (addr detail : Word), exec (.blockStallTimeout r bc) s = .next u ∧
        (u.bctx r bc).st = .stopped ∧ Logged s u c.home (.fault (0x8000 + r) k 0x341 2 1 (r / 21) (r % 21) 0 c.num
          (tagOf (c.num % 4096) 0 0) addr detail c.launch) ∧
        (∀ i, addr.getLsbD i = true ↔ i < 64 ∧ b.wm.testBit i = true ∧ b.doneW.testBit i = false) ∧
        (∀ i, i < 32 → (detail.getLsbD i = true ↔ b.sm.testBit i = true ∧ b.doneS.testBit i = false)) ∧
        (detail.getLsbD 32 = true ↔ b.exit.isSome = true))

/-- What Claims.MemoryTileEvents and Claims.DrainsAndSwitches say, together. -/
def Obligations.TileTurns : Prop := Claims.MemoryTileEvents ∧ Claims.DrainsAndSwitches

/-- What Claims.Invalidation and Claims.Paging say, together. -/
def Obligations.Translation : Prop := Claims.Invalidation ∧ Claims.Paging

namespace Sys2Proof.Claims

open Sys2Proof.Machine

/-- A flit's control word (R70): destination, AGE, FIDX, FLAST, TYPE. -/
def FlitTo (f : Flit) (d : TileId) (age fidx flast typ : Nat) : Prop :=
  f.ctl.toNat = dieNum d.die * 2 ^ 31 + d.col * 2 ^ 26 + d.row * 2 ^ 21 + age * 2 ^ 11 + fidx * 2 ^ 8 + flast * 2 ^ 5 + typ * 4

/-- A tile of the grid (R12). -/
def OnGrid (t : TileId) : Prop := t.col < 28 ∧ t.row < 24

/-- The source lane of a swizzle mode (R58). -/
def laneOf (mode a n : Nat) : Nat :=
  if mode = 1 then 15 - n else if mode = 2 then (n + a) % 16 else if mode = 3 then a else if mode = 4 then n ^^^ 2 ^ a
  else if mode = 5 then 4 * (n % 4) + n / 4 else n

/-- The flit that stands alone at a router, with its input port, and nothing to inject. -/
def Alone (s : State) (t : TileId) (p : Nat) (f : Flit) : Prop :=
  s.flits = [(t, p, f)] ∧ (s.ctile t).inject = [] ∧ (s.ctile t).router.arb ≤ s.cycle ∧ OnGrid t ∧ s.failed = []

/-- No loop of the tag's context is open, so that no kill mark cuts the token (R38). -/
def Uncut (s : State) (tag : Word) : Prop := ∀ c, s.ctx? (tagCtx tag) = some c → c.loops = []

/-- The lane of the bridge on which a flit crosses at a row (R184). -/
def laneAcross (f : Flit) (row : Nat) : Nat := if 3 ≤ f.typ then 984 + row else row

/-- A token that comes from a splicing successor's plane (R48). -/
def fromSuccessor (f : Flit) : Bool :=
  match f.cargo with
  | .token _ b => b
  | _ => false

end Sys2Proof.Claims

/-- R54, R58, R61, R70 to R72, R105, R193: a token leaves a tile through the swizzle of stage 6 and by the route entry that
its target names: to the tile's own matching store, to a neighbouring compute tile, to a memory tile's channel, as the flits
of a packet, or to a gang member over Gwynlink, which needs a node TRED or RED and an entry of the gang table (0x303) and a port
that is up (0x2C1). Tokens to other tiles are counted for R223.
The model's choices in it: a packet that carries its source and its plane beside the bits of R72 is log 64; what channel 12 to 15
of a memory tile takes is log 66; that another node's token on a route out of the module is dropped with 0x303 is log 91. -/
def Obligations.Routes : Prop :=
  (∀ (p : CPlane) (tok : Tok) (mode a : Nat), p.stages.length = 6 → mode < 6 → a < 16 → (mode = 4 → a < 4) →
    (nth 0 p.stages 5).toNat = mode * 2 ^ 60 + a * 2 ^ 56 →
    let t := stage6 p tok
    t.tag = tok.tag ∧ t.pred = tok.pred ∧ t.psn = tok.psn ∧ t.nul = tok.nul ∧
    (∀ w, tok.val = .scalar w → t.val = .scalar w) ∧
    ∀ ls m, tok.val = .vector ls m → ls.length = 16 → t.val.isVec = true ∧ ∀ n, n < 16 →
      rawLane t.val n = rawLane tok.val (laneOf mode a n) ∧ laneAt t.val n = laneAt tok.val (laneOf mode a n)) ∧
  ∀ (s : State) (op : Issued) (u : TileId) (p : CPlane) (g : Target) (w : BitVec 32) (tok : Tok), op.site = .tile u →
    (s.ctile u).active = some p → p.routes[g.dest.toNat]? = some w → Uncut s tok.tag →
    (∀ ls m, tok.val = .vector ls m → ls.length = 16) →
    let x := w.toNat
    let out := stage6 p tok
    let c := s.ctile u
    (x / 2 ^ 30 = 0 → s.emit1 op (some g) tok =
      s.setCtile u { c with own := c.own ++ [⟨u, x / 2 ^ 13 % 2 ^ 9, g.slot, out, false⟩] }) ∧
    (∀ v, x / 2 ^ 30 = 1 → neighbour u (x / 2 ^ 20 % 4) = some v → isCompute v = true → ∃ b, s.emit1 op (some g) tok =
      let s' := (s.sends u v out).receives v u out
      s'.setCtile v { s'.ctile v with
        stream := (s'.ctile v).stream ++ [⟨v, x / 2 ^ 7 % 2 ^ 9, g.slot, out, b⟩] }) ∧
    (∀ v, x / 2 ^ 30 = 1 → neighbour u (x / 2 ^ 20 % 4) = some v → isCompute v = false →
      let k := x / 2 ^ 16 % 16
      let m := s.mtile v
      let mine := { op with a := some out, tag := out.tag, node := 1024 + k }
      (k < 12 ∨ out.nul = true → s.emit1 op (some g) tok = s.setMtile v { m with waiting := m.waiting ++ [mine] }) ∧
      (12 ≤ k → out.nul = false → s.emit1 op (some g) tok = s.setMtile v (m.setGen (k - 12)
        { m.gen (k - 12) with waiting := (m.gen (k - 12)).waiting ++ [mine] }))) ∧
    (x / 2 ^ 30 = 2 → x.testBit 1 = false →
      let d : TileId := ⟨dieOf (x / 2 ^ 21 % 2), x / 2 ^ 16 % 2 ^ 5, x / 2 ^ 11 % 2 ^ 5⟩
      let ctl := dieNum d.die * 2 ^ 63 + d.col * 2 ^ 58 + d.row * 2 ^ 53 + x / 2 ^ 2 % 2 ^ 9 * 2 ^ 44 + g.slot.code * 2 ^ 42
        + out.pred.toNat * 2 ^ 37 + out.psn.toNat * 2 ^ 36 + out.nul.toNat * 2 ^ 35
      let s' := s.sends u d out
      (∀ y, out.val = .scalar y → ∃ f, s.emit1 op (some g) tok =
        s'.setCtile u { s'.ctile u with inject := c.inject ++ [f] } ∧ f.cargo = .token u (s.succeeds op.ctx u) ∧
        FlitTo f d 0 0 0 0 ∧ f.data.toNat = ctl + out.tag.toNat * 2 ^ 64 + y.toNat * 2 ^ 128) ∧
      (∀ ls m, out.val = .vector ls m → ls.length = 16 → ∃ fs, s.emit1 op (some g) tok =
        s'.setCtile u { s'.ctile u with inject := c.inject ++ fs, pid := (c.pid + 1) % 256 } ∧ fs.length = 6 ∧
        ∀ k, k < 6 → ∀ f, fs[k]? = some f → FlitTo f d 0 k 5 0 ∧
          f.data.toNat / 2 ^ 224 = (dieNum u.die * 2 ^ 31 + u.col * 2 ^ 26 + u.row * 2 ^ 21 + c.pid % 256 * 2 ^ 13) % 2 ^ 32 ∧
          f.data.toNat % 2 ^ 224 = (ctl + 2 ^ 38 + m.toNat * 2 ^ 19 + out.tag.toNat * 2 ^ 64
            + ofBytes (wordBytes ls) * 2 ^ 128) / 2 ^ (224 * k) % 2 ^ 224)) ∧
    (∀ y ctx, x / 2 ^ 30 = 2 → x.testBit 1 = true → p.routes[g.dest.toNat + 1]? = some y → s.ctx? op.ctx = some ctx →
      let rank := y.toNat % 2 ^ 13
      let partialResult := op.opc = 0x66 ∨ op.opc = 0x86
      ((¬ partialResult ∨ ctx.gang = 0 ∨ look (ctx.gang, rank) s.tables.gangs = none) → s.emit1 op (some g) tok =
        s.takeFault ⟨0x303, .tile u, op.ctx, out.tag, 0, 0, false, false⟩) ∧
      (∀ node, partialResult → ctx.gang ≠ 0 → look (ctx.gang, rank) s.tables.gangs = some node →
        (s.portOf node = none → s.emit1 op (some g) tok =
          s.takeFault ⟨0x2C1, .tile u, op.ctx, out.tag, 0, 0, true, false⟩) ∧
        (∀ q, s.portOf node = some q → (s.port q).up = false → s.emit1 op (some g) tok =
          s.takeFault ⟨0x2C1, .port q, op.ctx, out.tag, 0, 0, true, false⟩)) ∧
      (∀ node q, partialResult → ctx.gang ≠ 0 → look (ctx.gang, rank) s.tables.gangs = some node → s.portOf node = some q →
        (s.port q).up = true → ∃ fs, ((s.emit1 op (some g) tok).port q).replay =
          (s.port q).replay ++ [((s.port q).txSeq, .mesh fs)] ∧ (∀ f ∈ fs, f.1 = node ∧ f.2.typ = 0) ∧
          fs.length = if out.val.isVec then 6 else 1))

/-- R70, R111, R177 to R180: a router ejects a flit that is at its destination, if it is accepted; any other takes a productive
port, the column port first, or is deflected and counted; an older flit chooses first; the tile's own flit is never
deflected. A token enters the ingress queue, a request the memory port's entries, a reply leaves stage 6 of the tile that
asked. A flit with a reserved field is dropped with 0x2C0.
The model's choices in it: the bridge in records is log 4, the 64 entries of a port are log 68, the lanes of the bridge are log
75, and that a token carries its plane is log 64. -/
def Sys2Proof.Claims.RouterCycle : Prop :=
  (∀ (s : State) (t : TileId) (p : Nat) (f : Flit), Alone s t p f → p < 4 → ∃ u : State,
    exec (.routerArbitrate t) s = .next u ∧ u.flits = [] ∧
    (f.typ ≠ 2 → u.main = s.main ∧ u.ctxs = s.ctxs ∧ u.mtiles = s.mtiles) ∧
    (f.ctl.toNat % 4 ≠ 0 ∨ 5 < f.ctl.toNat / 4 % 8 ∨ 28 ≤ f.ctl.toNat / 2 ^ 26 % 32 ∨ 24 ≤ f.ctl.toNat / 2 ^ 21 % 32 →
      ∃ v : State, u = v.takeFault ⟨0x2C0, .router t, 0, 0, 0, word f.ctl.toNat, false, false⟩ ∧ v.next = s.next ∧
        (v.ctile t).ingress = (s.ctile t).ingress) ∧
    (∀ age, FlitTo f t age 0 0 0 → age < 1024 → (s.ctile t).ingress.length < 64 →
      let y := f.data.toNat
      y < 2 ^ 192 → y.testBit 38 = false →
      (u.ctile t).ingress = (s.ctile t).ingress ++ [⟨t, y / 2 ^ 44 % 2 ^ 9, Slot.ofCode (y / 2 ^ 42 % 4),
        ⟨word (y / 2 ^ 64 % 2 ^ 64), .scalar (word (y / 2 ^ 128 % 2 ^ 64)), y.testBit 37, y.testBit 36, y.testBit 35⟩,
          fromSuccessor f⟩] ∧ u.next = s.next ∧ (u.ctile t).router.now = (s.router t).now) ∧
    (∀ age op, FlitTo f t age 0 0 1 → age < 1024 → f.cargo = .request op → (s.region (regionOf t)).requests.length < 64 →
      (u.region (regionOf t)).requests = (s.region (regionOf t)).requests ++ [op] ∧ u.next = s.next) ∧
    (∀ age op tok, FlitTo f t age 0 0 2 → age < 1024 → f.cargo = .reply op tok → (s.ctile t).ingress.length < 64 →
      ∃ v : State, u = v.emitTo { op with away := none } (v.resultTargets { op with away := none } op.niw) tok ∧
        v.main = s.main ∧ v.mtiles = s.mtiles ∧ v.next = s.next) ∧
    (∀ age, FlitTo f t age 0 0 0 → age < 1023 → 64 ≤ (s.ctile t).ingress.length → 0 < t.row →
      ∃ h, FlitTo h t (age + 1) 0 0 0 ∧ h.data = f.data ∧ u.next = s.next ++ [({ t with row := t.row - 1 }, 2, h)] ∧
        (u.ctile t).router.now = (s.router t).now + 1) ∧
    (∀ d age fidx flast typ, FlitTo f d age fidx flast typ → age < 1023 → fidx < 8 → flast < 8 → typ < 6 → OnGrid d →
      d.die = t.die →
      ∃ h, FlitTo h d (age + 1) fidx flast typ ∧ h.data = f.data ∧
        (t.col < d.col → u.next = s.next ++ [({ t with col := t.col + 1 }, 3, h)]) ∧
        (d.col < t.col → u.next = s.next ++ [({ t with col := t.col - 1 }, 1, h)]) ∧
        (d.col = t.col → t.row < d.row → u.next = s.next ++ [({ t with row := t.row + 1 }, 0, h)]) ∧
        (d.col = t.col → d.row < t.row → u.next = s.next ++ [({ t with row := t.row - 1 }, 2, h)]) ∧
        (d ≠ t → (u.ctile t).router.now = (s.router t).now ∧ (u.ctile t).ingress = (s.ctile t).ingress)) ∧
    (∀ d age fidx flast typ, FlitTo f d age fidx flast typ → age < 1022 → fidx < 8 → flast < 8 → typ < 6 → OnGrid d →
      d.die = .e → t.die = .w → t.col = 27 → ∃ h, FlitTo h d (age + 2) fidx flast typ ∧ h.data = f.data ∧
        u.late = s.late ++ [(s.cycle + 2, ⟨.e, 0, t.row⟩, 3, h)] ∧ u.next = s.next)) ∧
  (∀ (s : State) (t : TileId) (p q : Nat) (f g : Flit) (d e : TileId) (a b : Nat), s.flits = [(t, p, f), (t, q, g)] →
    (s.ctile t).inject = [] → (s.ctile t).router.arb ≤ s.cycle → OnGrid t → OnGrid d → OnGrid e → s.failed = [] →
    p < 4 → q < 4 → p ≠ q → FlitTo f d a 0 0 0 → FlitTo g e b 0 0 0 → b < a → a < 1023 →
    d.die = t.die → e.die = t.die → t.col < d.col → t.col < e.col → e.row = t.row → 0 < t.row →
    ∃ (u : State) (h k : Flit), exec (.routerArbitrate t) s = .next u ∧ FlitTo h d (a + 1) 0 0 0 ∧ FlitTo k e (b + 1) 0 0 0 ∧
      u.next = s.next ++ [({ t with col := t.col + 1 }, 3, h), ({ t with row := t.row - 1 }, 2, k)] ∧
      (u.ctile t).router.now = (s.router t).now + 1) ∧
  (∀ (s : State) (t : TileId) (f : Flit) (rest : List Flit) (d : TileId), s.flits = [] → (s.ctile t).inject = f :: rest →
    (s.ctile t).router.arb ≤ s.cycle → (s.router t).injects ≤ s.cycle → OnGrid t → OnGrid d → d.die = t.die → s.failed = [] →
    FlitTo f d 0 0 0 0 → t.col < d.col → ∃ (u : State) (h : Flit), exec (.routerArbitrate t) s = .next u ∧
      (u.ctile t).inject = rest ∧ FlitTo h d 1 0 0 0 ∧ u.next = s.next ++ [({ t with col := t.col + 1 }, 3, h)] ∧
      (u.ctile t).router.injects = if (s.router t).throttled then
        s.cycle + 2 ^ ((s.router t).win.toNat / 2 ^ 13 % 8) else 0)

/-- R180, R182, R184: a packet that is not whole 65,536 cycles after its slot was claimed is freed with 0x2C2; a router that
deflected more flits than TH in one window is throttled in the next and no longer, under the THROTWIN that the window's start
finds; a lane of the bridge that fails loses the flits on it.
The model's choices in it: the numbers of the lanes are log 75; how far ahead of the cycle count a router's windows stand, which
are not aligned with one another, is a free value, log 90. -/
def Sys2Proof.Claims.RouterTimers : Prop :=
  (∀ (s : State) (t : TileId) (x : Reasm), (s.ctile t).reasm = [x] → x.got.length ≠ x.last + 1 →
    (x.since + 65536 ≤ s.cycle → ∃ v : State, exec (.reassemblyTimeout t) s =
      .next (v.takeFault ⟨0x2C2, .router t, 0, 0, 0, word x.key, false, false⟩) ∧ (v.ctile t).reasm = [] ∧
        (v.ctile t).ingress = (s.ctile t).ingress ∧ v.main = s.main) ∧
    (s.cycle < x.since + 65536 → ∃ v : State, exec (.reassemblyTimeout t) s = .next v ∧ (v.ctile t).reasm = [x] ∧
      v.main = s.main)) ∧
  (∀ (s : State) (t : TileId), let r := (s.ctile t).router
    r.start + 1024 ≤ s.ownCycle t → s.ownCycle t < r.start + 2048 → ∃ (u : State) (q : Router), exec (.throttleWindowEnd t) s = .next u ∧
      u = s.setCtile t { s.ctile t with router := q } ∧ q.now = 0 ∧ q.last = r.now ∧ q.start = r.start + 1024 ∧
      q.win = s.throtwin ∧ (q.throttled = true ↔ r.win.toNat % 2 ^ 13 < r.now) ∧
      q.injects = (if r.win.toNat % 2 ^ 13 < r.now then r.injects else 0) ∧
      q.twin = r.twin + if r.win.toNat % 2 ^ 13 < r.now then 1 else 0) ∧
  (∀ (s : State) (t : TileId), let r := (s.ctile t).router
    r.start + 2048 ≤ s.ownCycle t → ∃ (u : State) (q : Router), exec (.throttleWindowEnd t) s = .next u ∧
      u = s.setCtile t { s.ctile t with router := q } ∧ q.now = 0 ∧ q.last = 0 ∧ q.throttled = false ∧ q.injects = 0 ∧
      q.start ≤ s.ownCycle t ∧ s.ownCycle t < q.start + 1024 ∧ (q.start - r.start) % 1024 = 0) ∧
  (∀ (s : State) (d : Die) (lane : Nat) (x : Nat × TileId × Nat × Flit) (l l' : List (Nat × TileId × Nat × Flit)),
    s.late = l ++ x :: l' → x.2.1.die = d → laneAcross x.2.2.2 x.2.1.row = lane →
    (∀ y ∈ l ++ l', y.2.1.die ≠ d ∨ laneAcross y.2.2.2 y.2.1.row ≠ lane) → ∃ v : State,
    exec (.bridgeLaneFail d lane) s = .next (v.takeFault ⟨0x2C0, .bridge (if d = .e then .w else .e), 0, 0, 0,
      word x.2.2.2.ctl.toNat, false, false⟩) ∧ v.late = l ++ l' ∧ (d, lane) ∈ v.failed ∧ v.main = s.main)

/-- What Claims.RouterCycle and Claims.RouterTimers say, together. -/
def Obligations.Routers : Prop := Claims.RouterCycle ∧ Claims.RouterTimers

namespace Sys2Proof.Claims

open Sys2Proof.Machine

/-- A host message with a body (R188). -/
def hostMsg (node kind seq : Nat) (body : List Byte) : Msg :=
  ⟨node, bytesOf 1 kind ++ bytesOf 1 0 ++ bytesOf 2 body.length ++ bytesOf 4 seq ++ body, false⟩

/-- The oldest message that has arrived at a module that runs its firmware. -/
def MessageIn (s : State) (node kind : Nat) (body : List Byte) (rest : List Msg) : Prop :=
  s.boot = .running ∧ body.length ≤ 232 ∧ ∃ q, s.hostIn = hostMsg node kind q body :: rest

/-- From `s` to `u` a message has been sent to a node. -/
def Told (s u : State) (node kind : Nat) (body : List Byte) : Prop := ∃ q, u.hostOut = s.hostOut ++ [hostMsg node kind q body]

/-- From `s` to `u` a completion record has been sent to a node (R192). -/
def Completed (s u : State) (node region kind launch cause : Nat) (value : Word) : Prop :=
  ∃ n, Told s u node 6 (bytesOf 2 s.node ++ bytesOf 1 region ++ bytesOf 1 kind ++ bytesOf 4 n ++ bytesOf 4 launch
    ++ bytesOf 2 cause ++ bytesOf 2 0 ++ bytesOf 8 value.toNat ++ bytesOf 8 0)

/-- The body of an EPDATA (R190). -/
def epBody (ctx ep op' len pos rid : Nat) (data : List Byte) : List Byte :=
  bytesOf 2 ctx ++ bytesOf 1 ep ++ bytesOf 1 op' ++ bytesOf 4 len ++ bytesOf 8 pos ++ bytesOf 8 rid ++ bytesOf 8 0 ++ data

/-- A link flit as R186 lays it out, with its CRC over bytes 0 to 247. -/
def linkFlit (ltype seq ack : Nat) (nak : Bool) (payload : List Byte) : List Byte :=
  let b := bytesOf 8 (ltype + seq * 2 ^ 4 + ack * 2 ^ 16 + if nak then 2 ^ 28 else 0) ++ payload
  b ++ bytesOf 8 (crc64 b).toNat

/-- Port `p` is up, holds nothing to be acknowledged, and a flit arrives on it. -/
def Receives (s : State) (p : Nat) (f : List Byte) (rx : List (List Byte)) : Prop :=
  (s.port p).up = true ∧ (s.port p).replay = [] ∧ (s.port p).rx = f :: rx ∧ (s.port p).rxSeq < 4096

end Sys2Proof.Claims

/-- R186 to R188, R193, R228: a port takes a link flit in sequence, delivers it and acknowledges it: from a module, a token of a
slot goes to its tile in the context of the gang's member there and is dropped with 0x084 where the tile has none, and a marker
goes to the port; a host message goes to the firmware, and nothing else from a host has an effect. A flit with a wrong CRC or out of sequence
is discarded, and a NAK asks for the replay; one received before is only acknowledged again.
The model's choices in it: the payload of a marker, the control flits, and the tile at which flits enter the mesh are log 10. -/
def Sys2Proof.Claims.LinkFlits : Prop :=
  ∀ (s : State) (p seq ack : Nat) (load : List Byte) (rx : List (List Byte)), seq < 4096 → ack < 4096 → load.length = 240 →
    let q := s.port p
    let ackd := (q.rxSeq + 4095) % 4096
    let zeros := List.replicate 240 (0 : Byte)
    let peer := (look p s.tables.peers).getD 0
    (∀ ltype, Receives s p (linkFlit ltype seq ack false load) rx → ltype = 1 ∨ ltype = 2 ∨ ltype = 4 →
      (seq = q.rxSeq → ∃ u : State, exec (.linkFlitReceive p) s = .next u ∧ (u.port p).rxSeq = (seq + 1) % 4096 ∧
        (u.port p).rx = rx ∧ (u.port p).lastRx = s.cycle ∧ u.main = s.main ∧
        (ltype = 4 → (u.port p).marks = (if peer < 4096 then
            q.marks ++ [(ofBytes (load.take 4), ofBytes ((load.drop 4).take 4))] else q.marks) ∧
          (u.port p).tx = q.tx ++ [linkFlit 3 0 seq false zeros] ∧ u.hostIn = s.hostIn ∧ u.ctiles = s.ctiles) ∧
        (ltype = 1 → 4096 ≤ peer → (u.port p).marks = q.marks ∧
          (u.port p).tx = q.tx ++ [linkFlit 3 0 seq false zeros] ∧ u.hostIn = s.hostIn ∧ u.ctiles = s.ctiles) ∧
        (ltype = 2 → u.hostIn = s.hostIn ++ [⟨peer, load, false⟩] ∧
          (u.port p).tx = q.tx ++ [linkFlit 3 0 seq false zeros] ∧ (u.port p).marks = q.marks ∧ u.ctiles = s.ctiles)) ∧
      (1 ≤ (seq + 4096 - q.rxSeq) % 4096 → (seq + 4096 - q.rxSeq) % 4096 < 3840 → ∃ u : State,
        exec (.linkFlitReceive p) s = .next u ∧ (u.port p).rxSeq = q.rxSeq ∧ (u.port p).rx = rx ∧ (u.port p).nak = true ∧
        (u.port p).marks = q.marks ∧ u.hostIn = s.hostIn ∧ u.ctiles = s.ctiles ∧ u.main = s.main ∧
        (u.port p).tx = if q.nak then q.tx else q.tx ++ [linkFlit 3 0 ackd true zeros]) ∧
      (1 ≤ (q.rxSeq + 4096 - seq) % 4096 → (q.rxSeq + 4096 - seq) % 4096 ≤ 256 → ∃ u : State,
        exec (.linkFlitReceive p) s = .next u ∧ (u.port p).rxSeq = q.rxSeq ∧ (u.port p).marks = q.marks ∧
        u.hostIn = s.hostIn ∧ u.ctiles = s.ctiles ∧ u.main = s.main ∧
        (u.port p).tx = q.tx ++ [linkFlit 3 0 ackd q.nak zeros])) ∧
    (∀ f, Receives s p f rx → f.length = 256 → ofBytes (f.drop 248) ≠ (crc64 (f.take 248)).toNat ∨ 4 < ofBytes (f.take 8) % 16 ∨
        ofBytes (f.take 8) / 2 ^ 29 ≠ 0 → ∃ u : State, exec (.linkFlitReceive p) s = .next u ∧ (u.port p).rxSeq = q.rxSeq ∧
      (u.port p).nak = true ∧ (u.port p).tx = q.tx ++ [linkFlit 3 0 ackd true zeros] ∧ (u.port p).marks = q.marks ∧
      u.hostIn = s.hostIn ∧ u.ctiles = s.ctiles ∧ u.main = s.main) ∧
    (∀ (f : Flit) (d : TileId), Receives s p (linkFlit 1 q.rxSeq ack false load) rx → s.node < 4096 → OnGrid d →
      load = bytesOf 4 (s.node + 2 ^ 13) ++ bytesOf 4 f.ctl.toNat ++ bytesOf 32 f.data.toNat ++ List.replicate 200 0 →
      FlitTo f d 0 0 0 0 → p < 16 → peer < 4096 →
      (∀ pl c, (s.ctile d).active = some pl → s.ctx? pl.ctx = some c → c.gang ≠ 0 → c.num ∉ (s.ctile d).frozen →
        ∃ (u : State) (h : Flit), exec (.linkFlitReceive p) s = .next u ∧
          (let t : TileId := if p < 8 then ⟨.w, 0, 3 * p⟩ else ⟨.e, 27, 3 * (p - 8)⟩
           (u.ctile t).inject = (s.ctile t).inject ++ [h]) ∧ h.ctl = f.ctl ∧
          h.data.toNat = f.data.toNat - f.data.toNat / 2 ^ 116 % 2 ^ 12 * 2 ^ 116 + c.num % 4096 * 2 ^ 116) ∧
      ((s.ctile d).active = none → ∃ (u : State) (k : Nat), exec (.linkFlitReceive p) s = .next u ∧ u.ctiles = s.ctiles ∧
        Logged s u (21 * dieNum d.die + d.row / 8 * 7 + d.col / 4)
          (.fault (dieNum d.die * 2 ^ 10 + d.col * 2 ^ 5 + d.row) k 0x084 (if isCompute d then 0 else 1) 0 (dieNum d.die) d.col d.row 0
            (word (f.data.toNat / 2 ^ 64 % 2 ^ 64)) 0 0 0)))

/-- R187, R228, R229, R234: the first marker of a round marks the gang's member, whose own markers follow once it is Frozen; a
module without a member sends it on a port once every port that is up and whose routes lead there has brought it. A port that is silent, or whose flit has
been replayed sixteen times, goes down, loses what it kept for replay, and each context with traffic over it is stopped with
0x2C1. Retraining and new tables bring it back.
The model's choices in it: the relay and the sequences after training are log 10, 150,000 cycles log 3; that a member's markers are
sent once it is Frozen is log 72. -/
def Sys2Proof.Claims.PortEvents : Prop :=
  (∀ (s : State) (p g round : Nat) (ms : List (Nat × Nat)), (s.port p).marks = (g, round) :: ms → p < 16 → 0 < g →
    (∀ k, k < 16 → (g, round) ∉ (s.port k).marked) →
    (∀ c, c ∈ s.ctxs → Alive s c → c.gang = g → c.st = .running → (∀ d ∈ s.ctxs, d.gang = g → d = c) →
      ∃ (u : State) (y : Ctx), exec (.gangMarkerReceive p) s = .next u ∧ u.launched? c.launch = some y ∧ y.st = .freezing ∧
        y.round = round ∧ y.gangMark = true ∧ (u.port p).marks = ms ∧ (g, round) ∈ (u.port p).marked ∧ u.main = s.main ∧
        ∀ k, k < 16 → (u.port k).replay = (s.port k).replay) ∧
    ((∀ c ∈ s.ctxs, c.gang ≠ g) → ∃ u : State, exec (.gangMarkerReceive p) s = .next u ∧ u.ctxs = s.ctxs ∧ u.main = s.main ∧
      ∀ k, k < 16 → (s.port k).up = true →
        ((∀ j, (j, k) ∈ s.tables.relays → j = p ∨ (s.port j).up = false) →
          (u.port k).replay = (s.port k).replay ++ [((s.port k).txSeq, .marker g round)]) ∧
        (∀ j, (j, k) ∈ s.tables.relays → j < 16 → j ≠ p → (s.port j).up = true →
          (u.port k).replay = (s.port k).replay))) ∧
  (∀ (s : State) (p : Nat), p < 16 → (s.port p).up = true →
    (∀ i, (i = Instr.gwynlinkPortDown p ∧ ∃ x ∈ (s.port p).replays, 16 ≤ x) ∨
        (i = Instr.linkSilenceTimeout p ∧ (s.port p).lastRx + 150000 ≤ s.cycle) → ∃ u : State, exec i s = .next u ∧
      (u.port p).up = false ∧ (u.port p).replay = [] ∧ u.main = s.main ∧ u.ctiles = s.ctiles ∧
      (∀ c h, s.ctxs = [c] → c.st = .running → c.host = some h → h ≠ s.node → s.portOf h = some p → MarkedToStop u c ∧
        ∃ k, Logged s u c.home (.fault (0x8300 + p) k 0x2C1 7 5 (p / 8) p 0 c.num 0 0 0 c.launch)) ∧
      (∀ c h q, s.ctxs = [c] → c.gang = 0 → c.endpoints = [] → c.host = some h → s.portOf h = some q → q ≠ p →
        u.ctxs = s.ctxs)) ∧
    ((∀ x ∈ (s.port p).replays, x < 16) → exec (.gwynlinkPortDown p) s = .next s) ∧
    (s.cycle < (s.port p).lastRx + 150000 → exec (.linkSilenceTimeout p) s = .next s)) ∧
  (∀ (s : State) (p : Nat), (s.port p).up = false → ∃ (u : State) (q : Port), exec (.gwynlinkPortRetrain p) s = .next u ∧
    u = s.setPort p q ∧ q.up = true ∧ q.rxSeq = 0 ∧ q.txSeq = 0 ∧ q.replay = [] ∧ q.replays = [] ∧ q.lastRx = s.cycle) ∧
  (∀ (s : State) (t : RoutingTables), exec (.routingTableLoad t) s = .next { s with tables := t })

/-- R188 to R192, R216, R286: what a message asks of the module, and the record that answers it. The first FEAT fixes the
vector; CFGW writes its words into tier 1, or loads a configuration for a context of the host; LAUNCH brings a launch to the
arbiter; END marks or ends a context of the host; a message that keeps no layout is dropped with cause 0x041.
The model's choices in it: the records of failed commands, the answer to a LOAD and END of programs are logs 17 and 44. -/
def Sys2Proof.Claims.HostCommands : Prop :=
  (∀ (s : State) (node v : Nat) (rest : List Msg), v < 2 ^ 128 → MessageIn s node 1 (bytesOf 16 v) rest → ∃ u : State,
    exec .hostFeat s = .next u ∧ u.hostIn = rest ∧ u.main = s.main ∧ u.ctxs = s.ctxs ∧
    (s.feat = none → u.feat = some (BitVec.ofNat 128 (v % 16)) ∧ Told s u node 1 (bytesOf 16 (v % 16))) ∧
    (∀ w, s.feat = some w → u.feat = some w ∧ Told s u node 1 (bytesOf 16 w.toNat))) ∧
  (∀ (s : State) (node r nw pa : Nat) (bs : List Byte) (rest : List Msg), MemoryInv s → r < 42 → nw ≤ 26 → bs.length = 8 * nw → pa % 8 = 0 →
    pa + 8 * max nw 1 ≤ 2 ^ 39 →
    MessageIn s node 2 (bytesOf 1 r ++ bytesOf 1 0 ++ bytesOf 2 nw ++ bytesOf 2 0 ++ bytesOf 2 0 ++ bytesOf 8 pa ++ bytesOf 8 0 ++ bs)
      rest → ∃ u : State, exec .hostCfgw s = .next u ∧ u.hostIn = rest ∧ u.hostOut = s.hostOut ∧ u.ctxs = s.ctxs ∧
      (∀ i, i < bs.length → u.byteAt (pa + i) = bs.getD i 0) ∧
      ∀ x, x < pa ∨ pa + bs.length ≤ x → u.byteAt x = s.byteAt x) ∧
  (∀ (s : State) (node r num pa rs : Nat) (rest : List Msg), r < 42 → num < 4096 → pa % 8 = 0 → pa + 8 ≤ 2 ^ 39 → rs < 2 ^ 42 →
    MessageIn s node 2 (bytesOf 1 r ++ bytesOf 1 1 ++ bytesOf 2 0 ++ bytesOf 2 num ++ bytesOf 2 0 ++ bytesOf 8 pa ++ bytesOf 8 rs)
      rest →
    let s1 : State := { s with hostIn := rest }
    ((∀ c, s.ctx? num = some c → c.host ≠ some node) → ∃ u : State, exec .hostCfgwLoad s = .next u ∧ u.hostIn = rest ∧
      Completed s u node r 1 0 0x041 0 ∧ u.main = s.main ∧ u.regions = s.regions) ∧
    (∀ c, s.ctx? num = some c → c.host = some node →
      (rs = 0 → ∃ u : State, exec .hostCfgwLoad s = .next u ∧ u.hostIn = rest ∧ Completed s u node r 1 c.launch 0x041 0 ∧
        u.main = s.main ∧ u.ctiles = s.ctiles) ∧
      (∀ img u, s1.readImage .phys false pa = .ok img → img.rset = rs → rs ≠ 0 →
        (∀ q, rs.testBit q = true → c.rset.testBit q = true ∧ (s1.region q).reserved = none ∧ s1.loadingSet.testBit q = false ∧
          (s1.region q).shadow = none) →
        s1.loadFabric c img rs true = .ok u → ∃ v : State, exec .hostCfgwLoad s = .next v ∧ v.hostIn = u.hostIn ∧
          Completed u v node r 0 c.launch 0 0 ∧ v.regions = u.regions ∧ v.ctiles = u.ctiles ∧ v.mtiles = u.mtiles ∧
          ∀ q, rs.testBit q = true → ∃ l, (v.region q).shadow = some l ∧ l.byCfgld = true ∧ l.ctx = c.num ∧ l.img = img.check))) ∧
  (∀ (s : State) (node r k h rs : Nat) (rest : List Msg) (ws : List Word), r < 42 → k < 256 → h % 64 = 0 → h + 64 ≤ 2 ^ 39 →
    0 < rs → rs < 2 ^ 42 → ws.length = 8 → (∀ i, i < 8 → ws.getD i 0 = s.wordAt (h + 8 * i)) →
    MessageIn s node 3 (bytesOf 1 r ++ bytesOf 1 k ++ bytesOf 6 0 ++ bytesOf 8 h ++ bytesOf 8 rs) rest →
    (¬ GoodDescriptor ws → ∃ u : State, exec .hostLaunch s = .next u ∧ u.hostIn = rest ∧ Completed s u node r 1 0 0x041 0 ∧
      u.main = s.main) ∧
    (GoodDescriptor ws → (ws.getD 3 0).toNat % 2 ^ 16 = 0 ∨ s.hasFeature 1 = true → s.waiting < 256 → ∃ x : Ctx,
      exec .hostLaunch s = .next (accepted { s with hostIn := rest } x) ∧ Launched s ws x ∧ x.rset = rs ∧ x.home = r ∧ x.k = k ∧
      x.parent = none ∧ x.gang = (ws.getD 3 0).toNat % 2 ^ 16 ∧ x.ten = (ws.getD 3 0).toNat / 2 ^ 16 % 2 ^ 16 ∧
      x.root = (ws.getD 4 0).toNat / 2 ^ 12 % 2 ^ 40 * 4096 ∧ x.host = some node ∧ x.phys = true ∧ x.req = none)) ∧
  (∀ (s : State) (node num : Nat) (rest : List Msg), num < 4096 → MessageIn s node 8 (bytesOf 2 num ++ bytesOf 6 0) rest →
    (∀ c, s.ctx? num = some c → c.num = num → (c.host ≠ some node ∨ (c.sys = true ∧ node ∉ s.tables.privileged)) →
      ∃ (u : State) (q k : Nat), exec .hostEnd s = .next u ∧ u.hostIn = rest ∧ u.ctxs = s.ctxs ∧ u.main = s.main ∧
        Logged s u c.home (.fault (0x8000 + c.home) q 0x103 2 0 (c.home / 21) (c.home % 21) 0 num 0 0 0 c.launch) ∧
        Completed s u node k 1 c.launch 0x103 0) ∧
    (∀ c, s.ctxs = [c] → s.ctx? num = some c → c.host = some node → (c.sys = true → node ∈ s.tables.privileged) →
      c.program = false →
      (c.st = .running → ∃ (u : State) (y : Ctx), exec .hostEnd s = .next u ∧ u.launched? c.launch = some y ∧ y.st = .freezing ∧
        y.round = 0 ∧ y.endAfter = true ∧ u.hostOut = s.hostOut ∧ u.main = s.main) ∧
      (c.st = .frozen ∨ c.st = .stopped → ∃ u : State, exec .hostEnd s = .next u ∧
        (∀ y, u.launched? c.launch = some y → y.st = .ended) ∧ u.ctx? num = none ∧
        ∃ w : State, w.hostOut = s.hostOut ∧ w.node = s.node ∧ Completed w u node c.home 3 c.launch 0 0))) ∧
  (∀ (s : State) (node kind : Nat) (body : List Byte) (rest : List Msg), kind = 0 ∨ kind = 6 ∨ (8 < kind ∧ kind < 256) →
    MessageIn s node kind body rest → ∃ u : State, exec .hostMessageUnknown s = .next u ∧ u.hostIn = rest ∧
      Completed s u node 0 1 0 0x041 0 ∧ u.main = s.main ∧ u.ctxs = s.ctxs)

/-- R116, R190, R191, R280, R281: ATTACH gives an endpoint its range, with position 0; with feature 2 the module answers a read
request of another module with bytes of its memory and a write with an acknowledgement, and drops those of a host; read data and acknowledgements reach the transfer that
their request number names, and stage 5 may convert what a HIN gets.
The model's choices in it: where a remote range begins is a free value, log 45; failed commands are log 44; stage 5 on HIN is
log 29. -/
def Sys2Proof.Claims.EndpointMessages : Prop :=
  (∀ (s : State) (node num ep nd ptr ext : Nat) (rest : List Msg) (c : Ctx), num < 4096 → ep < 64 → nd < 8192 → ptr < 2 ^ 64 →
    ext < 2 ^ 64 → MessageIn s node 4 (bytesOf 2 num ++ bytesOf 1 ep ++ bytesOf 1 0 ++ bytesOf 2 nd ++ bytesOf 2 0 ++ bytesOf 8 ptr
      ++ bytesOf 8 ext) rest → s.ctx? num = some c → Alive s c → 4096 ≤ nd ∨ s.hasFeature 2 = true → ∃ (u : State) (y : Ctx),
    exec .hostAttach s = .next u ∧ u.hostIn = rest ∧ u.hostOut = s.hostOut ∧ u.main = s.main ∧ u.launched? c.launch = some y ∧
    look ep y.endpoints = (if ext = 0 then none else some ⟨nd, ptr, ext, 0⟩) ∧
    ∀ e, e ≠ ep → look e y.endpoints = look e c.endpoints) ∧
  (∀ (s : State) (node ctx ep len pos rid : Nat) (rest : List Msg), ctx < 4096 → ep < 64 → len ≤ 200 → pos < 2 ^ 64 →
    rid < 2 ^ 64 → MemoryInv s → s.hasFeature 2 = true → let pa := Config.exportBase node ctx ep + pos
    (4096 ≤ node → ∀ bs, bs.length = len →
      (MessageIn s node 5 (epBody ctx ep 0 len pos rid []) rest → ∃ u : State, exec .epdataReadRequest s = .next u ∧
        u.hostIn = rest ∧ u.main = s.main ∧ Completed s u node 0 1 0 0x041 0) ∧
      (MessageIn s node 5 (epBody ctx ep 2 len pos rid bs) rest → ∃ u : State, exec .epdataWriteData s = .next u ∧
        u.hostIn = rest ∧ u.main = s.main ∧ Completed s u node 0 1 0 0x041 0)) ∧
    (node < 4096 → MessageIn s node 5 (epBody ctx ep 0 len pos rid []) rest → ∃ u : State, exec .epdataReadRequest s = .next u ∧
      u.hostIn = rest ∧ u.main = s.main ∧
      Told s u node 5 (epBody ctx ep 1 len pos rid ((List.range len).map fun i => s.byteAt (pa + i)))) ∧
    (∀ bs, node < 4096 → bs.length = len → MessageIn s node 5 (epBody ctx ep 2 len pos rid bs) rest → ∃ u : State,
      exec .epdataWriteData s = .next u ∧ u.hostIn = rest ∧ Told s u node 5 (epBody ctx ep 3 len pos rid []) ∧
      (∀ i, i < len → pa + i < 2 ^ 42 → u.byteAt (pa + i) = bs.getD i 0) ∧
      ∀ x, x < pa ∨ pa + len ≤ x → u.byteAt x = s.byteAt x)) ∧
  (∀ (s : State) (node ctx ep pos rid need : Nat) (got bs : List Byte) (rest : List Msg) (op : Issued), ctx < 4096 → ep < 64 →
    bs.length ≤ 200 → pos < 2 ^ 64 → rid < 2 ^ 64 → s.held = [⟨op, .transfer rid got need⟩] →
    (MessageIn s node 5 (epBody ctx ep 1 bs.length pos rid bs) rest →
      (got.length + bs.length < need → exec .epdataReadData s =
        .next { s with hostIn := rest, held := [⟨op, .transfer rid (got ++ bs) need⟩] }) ∧
      (∀ n, need = got.length + bs.length → decodeWord (!siteIsBlock op.site) op.word = .ok (.hin n) →
        RepliesFused .epdataReadData s { s with hostIn := rest, held := [] } op n (hinValue op n (got ++ bs)) false)) ∧
    (MessageIn s node 5 (epBody ctx ep 3 bs.length pos rid []) rest →
      (got.length + 1 < need → exec .epdataWriteAck s =
        .next { s with hostIn := rest, held := [⟨op, .transfer rid (got ++ [1]) need⟩] }) ∧
      (∀ n, need = got.length + 1 → op.released = false → decodeWord (!siteIsBlock op.site) op.word = .ok (.hout n) →
        exec .epdataWriteAck s = .next (State.complete { s with hostIn := rest, held := [] } op n 1 .system false 0))))

/-- R191, R194, R195: an ATTEST is answered by the 16,808 bytes of the report, in 76 messages of at most 224 bytes. At
power-on the module runs its firmware if both signatures verify, and loses every volatile state; else it is in the recovery
state, in which alone it takes a new image.
The model's choices in it: the verdicts of the flash, what power-on keeps and the answer in recovery are logs 5 and 44. -/
def Obligations.BootAndAttestation : Prop :=
  (∀ (s : State) (node nonce q : Nat) (rest : List Msg), nonce < 2 ^ 384 → s.boot ≠ .off →
    s.hostIn = hostMsg node 7 q (bytesOf 48 nonce) :: rest → (s.boot = .running → s.hasFeature 3 = true) →
    ∃ (u : State) (out : List Msg) (report : List Byte), exec .hostAttest s = .next u ∧ u.hostIn = rest ∧ u.main = s.main ∧
      u.hostOut = s.hostOut ++ out ∧ out.length = 76 ∧ report.length = 16808 ∧
      report.take 200 = bytesOf 48 s.flash.digest.toNat ++ bytesOf 48 s.flash.pagerDigest.toNat
        ++ bytesOf 48 s.flash.fuseDigest.toNat ++ bytesOf 48 nonce ++ bytesOf 2 (s.node % 2 ^ 13)
        ++ bytesOf 1 (if s.boot = .running then 1 else 0) ++ bytesOf 5 0 ∧
      ∀ k m, out[k]? = some m → ∃ n, m = hostMsg node 7 n (bytesOf 4 (224 * k) ++ bytesOf 4 16808
        ++ (report.drop (224 * k)).take 224)) ∧
  (∀ (s : State) (node nonce q : Nat) (rest : List Msg), nonce < 2 ^ 384 → s.boot = .running → s.hasFeature 3 = false → s.ctx? 0 = none →
    s.hostIn = hostMsg node 7 q (bytesOf 48 nonce) :: rest → ∃ (u : State) (r : Nat), exec .hostAttest s = .next u ∧
      u.hostIn = rest ∧ Completed s u node r 1 0 0x303 0 ∧ u.main = s.main) ∧
  (∀ (s : State), ∃ u : State, exec .powerOnBoot s = .next u ∧ u.main.cells = [] ∧ u.ctxs = [] ∧ u.feat = none ∧
    u.regions = State.reset.regions ∧ u.ctiles = State.reset.ctiles ∧ u.mtiles = State.reset.mtiles ∧ u.flash = s.flash ∧
    u.node = s.node ∧ u.throtwin = 0x2200 ∧ u.issue = none ∧
    (s.flash.rsaOk = true → s.flash.slhOk = true → u.boot = .running ∧ ∀ p, p < 16 → (u.port p).up = true) ∧
    (s.flash.rsaOk = false ∨ s.flash.slhOk = false → u.boot = .recovery)) ∧
  (∀ (s : State) (f : Firmware), (s.boot = .recovery → exec (.newFirmwareImage f) s = .next { s with flash := f }) ∧
    (s.boot ≠ .recovery → exec (.newFirmwareImage f) s = .next s))

/-- What Claims.LinkFlits and Claims.PortEvents say, together. -/
def Obligations.Gwynlink : Prop := Claims.LinkFlits ∧ Claims.PortEvents

/-- What Claims.HostCommands and Claims.EndpointMessages say, together. -/
def Obligations.HostMessages : Prop := Claims.HostCommands ∧ Claims.EndpointMessages

namespace Sys2Proof.Claims

open Sys2Proof.Machine

/-- What a token instruction leaves as it was: main memory; what memory tiles, accumulators, verdict slots and block
registers hold; the system registers and the contexts' modes. -/
structure Kept (s t : State) : Prop where
  main : t.main.cells = s.main.cells ∧ t.main.heads = s.main.heads ∧ t.main.wstate = s.main.wstate
  tiles : ∀ u, (t.mtile u).banks = (s.mtile u).banks ∧ (t.mtile u).fifo = (s.mtile u).fifo ∧
    (t.mtile u).lines = (s.mtile u).lines ∧ (t.mtile u).rows = (s.mtile u).rows ∧
    (t.mtile u).wstate = (s.mtile u).wstate ∧ (t.mtile u).full = (s.mtile u).full
  units : ∀ u, (t.ctile u).q = (s.ctile u).q ∧ (t.ctile u).verdicts = (s.ctile u).verdicts
  registers : ∀ r bc, (t.bctx r bc).g = (s.bctx r bc).g ∧ (t.bctx r bc).stack = (s.bctx r bc).stack
  system : t.throtwin = s.throtwin ∧ t.feat = s.feat ∧ t.node = s.node ∧ t.tables = s.tables ∧
    t.ctxs.map (·.mode) = s.ctxs.map (·.mode)

/-- The instructions that take tokens and give tokens. -/
def tokenOps : List (Niw → Instr) :=
  [.nop, .mov, .gate, .const, .nullTok, .steer, .pchk, .grd, .add, .sub, .mul, .mulh, .mad, .div, .min, .max, .andI, .orI,
   .xorI, .andn, .shl, .shr, .sar, .clz, .popc, .sel, .cmp, .ext, .lea, .fadd, .fsub, .fmul, .ffma, .fdiv, .fsqrt, .frcp,
   .frsq, .fmin, .fmax, .frnd, .fscl, .fsgn, .fcmp, .fcls, .fcvt, .bcst, .shuf, .pack, .unpk, .vred, .scan, .ctrn,
   .join, .joinCount, .tred, .pushf, .popf, .tagrd, .tagwr, .ret, .acrd, .rng, .sysrd]

/-- The words outside memory that one kind of event alone may write (R182, R185, R191, R194). -/
def settings (s : State) : Word × Option (BitVec 128) × Firmware × RoutingTables := (s.throtwin, s.feat, s.flash, s.tables)

end Sys2Proof.Claims

/-- R113, R118, R123, R227 (the form of memory as data is the model's): every step keeps every memory in its canonical
form. -/
def Obligations.MemoryKept : Prop := ∀ s t : State, MemoryInv s → step s = .next t → MemoryInv t

/-- R182, R185, R191, R194: in a step of any instruction or event, SYS.THROTWIN changes by SYSWR or at power-on alone, the
acknowledged features by the first FEAT or at power-on alone, the flash by a new firmware image alone, and the routing tables
by their load alone; an acknowledged vector holds until the next power-on.
The model's choices in it: what power-on keeps is log 5. -/
def Obligations.SettingsKept : Prop :=
  ∀ (i : Instr) (s t : State), exec i s = .next t →
    (t.throtwin ≠ s.throtwin → i = .powerOnBoot ∨ ∃ n, i = .syswrThrotwin n) ∧
    (t.feat ≠ s.feat → i = .powerOnBoot ∨ (i = .hostFeat ∧ s.feat = none)) ∧
    (t.flash ≠ s.flash → s.boot = .recovery ∧ ∃ f, i = .newFirmwareImage f ∧ t.flash = f) ∧
    (t.tables ≠ s.tables → ∃ x, i = .routingTableLoad x ∧ t.tables = x) ∧
    (t.boot ≠ s.boot → i = .powerOnBoot) ∧ t.node = s.node ∧ (i ≠ .powerOnBoot → t.cycle = s.cycle)

/-- R23, R34, R239, R240 and the rules of each instruction: an instruction that takes tokens and gives tokens leaves memory,
the tiles' contents, the accumulators, the block registers and the system registers as they were, on every path. -/
def Obligations.TokenFrames : Prop :=
  ∀ (s t : State) (n : Niw), ∀ mk ∈ tokenOps, exec (mk n) s = .next t → Kept s t

/-- R105, R113, R119, R324: whatever path they take, a load changes no byte of any memory, and a node's store changes no byte
outside those of the address that it stores to. -/
def Obligations.MemoryFrames : Prop :=
  ∀ (s t : State) (op : Issued) (n : Niw), s.issue = some op →
    let s1 := after s op
    let a := op.ta.word.toNat
    (∀ i ∈ [Instr.ld n, .ldv n, .gth n, .ird n, .hin n], exec i s = .next t → t.main.cells = s.main.cells ∧
      (∀ u, (t.mtile u).banks = (s.mtile u).banks) ∧ t.throtwin = s.throtwin ∧ (∀ u, (t.ctile u).q = (s.ctile u).q) ∧
      ∀ r bc, (t.bctx r bc).g = (s.bctx r bc).g) ∧
    (∀ u, op.site = .tile u → MemoryInv s →
      (exec (.st n) s = .next t → ∀ x, (∀ pa, Translated s1 op .write a (n.fmt.width / 8) pa →
        s1.laneDown op (portLane op pa) pa = false → x < pa ∨ pa + n.fmt.width / 8 ≤ x) → t.byteAt x = s.byteAt x) ∧
      (exec (.stv n) s = .next t → ∀ x, (∀ j pa, j < 16 → Translated s1 op .write (a + 8 * j) 8 pa →
        s1.laneDown op (portLane op pa) pa = false → x < pa ∨ pa + 8 ≤ x) → t.byteAt x = s.byteAt x) ∧
      (exec (.st n) s = .next t ∨ exec (.stv n) s = .next t → t.throtwin = s.throtwin ∧
        (∀ v, (t.ctile v).q = (s.ctile v).q) ∧ (∀ r bc, (t.bctx r bc).g = (s.bctx r bc).g) ∧
        ∀ v, v ∉ ((s1.homeTile op n).map (·.1)).toList → (t.mtile v).banks = (s.mtile v).banks)) ∧
    (∀ r bc k, op.site = .block r bc k → op.released = false → exec (.st n) s = .next t → t.main.cells = s.main.cells ∧
      ∀ u, (t.mtile u).banks = (s.mtile u).banks)

/-- R51, R79, R178, R239 (that a step runs the issued word, and the agenda, are the model's logs 1 and 2): when an element's
issued word decodes to an instruction in the element's mode, the step is that instruction's; without one, the step is the first
entry of the agenda, and cycles pass only once every flit at a router has been arbitrated. -/
def Obligations.StepRunsDecoded : Prop :=
  (∀ (s : State) (op : Issued) (i : Instr), s.issue = some op → decodeWord (!siteIsBlock op.site) op.word = .ok i →
    step s = exec i s) ∧
  (∀ (s : State) (i : Instr) (rest : List Move), s.issue = none → s.agenda = .run i :: rest →
    step s = exec i { s with agenda := rest }) ∧
  (∀ (s : State) (k : Nat) (rest : List Move), s.issue = none → s.agenda = .cycles k :: rest →
    (s.flits = [] → s.next = [] → s.late = [] → (∀ t, (s.ctile t).inject = []) →
      ∃ t : State, step s = .next t ∧ t.cycle = s.cycle + k ∧ t.agenda = rest ∧ t.main = s.main ∧ t.ctxs = s.ctxs) ∧
    (s.flits ≠ [] → step s = .next { s with agenda := rest })) ∧
  (∀ (s : State) (nbits w : Nat) (i : Instr), decodeTableWord nbits w = some i →
    step (s.withFetchWord nbits w) = exec i (s.withFetchWord nbits w))

/-- R118, R182, R191, R194, R220: what the machine is after reset: no configuration and no context, no feature
acknowledged, memory zero, THROTWIN with TH 512 and RATE 001, the module not booted; its memories are in canonical form.
The model's choices in it: the bytes before boot are log 49. -/
def Obligations.AtReset : Prop :=
  let s := State.reset
  s.boot = .off ∧ s.feat = none ∧ s.throtwin.toNat % 2 ^ 13 = 512 ∧ s.throtwin.toNat / 2 ^ 13 = 1 ∧ s.ctxs = [] ∧
  (∀ a, s.byteAt a = 0) ∧ (∀ t, (s.ctile t).active = none ∧ (s.ctile t).shadow = none) ∧
  (∀ t, (s.mtile t).active = none ∧ (s.mtile t).shadow = none ∧ (s.mtile t).banks = []) ∧
  (∀ r, (s.region r).activeCtx = none ∧ (s.region r).shadow = none ∧ (s.region r).queue = []) ∧
  (∀ r bc, (s.bctx r bc).st = .idle) ∧ (∀ p, (s.port p).up = false) ∧ MemoryInv s
end

