-- ==== Sys2Proof/Laws/Tables.lean ====
section
/-!
SUPPORT. Lemmas of tables by key and of lists by position: what a lookup finds after a write.
-/

namespace Sys2Proof.Machine

section
variable {κ α : Type} [DecidableEq κ]

@[simp] theorem look_nil (k : κ) : look k ([] : List (κ × α)) = none := rfl

theorem look_put (k u : κ) (a : α) (l : List (κ × α)) : look u (put k a l) = if u = k then some a else look u l := by
  induction l with
  | nil => by_cases h : k = u <;> simp [put, look, h, eq_comm]
  | cons x l ih =>
    by_cases hk : x.1 = k
    · by_cases h : k = u
      · simp [put, look, hk, h]
      · have : ¬u = k := fun e => h e.symm
        simp [put, look, hk, h, this]
    · by_cases hx : x.1 = u
      · have : ¬u = k := fun e => hk (hx.trans e)
        simp [put, look, hk, hx, this]
      · simp [put, look, hk, hx, ih]

/-- A lookup after a write. -/
theorem lookD_put (d : α) (k u : κ) (a : α) (l : List (κ × α)) :
    lookD d u (put k a l) = if u = k then a else lookD d u l := by
  unfold lookD
  rw [look_put]
  split <;> rfl

@[simp] theorem lookD_put_same (d : α) (k : κ) (a : α) (l : List (κ × α)) : lookD d k (put k a l) = a := by
  simp [lookD_put]

theorem lookD_put_other (d : α) (k u : κ) (a : α) (l : List (κ × α)) (h : u ≠ k) :
    lookD d u (put k a l) = lookD d u l := by simp [lookD_put, h]

/-- A lookup in a table whose values are mapped. -/
theorem look_map {β : Type} (f : κ → α → β) (k : κ) (l : List (κ × α)) :
    look k (l.map fun x => (x.1, f x.1 x.2)) = (look k l).map (f k) := by
  induction l with
  | nil => rfl
  | cons x l ih =>
    by_cases h : x.1 = k
    · subst h; simp [look]
    · simp [look, h, ih]

end

/-- The element at a position after a replacement. -/
theorem nth_setNth {α : Type} (d : α) (l : List α) (i j : Nat) (a : α) :
    nth d (setNth l i a) j = if j = i ∧ i < l.length then a else nth d l j := by
  induction l generalizing i j with
  | nil => simp [setNth, nth]
  | cons x l ih =>
    cases i with
    | zero => cases j <;> simp [setNth, nth]
    | succ i =>
      cases j with
      | zero => simp [setNth, nth]
      | succ j => simpa [setNth, nth] using ih i j

@[simp] theorem length_setNth {α : Type} (l : List α) (i : Nat) (a : α) : (setNth l i a).length = l.length := by
  induction l generalizing i with
  | nil => rfl
  | cons x l ih => cases i <;> simp [setNth, ih]

/-- A property of every element that the new one has too holds after a replacement. -/
theorem forall_setNth {α : Type} (P : α → Prop) (l : List α) (i : Nat) (a : α) (h : ∀ x ∈ l, P x) (ha : P a) :
    ∀ x ∈ setNth l i a, P x := by
  induction l generalizing i with
  | nil => simp [setNth]
  | cons y l ih =>
    have hy : P y := h y (by simp)
    have hl : ∀ x ∈ l, P x := fun x hx => h x (by simp [hx])
    cases i with
    | zero => intro x hx; simp [setNth] at hx; rcases hx with rfl | hx; exacts [ha, hl x hx]
    | succ i => intro x hx; simp [setNth] at hx; rcases hx with rfl | hx; exacts [hy, ih i hl x hx]

/-- What `takeFirst` finds meets the test and stands in the list. -/
theorem takeFirst_some {α : Type} (p : α → Bool) (l : List α) (a : α) (r : List α) (h : takeFirst p l = some (a, r)) :
    p a = true ∧ a ∈ l := by
  induction l generalizing a r with
  | nil => simp [takeFirst] at h
  | cons x l ih =>
    by_cases hx : p x
    · simp [takeFirst, hx] at h; rcases h with ⟨rfl, -⟩; simp [hx]
    · simp [takeFirst, hx] at h
      rcases h with ⟨b, hb, rfl, rfl⟩
      exact ⟨(ih _ _ hb).1, by simp [(ih _ _ hb).2]⟩

/-- A fold keeps what each step keeps. -/
theorem foldl_keeps {α σ : Type} (P : σ → Prop) (f : σ → α → σ) (l : List α) (s : σ) (h : P s)
    (hf : ∀ s x, P s → P (f s x)) : P (l.foldl f s) := by
  induction l generalizing s with
  | nil => exact h
  | cons x l ih => exact ih _ (hf _ _ h)

/-- A fold leaves a view unchanged that each step leaves unchanged. -/
theorem foldl_view {α σ β : Type} (v : σ → β) (f : σ → α → σ) (hf : ∀ s x, v (f s x) = v s) (l : List α) (s : σ) :
    v (l.foldl f s) = v s := by
  induction l generalizing s with
  | nil => rfl
  | cons x l ih => exact (ih _).trans (hf _ _)

end Sys2Proof.Machine
end

