-- ==== Sys2Proof/Laws/Memory.lean ====
section
/-!
SUPPORT. The laws of a memory's list of bytes: what a read gives after a write, that a write leaves every other byte
alone, and that every operation keeps the canonical form.
-/

namespace Sys2Proof.Machine

/- One byte. -/

/-- The canonical form of a list with a head: the head is no default, lies below the rest, and the rest is canonical. -/
theorem cellsWf_cons (a : Nat) (b : Byte) (l : List Host.Cell) :
    cellsWf ((a, b) :: l) = true ↔ b ≠ unlisted ∧ (∀ c ∈ l, a < c.1) ∧ cellsWf l = true := by
  induction l generalizing a b with
  | nil => simp [cellsWf]
  | cons c l ih =>
    obtain ⟨a', b'⟩ := c
    have hc := ih a' b'
    constructor
    · intro h
      simp only [cellsWf, Bool.and_eq_true, bne_iff_ne, decide_eq_true_eq] at h
      obtain ⟨⟨hb, ha⟩, hl⟩ := h
      refine ⟨hb, ?_, hl⟩
      intro d hd
      rcases List.mem_cons.1 hd with rfl | hd
      · exact ha
      · exact ha.trans ((hc.1 hl).2.1 d hd)
    · rintro ⟨hb, ha, hl⟩
      simp only [cellsWf, Bool.and_eq_true, bne_iff_ne, decide_eq_true_eq]
      exact ⟨⟨hb, ha (a', b') (by simp)⟩, hl⟩

/-- Below every entry a memory reads as an unlisted address does. -/
theorem cellGet_below (l : List Host.Cell) (a : Nat) (h : ∀ c ∈ l, a < c.1) : cellGet l a = unlisted := by
  induction l with
  | nil => rfl
  | cons c l ih =>
    have hc : a < c.1 := h c (by simp)
    have : c.1 ≠ a := by omega
    simp [cellGet, this, ih fun d hd => h d (by simp [hd])]

/-- Where the entries of a memory after a write stand: among the old ones and the byte written. -/
theorem mem_cellPut (l : List Host.Cell) (a : Nat) (v : Byte) (c : Host.Cell) (h : c ∈ cellPut l a v) :
    c ∈ l ∨ c = (a, v) := by
  induction l with
  | nil => simp only [cellPut] at h; split at h <;> simp_all
  | cons x l ih =>
    obtain ⟨k, b⟩ := x
    simp only [cellPut] at h
    split at h
    · split at h <;> simp_all <;> tauto
    · split at h
      · split at h <;> simp_all; tauto
      · rcases List.mem_cons.1 h with rfl | h
        · simp
        · rcases ih h with h | h <;> simp [h]

/-- A write of one byte keeps the canonical form. -/
theorem cellsWf_cellPut (l : List Host.Cell) (a : Nat) (v : Byte) (h : cellsWf l = true) :
    cellsWf (cellPut l a v) = true := by
  induction l with
  | nil => simp only [cellPut]; split <;> simp_all [cellsWf]
  | cons x l ih =>
    obtain ⟨k, b⟩ := x
    obtain ⟨hb, hk, hl⟩ := (cellsWf_cons k b l).1 h
    simp only [cellPut]
    split
    · rename_i hak
      split
      · exact h
      · refine (cellsWf_cons _ _ _).2 ⟨‹_›, ?_, h⟩
        intro c hc
        rcases List.mem_cons.1 hc with rfl | hc
        · exact hak
        · exact hak.trans (hk c hc)
    · split
      · split
        · exact hl
        · exact (cellsWf_cons _ _ _).2 ⟨‹_›, hk, hl⟩
      · refine (cellsWf_cons _ _ _).2 ⟨hb, ?_, ih hl⟩
        intro c hc
        rcases mem_cellPut _ _ _ _ hc with hc | rfl
        · exact hk c hc
        · show k < a; omega

/-- A read after a write of one byte in a canonical memory. -/
theorem cellGet_cellPut (l : List Host.Cell) (a b : Nat) (v : Byte) (h : cellsWf l = true) :
    cellGet (cellPut l a v) b = if b = a then v else cellGet l b := by
  induction l with
  | nil =>
    simp only [cellPut]
    split
    · rename_i hv; simp [cellGet, hv]
    · by_cases hb : a = b <;> simp [cellGet, hb, eq_comm]
  | cons x l ih =>
    obtain ⟨k, c⟩ := x
    obtain ⟨hc, hk, hl⟩ := (cellsWf_cons k c l).1 h
    simp only [cellPut]
    split
    · rename_i hak
      split
      · rename_i hv
        split
        · subst v; subst b
          exact cellGet_below _ _ fun d hd => by
            rcases List.mem_cons.1 hd with rfl | hd
            · exact hak
            · exact hak.trans (hk d hd)
        · rfl
      · by_cases hb : a = b
        · simp [cellGet, hb]
        · have : ¬b = a := fun e => hb e.symm
          simp [cellGet, hb, this]
    · split
      · rename_i hak
        subst hak
        split
        · rename_i hv
          by_cases hb : b = a
          · subst hb; simp [hv, cellGet_below _ _ hk]
          · have : ¬a = b := fun e => hb e.symm
            simp [cellGet, hb, this]
        · by_cases hb : a = b
          · simp [cellGet, hb]
          · have : ¬b = a := fun e => hb e.symm
            simp [cellGet, hb, this]
      · rename_i h1 h2
        by_cases hkb : k = b
        · subst hkb
          have : ¬k = a := fun e => h2 e.symm
          simp [cellGet, this]
        · simp [cellGet, hkb, ih hl]

/- Ranges. -/

/-- A write of several bytes keeps the canonical form. -/
@[simp] theorem cellsWf_cellsPut (l : List Host.Cell) (a : Nat) (bs : List Byte) (h : cellsWf l = true) :
    cellsWf (cellsPut l a bs) = true := by
  induction bs generalizing l a with
  | nil => exact h
  | cons b bs ih => exact ih _ _ (cellsWf_cellPut _ _ _ h)

/-- A byte outside the range that a write reaches reads as before. -/
theorem cellGet_cellsPut_outside (l : List Host.Cell) (a b : Nat) (bs : List Byte) (h : cellsWf l = true)
    (hb : b < a ∨ a + bs.length ≤ b) : cellGet (cellsPut l a bs) b = cellGet l b := by
  induction bs generalizing l a with
  | nil => rfl
  | cons x bs ih =>
    simp only [List.length_cons] at hb
    simp only [cellsPut]
    rw [ih _ _ (cellsWf_cellPut _ _ _ h) (by omega), cellGet_cellPut _ _ _ _ h, if_neg (by omega)]

/-- A byte inside the range that a write reaches reads as written. -/
theorem cellGet_cellsPut_inside (l : List Host.Cell) (a i : Nat) (bs : List Byte) (h : cellsWf l = true)
    (hi : i < bs.length) : cellGet (cellsPut l a bs) (a + i) = bs[i] := by
  induction bs generalizing l a i with
  | nil => simp at hi
  | cons x bs ih =>
    simp only [cellsPut]
    cases i with
    | zero =>
      rw [cellGet_cellsPut_outside _ _ _ _ (cellsWf_cellPut _ _ _ h) (by omega), cellGet_cellPut _ _ _ _ h]
      simp
    | succ i =>
      have := ih (cellPut l a x) (a + 1) i (cellsWf_cellPut _ _ _ h) (by simpa using hi)
      simpa [Nat.add_assoc, Nat.add_comm 1 i] using this

/-- What is read back is what was written. -/
theorem cellsGet_cellsPut (l : List Host.Cell) (a : Nat) (bs : List Byte) (h : cellsWf l = true) :
    cellsGet (cellsPut l a bs) a bs.length = bs := by
  apply List.ext_getElem
  · simp [cellsGet]
  · intro i h1 h2
    simp [cellsGet, cellGet_cellsPut_inside _ _ _ _ h h2]

/-- A canonical memory with entries left out is canonical. -/
@[simp] theorem cellsWf_filter (p : Host.Cell → Bool) (l : List Host.Cell) (h : cellsWf l = true) :
    cellsWf (l.filter p) = true := by
  induction l with
  | nil => exact h
  | cons c l ih =>
    obtain ⟨a, b⟩ := c
    obtain ⟨hb, ha, hl⟩ := (cellsWf_cons a b l).1 h
    rw [List.filter_cons]
    split
    · exact (cellsWf_cons _ _ _).2 ⟨hb, fun d hd => ha d (List.mem_filter.1 hd).1, ih hl⟩
    · exact ih hl

/-- Zeroing a range keeps the canonical form. -/
@[simp] theorem cellsWf_cellsZero (l : List Host.Cell) (a n : Nat) (h : cellsWf l = true) :
    cellsWf (cellsZero l a n) = true := cellsWf_filter _ _ h

/-- A byte of a memory after a range has been zeroed. -/
theorem cellGet_cellsZero (l : List Host.Cell) (a n b : Nat) :
    cellGet (cellsZero l a n) b = if a ≤ b ∧ b < a + n then unlisted else cellGet l b := by
  induction l with
  | nil => simp [cellsZero, cellGet]
  | cons c l ih =>
    obtain ⟨k, v⟩ := c
    simp only [cellsZero] at ih ⊢
    rw [List.filter_cons]
    by_cases hk : k = b
    · subst hk
      by_cases hr : a ≤ k ∧ k < a + n
      · have : ¬(k < a ∨ a + n ≤ k) := by omega
        simp only [if_pos hr] at ih ⊢
        simp [this, ih]
      · have : k < a ∨ a + n ≤ k := by omega
        simp [this, hr, cellGet]
    · split
      · simp [cellGet, hk, ih]
      · simp [cellGet, hk, ih]

@[simp] theorem cellsWf_nil : cellsWf [] = true := rfl

end Sys2Proof.Machine
end

