-- ==== Sys2Proof/Laws/State.lean ====
section
/-!
SUPPORT. What every update of the state leaves in each of its fields, and what reading a part gives after writing it:
one lemma per field per update.
-/

namespace Sys2Proof.Machine

variable (s : State)

@[simp] theorem State.setCtile_boot (t : TileId) (c : CTile) : (s.setCtile t c).boot = s.boot := rfl
@[simp] theorem State.setCtile_flash (t : TileId) (c : CTile) : (s.setCtile t c).flash = s.flash := rfl
@[simp] theorem State.setCtile_node (t : TileId) (c : CTile) : (s.setCtile t c).node = s.node := rfl
@[simp] theorem State.setCtile_tables (t : TileId) (c : CTile) : (s.setCtile t c).tables = s.tables := rfl
@[simp] theorem State.setCtile_feat (t : TileId) (c : CTile) : (s.setCtile t c).feat = s.feat := rfl
@[simp] theorem State.setCtile_throtwin (t : TileId) (c : CTile) : (s.setCtile t c).throtwin = s.throtwin := rfl
@[simp] theorem State.setCtile_fuse (t : TileId) (c : CTile) : (s.setCtile t c).fuse = s.fuse := rfl
@[simp] theorem State.setCtile_tier2 (t : TileId) (c : CTile) : (s.setCtile t c).tier2 = s.tier2 := rfl
@[simp] theorem State.setCtile_cycle (t : TileId) (c : CTile) : (s.setCtile t c).cycle = s.cycle := rfl
@[simp] theorem State.setCtile_nextLaunch (t : TileId) (c : CTile) : (s.setCtile t c).nextLaunch = s.nextLaunch := rfl
@[simp] theorem State.setCtile_seqs (t : TileId) (c : CTile) : (s.setCtile t c).seqs = s.seqs := rfl
@[simp] theorem State.setCtile_ctxs (t : TileId) (c : CTile) : (s.setCtile t c).ctxs = s.ctxs := rfl
@[simp] theorem State.setCtile_regions (t : TileId) (c : CTile) : (s.setCtile t c).regions = s.regions := rfl
@[simp] theorem State.setCtile_ctiles (t : TileId) (c : CTile) : (s.setCtile t c).ctiles = put t c s.ctiles := rfl
@[simp] theorem State.setCtile_mtiles (t : TileId) (c : CTile) : (s.setCtile t c).mtiles = s.mtiles := rfl
@[simp] theorem State.setCtile_main (t : TileId) (c : CTile) : (s.setCtile t c).main = s.main := rfl
@[simp] theorem State.setCtile_reds (t : TileId) (c : CTile) : (s.setCtile t c).reds = s.reds := rfl
@[simp] theorem State.setCtile_scatters (t : TileId) (c : CTile) : (s.setCtile t c).scatters = s.scatters := rfl
@[simp] theorem State.setCtile_flits (t : TileId) (c : CTile) : (s.setCtile t c).flits = s.flits := rfl
@[simp] theorem State.setCtile_next (t : TileId) (c : CTile) : (s.setCtile t c).next = s.next := rfl
@[simp] theorem State.setCtile_late (t : TileId) (c : CTile) : (s.setCtile t c).late = s.late := rfl
@[simp] theorem State.setCtile_failed (t : TileId) (c : CTile) : (s.setCtile t c).failed = s.failed := rfl
@[simp] theorem State.setCtile_ports (t : TileId) (c : CTile) : (s.setCtile t c).ports = s.ports := rfl
@[simp] theorem State.setCtile_hostIn (t : TileId) (c : CTile) : (s.setCtile t c).hostIn = s.hostIn := rfl
@[simp] theorem State.setCtile_hostOut (t : TileId) (c : CTile) : (s.setCtile t c).hostOut = s.hostOut := rfl
@[simp] theorem State.setCtile_lace (t : TileId) (c : CTile) : (s.setCtile t c).lace = s.lace := rfl
@[simp] theorem State.setCtile_pager (t : TileId) (c : CTile) : (s.setCtile t c).pager = s.pager := rfl
@[simp] theorem State.setCtile_issue (t : TileId) (c : CTile) : (s.setCtile t c).issue = s.issue := rfl
@[simp] theorem State.setCtile_agenda (t : TileId) (c : CTile) : (s.setCtile t c).agenda = s.agenda := rfl
@[simp] theorem State.setCtile_held (t : TileId) (c : CTile) : (s.setCtile t c).held = s.held := rfl
@[simp] theorem State.setCtile_images (t : TileId) (c : CTile) : (s.setCtile t c).images = s.images := rfl
@[simp] theorem State.setCtile_rid (t : TileId) (c : CTile) : (s.setCtile t c).rid = s.rid := rfl
@[simp] theorem State.setCtile_counter (t : TileId) (c : CTile) : (s.setCtile t c).counter = s.counter := rfl
@[simp] theorem State.setCtile_turn (t : TileId) (c : CTile) : (s.setCtile t c).turn = s.turn := rfl
@[simp] theorem State.setCtile_mtile (t : TileId) (c : CTile) (u : TileId) : (s.setCtile t c).mtile u = s.mtile u := rfl
@[simp] theorem State.setCtile_region (t : TileId) (c : CTile) (k : Nat) : (s.setCtile t c).region k = s.region k := rfl
@[simp] theorem State.setCtile_port (t : TileId) (c : CTile) (k : Nat) : (s.setCtile t c).port k = s.port k := rfl
@[simp] theorem State.setCtile_array (t : TileId) (c : CTile) (k : Nat) : (s.setCtile t c).array k = s.array k := rfl
@[simp] theorem State.setCtile_ctx_opt (t : TileId) (c : CTile) (k : Nat) : (s.setCtile t c).ctx? k = s.ctx? k := rfl
@[simp] theorem State.setCtile_launched_opt (t : TileId) (c : CTile) (k : Nat) :
    (s.setCtile t c).launched? k = s.launched? k := rfl
@[simp] theorem State.setCtile_bctx (t : TileId) (c : CTile) (k b : Nat) : (s.setCtile t c).bctx k b = s.bctx k b := rfl
@[simp] theorem State.setCtile_block_opt (t : TileId) (c : CTile) (k b : Nat) :
    (s.setCtile t c).block? k b = s.block? k b := rfl
@[simp] theorem State.setCtile_isSystem (t : TileId) (c : CTile) (k : Nat) :
    (s.setCtile t c).isSystem k = s.isSystem k := rfl
@[simp] theorem State.setCtile_hasFeature (t : TileId) (c : CTile) (k : Nat) :
    (s.setCtile t c).hasFeature k = s.hasFeature k := rfl
@[simp] theorem State.setCtile_inTier2 (t : TileId) (c : CTile) (pa₂ n : Nat) :
    (s.setCtile t c).inTier2 pa₂ n = s.inTier2 pa₂ n := rfl
@[simp] theorem State.setCtile_portOf (t : TileId) (c : CTile) (k : Nat) : (s.setCtile t c).portOf k = s.portOf k := rfl
@[simp] theorem State.setCtile_byteAt (t : TileId) (c : CTile) (a₂ : Nat) :
    (s.setCtile t c).byteAt a₂ = s.byteAt a₂ := rfl

@[simp] theorem State.setMtile_boot (t : TileId) (m : MTile) : (s.setMtile t m).boot = s.boot := rfl
@[simp] theorem State.setMtile_flash (t : TileId) (m : MTile) : (s.setMtile t m).flash = s.flash := rfl
@[simp] theorem State.setMtile_node (t : TileId) (m : MTile) : (s.setMtile t m).node = s.node := rfl
@[simp] theorem State.setMtile_tables (t : TileId) (m : MTile) : (s.setMtile t m).tables = s.tables := rfl
@[simp] theorem State.setMtile_feat (t : TileId) (m : MTile) : (s.setMtile t m).feat = s.feat := rfl
@[simp] theorem State.setMtile_throtwin (t : TileId) (m : MTile) : (s.setMtile t m).throtwin = s.throtwin := rfl
@[simp] theorem State.setMtile_fuse (t : TileId) (m : MTile) : (s.setMtile t m).fuse = s.fuse := rfl
@[simp] theorem State.setMtile_tier2 (t : TileId) (m : MTile) : (s.setMtile t m).tier2 = s.tier2 := rfl
@[simp] theorem State.setMtile_cycle (t : TileId) (m : MTile) : (s.setMtile t m).cycle = s.cycle := rfl
@[simp] theorem State.setMtile_nextLaunch (t : TileId) (m : MTile) : (s.setMtile t m).nextLaunch = s.nextLaunch := rfl
@[simp] theorem State.setMtile_seqs (t : TileId) (m : MTile) : (s.setMtile t m).seqs = s.seqs := rfl
@[simp] theorem State.setMtile_ctxs (t : TileId) (m : MTile) : (s.setMtile t m).ctxs = s.ctxs := rfl
@[simp] theorem State.setMtile_regions (t : TileId) (m : MTile) : (s.setMtile t m).regions = s.regions := rfl
@[simp] theorem State.setMtile_ctiles (t : TileId) (m : MTile) : (s.setMtile t m).ctiles = s.ctiles := rfl
@[simp] theorem State.setMtile_mtiles (t : TileId) (m : MTile) : (s.setMtile t m).mtiles = put t m s.mtiles := rfl
@[simp] theorem State.setMtile_main (t : TileId) (m : MTile) : (s.setMtile t m).main = s.main := rfl
@[simp] theorem State.setMtile_reds (t : TileId) (m : MTile) : (s.setMtile t m).reds = s.reds := rfl
@[simp] theorem State.setMtile_scatters (t : TileId) (m : MTile) : (s.setMtile t m).scatters = s.scatters := rfl
@[simp] theorem State.setMtile_flits (t : TileId) (m : MTile) : (s.setMtile t m).flits = s.flits := rfl
@[simp] theorem State.setMtile_next (t : TileId) (m : MTile) : (s.setMtile t m).next = s.next := rfl
@[simp] theorem State.setMtile_late (t : TileId) (m : MTile) : (s.setMtile t m).late = s.late := rfl
@[simp] theorem State.setMtile_failed (t : TileId) (m : MTile) : (s.setMtile t m).failed = s.failed := rfl
@[simp] theorem State.setMtile_ports (t : TileId) (m : MTile) : (s.setMtile t m).ports = s.ports := rfl
@[simp] theorem State.setMtile_hostIn (t : TileId) (m : MTile) : (s.setMtile t m).hostIn = s.hostIn := rfl
@[simp] theorem State.setMtile_hostOut (t : TileId) (m : MTile) : (s.setMtile t m).hostOut = s.hostOut := rfl
@[simp] theorem State.setMtile_lace (t : TileId) (m : MTile) : (s.setMtile t m).lace = s.lace := rfl
@[simp] theorem State.setMtile_pager (t : TileId) (m : MTile) : (s.setMtile t m).pager = s.pager := rfl
@[simp] theorem State.setMtile_issue (t : TileId) (m : MTile) : (s.setMtile t m).issue = s.issue := rfl
@[simp] theorem State.setMtile_agenda (t : TileId) (m : MTile) : (s.setMtile t m).agenda = s.agenda := rfl
@[simp] theorem State.setMtile_held (t : TileId) (m : MTile) : (s.setMtile t m).held = s.held := rfl
@[simp] theorem State.setMtile_images (t : TileId) (m : MTile) : (s.setMtile t m).images = s.images := rfl
@[simp] theorem State.setMtile_rid (t : TileId) (m : MTile) : (s.setMtile t m).rid = s.rid := rfl
@[simp] theorem State.setMtile_counter (t : TileId) (m : MTile) : (s.setMtile t m).counter = s.counter := rfl
@[simp] theorem State.setMtile_turn (t : TileId) (m : MTile) : (s.setMtile t m).turn = s.turn := rfl
@[simp] theorem State.setMtile_ctile (t : TileId) (m : MTile) (u : TileId) : (s.setMtile t m).ctile u = s.ctile u := rfl
@[simp] theorem State.setMtile_region (t : TileId) (m : MTile) (k : Nat) : (s.setMtile t m).region k = s.region k := rfl
@[simp] theorem State.setMtile_port (t : TileId) (m : MTile) (k : Nat) : (s.setMtile t m).port k = s.port k := rfl
@[simp] theorem State.setMtile_array (t : TileId) (m : MTile) (k : Nat) : (s.setMtile t m).array k = s.array k := rfl
@[simp] theorem State.setMtile_ctx_opt (t : TileId) (m : MTile) (k : Nat) : (s.setMtile t m).ctx? k = s.ctx? k := rfl
@[simp] theorem State.setMtile_launched_opt (t : TileId) (m : MTile) (k : Nat) :
    (s.setMtile t m).launched? k = s.launched? k := rfl
@[simp] theorem State.setMtile_bctx (t : TileId) (m : MTile) (k b : Nat) : (s.setMtile t m).bctx k b = s.bctx k b := rfl
@[simp] theorem State.setMtile_block_opt (t : TileId) (m : MTile) (k b : Nat) :
    (s.setMtile t m).block? k b = s.block? k b := rfl
@[simp] theorem State.setMtile_isSystem (t : TileId) (m : MTile) (k : Nat) :
    (s.setMtile t m).isSystem k = s.isSystem k := rfl
@[simp] theorem State.setMtile_hasFeature (t : TileId) (m : MTile) (k : Nat) :
    (s.setMtile t m).hasFeature k = s.hasFeature k := rfl
@[simp] theorem State.setMtile_inTier2 (t : TileId) (m : MTile) (pa₂ n : Nat) :
    (s.setMtile t m).inTier2 pa₂ n = s.inTier2 pa₂ n := rfl
@[simp] theorem State.setMtile_plane_opt (t : TileId) (m : MTile) (i : Issuer) :
    (s.setMtile t m).plane? i = s.plane? i := rfl
@[simp] theorem State.setMtile_widths (t : TileId) (m : MTile) (o : Issued) :
    (s.setMtile t m).widths o = s.widths o := rfl
@[simp] theorem State.setMtile_portOf (t : TileId) (m : MTile) (k : Nat) : (s.setMtile t m).portOf k = s.portOf k := rfl
@[simp] theorem State.setMtile_byteAt (t : TileId) (m : MTile) (a₂ : Nat) :
    (s.setMtile t m).byteAt a₂ = s.byteAt a₂ := rfl

@[simp] theorem State.setRegion_boot (r : Nat) (g : Region) : (s.setRegion r g).boot = s.boot := rfl
@[simp] theorem State.setRegion_flash (r : Nat) (g : Region) : (s.setRegion r g).flash = s.flash := rfl
@[simp] theorem State.setRegion_node (r : Nat) (g : Region) : (s.setRegion r g).node = s.node := rfl
@[simp] theorem State.setRegion_tables (r : Nat) (g : Region) : (s.setRegion r g).tables = s.tables := rfl
@[simp] theorem State.setRegion_feat (r : Nat) (g : Region) : (s.setRegion r g).feat = s.feat := rfl
@[simp] theorem State.setRegion_throtwin (r : Nat) (g : Region) : (s.setRegion r g).throtwin = s.throtwin := rfl
@[simp] theorem State.setRegion_fuse (r : Nat) (g : Region) : (s.setRegion r g).fuse = s.fuse := rfl
@[simp] theorem State.setRegion_tier2 (r : Nat) (g : Region) : (s.setRegion r g).tier2 = s.tier2 := rfl
@[simp] theorem State.setRegion_cycle (r : Nat) (g : Region) : (s.setRegion r g).cycle = s.cycle := rfl
@[simp] theorem State.setRegion_nextLaunch (r : Nat) (g : Region) : (s.setRegion r g).nextLaunch = s.nextLaunch := rfl
@[simp] theorem State.setRegion_seqs (r : Nat) (g : Region) : (s.setRegion r g).seqs = s.seqs := rfl
@[simp] theorem State.setRegion_ctxs (r : Nat) (g : Region) : (s.setRegion r g).ctxs = s.ctxs := rfl
@[simp] theorem State.setRegion_regions (r : Nat) (g : Region) : (s.setRegion r g).regions = put r g s.regions := rfl
@[simp] theorem State.setRegion_ctiles (r : Nat) (g : Region) : (s.setRegion r g).ctiles = s.ctiles := rfl
@[simp] theorem State.setRegion_mtiles (r : Nat) (g : Region) : (s.setRegion r g).mtiles = s.mtiles := rfl
@[simp] theorem State.setRegion_main (r : Nat) (g : Region) : (s.setRegion r g).main = s.main := rfl
@[simp] theorem State.setRegion_reds (r : Nat) (g : Region) : (s.setRegion r g).reds = s.reds := rfl
@[simp] theorem State.setRegion_scatters (r : Nat) (g : Region) : (s.setRegion r g).scatters = s.scatters := rfl
@[simp] theorem State.setRegion_flits (r : Nat) (g : Region) : (s.setRegion r g).flits = s.flits := rfl
@[simp] theorem State.setRegion_next (r : Nat) (g : Region) : (s.setRegion r g).next = s.next := rfl
@[simp] theorem State.setRegion_late (r : Nat) (g : Region) : (s.setRegion r g).late = s.late := rfl
@[simp] theorem State.setRegion_failed (r : Nat) (g : Region) : (s.setRegion r g).failed = s.failed := rfl
@[simp] theorem State.setRegion_ports (r : Nat) (g : Region) : (s.setRegion r g).ports = s.ports := rfl
@[simp] theorem State.setRegion_hostIn (r : Nat) (g : Region) : (s.setRegion r g).hostIn = s.hostIn := rfl
@[simp] theorem State.setRegion_hostOut (r : Nat) (g : Region) : (s.setRegion r g).hostOut = s.hostOut := rfl
@[simp] theorem State.setRegion_lace (r : Nat) (g : Region) : (s.setRegion r g).lace = s.lace := rfl
@[simp] theorem State.setRegion_pager (r : Nat) (g : Region) : (s.setRegion r g).pager = s.pager := rfl
@[simp] theorem State.setRegion_issue (r : Nat) (g : Region) : (s.setRegion r g).issue = s.issue := rfl
@[simp] theorem State.setRegion_agenda (r : Nat) (g : Region) : (s.setRegion r g).agenda = s.agenda := rfl
@[simp] theorem State.setRegion_held (r : Nat) (g : Region) : (s.setRegion r g).held = s.held := rfl
@[simp] theorem State.setRegion_images (r : Nat) (g : Region) : (s.setRegion r g).images = s.images := rfl
@[simp] theorem State.setRegion_rid (r : Nat) (g : Region) : (s.setRegion r g).rid = s.rid := rfl
@[simp] theorem State.setRegion_counter (r : Nat) (g : Region) : (s.setRegion r g).counter = s.counter := rfl
@[simp] theorem State.setRegion_turn (r : Nat) (g : Region) : (s.setRegion r g).turn = s.turn := rfl
@[simp] theorem State.setRegion_ctile (r : Nat) (g : Region) (u : TileId) : (s.setRegion r g).ctile u = s.ctile u := rfl
@[simp] theorem State.setRegion_mtile (r : Nat) (g : Region) (u : TileId) : (s.setRegion r g).mtile u = s.mtile u := rfl
@[simp] theorem State.setRegion_port (r : Nat) (g : Region) (k : Nat) : (s.setRegion r g).port k = s.port k := rfl
@[simp] theorem State.setRegion_array (r : Nat) (g : Region) (k : Nat) : (s.setRegion r g).array k = s.array k := rfl
@[simp] theorem State.setRegion_ctx_opt (r : Nat) (g : Region) (k : Nat) : (s.setRegion r g).ctx? k = s.ctx? k := rfl
@[simp] theorem State.setRegion_launched_opt (r : Nat) (g : Region) (k : Nat) :
    (s.setRegion r g).launched? k = s.launched? k := rfl
@[simp] theorem State.setRegion_isSystem (r : Nat) (g : Region) (k : Nat) :
    (s.setRegion r g).isSystem k = s.isSystem k := rfl
@[simp] theorem State.setRegion_hasFeature (r : Nat) (g : Region) (k : Nat) :
    (s.setRegion r g).hasFeature k = s.hasFeature k := rfl
@[simp] theorem State.setRegion_inTier2 (r : Nat) (g : Region) (pa₂ n : Nat) :
    (s.setRegion r g).inTier2 pa₂ n = s.inTier2 pa₂ n := rfl
@[simp] theorem State.setRegion_plane_opt (r : Nat) (g : Region) (i : Issuer) :
    (s.setRegion r g).plane? i = s.plane? i := rfl
@[simp] theorem State.setRegion_widths (r : Nat) (g : Region) (o : Issued) :
    (s.setRegion r g).widths o = s.widths o := rfl
@[simp] theorem State.setRegion_portOf (r : Nat) (g : Region) (k : Nat) : (s.setRegion r g).portOf k = s.portOf k := rfl
@[simp] theorem State.setRegion_byteAt (r : Nat) (g : Region) (a₂ : Nat) :
    (s.setRegion r g).byteAt a₂ = s.byteAt a₂ := rfl

@[simp] theorem State.setPort_boot (p : Nat) (q : Port) : (s.setPort p q).boot = s.boot := rfl
@[simp] theorem State.setPort_flash (p : Nat) (q : Port) : (s.setPort p q).flash = s.flash := rfl
@[simp] theorem State.setPort_node (p : Nat) (q : Port) : (s.setPort p q).node = s.node := rfl
@[simp] theorem State.setPort_tables (p : Nat) (q : Port) : (s.setPort p q).tables = s.tables := rfl
@[simp] theorem State.setPort_feat (p : Nat) (q : Port) : (s.setPort p q).feat = s.feat := rfl
@[simp] theorem State.setPort_throtwin (p : Nat) (q : Port) : (s.setPort p q).throtwin = s.throtwin := rfl
@[simp] theorem State.setPort_fuse (p : Nat) (q : Port) : (s.setPort p q).fuse = s.fuse := rfl
@[simp] theorem State.setPort_tier2 (p : Nat) (q : Port) : (s.setPort p q).tier2 = s.tier2 := rfl
@[simp] theorem State.setPort_cycle (p : Nat) (q : Port) : (s.setPort p q).cycle = s.cycle := rfl
@[simp] theorem State.setPort_nextLaunch (p : Nat) (q : Port) : (s.setPort p q).nextLaunch = s.nextLaunch := rfl
@[simp] theorem State.setPort_seqs (p : Nat) (q : Port) : (s.setPort p q).seqs = s.seqs := rfl
@[simp] theorem State.setPort_ctxs (p : Nat) (q : Port) : (s.setPort p q).ctxs = s.ctxs := rfl
@[simp] theorem State.setPort_regions (p : Nat) (q : Port) : (s.setPort p q).regions = s.regions := rfl
@[simp] theorem State.setPort_ctiles (p : Nat) (q : Port) : (s.setPort p q).ctiles = s.ctiles := rfl
@[simp] theorem State.setPort_mtiles (p : Nat) (q : Port) : (s.setPort p q).mtiles = s.mtiles := rfl
@[simp] theorem State.setPort_main (p : Nat) (q : Port) : (s.setPort p q).main = s.main := rfl
@[simp] theorem State.setPort_reds (p : Nat) (q : Port) : (s.setPort p q).reds = s.reds := rfl
@[simp] theorem State.setPort_scatters (p : Nat) (q : Port) : (s.setPort p q).scatters = s.scatters := rfl
@[simp] theorem State.setPort_flits (p : Nat) (q : Port) : (s.setPort p q).flits = s.flits := rfl
@[simp] theorem State.setPort_next (p : Nat) (q : Port) : (s.setPort p q).next = s.next := rfl
@[simp] theorem State.setPort_late (p : Nat) (q : Port) : (s.setPort p q).late = s.late := rfl
@[simp] theorem State.setPort_failed (p : Nat) (q : Port) : (s.setPort p q).failed = s.failed := rfl
@[simp] theorem State.setPort_ports (p : Nat) (q : Port) : (s.setPort p q).ports = put p q s.ports := rfl
@[simp] theorem State.setPort_hostIn (p : Nat) (q : Port) : (s.setPort p q).hostIn = s.hostIn := rfl
@[simp] theorem State.setPort_hostOut (p : Nat) (q : Port) : (s.setPort p q).hostOut = s.hostOut := rfl
@[simp] theorem State.setPort_lace (p : Nat) (q : Port) : (s.setPort p q).lace = s.lace := rfl
@[simp] theorem State.setPort_pager (p : Nat) (q : Port) : (s.setPort p q).pager = s.pager := rfl
@[simp] theorem State.setPort_issue (p : Nat) (q : Port) : (s.setPort p q).issue = s.issue := rfl
@[simp] theorem State.setPort_agenda (p : Nat) (q : Port) : (s.setPort p q).agenda = s.agenda := rfl
@[simp] theorem State.setPort_held (p : Nat) (q : Port) : (s.setPort p q).held = s.held := rfl
@[simp] theorem State.setPort_images (p : Nat) (q : Port) : (s.setPort p q).images = s.images := rfl
@[simp] theorem State.setPort_rid (p : Nat) (q : Port) : (s.setPort p q).rid = s.rid := rfl
@[simp] theorem State.setPort_counter (p : Nat) (q : Port) : (s.setPort p q).counter = s.counter := rfl
@[simp] theorem State.setPort_turn (p : Nat) (q : Port) : (s.setPort p q).turn = s.turn := rfl
@[simp] theorem State.setPort_ctile (p : Nat) (q : Port) (u : TileId) : (s.setPort p q).ctile u = s.ctile u := rfl
@[simp] theorem State.setPort_mtile (p : Nat) (q : Port) (u : TileId) : (s.setPort p q).mtile u = s.mtile u := rfl
@[simp] theorem State.setPort_region (p : Nat) (q : Port) (k : Nat) : (s.setPort p q).region k = s.region k := rfl
@[simp] theorem State.setPort_array (p : Nat) (q : Port) (k : Nat) : (s.setPort p q).array k = s.array k := rfl
@[simp] theorem State.setPort_ctx_opt (p : Nat) (q : Port) (k : Nat) : (s.setPort p q).ctx? k = s.ctx? k := rfl
@[simp] theorem State.setPort_launched_opt (p : Nat) (q : Port) (k : Nat) :
    (s.setPort p q).launched? k = s.launched? k := rfl
@[simp] theorem State.setPort_bctx (p : Nat) (q : Port) (k b : Nat) : (s.setPort p q).bctx k b = s.bctx k b := rfl
@[simp] theorem State.setPort_block_opt (p : Nat) (q : Port) (k b : Nat) :
    (s.setPort p q).block? k b = s.block? k b := rfl
@[simp] theorem State.setPort_isSystem (p : Nat) (q : Port) (k : Nat) : (s.setPort p q).isSystem k = s.isSystem k := rfl
@[simp] theorem State.setPort_hasFeature (p : Nat) (q : Port) (k : Nat) :
    (s.setPort p q).hasFeature k = s.hasFeature k := rfl
@[simp] theorem State.setPort_inTier2 (p : Nat) (q : Port) (pa₂ n : Nat) :
    (s.setPort p q).inTier2 pa₂ n = s.inTier2 pa₂ n := rfl
@[simp] theorem State.setPort_plane_opt (p : Nat) (q : Port) (i : Issuer) : (s.setPort p q).plane? i = s.plane? i := rfl
@[simp] theorem State.setPort_widths (p : Nat) (q : Port) (o : Issued) : (s.setPort p q).widths o = s.widths o := rfl
@[simp] theorem State.setPort_portOf (p : Nat) (q : Port) (k : Nat) : (s.setPort p q).portOf k = s.portOf k := rfl
@[simp] theorem State.setPort_byteAt (p : Nat) (q : Port) (a₂ : Nat) : (s.setPort p q).byteAt a₂ = s.byteAt a₂ := rfl

@[simp] theorem State.setArray_boot (a : Nat) (l : LaceArray) : (s.setArray a l).boot = s.boot := rfl
@[simp] theorem State.setArray_flash (a : Nat) (l : LaceArray) : (s.setArray a l).flash = s.flash := rfl
@[simp] theorem State.setArray_node (a : Nat) (l : LaceArray) : (s.setArray a l).node = s.node := rfl
@[simp] theorem State.setArray_tables (a : Nat) (l : LaceArray) : (s.setArray a l).tables = s.tables := rfl
@[simp] theorem State.setArray_feat (a : Nat) (l : LaceArray) : (s.setArray a l).feat = s.feat := rfl
@[simp] theorem State.setArray_throtwin (a : Nat) (l : LaceArray) : (s.setArray a l).throtwin = s.throtwin := rfl
@[simp] theorem State.setArray_fuse (a : Nat) (l : LaceArray) : (s.setArray a l).fuse = s.fuse := rfl
@[simp] theorem State.setArray_tier2 (a : Nat) (l : LaceArray) : (s.setArray a l).tier2 = s.tier2 := rfl
@[simp] theorem State.setArray_cycle (a : Nat) (l : LaceArray) : (s.setArray a l).cycle = s.cycle := rfl
@[simp] theorem State.setArray_nextLaunch (a : Nat) (l : LaceArray) : (s.setArray a l).nextLaunch = s.nextLaunch := rfl
@[simp] theorem State.setArray_seqs (a : Nat) (l : LaceArray) : (s.setArray a l).seqs = s.seqs := rfl
@[simp] theorem State.setArray_ctxs (a : Nat) (l : LaceArray) : (s.setArray a l).ctxs = s.ctxs := rfl
@[simp] theorem State.setArray_regions (a : Nat) (l : LaceArray) : (s.setArray a l).regions = s.regions := rfl
@[simp] theorem State.setArray_ctiles (a : Nat) (l : LaceArray) : (s.setArray a l).ctiles = s.ctiles := rfl
@[simp] theorem State.setArray_mtiles (a : Nat) (l : LaceArray) : (s.setArray a l).mtiles = s.mtiles := rfl
@[simp] theorem State.setArray_main (a : Nat) (l : LaceArray) : (s.setArray a l).main = s.main := rfl
@[simp] theorem State.setArray_reds (a : Nat) (l : LaceArray) : (s.setArray a l).reds = s.reds := rfl
@[simp] theorem State.setArray_scatters (a : Nat) (l : LaceArray) : (s.setArray a l).scatters = s.scatters := rfl
@[simp] theorem State.setArray_flits (a : Nat) (l : LaceArray) : (s.setArray a l).flits = s.flits := rfl
@[simp] theorem State.setArray_next (a : Nat) (l : LaceArray) : (s.setArray a l).next = s.next := rfl
@[simp] theorem State.setArray_late (a : Nat) (l : LaceArray) : (s.setArray a l).late = s.late := rfl
@[simp] theorem State.setArray_failed (a : Nat) (l : LaceArray) : (s.setArray a l).failed = s.failed := rfl
@[simp] theorem State.setArray_ports (a : Nat) (l : LaceArray) : (s.setArray a l).ports = s.ports := rfl
@[simp] theorem State.setArray_hostIn (a : Nat) (l : LaceArray) : (s.setArray a l).hostIn = s.hostIn := rfl
@[simp] theorem State.setArray_hostOut (a : Nat) (l : LaceArray) : (s.setArray a l).hostOut = s.hostOut := rfl
@[simp] theorem State.setArray_lace (a : Nat) (l : LaceArray) : (s.setArray a l).lace = put a l s.lace := rfl
@[simp] theorem State.setArray_pager (a : Nat) (l : LaceArray) : (s.setArray a l).pager = s.pager := rfl
@[simp] theorem State.setArray_issue (a : Nat) (l : LaceArray) : (s.setArray a l).issue = s.issue := rfl
@[simp] theorem State.setArray_agenda (a : Nat) (l : LaceArray) : (s.setArray a l).agenda = s.agenda := rfl
@[simp] theorem State.setArray_held (a : Nat) (l : LaceArray) : (s.setArray a l).held = s.held := rfl
@[simp] theorem State.setArray_images (a : Nat) (l : LaceArray) : (s.setArray a l).images = s.images := rfl
@[simp] theorem State.setArray_rid (a : Nat) (l : LaceArray) : (s.setArray a l).rid = s.rid := rfl
@[simp] theorem State.setArray_counter (a : Nat) (l : LaceArray) : (s.setArray a l).counter = s.counter := rfl
@[simp] theorem State.setArray_turn (a : Nat) (l : LaceArray) : (s.setArray a l).turn = s.turn := rfl
@[simp] theorem State.setArray_ctile (a : Nat) (l : LaceArray) (u : TileId) :
    (s.setArray a l).ctile u = s.ctile u := rfl
@[simp] theorem State.setArray_mtile (a : Nat) (l : LaceArray) (u : TileId) :
    (s.setArray a l).mtile u = s.mtile u := rfl
@[simp] theorem State.setArray_region (a : Nat) (l : LaceArray) (k : Nat) :
    (s.setArray a l).region k = s.region k := rfl
@[simp] theorem State.setArray_port (a : Nat) (l : LaceArray) (k : Nat) : (s.setArray a l).port k = s.port k := rfl
@[simp] theorem State.setArray_ctx_opt (a : Nat) (l : LaceArray) (k : Nat) : (s.setArray a l).ctx? k = s.ctx? k := rfl
@[simp] theorem State.setArray_launched_opt (a : Nat) (l : LaceArray) (k : Nat) :
    (s.setArray a l).launched? k = s.launched? k := rfl
@[simp] theorem State.setArray_bctx (a : Nat) (l : LaceArray) (k b : Nat) :
    (s.setArray a l).bctx k b = s.bctx k b := rfl
@[simp] theorem State.setArray_block_opt (a : Nat) (l : LaceArray) (k b : Nat) :
    (s.setArray a l).block? k b = s.block? k b := rfl
@[simp] theorem State.setArray_isSystem (a : Nat) (l : LaceArray) (k : Nat) :
    (s.setArray a l).isSystem k = s.isSystem k := rfl
@[simp] theorem State.setArray_hasFeature (a : Nat) (l : LaceArray) (k : Nat) :
    (s.setArray a l).hasFeature k = s.hasFeature k := rfl
@[simp] theorem State.setArray_inTier2 (a : Nat) (l : LaceArray) (pa₂ n : Nat) :
    (s.setArray a l).inTier2 pa₂ n = s.inTier2 pa₂ n := rfl
@[simp] theorem State.setArray_plane_opt (a : Nat) (l : LaceArray) (i : Issuer) :
    (s.setArray a l).plane? i = s.plane? i := rfl
@[simp] theorem State.setArray_widths (a : Nat) (l : LaceArray) (o : Issued) :
    (s.setArray a l).widths o = s.widths o := rfl
@[simp] theorem State.setArray_portOf (a : Nat) (l : LaceArray) (k : Nat) :
    (s.setArray a l).portOf k = s.portOf k := rfl
@[simp] theorem State.setArray_byteAt (a : Nat) (l : LaceArray) (a₂ : Nat) :
    (s.setArray a l).byteAt a₂ = s.byteAt a₂ := rfl

@[simp] theorem State.mapCtx_boot (ln : Nat) (f : Ctx → Ctx) : (s.mapCtx ln f).boot = s.boot := rfl
@[simp] theorem State.mapCtx_flash (ln : Nat) (f : Ctx → Ctx) : (s.mapCtx ln f).flash = s.flash := rfl
@[simp] theorem State.mapCtx_node (ln : Nat) (f : Ctx → Ctx) : (s.mapCtx ln f).node = s.node := rfl
@[simp] theorem State.mapCtx_tables (ln : Nat) (f : Ctx → Ctx) : (s.mapCtx ln f).tables = s.tables := rfl
@[simp] theorem State.mapCtx_feat (ln : Nat) (f : Ctx → Ctx) : (s.mapCtx ln f).feat = s.feat := rfl
@[simp] theorem State.mapCtx_throtwin (ln : Nat) (f : Ctx → Ctx) : (s.mapCtx ln f).throtwin = s.throtwin := rfl
@[simp] theorem State.mapCtx_fuse (ln : Nat) (f : Ctx → Ctx) : (s.mapCtx ln f).fuse = s.fuse := rfl
@[simp] theorem State.mapCtx_tier2 (ln : Nat) (f : Ctx → Ctx) : (s.mapCtx ln f).tier2 = s.tier2 := rfl
@[simp] theorem State.mapCtx_cycle (ln : Nat) (f : Ctx → Ctx) : (s.mapCtx ln f).cycle = s.cycle := rfl
@[simp] theorem State.mapCtx_nextLaunch (ln : Nat) (f : Ctx → Ctx) : (s.mapCtx ln f).nextLaunch = s.nextLaunch := rfl
@[simp] theorem State.mapCtx_seqs (ln : Nat) (f : Ctx → Ctx) : (s.mapCtx ln f).seqs = s.seqs := rfl
@[simp] theorem State.mapCtx_ctxs (ln : Nat) (f : Ctx → Ctx) :
    (s.mapCtx ln f).ctxs = s.ctxs.map fun c => if c.launch = ln then f c else c := rfl
@[simp] theorem State.mapCtx_regions (ln : Nat) (f : Ctx → Ctx) : (s.mapCtx ln f).regions = s.regions := rfl
@[simp] theorem State.mapCtx_ctiles (ln : Nat) (f : Ctx → Ctx) : (s.mapCtx ln f).ctiles = s.ctiles := rfl
@[simp] theorem State.mapCtx_mtiles (ln : Nat) (f : Ctx → Ctx) : (s.mapCtx ln f).mtiles = s.mtiles := rfl
@[simp] theorem State.mapCtx_main (ln : Nat) (f : Ctx → Ctx) : (s.mapCtx ln f).main = s.main := rfl
@[simp] theorem State.mapCtx_reds (ln : Nat) (f : Ctx → Ctx) : (s.mapCtx ln f).reds = s.reds := rfl
@[simp] theorem State.mapCtx_scatters (ln : Nat) (f : Ctx → Ctx) : (s.mapCtx ln f).scatters = s.scatters := rfl
@[simp] theorem State.mapCtx_flits (ln : Nat) (f : Ctx → Ctx) : (s.mapCtx ln f).flits = s.flits := rfl
@[simp] theorem State.mapCtx_next (ln : Nat) (f : Ctx → Ctx) : (s.mapCtx ln f).next = s.next := rfl
@[simp] theorem State.mapCtx_late (ln : Nat) (f : Ctx → Ctx) : (s.mapCtx ln f).late = s.late := rfl
@[simp] theorem State.mapCtx_failed (ln : Nat) (f : Ctx → Ctx) : (s.mapCtx ln f).failed = s.failed := rfl
@[simp] theorem State.mapCtx_ports (ln : Nat) (f : Ctx → Ctx) : (s.mapCtx ln f).ports = s.ports := rfl
@[simp] theorem State.mapCtx_hostIn (ln : Nat) (f : Ctx → Ctx) : (s.mapCtx ln f).hostIn = s.hostIn := rfl
@[simp] theorem State.mapCtx_hostOut (ln : Nat) (f : Ctx → Ctx) : (s.mapCtx ln f).hostOut = s.hostOut := rfl
@[simp] theorem State.mapCtx_lace (ln : Nat) (f : Ctx → Ctx) : (s.mapCtx ln f).lace = s.lace := rfl
@[simp] theorem State.mapCtx_pager (ln : Nat) (f : Ctx → Ctx) : (s.mapCtx ln f).pager = s.pager := rfl
@[simp] theorem State.mapCtx_issue (ln : Nat) (f : Ctx → Ctx) : (s.mapCtx ln f).issue = s.issue := rfl
@[simp] theorem State.mapCtx_agenda (ln : Nat) (f : Ctx → Ctx) : (s.mapCtx ln f).agenda = s.agenda := rfl
@[simp] theorem State.mapCtx_held (ln : Nat) (f : Ctx → Ctx) : (s.mapCtx ln f).held = s.held := rfl
@[simp] theorem State.mapCtx_images (ln : Nat) (f : Ctx → Ctx) : (s.mapCtx ln f).images = s.images := rfl
@[simp] theorem State.mapCtx_rid (ln : Nat) (f : Ctx → Ctx) : (s.mapCtx ln f).rid = s.rid := rfl
@[simp] theorem State.mapCtx_counter (ln : Nat) (f : Ctx → Ctx) : (s.mapCtx ln f).counter = s.counter := rfl
@[simp] theorem State.mapCtx_turn (ln : Nat) (f : Ctx → Ctx) : (s.mapCtx ln f).turn = s.turn := rfl
@[simp] theorem State.mapCtx_ctile (ln : Nat) (f : Ctx → Ctx) (u : TileId) : (s.mapCtx ln f).ctile u = s.ctile u := rfl
@[simp] theorem State.mapCtx_mtile (ln : Nat) (f : Ctx → Ctx) (u : TileId) : (s.mapCtx ln f).mtile u = s.mtile u := rfl
@[simp] theorem State.mapCtx_region (ln : Nat) (f : Ctx → Ctx) (k : Nat) : (s.mapCtx ln f).region k = s.region k := rfl
@[simp] theorem State.mapCtx_port (ln : Nat) (f : Ctx → Ctx) (k : Nat) : (s.mapCtx ln f).port k = s.port k := rfl
@[simp] theorem State.mapCtx_array (ln : Nat) (f : Ctx → Ctx) (k : Nat) : (s.mapCtx ln f).array k = s.array k := rfl
@[simp] theorem State.mapCtx_bctx (ln : Nat) (f : Ctx → Ctx) (k b : Nat) : (s.mapCtx ln f).bctx k b = s.bctx k b := rfl
@[simp] theorem State.mapCtx_block_opt (ln : Nat) (f : Ctx → Ctx) (k b : Nat) :
    (s.mapCtx ln f).block? k b = s.block? k b := rfl
@[simp] theorem State.mapCtx_hasFeature (ln : Nat) (f : Ctx → Ctx) (k : Nat) :
    (s.mapCtx ln f).hasFeature k = s.hasFeature k := rfl
@[simp] theorem State.mapCtx_inTier2 (ln : Nat) (f : Ctx → Ctx) (pa₂ n : Nat) :
    (s.mapCtx ln f).inTier2 pa₂ n = s.inTier2 pa₂ n := rfl
@[simp] theorem State.mapCtx_plane_opt (ln : Nat) (f : Ctx → Ctx) (i : Issuer) :
    (s.mapCtx ln f).plane? i = s.plane? i := rfl
@[simp] theorem State.mapCtx_widths (ln : Nat) (f : Ctx → Ctx) (o : Issued) :
    (s.mapCtx ln f).widths o = s.widths o := rfl
@[simp] theorem State.mapCtx_portOf (ln : Nat) (f : Ctx → Ctx) (k : Nat) : (s.mapCtx ln f).portOf k = s.portOf k := rfl
@[simp] theorem State.mapCtx_byteAt (ln : Nat) (f : Ctx → Ctx) (a₂ : Nat) :
    (s.mapCtx ln f).byteAt a₂ = s.byteAt a₂ := rfl

@[simp] theorem State.hold_boot (op : Issued) (why : Wait) : (s.hold op why).boot = s.boot := rfl
@[simp] theorem State.hold_flash (op : Issued) (why : Wait) : (s.hold op why).flash = s.flash := rfl
@[simp] theorem State.hold_node (op : Issued) (why : Wait) : (s.hold op why).node = s.node := rfl
@[simp] theorem State.hold_tables (op : Issued) (why : Wait) : (s.hold op why).tables = s.tables := rfl
@[simp] theorem State.hold_feat (op : Issued) (why : Wait) : (s.hold op why).feat = s.feat := rfl
@[simp] theorem State.hold_throtwin (op : Issued) (why : Wait) : (s.hold op why).throtwin = s.throtwin := rfl
@[simp] theorem State.hold_fuse (op : Issued) (why : Wait) : (s.hold op why).fuse = s.fuse := rfl
@[simp] theorem State.hold_tier2 (op : Issued) (why : Wait) : (s.hold op why).tier2 = s.tier2 := rfl
@[simp] theorem State.hold_cycle (op : Issued) (why : Wait) : (s.hold op why).cycle = s.cycle := rfl
@[simp] theorem State.hold_nextLaunch (op : Issued) (why : Wait) : (s.hold op why).nextLaunch = s.nextLaunch := rfl
@[simp] theorem State.hold_seqs (op : Issued) (why : Wait) : (s.hold op why).seqs = s.seqs := rfl
@[simp] theorem State.hold_ctxs (op : Issued) (why : Wait) : (s.hold op why).ctxs = s.ctxs := rfl
@[simp] theorem State.hold_regions (op : Issued) (why : Wait) : (s.hold op why).regions = s.regions := rfl
@[simp] theorem State.hold_ctiles (op : Issued) (why : Wait) : (s.hold op why).ctiles = s.ctiles := rfl
@[simp] theorem State.hold_mtiles (op : Issued) (why : Wait) : (s.hold op why).mtiles = s.mtiles := rfl
@[simp] theorem State.hold_main (op : Issued) (why : Wait) : (s.hold op why).main = s.main := rfl
@[simp] theorem State.hold_reds (op : Issued) (why : Wait) : (s.hold op why).reds = s.reds := rfl
@[simp] theorem State.hold_scatters (op : Issued) (why : Wait) : (s.hold op why).scatters = s.scatters := rfl
@[simp] theorem State.hold_flits (op : Issued) (why : Wait) : (s.hold op why).flits = s.flits := rfl
@[simp] theorem State.hold_next (op : Issued) (why : Wait) : (s.hold op why).next = s.next := rfl
@[simp] theorem State.hold_late (op : Issued) (why : Wait) : (s.hold op why).late = s.late := rfl
@[simp] theorem State.hold_failed (op : Issued) (why : Wait) : (s.hold op why).failed = s.failed := rfl
@[simp] theorem State.hold_ports (op : Issued) (why : Wait) : (s.hold op why).ports = s.ports := rfl
@[simp] theorem State.hold_hostIn (op : Issued) (why : Wait) : (s.hold op why).hostIn = s.hostIn := rfl
@[simp] theorem State.hold_hostOut (op : Issued) (why : Wait) : (s.hold op why).hostOut = s.hostOut := rfl
@[simp] theorem State.hold_lace (op : Issued) (why : Wait) : (s.hold op why).lace = s.lace := rfl
@[simp] theorem State.hold_pager (op : Issued) (why : Wait) : (s.hold op why).pager = s.pager := rfl
@[simp] theorem State.hold_issue (op : Issued) (why : Wait) : (s.hold op why).issue = s.issue := rfl
@[simp] theorem State.hold_agenda (op : Issued) (why : Wait) : (s.hold op why).agenda = s.agenda := rfl
@[simp] theorem State.hold_held (op : Issued) (why : Wait) : (s.hold op why).held = s.held ++ [⟨op, why⟩] := rfl
@[simp] theorem State.hold_images (op : Issued) (why : Wait) : (s.hold op why).images = s.images := rfl
@[simp] theorem State.hold_rid (op : Issued) (why : Wait) : (s.hold op why).rid = s.rid := rfl
@[simp] theorem State.hold_counter (op : Issued) (why : Wait) : (s.hold op why).counter = s.counter := rfl
@[simp] theorem State.hold_turn (op : Issued) (why : Wait) : (s.hold op why).turn = s.turn := rfl
@[simp] theorem State.hold_ctile (op : Issued) (why : Wait) (u : TileId) : (s.hold op why).ctile u = s.ctile u := rfl
@[simp] theorem State.hold_mtile (op : Issued) (why : Wait) (u : TileId) : (s.hold op why).mtile u = s.mtile u := rfl
@[simp] theorem State.hold_region (op : Issued) (why : Wait) (k : Nat) : (s.hold op why).region k = s.region k := rfl
@[simp] theorem State.hold_port (op : Issued) (why : Wait) (k : Nat) : (s.hold op why).port k = s.port k := rfl
@[simp] theorem State.hold_array (op : Issued) (why : Wait) (k : Nat) : (s.hold op why).array k = s.array k := rfl
@[simp] theorem State.hold_ctx_opt (op : Issued) (why : Wait) (k : Nat) : (s.hold op why).ctx? k = s.ctx? k := rfl
@[simp] theorem State.hold_launched_opt (op : Issued) (why : Wait) (k : Nat) :
    (s.hold op why).launched? k = s.launched? k := rfl
@[simp] theorem State.hold_bctx (op : Issued) (why : Wait) (k b : Nat) : (s.hold op why).bctx k b = s.bctx k b := rfl
@[simp] theorem State.hold_block_opt (op : Issued) (why : Wait) (k b : Nat) :
    (s.hold op why).block? k b = s.block? k b := rfl
@[simp] theorem State.hold_isSystem (op : Issued) (why : Wait) (k : Nat) :
    (s.hold op why).isSystem k = s.isSystem k := rfl
@[simp] theorem State.hold_hasFeature (op : Issued) (why : Wait) (k : Nat) :
    (s.hold op why).hasFeature k = s.hasFeature k := rfl
@[simp] theorem State.hold_inTier2 (op : Issued) (why : Wait) (pa₂ n : Nat) :
    (s.hold op why).inTier2 pa₂ n = s.inTier2 pa₂ n := rfl
@[simp] theorem State.hold_plane_opt (op : Issued) (why : Wait) (i : Issuer) :
    (s.hold op why).plane? i = s.plane? i := rfl
@[simp] theorem State.hold_widths (op : Issued) (why : Wait) (o : Issued) : (s.hold op why).widths o = s.widths o := rfl
@[simp] theorem State.hold_portOf (op : Issued) (why : Wait) (k : Nat) : (s.hold op why).portOf k = s.portOf k := rfl
@[simp] theorem State.hold_byteAt (op : Issued) (why : Wait) (a₂ : Nat) : (s.hold op why).byteAt a₂ = s.byteAt a₂ := rfl

@[simp] theorem State.writeMain_boot (pa : Nat) (bs : List Byte) : (s.writeMain pa bs).boot = s.boot := rfl
@[simp] theorem State.writeMain_flash (pa : Nat) (bs : List Byte) : (s.writeMain pa bs).flash = s.flash := rfl
@[simp] theorem State.writeMain_node (pa : Nat) (bs : List Byte) : (s.writeMain pa bs).node = s.node := rfl
@[simp] theorem State.writeMain_tables (pa : Nat) (bs : List Byte) : (s.writeMain pa bs).tables = s.tables := rfl
@[simp] theorem State.writeMain_feat (pa : Nat) (bs : List Byte) : (s.writeMain pa bs).feat = s.feat := rfl
@[simp] theorem State.writeMain_throtwin (pa : Nat) (bs : List Byte) : (s.writeMain pa bs).throtwin = s.throtwin := rfl
@[simp] theorem State.writeMain_fuse (pa : Nat) (bs : List Byte) : (s.writeMain pa bs).fuse = s.fuse := rfl
@[simp] theorem State.writeMain_tier2 (pa : Nat) (bs : List Byte) : (s.writeMain pa bs).tier2 = s.tier2 := rfl
@[simp] theorem State.writeMain_cycle (pa : Nat) (bs : List Byte) : (s.writeMain pa bs).cycle = s.cycle := rfl
@[simp] theorem State.writeMain_nextLaunch (pa : Nat) (bs : List Byte) :
    (s.writeMain pa bs).nextLaunch = s.nextLaunch := rfl
@[simp] theorem State.writeMain_seqs (pa : Nat) (bs : List Byte) : (s.writeMain pa bs).seqs = s.seqs := rfl
@[simp] theorem State.writeMain_ctxs (pa : Nat) (bs : List Byte) : (s.writeMain pa bs).ctxs = s.ctxs := rfl
@[simp] theorem State.writeMain_regions (pa : Nat) (bs : List Byte) : (s.writeMain pa bs).regions = s.regions := rfl
@[simp] theorem State.writeMain_ctiles (pa : Nat) (bs : List Byte) : (s.writeMain pa bs).ctiles = s.ctiles := rfl
@[simp] theorem State.writeMain_mtiles (pa : Nat) (bs : List Byte) : (s.writeMain pa bs).mtiles = s.mtiles := rfl
@[simp] theorem State.writeMain_reds (pa : Nat) (bs : List Byte) : (s.writeMain pa bs).reds = s.reds := rfl
@[simp] theorem State.writeMain_scatters (pa : Nat) (bs : List Byte) : (s.writeMain pa bs).scatters = s.scatters := rfl
@[simp] theorem State.writeMain_flits (pa : Nat) (bs : List Byte) : (s.writeMain pa bs).flits = s.flits := rfl
@[simp] theorem State.writeMain_next (pa : Nat) (bs : List Byte) : (s.writeMain pa bs).next = s.next := rfl
@[simp] theorem State.writeMain_late (pa : Nat) (bs : List Byte) : (s.writeMain pa bs).late = s.late := rfl
@[simp] theorem State.writeMain_failed (pa : Nat) (bs : List Byte) : (s.writeMain pa bs).failed = s.failed := rfl
@[simp] theorem State.writeMain_ports (pa : Nat) (bs : List Byte) : (s.writeMain pa bs).ports = s.ports := rfl
@[simp] theorem State.writeMain_hostIn (pa : Nat) (bs : List Byte) : (s.writeMain pa bs).hostIn = s.hostIn := rfl
@[simp] theorem State.writeMain_hostOut (pa : Nat) (bs : List Byte) : (s.writeMain pa bs).hostOut = s.hostOut := rfl
@[simp] theorem State.writeMain_lace (pa : Nat) (bs : List Byte) : (s.writeMain pa bs).lace = s.lace := rfl
@[simp] theorem State.writeMain_pager (pa : Nat) (bs : List Byte) : (s.writeMain pa bs).pager = s.pager := rfl
@[simp] theorem State.writeMain_issue (pa : Nat) (bs : List Byte) : (s.writeMain pa bs).issue = s.issue := rfl
@[simp] theorem State.writeMain_agenda (pa : Nat) (bs : List Byte) : (s.writeMain pa bs).agenda = s.agenda := rfl
@[simp] theorem State.writeMain_held (pa : Nat) (bs : List Byte) : (s.writeMain pa bs).held = s.held := rfl
@[simp] theorem State.writeMain_images (pa : Nat) (bs : List Byte) : (s.writeMain pa bs).images = s.images := rfl
@[simp] theorem State.writeMain_rid (pa : Nat) (bs : List Byte) : (s.writeMain pa bs).rid = s.rid := rfl
@[simp] theorem State.writeMain_counter (pa : Nat) (bs : List Byte) : (s.writeMain pa bs).counter = s.counter := rfl
@[simp] theorem State.writeMain_turn (pa : Nat) (bs : List Byte) : (s.writeMain pa bs).turn = s.turn := rfl
@[simp] theorem State.writeMain_ctile (pa : Nat) (bs : List Byte) (u : TileId) :
    (s.writeMain pa bs).ctile u = s.ctile u := rfl
@[simp] theorem State.writeMain_mtile (pa : Nat) (bs : List Byte) (u : TileId) :
    (s.writeMain pa bs).mtile u = s.mtile u := rfl
@[simp] theorem State.writeMain_region (pa : Nat) (bs : List Byte) (k : Nat) :
    (s.writeMain pa bs).region k = s.region k := rfl
@[simp] theorem State.writeMain_port (pa : Nat) (bs : List Byte) (k : Nat) :
    (s.writeMain pa bs).port k = s.port k := rfl
@[simp] theorem State.writeMain_array (pa : Nat) (bs : List Byte) (k : Nat) :
    (s.writeMain pa bs).array k = s.array k := rfl
@[simp] theorem State.writeMain_ctx_opt (pa : Nat) (bs : List Byte) (k : Nat) :
    (s.writeMain pa bs).ctx? k = s.ctx? k := rfl
@[simp] theorem State.writeMain_launched_opt (pa : Nat) (bs : List Byte) (k : Nat) :
    (s.writeMain pa bs).launched? k = s.launched? k := rfl
@[simp] theorem State.writeMain_bctx (pa : Nat) (bs : List Byte) (k b : Nat) :
    (s.writeMain pa bs).bctx k b = s.bctx k b := rfl
@[simp] theorem State.writeMain_block_opt (pa : Nat) (bs : List Byte) (k b : Nat) :
    (s.writeMain pa bs).block? k b = s.block? k b := rfl
@[simp] theorem State.writeMain_isSystem (pa : Nat) (bs : List Byte) (k : Nat) :
    (s.writeMain pa bs).isSystem k = s.isSystem k := rfl
@[simp] theorem State.writeMain_hasFeature (pa : Nat) (bs : List Byte) (k : Nat) :
    (s.writeMain pa bs).hasFeature k = s.hasFeature k := rfl
@[simp] theorem State.writeMain_inTier2 (pa : Nat) (bs : List Byte) (pa₂ n : Nat) :
    (s.writeMain pa bs).inTier2 pa₂ n = s.inTier2 pa₂ n := rfl
@[simp] theorem State.writeMain_plane_opt (pa : Nat) (bs : List Byte) (i : Issuer) :
    (s.writeMain pa bs).plane? i = s.plane? i := rfl
@[simp] theorem State.writeMain_widths (pa : Nat) (bs : List Byte) (o : Issued) :
    (s.writeMain pa bs).widths o = s.widths o := rfl
@[simp] theorem State.writeMain_portOf (pa : Nat) (bs : List Byte) (k : Nat) :
    (s.writeMain pa bs).portOf k = s.portOf k := rfl

@[simp] theorem State.writeMain_cells (pa : Nat) (bs : List Byte) :
    (s.writeMain pa bs).main.cells = cellsPut s.main.cells pa bs := rfl
@[simp] theorem State.writeMain_wstate (pa : Nat) (bs : List Byte) :
    (s.writeMain pa bs).main.wstate = s.main.wstate := rfl
@[simp] theorem State.writeMain_readers (pa : Nat) (bs : List Byte) :
    (s.writeMain pa bs).main.readers = s.main.readers := rfl
@[simp] theorem State.writeMain_heads (pa : Nat) (bs : List Byte) :
    (s.writeMain pa bs).main.heads = clearHeads s.main.heads pa bs.length := rfl

/-- A compute tile after a write of one. -/
theorem State.ctile_setCtile (t u : TileId) (c : CTile) : (s.setCtile t c).ctile u = if u = t then c else s.ctile u :=
  lookD_put ..
/-- A memory tile after a write of one. -/
theorem State.mtile_setMtile (t u : TileId) (m : MTile) : (s.setMtile t m).mtile u = if u = t then m else s.mtile u :=
  lookD_put ..
/-- A region after a write of one. -/
theorem State.region_setRegion (r k : Nat) (g : Region) : (s.setRegion r g).region k = if k = r then g else s.region k :=
  lookD_put ..
/-- A port after a write of one. -/
theorem State.port_setPort (p k : Nat) (q : Port) : (s.setPort p q).port k = if k = p then q else s.port k :=
  lookD_put ..
/-- A Lace array after a write of one. -/
theorem State.array_setArray (a k : Nat) (l : LaceArray) : (s.setArray a l).array k = if k = a then l else s.array k :=
  lookD_put ..

@[simp] theorem State.ctile_setCtile_same (t : TileId) (c : CTile) : (s.setCtile t c).ctile t = c := lookD_put_same ..
@[simp] theorem State.mtile_setMtile_same (t : TileId) (m : MTile) : (s.setMtile t m).mtile t = m := lookD_put_same ..
@[simp] theorem State.region_setRegion_same (r : Nat) (g : Region) : (s.setRegion r g).region r = g := lookD_put_same ..
@[simp] theorem State.port_setPort_same (p : Nat) (q : Port) : (s.setPort p q).port p = q := lookD_put_same ..
@[simp] theorem State.array_setArray_same (a : Nat) (l : LaceArray) : (s.setArray a l).array a = l := lookD_put_same ..

@[simp] theorem State.takeSeq_boot (src : Nat) : (s.takeSeq src).2.boot = s.boot := rfl
@[simp] theorem State.takeSeq_flash (src : Nat) : (s.takeSeq src).2.flash = s.flash := rfl
@[simp] theorem State.takeSeq_node (src : Nat) : (s.takeSeq src).2.node = s.node := rfl
@[simp] theorem State.takeSeq_tables (src : Nat) : (s.takeSeq src).2.tables = s.tables := rfl
@[simp] theorem State.takeSeq_feat (src : Nat) : (s.takeSeq src).2.feat = s.feat := rfl
@[simp] theorem State.takeSeq_throtwin (src : Nat) : (s.takeSeq src).2.throtwin = s.throtwin := rfl
@[simp] theorem State.takeSeq_fuse (src : Nat) : (s.takeSeq src).2.fuse = s.fuse := rfl
@[simp] theorem State.takeSeq_tier2 (src : Nat) : (s.takeSeq src).2.tier2 = s.tier2 := rfl
@[simp] theorem State.takeSeq_cycle (src : Nat) : (s.takeSeq src).2.cycle = s.cycle := rfl
@[simp] theorem State.takeSeq_nextLaunch (src : Nat) : (s.takeSeq src).2.nextLaunch = s.nextLaunch := rfl
@[simp] theorem State.takeSeq_seqs (src : Nat) :
    (s.takeSeq src).2.seqs = put src ((lookD 0 src s.seqs + 1) % 2 ^ 32) s.seqs := rfl
@[simp] theorem State.takeSeq_ctxs (src : Nat) : (s.takeSeq src).2.ctxs = s.ctxs := rfl
@[simp] theorem State.takeSeq_regions (src : Nat) : (s.takeSeq src).2.regions = s.regions := rfl
@[simp] theorem State.takeSeq_ctiles (src : Nat) : (s.takeSeq src).2.ctiles = s.ctiles := rfl
@[simp] theorem State.takeSeq_mtiles (src : Nat) : (s.takeSeq src).2.mtiles = s.mtiles := rfl
@[simp] theorem State.takeSeq_main (src : Nat) : (s.takeSeq src).2.main = s.main := rfl
@[simp] theorem State.takeSeq_reds (src : Nat) : (s.takeSeq src).2.reds = s.reds := rfl
@[simp] theorem State.takeSeq_scatters (src : Nat) : (s.takeSeq src).2.scatters = s.scatters := rfl
@[simp] theorem State.takeSeq_flits (src : Nat) : (s.takeSeq src).2.flits = s.flits := rfl
@[simp] theorem State.takeSeq_next (src : Nat) : (s.takeSeq src).2.next = s.next := rfl
@[simp] theorem State.takeSeq_late (src : Nat) : (s.takeSeq src).2.late = s.late := rfl
@[simp] theorem State.takeSeq_failed (src : Nat) : (s.takeSeq src).2.failed = s.failed := rfl
@[simp] theorem State.takeSeq_ports (src : Nat) : (s.takeSeq src).2.ports = s.ports := rfl
@[simp] theorem State.takeSeq_hostIn (src : Nat) : (s.takeSeq src).2.hostIn = s.hostIn := rfl
@[simp] theorem State.takeSeq_hostOut (src : Nat) : (s.takeSeq src).2.hostOut = s.hostOut := rfl
@[simp] theorem State.takeSeq_lace (src : Nat) : (s.takeSeq src).2.lace = s.lace := rfl
@[simp] theorem State.takeSeq_pager (src : Nat) : (s.takeSeq src).2.pager = s.pager := rfl
@[simp] theorem State.takeSeq_issue (src : Nat) : (s.takeSeq src).2.issue = s.issue := rfl
@[simp] theorem State.takeSeq_agenda (src : Nat) : (s.takeSeq src).2.agenda = s.agenda := rfl
@[simp] theorem State.takeSeq_held (src : Nat) : (s.takeSeq src).2.held = s.held := rfl
@[simp] theorem State.takeSeq_images (src : Nat) : (s.takeSeq src).2.images = s.images := rfl
@[simp] theorem State.takeSeq_rid (src : Nat) : (s.takeSeq src).2.rid = s.rid := rfl
@[simp] theorem State.takeSeq_counter (src : Nat) : (s.takeSeq src).2.counter = s.counter := rfl
@[simp] theorem State.takeSeq_turn (src : Nat) : (s.takeSeq src).2.turn = s.turn := rfl
@[simp] theorem State.takeSeq_ctile (src : Nat) (u : TileId) : (s.takeSeq src).2.ctile u = s.ctile u := rfl
@[simp] theorem State.takeSeq_mtile (src : Nat) (u : TileId) : (s.takeSeq src).2.mtile u = s.mtile u := rfl
@[simp] theorem State.takeSeq_region (src : Nat) (k : Nat) : (s.takeSeq src).2.region k = s.region k := rfl
@[simp] theorem State.takeSeq_port (src : Nat) (k : Nat) : (s.takeSeq src).2.port k = s.port k := rfl
@[simp] theorem State.takeSeq_array (src : Nat) (k : Nat) : (s.takeSeq src).2.array k = s.array k := rfl
@[simp] theorem State.takeSeq_ctx_opt (src : Nat) (k : Nat) : (s.takeSeq src).2.ctx? k = s.ctx? k := rfl
@[simp] theorem State.takeSeq_launched_opt (src : Nat) (k : Nat) : (s.takeSeq src).2.launched? k = s.launched? k := rfl
@[simp] theorem State.takeSeq_bctx (src : Nat) (k b : Nat) : (s.takeSeq src).2.bctx k b = s.bctx k b := rfl
@[simp] theorem State.takeSeq_block_opt (src : Nat) (k b : Nat) : (s.takeSeq src).2.block? k b = s.block? k b := rfl
@[simp] theorem State.takeSeq_isSystem (src : Nat) (k : Nat) : (s.takeSeq src).2.isSystem k = s.isSystem k := rfl
@[simp] theorem State.takeSeq_hasFeature (src : Nat) (k : Nat) : (s.takeSeq src).2.hasFeature k = s.hasFeature k := rfl
@[simp] theorem State.takeSeq_inTier2 (src : Nat) (pa₂ n : Nat) :
    (s.takeSeq src).2.inTier2 pa₂ n = s.inTier2 pa₂ n := rfl
@[simp] theorem State.takeSeq_plane_opt (src : Nat) (i : Issuer) : (s.takeSeq src).2.plane? i = s.plane? i := rfl
@[simp] theorem State.takeSeq_widths (src : Nat) (o : Issued) : (s.takeSeq src).2.widths o = s.widths o := rfl
@[simp] theorem State.takeSeq_portOf (src : Nat) (k : Nat) : (s.takeSeq src).2.portOf k = s.portOf k := rfl
@[simp] theorem State.takeSeq_byteAt (src : Nat) (a₂ : Nat) : (s.takeSeq src).2.byteAt a₂ = s.byteAt a₂ := rfl
@[simp] theorem State.takeSeq_fst (src : Nat) : (s.takeSeq src).1 = lookD 0 src s.seqs := rfl

/-- A block context after a write of one. -/
theorem State.bctx_setBctx (r bc k b : Nat) (x : BlockCtx) (h : bc < (s.region r).bcs.length) :
    (s.setBctx r bc x).bctx k b = if k = r ∧ b = bc then x else s.bctx k b := by
  unfold State.bctx State.setBctx
  simp only [State.region_setRegion]
  by_cases hk : k = r
  · subst hk; simp [nth_setNth, h]
  · simp [hk]

@[simp] theorem State.setBctx_boot (r bc : Nat) (b : BlockCtx) : (s.setBctx r bc b).boot = s.boot := rfl
@[simp] theorem State.setBctx_flash (r bc : Nat) (b : BlockCtx) : (s.setBctx r bc b).flash = s.flash := rfl
@[simp] theorem State.setBctx_node (r bc : Nat) (b : BlockCtx) : (s.setBctx r bc b).node = s.node := rfl
@[simp] theorem State.setBctx_tables (r bc : Nat) (b : BlockCtx) : (s.setBctx r bc b).tables = s.tables := rfl
@[simp] theorem State.setBctx_feat (r bc : Nat) (b : BlockCtx) : (s.setBctx r bc b).feat = s.feat := rfl
@[simp] theorem State.setBctx_throtwin (r bc : Nat) (b : BlockCtx) : (s.setBctx r bc b).throtwin = s.throtwin := rfl
@[simp] theorem State.setBctx_fuse (r bc : Nat) (b : BlockCtx) : (s.setBctx r bc b).fuse = s.fuse := rfl
@[simp] theorem State.setBctx_tier2 (r bc : Nat) (b : BlockCtx) : (s.setBctx r bc b).tier2 = s.tier2 := rfl
@[simp] theorem State.setBctx_cycle (r bc : Nat) (b : BlockCtx) : (s.setBctx r bc b).cycle = s.cycle := rfl
@[simp] theorem State.setBctx_nextLaunch (r bc : Nat) (b : BlockCtx) :
    (s.setBctx r bc b).nextLaunch = s.nextLaunch := rfl
@[simp] theorem State.setBctx_seqs (r bc : Nat) (b : BlockCtx) : (s.setBctx r bc b).seqs = s.seqs := rfl
@[simp] theorem State.setBctx_ctxs (r bc : Nat) (b : BlockCtx) : (s.setBctx r bc b).ctxs = s.ctxs := rfl
@[simp] theorem State.setBctx_ctiles (r bc : Nat) (b : BlockCtx) : (s.setBctx r bc b).ctiles = s.ctiles := rfl
@[simp] theorem State.setBctx_mtiles (r bc : Nat) (b : BlockCtx) : (s.setBctx r bc b).mtiles = s.mtiles := rfl
@[simp] theorem State.setBctx_main (r bc : Nat) (b : BlockCtx) : (s.setBctx r bc b).main = s.main := rfl
@[simp] theorem State.setBctx_reds (r bc : Nat) (b : BlockCtx) : (s.setBctx r bc b).reds = s.reds := rfl
@[simp] theorem State.setBctx_scatters (r bc : Nat) (b : BlockCtx) : (s.setBctx r bc b).scatters = s.scatters := rfl
@[simp] theorem State.setBctx_flits (r bc : Nat) (b : BlockCtx) : (s.setBctx r bc b).flits = s.flits := rfl
@[simp] theorem State.setBctx_next (r bc : Nat) (b : BlockCtx) : (s.setBctx r bc b).next = s.next := rfl
@[simp] theorem State.setBctx_late (r bc : Nat) (b : BlockCtx) : (s.setBctx r bc b).late = s.late := rfl
@[simp] theorem State.setBctx_failed (r bc : Nat) (b : BlockCtx) : (s.setBctx r bc b).failed = s.failed := rfl
@[simp] theorem State.setBctx_ports (r bc : Nat) (b : BlockCtx) : (s.setBctx r bc b).ports = s.ports := rfl
@[simp] theorem State.setBctx_hostIn (r bc : Nat) (b : BlockCtx) : (s.setBctx r bc b).hostIn = s.hostIn := rfl
@[simp] theorem State.setBctx_hostOut (r bc : Nat) (b : BlockCtx) : (s.setBctx r bc b).hostOut = s.hostOut := rfl
@[simp] theorem State.setBctx_lace (r bc : Nat) (b : BlockCtx) : (s.setBctx r bc b).lace = s.lace := rfl
@[simp] theorem State.setBctx_pager (r bc : Nat) (b : BlockCtx) : (s.setBctx r bc b).pager = s.pager := rfl
@[simp] theorem State.setBctx_issue (r bc : Nat) (b : BlockCtx) : (s.setBctx r bc b).issue = s.issue := rfl
@[simp] theorem State.setBctx_agenda (r bc : Nat) (b : BlockCtx) : (s.setBctx r bc b).agenda = s.agenda := rfl
@[simp] theorem State.setBctx_held (r bc : Nat) (b : BlockCtx) : (s.setBctx r bc b).held = s.held := rfl
@[simp] theorem State.setBctx_images (r bc : Nat) (b : BlockCtx) : (s.setBctx r bc b).images = s.images := rfl
@[simp] theorem State.setBctx_rid (r bc : Nat) (b : BlockCtx) : (s.setBctx r bc b).rid = s.rid := rfl
@[simp] theorem State.setBctx_counter (r bc : Nat) (b : BlockCtx) : (s.setBctx r bc b).counter = s.counter := rfl
@[simp] theorem State.setBctx_turn (r bc : Nat) (b : BlockCtx) : (s.setBctx r bc b).turn = s.turn := rfl
@[simp] theorem State.setBctx_ctile (r bc : Nat) (x : BlockCtx) (u : TileId) :
    (s.setBctx r bc x).ctile u = s.ctile u := rfl
@[simp] theorem State.setBctx_mtile (r bc : Nat) (x : BlockCtx) (u : TileId) :
    (s.setBctx r bc x).mtile u = s.mtile u := rfl
@[simp] theorem State.setBctx_port (r bc : Nat) (x : BlockCtx) (k : Nat) : (s.setBctx r bc x).port k = s.port k := rfl
@[simp] theorem State.setBctx_array (r bc : Nat) (x : BlockCtx) (k : Nat) :
    (s.setBctx r bc x).array k = s.array k := rfl
@[simp] theorem State.setBctx_ctx_opt (r bc : Nat) (x : BlockCtx) (k : Nat) :
    (s.setBctx r bc x).ctx? k = s.ctx? k := rfl
@[simp] theorem State.setBctx_launched_opt (r bc : Nat) (x : BlockCtx) (k : Nat) :
    (s.setBctx r bc x).launched? k = s.launched? k := rfl
@[simp] theorem State.setBctx_isSystem (r bc : Nat) (x : BlockCtx) (k : Nat) :
    (s.setBctx r bc x).isSystem k = s.isSystem k := rfl
@[simp] theorem State.setBctx_hasFeature (r bc : Nat) (x : BlockCtx) (k : Nat) :
    (s.setBctx r bc x).hasFeature k = s.hasFeature k := rfl
@[simp] theorem State.setBctx_inTier2 (r bc : Nat) (x : BlockCtx) (pa₂ n : Nat) :
    (s.setBctx r bc x).inTier2 pa₂ n = s.inTier2 pa₂ n := rfl
@[simp] theorem State.setBctx_plane_opt (r bc : Nat) (x : BlockCtx) (i : Issuer) :
    (s.setBctx r bc x).plane? i = s.plane? i := rfl
@[simp] theorem State.setBctx_widths (r bc : Nat) (x : BlockCtx) (o : Issued) :
    (s.setBctx r bc x).widths o = s.widths o := rfl
@[simp] theorem State.setBctx_portOf (r bc : Nat) (x : BlockCtx) (k : Nat) :
    (s.setBctx r bc x).portOf k = s.portOf k := rfl
@[simp] theorem State.setBctx_byteAt (r bc : Nat) (x : BlockCtx) (a₂ : Nat) :
    (s.setBctx r bc x).byteAt a₂ = s.byteAt a₂ := rfl

end Sys2Proof.Machine
end

