-- ==== Sys2Proof/Laws/Bytes.lean ====
section
/-!
SUPPORT. The bytes of the machine as one view, and the canonical form over that view: what the updates of the state
leave of both.
-/

namespace Sys2Proof.Machine

/-- The canonical form over the view of all bytes. -/
def MemWf (x : List Host.Cell × (TileId → List Host.Cell)) : Prop := cellsWf x.1 = true ∧ ∀ t, cellsWf (x.2 t) = true

/-- The invariant of memory is the canonical form of the view of all bytes. -/
theorem memoryInv_iff (s : State) : MemoryInv s ↔ MemWf (memOf s) := Iff.rfl

variable (s : State)

@[simp] theorem memOf_setCtile (t : TileId) (c : CTile) : memOf (s.setCtile t c) = memOf s := rfl
@[simp] theorem memOf_setRegion (r : Nat) (g : Region) : memOf (s.setRegion r g) = memOf s := rfl
@[simp] theorem memOf_setPort (p : Nat) (q : Port) : memOf (s.setPort p q) = memOf s := rfl
@[simp] theorem memOf_setArray (a : Nat) (l : LaceArray) : memOf (s.setArray a l) = memOf s := rfl
@[simp] theorem memOf_mapCtx (ln : Nat) (f : Ctx → Ctx) : memOf (s.mapCtx ln f) = memOf s := rfl
@[simp] theorem memOf_hold (op : Issued) (why : Wait) : memOf (s.hold op why) = memOf s := rfl
@[simp] theorem memOf_takeSeq (src : Nat) : memOf (s.takeSeq src).2 = memOf s := rfl
@[simp] theorem memOf_setBctx (r bc : Nat) (b : BlockCtx) : memOf (s.setBctx r bc b) = memOf s := rfl

/-- A memory tile whose bytes are the old ones leaves every byte alone. -/
@[simp] theorem memOf_setMtile (t : TileId) (m : MTile) (h : m.banks = (s.mtile t).banks) :
    memOf (s.setMtile t m) = memOf s := by
  unfold memOf
  simp only [State.setMtile_main, Prod.mk.injEq, true_and]
  funext u
  rw [State.mtile_setMtile]
  split
  · subst u; exact h
  · rfl

/-- A memory tile with canonical bytes. -/
@[simp] theorem memWf_setMtile (t : TileId) (m : MTile) (hb : cellsWf m.banks = true) (h : MemWf (memOf s)) :
    MemWf (memOf (s.setMtile t m)) := by
  refine ⟨h.1, fun u => ?_⟩
  show cellsWf ((s.setMtile t m).mtile u).banks = true
  rw [State.mtile_setMtile]
  split
  · exact hb
  · exact h.2 u

/-- The bytes of a tile of a canonical machine are canonical. -/
theorem memWf_banks (t : TileId) (h : MemWf (memOf s)) : cellsWf (s.mtile t).banks = true := h.2 t

@[simp] theorem memWf_writeMain (pa : Nat) (bs : List Byte) (h : MemWf (memOf s)) : MemWf (memOf (s.writeMain pa bs)) :=
  ⟨cellsWf_cellsPut _ _ _ h.1, h.2⟩

@[simp] theorem memWf_writeList (l : List (Nat × List Byte)) (h : MemWf (memOf s)) : MemWf (memOf (s.writeList l)) := by
  induction l generalizing s with
  | nil => exact h
  | cons x l ih => exact ih _ (memWf_writeMain _ _ _ h)

@[simp] theorem memWf_writePieces (ps : List (Nat × Nat)) (bs : List Byte) (h : MemWf (memOf s)) :
    MemWf (memOf (s.writePieces ps bs)) := by
  induction ps generalizing s bs with
  | nil => exact h
  | cons x l ih => exact ih _ _ (memWf_writeMain _ _ _ h)

/-- Memory tiles changed one by one without their bytes. -/
theorem banks_map (f : TileId × MTile → MTile) (hf : ∀ x, (f x).banks = x.2.banks) (l : List (TileId × MTile))
    (t : TileId) : (lookD MTile.reset t (l.map fun x => (x.1, f x))).banks = (lookD MTile.reset t l).banks := by
  induction l with
  | nil => rfl
  | cons x l ih =>
    by_cases h : x.1 = t
    · simp [lookD, look, h, hf]
    · simpa [lookD, look, h] using ih

/-- A fold whose steps leave every byte alone does so too. -/
theorem memOf_foldl {α : Type} (f : State → α → State) (hf : ∀ s x, memOf (f s x) = memOf s) (l : List α) :
    memOf (l.foldl f s) = memOf s := foldl_view memOf f hf l s

/-- A fold whose steps keep the canonical form keeps it. -/
theorem memWf_foldl {α : Type} (f : State → α → State) (hf : ∀ s x, MemWf (memOf s) → MemWf (memOf (f s x)))
    (l : List α) (h : MemWf (memOf s)) : MemWf (memOf (l.foldl f s)) :=
  foldl_keeps (fun s => MemWf (memOf s)) f l s h hf

end Sys2Proof.Machine
end

