-- ==== Sys2Proof/Laws/Moves.lean ====
section
/-!
SUPPORT. What a fold of single bytes does to the canonical form, and with it the banks that a restore fills again, those
that a configuration gates, and the memory in which the pager moves a page.
-/

namespace Sys2Proof.Machine

/-- Bytes written one by one, each where a function puts it, keep the canonical form. -/
theorem cellsWf_foldl_cellPut (l : List Host.Cell) (f : Nat → Nat) (m : List Host.Cell) (h : cellsWf m = true) :
    cellsWf (l.foldl (fun b c => cellPut b (f c.1) c.2) m) = true := by
  induction l generalizing m with
  | nil => exact h
  | cons c l ih => exact ih _ (cellsWf_cellPut m (f c.1) c.2 h)

/-- The banks that a restore fills again are in the canonical form, whatever the image held. -/
@[simp] theorem cellsWf_refilled (l : List Host.Cell) : cellsWf (refilled l) = true :=
  cellsWf_foldl_cellPut l id [] rfl

/-- Moving a page keeps the canonical form. -/
theorem cellsWf_movePage (m : Main) (old new size : Nat) (h : cellsWf m.cells = true) :
    cellsWf (m.movePage old new size).cells = true :=
  cellsWf_foldl_cellPut _ (fun a => if outside old size a then a else a - old + new) _
    (cellsWf_cellsZero _ _ _ (cellsWf_cellsZero _ _ _ h))

/-- A configuration keeps the canonical form of a tile's banks, the ones that it gates included. -/
theorem cellsWf_gateBanks (m : MTile) (p : MPlane) (h : cellsWf m.banks = true) :
    cellsWf (m.gateBanks p).banks = true := cellsWf_filter _ _ h

end Sys2Proof.Machine
end

