-- ==== Sys2Proof/Laws/Operands.lean ====
section
/-!
SUPPORT. What the shared operand forms do, once: packing elements into a lane, a result laid out over lanes, and an
operation applied to every lane that takes part.
-/

namespace Sys2Proof.Machine

theorem bits_lt (v lo len : Nat) : bits v lo len < 2 ^ len := Nat.mod_lt _ (Nat.two_pow_pos len)

/-- Element `j` of a packed lane is the `j`-th element, cut to the width; zero above the last. -/
theorem bits_packLane (f : Fmt) (es : List Nat) (j : Nat) :
    bits (packLane f es) (f.width * j) f.width = (es.getD j 0) % 2 ^ f.width := by
  induction es generalizing j with
  | nil => simp [packLane, bits]
  | cons e es ih =>
    have hp : 0 < 2 ^ f.width := Nat.two_pow_pos _
    cases j with
    | zero => simp [packLane, bits]
    | succ j =>
      have h : (e % 2 ^ f.width + 2 ^ f.width * packLane f es) / 2 ^ (f.width * (j + 1)) =
          packLane f es / 2 ^ (f.width * j) := by
        rw [Nat.mul_succ, Nat.add_comm (f.width * j), Nat.pow_add, ← Nat.div_div_eq_div_mul,
          Nat.add_mul_div_left _ _ hp, Nat.div_eq_of_lt (Nat.mod_lt _ hp), Nat.zero_add]
      simpa [packLane, bits, h] using ih j

/-- A packed lane of `k` elements takes `k` widths. -/
theorem packLane_lt (f : Fmt) (es : List Nat) : packLane f es < 2 ^ (f.width * es.length) := by
  induction es with
  | nil => simp [packLane]
  | cons e es ih =>
    have h : e % 2 ^ f.width < 2 ^ f.width := Nat.mod_lt _ (Nat.two_pow_pos _)
    have : packLane f (e :: es) < 2 ^ f.width * (packLane f es + 1) := by
      simp only [packLane]; rw [Nat.mul_add]; omega
    refine Nat.lt_of_lt_of_le this ?_
    have : f.width * (e :: es).length = f.width + f.width * es.length := by rw [List.length_cons, Nat.mul_succ]; omega
    rw [this, Nat.pow_add]
    exact Nat.mul_le_mul_left _ ih

/-- The elements of a lane fit in it. -/
theorem width_perLane_le (f : Fmt) : f.width * f.perLane ≤ 64 := by cases f <;> decide

/-- The sum of the powers of two that a test selects below `n`. -/
def maskSum (p : Nat → Bool) (n : Nat) : Nat := ((List.range n).map fun i => (p i).toNat * 2 ^ i).foldl (· + ·) 0

theorem maskSum_succ (p : Nat → Bool) (n : Nat) : maskSum p (n + 1) = 2 ^ n * (p n).toNat + maskSum p n := by
  simp [maskSum, List.range_succ, Nat.mul_comm, Nat.add_comm]

theorem maskSum_lt (p : Nat → Bool) (n : Nat) : maskSum p n < 2 ^ n := by
  induction n with
  | zero => simp [maskSum]
  | succ n ih =>
    rw [maskSum_succ, Nat.pow_succ]
    have : (p n).toNat ≤ 1 := by cases p n <;> decide
    have := Nat.mul_le_mul_left (2 ^ n) this
    omega

theorem maskSum_testBit (p : Nat → Bool) (n i : Nat) (hi : i < n) : (maskSum p n).testBit i = p i := by
  induction n with
  | zero => omega
  | succ n ih =>
    rw [maskSum_succ, Nat.testBit_two_pow_mul_add _ (maskSum_lt p n)]
    split
    · exact ih ‹_›
    · obtain rfl : i = n := by omega
      cases h : p i <;> simp

/-- The mask that `maskOf` forms has exactly the tested bits. -/
theorem maskOf_getLsbD (p : Nat → Bool) (i : Nat) (hi : i < 16) : (maskOf p).getLsbD i = p i := by
  have h : maskOf p = BitVec.ofNat 16 (maskSum p 16) := rfl
  rw [h, BitVec.getLsbD_ofNat, maskSum_testBit p 16 i hi]
  simp [hi]

/-- The lanes of a result: lane `i` of a vector has a mask bit exactly where there is a result lane. -/
theorem laneAt_ofLanes_vec (rs : List (Option Nat)) (i : Nat) (hi : i < 16) (h : ∀ l, (rs[i]?).getD none = some l → l < 2 ^ 64) :
    laneAt (ofLanes true rs) i = (rs[i]?).getD none := by
  unfold ofLanes laneAt
  simp only [if_true, maskOf_getLsbD _ i hi]
  cases hr : (rs[i]?).getD none with
  | none => simp
  | some l =>
    have := h l hr
    simpa [nth, hi, hr, word] using this

theorem laneAt_ofLanes_scalar (rs : List (Option Nat)) (i : Nat) :
    laneAt (ofLanes false rs) i = some ((((rs[0]?).getD none).getD 0) % 2 ^ 64) := by
  simp [ofLanes, laneAt, word]

@[simp] theorem isVec_ofLanes (vec : Bool) (rs : List (Option Nat)) : (ofLanes vec rs).isVec = vec := by
  cases vec <;> rfl

/-- An operation that no element fails on is applied to every element position. -/
theorem mapElems_ok {α : Type} (g : Nat → List Nat → α) (xs : List (List Nat)) (k : Nat) :
    mapElems (fun j x => .ok (g j x)) xs k = .ok ((List.range k).map fun j => g j (column xs j)) := by
  induction k with
  | zero => rfl
  | succ k ih =>
    simp only [mapElems, ih, bind, Except.bind, pure, Except.pure]
    simp [List.range_succ]

/-- An operation that no lane fails on is applied to every lane that takes part. -/
theorem mapLanes_ok {α : Type} (g : Nat → List Nat → α) (ls : List (Option (List Nat))) (i : Nat) :
    mapLanes (fun i l => .ok (g i l)) i ls = .ok ((ls.zipIdx i).map fun l => l.1.map (g l.2)) := by
  induction ls generalizing i with
  | nil => rfl
  | cons x ls ih =>
    cases x <;> simp [mapLanes, ih, bind, Except.bind, pure, Except.pure]

/-- The lanes of a result, each made from the operands' lanes there. -/
def laneResults (vs : List Value) (r : List Nat → Nat) : Value :=
  ofLanes (vs.any (·.isVec)) ((alignLanes vs).map fun l => l.map r)

/-- The lane that an element function makes of the operands' lanes. -/
def packElems (f : Fmt) (g : Nat → List Nat → Nat) (ls : List Nat) : Nat :=
  packLane f ((List.range f.perLane).map fun j => g j (column (ls.map (elems f)) j))

/-- An integer operation whose element function never fails: what it gives. -/
theorem integerOp_ok (n : Niw) (op : Issued) (g : Nat → List Nat → Nat) :
    integerOp n op (fun j xs => .ok (g j xs))
      = .ok ⟨laneResults (operandVals op n (splat n.fmt)) (packElems n.fmt g), true, false⟩ := by
  have h : ∀ (ls : List (Option (List Nat))) (i : Nat),
      mapLanes (fun _ ls => (do
        let es ← mapElems (fun j xs => Except.ok (g j xs)) (ls.map (elems n.fmt)) n.fmt.perLane
        return packLane n.fmt es : Except Bad Nat)) i ls
        = .ok (ls.map fun l => l.map (packElems n.fmt g)) := by
    intro ls i
    have e : (fun (_ : Nat) (ls : List Nat) => (do
        let es ← mapElems (fun j xs => Except.ok (g j xs)) (ls.map (elems n.fmt)) n.fmt.perLane
        return packLane n.fmt es : Except Bad Nat)) = fun _ ls => .ok (packElems n.fmt g ls) := by
      funext _ ls
      simp [mapElems_ok, packElems, bind, Except.bind, pure, Except.pure]
    rw [e, mapLanes_ok]
    congr 1
    induction ls generalizing i with
    | nil => rfl
    | cons x ls ih => simp [ih]
  unfold integerOp
  simp only [h]
  rfl

/-- The operand lanes at a lane that takes part, and none where one's mask leaves it out. -/
theorem alignLanes_get (vs : List Value) (i : Nat) (hi : i < if vs.any (·.isVec) then 16 else 1) :
    (alignLanes vs)[i]? = some (vs.mapM fun v => laneAt v i) := by
  have h : (List.range (if vs.any (·.isVec) then 16 else 1))[i]? = some i := by rw [List.getElem?_range hi]
  simp only [alignLanes, List.getElem?_map, h, Option.map_some]

/-- Lane `i` of a result of `laneResults`. -/
theorem laneAt_laneResults (vs : List Value) (r : List Nat → Nat) (i : Nat)
    (hi : i < if vs.any (·.isVec) then 16 else 1) (hr : ∀ ls, r ls < 2 ^ 64) :
    laneAt (laneResults vs r) i = (vs.mapM fun v => laneAt v i).map r := by
  have hg := alignLanes_get vs i hi
  unfold laneResults
  cases hv : vs.any (·.isVec) with
  | true =>
    simp only [hv, if_true] at hi
    rw [laneAt_ofLanes_vec _ i hi]
    · simp [hg]
    · simp only [List.getElem?_map, hg]
      intro l hl
      simp at hl
      obtain ⟨ls, _, rfl⟩ := hl
      exact hr ls
  | false =>
    obtain rfl : i = 0 := by simpa [hv] using hi
    rw [laneAt_ofLanes_scalar]
    simp only [List.getElem?_map, hg]
    cases hm : vs.mapM (fun v => laneAt v 0) with
    | some ls => simpa using hr ls
    | none =>
      exfalso
      have : ∀ vs : List Value, vs.any (·.isVec) = false → (vs.mapM fun v => laneAt v 0) ≠ none := by
        intro vs
        induction vs with
        | nil => simp
        | cons v vs ih =>
          intro h
          simp only [List.any_cons, Bool.or_eq_false_iff] at h
          cases v with
          | vector _ _ => simp [Value.isVec] at h
          | scalar w =>
            rw [List.mapM_cons]
            cases hq : vs.mapM (fun v => laneAt v 0) with
            | none => exact absurd hq (ih h.2)
            | some l => intro hc; cases hc
      exact this vs hv hm

/-- A lane packed from elements fits its word. -/
theorem packElems_lt (f : Fmt) (g : Nat → List Nat → Nat) (ls : List Nat) : packElems f g ls < 2 ^ 64 := by
  refine Nat.lt_of_lt_of_le (packLane_lt _ _) (Nat.pow_le_pow_right (by decide) ?_)
  simpa using width_perLane_le f

/-- Element `j` of a packed lane. -/
theorem bits_packElems (f : Fmt) (g : Nat → List Nat → Nat) (ls : List Nat) (j : Nat) (hj : j < f.perLane) :
    bits (packElems f g ls) (f.width * j) f.width = g j (column (ls.map (elems f)) j) % 2 ^ f.width := by
  simp [packElems, bits_packLane, hj]

/-- Element `j` of operand `k` of a lane. -/
theorem column_elems (f : Fmt) (ls : List Nat) (k j : Nat) (hj : j < f.perLane) :
    nth 0 (column (ls.map (elems f)) j) k = bits (ls.getD k 0) (f.width * j) f.width := by
  simp only [column, nth, List.getElem?_map, List.getD]
  cases ls[k]? with
  | none => simp [bits]
  | some l => simp [elems, hj]

end Sys2Proof.Machine
end

