-- ==== Sys2Proof/Laws/PerInstr.lean ====
section
/-!
SUPPORT. One fact for every constructor of `Instr`, on which the round trip of the encoder and the decoder rests:
an instruction's opcode fits its eight bits (R51), and whatever the opcode and these fields build has them as its own.
-/

namespace Sys2Proof.Laws.Row

/-- The row of an instruction: its opcode is a byte, and an instruction built from its opcode and fields, in either
mode, has that opcode and those fields. -/
def Statement (i : Instr) : Prop :=
  ∀ opc n, i.parts = some (opc, n) → opc < 256 ∧ ∀ fabric j, build fabric opc n = some j → j.parts = some (opc, n)

/-- An event has no word. -/
theorem event {i : Instr} (h : i.parts = none) : Statement i := fun _ _ h' => by simp [h] at h'

/-- A row whose opcode names one constructor. -/
theorem plain {i : Instr} {k : Nat} {m : Niw} (hi : i.parts = some (k, m)) (hk : k < 256)
    (hb : ∀ fabric, build fabric k m = some i) : Statement i := by
  intro opc n h
  rw [hi] at h
  cases h
  exact ⟨hk, fun f j hj => by rw [hb f] at hj; cases hj; exact hi⟩

theorem powerOnBoot : Statement (.powerOnBoot) := event rfl
theorem thermalTrip (die : Die) : Statement (.thermalTrip die) := event rfl
theorem uncorrectableCommittedError (ctx : Nat) (place : ErrorPlace) : Statement (.uncorrectableCommittedError ctx place) := event rfl
theorem speculativeRowError (t : TileId) (row : Nat) : Statement (.speculativeRowError t row) := event rfl
theorem matchingStoreEcc (t : TileId) (ctx : Nat) : Statement (.matchingStoreEcc t ctx) := event rfl
theorem configurationMemoryEcc (region : Nat) : Statement (.configurationMemoryEcc region) := event rfl
theorem bridgeLaneFail (toward : Die) (lane : Nat) : Statement (.bridgeLaneFail toward lane) := event rfl
theorem routerArbitrate (t : TileId) : Statement (.routerArbitrate t) := event rfl
theorem reassemblyTimeout (t : TileId) : Statement (.reassemblyTimeout t) := event rfl
theorem throttleWindowEnd (t : TileId) : Statement (.throttleWindowEnd t) := event rfl
theorem linkFlitReceive (port : Nat) : Statement (.linkFlitReceive port) := event rfl
theorem gwynlinkPortDown (port : Nat) : Statement (.gwynlinkPortDown port) := event rfl
theorem linkSilenceTimeout (port : Nat) : Statement (.linkSilenceTimeout port) := event rfl
theorem gangMarkerReceive (port : Nat) : Statement (.gangMarkerReceive port) := event rfl
theorem routingTableLoad (tables : RoutingTables) : Statement (.routingTableLoad tables) := event rfl
theorem hostFeat : Statement (.hostFeat) := event rfl
theorem hostCfgw : Statement (.hostCfgw) := event rfl
theorem hostCfgwLoad : Statement (.hostCfgwLoad) := event rfl
theorem hostLaunch : Statement (.hostLaunch) := event rfl
theorem hostAttach : Statement (.hostAttach) := event rfl
theorem epdataReadRequest : Statement (.epdataReadRequest) := event rfl
theorem epdataReadData : Statement (.epdataReadData) := event rfl
theorem epdataWriteData : Statement (.epdataWriteData) := event rfl
theorem epdataWriteAck : Statement (.epdataWriteAck) := event rfl
theorem hostAttest : Statement (.hostAttest) := event rfl
theorem hostEnd : Statement (.hostEnd) := event rfl
theorem hostMessageUnknown : Statement (.hostMessageUnknown) := event rfl
theorem arbiterGrant : Statement (.arbiterGrant) := event rfl
theorem seedInjection (ctx : Nat) : Statement (.seedInjection ctx) := event rfl
theorem tokenMatch (t : TileId) : Statement (.tokenMatch t) := event rfl
theorem skeinRefill (t : TileId) : Statement (.skeinRefill t) := event rfl
theorem issue (who : Issuer) : Statement (.issue who) := event rfl
theorem killMarkReceive (t : TileId) : Statement (.killMarkReceive t) := event rfl
theorem storeBufferRelease (region : Nat) : Statement (.storeBufferRelease region) := event rfl
theorem drainPass (t : TileId) (node : Nat) : Statement (.drainPass t node) := event rfl
theorem planeSwap (region : Nat) : Statement (.planeSwap region) := event rfl
theorem spliceTileSwitch (t : TileId) : Statement (.spliceTileSwitch t) := event rfl
theorem bankWake (t : TileId) : Statement (.bankWake t) := event rfl
theorem generatorStart (t : TileId) (g : Nat) : Statement (.generatorStart t g) := event rfl
theorem generatorStop (t : TileId) (g : Nat) : Statement (.generatorStop t g) := event rfl
theorem heldWriteResume (t : TileId) : Statement (.heldWriteResume t) := event rfl
theorem lineCommit (t : TileId) : Statement (.lineCommit t) := event rfl
theorem pageWalk (region : Nat) : Statement (.pageWalk region) := event rfl
theorem pagerFaultService (die : Die) : Statement (.pagerFaultService die) := event rfl
theorem parkedAccessReissue (region : Nat) : Statement (.parkedAccessReissue region) := event rfl
theorem pageMigration (ctx : Nat) (page : Nat) : Statement (.pageMigration ctx page) := event rfl
theorem verdictCellReply (t : TileId) : Statement (.verdictCellReply t) := event rfl
theorem sanrmCountReached (t : TileId) : Statement (.sanrmCountReached t) := event rfl
theorem mmaExecute (t : TileId) : Statement (.mmaExecute t) := event rfl
theorem blockFetch (region bc : Nat) : Statement (.blockFetch region bc) := event rfl
theorem blockCommit (region bc : Nat) : Statement (.blockCommit region bc) := event rfl
theorem blockStallTimeout (region bc : Nat) : Statement (.blockStallTimeout region bc) := event rfl
theorem markerDelivery (ctx : Nat) (el : Element) : Statement (.markerDelivery ctx el) := event rfl
theorem elementQuiet (ctx : Nat) (el : Element) : Statement (.elementQuiet ctx el) := event rfl
theorem eventRecordEnqueue (region : Nat) : Statement (.eventRecordEnqueue region) := event rfl
theorem nop (n : Niw) : Statement (.nop n) := plain rfl (by decide) fun _ => rfl
theorem mov (n : Niw) : Statement (.mov n) := plain rfl (by decide) fun _ => rfl
theorem const (n : Niw) : Statement (.const n) := plain rfl (by decide) fun _ => rfl
theorem nullTok (n : Niw) : Statement (.nullTok n) := plain rfl (by decide) fun _ => rfl
theorem steer (n : Niw) : Statement (.steer n) := plain rfl (by decide) fun _ => rfl
theorem gate (n : Niw) : Statement (.gate n) := plain rfl (by decide) fun _ => rfl
theorem wave (n : Niw) : Statement (.wave n) := plain rfl (by decide) fun _ => rfl
theorem bound (n : Niw) : Statement (.bound n) := plain rfl (by decide) fun _ => rfl
theorem exitl (n : Niw) : Statement (.exitl n) := plain rfl (by decide) fun _ => rfl
theorem pushf (n : Niw) : Statement (.pushf n) := plain rfl (by decide) fun _ => rfl
theorem popf (n : Niw) : Statement (.popf n) := plain rfl (by decide) fun _ => rfl
theorem tagrd (n : Niw) : Statement (.tagrd n) := plain rfl (by decide) fun _ => rfl
theorem tagwr (n : Niw) : Statement (.tagwr n) := plain rfl (by decide) fun _ => rfl
theorem call (n : Niw) : Statement (.call n) := plain rfl (by decide) fun _ => rfl
theorem ret (n : Niw) : Statement (.ret n) := plain rfl (by decide) fun _ => rfl
theorem join (n : Niw) : Statement (.join n) := by
  intro _ _ h; cases h
  refine ⟨by decide, fun f j hj => ?_⟩
  simp only [build] at hj; (repeat' split at hj) <;> (cases hj; rfl)
theorem joinCount (n : Niw) : Statement (.joinCount n) := by
  intro _ _ h; cases h
  refine ⟨by decide, fun f j hj => ?_⟩
  simp only [build] at hj; (repeat' split at hj) <;> (cases hj; rfl)
theorem drainFabric (n : Niw) : Statement (.drainFabric n) := by
  intro _ _ h; cases h
  refine ⟨by decide, fun f j hj => ?_⟩
  simp only [build] at hj; (repeat' split at hj) <;> (cases hj; rfl)
theorem drainBlock (n : Niw) : Statement (.drainBlock n) := by
  intro _ _ h; cases h
  refine ⟨by decide, fun f j hj => ?_⟩
  simp only [build] at hj; (repeat' split at hj) <;> (cases hj; rfl)
theorem pchk (n : Niw) : Statement (.pchk n) := plain rfl (by decide) fun _ => rfl
theorem br (n : Niw) : Statement (.br n) := plain rfl (by decide) fun _ => rfl
theorem brc (n : Niw) : Statement (.brc n) := plain rfl (by decide) fun _ => rfl
theorem bcall (n : Niw) : Statement (.bcall n) := plain rfl (by decide) fun _ => rfl
theorem bret (n : Niw) : Statement (.bret n) := plain rfl (by decide) fun _ => rfl
theorem grd (n : Niw) : Statement (.grd n) := plain rfl (by decide) fun _ => rfl
theorem gwr (n : Niw) : Statement (.gwr n) := plain rfl (by decide) fun _ => rfl
theorem add (n : Niw) : Statement (.add n) := plain rfl (by decide) fun _ => rfl
theorem sub (n : Niw) : Statement (.sub n) := plain rfl (by decide) fun _ => rfl
theorem mul (n : Niw) : Statement (.mul n) := plain rfl (by decide) fun _ => rfl
theorem mulh (n : Niw) : Statement (.mulh n) := plain rfl (by decide) fun _ => rfl
theorem mad (n : Niw) : Statement (.mad n) := plain rfl (by decide) fun _ => rfl
theorem div (n : Niw) : Statement (.div n) := plain rfl (by decide) fun _ => rfl
theorem min (n : Niw) : Statement (.min n) := plain rfl (by decide) fun _ => rfl
theorem max (n : Niw) : Statement (.max n) := plain rfl (by decide) fun _ => rfl
theorem andI (n : Niw) : Statement (.andI n) := plain rfl (by decide) fun _ => rfl
theorem orI (n : Niw) : Statement (.orI n) := plain rfl (by decide) fun _ => rfl
theorem xorI (n : Niw) : Statement (.xorI n) := plain rfl (by decide) fun _ => rfl
theorem andn (n : Niw) : Statement (.andn n) := plain rfl (by decide) fun _ => rfl
theorem shl (n : Niw) : Statement (.shl n) := plain rfl (by decide) fun _ => rfl
theorem shr (n : Niw) : Statement (.shr n) := plain rfl (by decide) fun _ => rfl
theorem sar (n : Niw) : Statement (.sar n) := plain rfl (by decide) fun _ => rfl
theorem clz (n : Niw) : Statement (.clz n) := plain rfl (by decide) fun _ => rfl
theorem popc (n : Niw) : Statement (.popc n) := plain rfl (by decide) fun _ => rfl
theorem cmp (n : Niw) : Statement (.cmp n) := plain rfl (by decide) fun _ => rfl
theorem sel (n : Niw) : Statement (.sel n) := plain rfl (by decide) fun _ => rfl
theorem ext (n : Niw) : Statement (.ext n) := plain rfl (by decide) fun _ => rfl
theorem lea (n : Niw) : Statement (.lea n) := plain rfl (by decide) fun _ => rfl
theorem fadd (n : Niw) : Statement (.fadd n) := plain rfl (by decide) fun _ => rfl
theorem fsub (n : Niw) : Statement (.fsub n) := plain rfl (by decide) fun _ => rfl
theorem fmul (n : Niw) : Statement (.fmul n) := plain rfl (by decide) fun _ => rfl
theorem ffma (n : Niw) : Statement (.ffma n) := plain rfl (by decide) fun _ => rfl
theorem fdiv (n : Niw) : Statement (.fdiv n) := plain rfl (by decide) fun _ => rfl
theorem fsqrt (n : Niw) : Statement (.fsqrt n) := plain rfl (by decide) fun _ => rfl
theorem frcp (n : Niw) : Statement (.frcp n) := plain rfl (by decide) fun _ => rfl
theorem frsq (n : Niw) : Statement (.frsq n) := plain rfl (by decide) fun _ => rfl
theorem fmin (n : Niw) : Statement (.fmin n) := plain rfl (by decide) fun _ => rfl
theorem fmax (n : Niw) : Statement (.fmax n) := plain rfl (by decide) fun _ => rfl
theorem fsgn (n : Niw) : Statement (.fsgn n) := plain rfl (by decide) fun _ => rfl
theorem fcmp (n : Niw) : Statement (.fcmp n) := plain rfl (by decide) fun _ => rfl
theorem fcls (n : Niw) : Statement (.fcls n) := plain rfl (by decide) fun _ => rfl
theorem fcvt (n : Niw) : Statement (.fcvt n) := plain rfl (by decide) fun _ => rfl
theorem frnd (n : Niw) : Statement (.frnd n) := plain rfl (by decide) fun _ => rfl
theorem fscl (n : Niw) : Statement (.fscl n) := plain rfl (by decide) fun _ => rfl
theorem bcst (n : Niw) : Statement (.bcst n) := plain rfl (by decide) fun _ => rfl
theorem shuf (n : Niw) : Statement (.shuf n) := plain rfl (by decide) fun _ => rfl
theorem pack (n : Niw) : Statement (.pack n) := plain rfl (by decide) fun _ => rfl
theorem unpk (n : Niw) : Statement (.unpk n) := plain rfl (by decide) fun _ => rfl
theorem vred (n : Niw) : Statement (.vred n) := plain rfl (by decide) fun _ => rfl
theorem scan (n : Niw) : Statement (.scan n) := plain rfl (by decide) fun _ => rfl
theorem tred (n : Niw) : Statement (.tred n) := plain rfl (by decide) fun _ => rfl
theorem rng (n : Niw) : Statement (.rng n) := plain rfl (by decide) fun _ => rfl
theorem ld (n : Niw) : Statement (.ld n) := plain rfl (by decide) fun _ => rfl
theorem st (n : Niw) : Statement (.st n) := plain rfl (by decide) fun _ => rfl
theorem ldv (n : Niw) : Statement (.ldv n) := plain rfl (by decide) fun _ => rfl
theorem stv (n : Niw) : Statement (.stv n) := plain rfl (by decide) fun _ => rfl
theorem gth (n : Niw) : Statement (.gth n) := plain rfl (by decide) fun _ => rfl
theorem sct (n : Niw) : Statement (.sct n) := by
  intro _ _ h; cases h
  refine ⟨by decide, fun f j hj => ?_⟩
  simp only [build] at hj; (repeat' split at hj) <;> (cases hj; rfl)
theorem sctCompact (n : Niw) : Statement (.sctCompact n) := by
  intro _ _ h; cases h
  refine ⟨by decide, fun f j hj => ?_⟩
  simp only [build] at hj; (repeat' split at hj) <;> (cases hj; rfl)
theorem ird (n : Niw) : Statement (.ird n) := plain rfl (by decide) fun _ => rfl
theorem iwr (n : Niw) : Statement (.iwr n) := plain rfl (by decide) fun _ => rfl
theorem irst (n : Niw) : Statement (.irst n) := plain rfl (by decide) fun _ => rfl
theorem hin (n : Niw) : Statement (.hin n) := plain rfl (by decide) fun _ => rfl
theorem hout (n : Niw) : Statement (.hout n) := plain rfl (by decide) fun _ => rfl
theorem aadd (n : Niw) : Statement (.aadd n) := plain rfl (by decide) fun _ => rfl
theorem amin (n : Niw) : Statement (.amin n) := plain rfl (by decide) fun _ => rfl
theorem amax (n : Niw) : Statement (.amax n) := plain rfl (by decide) fun _ => rfl
theorem alog (n : Niw) : Statement (.alog n) := plain rfl (by decide) fun _ => rfl
theorem axch (n : Niw) : Statement (.axch n) := plain rfl (by decide) fun _ => rfl
theorem acas (n : Niw) : Statement (.acas n) := plain rfl (by decide) fun _ => rfl
theorem red (n : Niw) : Statement (.red n) := plain rfl (by decide) fun _ => rfl
theorem mma (n : Niw) : Statement (.mma n) := plain rfl (by decide) fun _ => rfl
theorem mmaz (n : Niw) : Statement (.mmaz n) := plain rfl (by decide) fun _ => rfl
theorem acrd (n : Niw) : Statement (.acrd n) := plain rfl (by decide) fun _ => rfl
theorem acwr (n : Niw) : Statement (.acwr n) := plain rfl (by decide) fun _ => rfl
theorem scle (n : Niw) : Statement (.scle n) := plain rfl (by decide) fun _ => rfl
theorem ctrn (n : Niw) : Statement (.ctrn n) := plain rfl (by decide) fun _ => rfl
theorem vopen (n : Niw) : Statement (.vopen n) := plain rfl (by decide) fun _ => rfl
theorem vacc (n : Niw) : Statement (.vacc n) := plain rfl (by decide) fun _ => rfl
theorem vclose (n : Niw) : Statement (.vclose n) := plain rfl (by decide) fun _ => rfl
theorem vchk (n : Niw) : Statement (.vchk n) := plain rfl (by decide) fun _ => rfl
theorem vthrRaise (n : Niw) : Statement (.vthrRaise n) := by
  intro _ _ h; cases h
  refine ⟨by decide, fun f j hj => ?_⟩
  simp only [build] at hj; (repeat' split at hj) <;> (cases hj; rfl)
theorem vthrReset (n : Niw) : Statement (.vthrReset n) := by
  intro _ _ h; cases h
  refine ⟨by decide, fun f j hj => ?_⟩
  simp only [build] at hj; (repeat' split at hj) <;> (cases hj; rfl)
theorem vtopk (n : Niw) : Statement (.vtopk n) := plain rfl (by decide) fun _ => rfl
theorem saadd (n : Niw) : Statement (.saadd n) := plain rfl (by decide) fun _ => rfl
theorem sanrm (n : Niw) : Statement (.sanrm n) := plain rfl (by decide) fun _ => rfl
theorem sacnt (n : Niw) : Statement (.sacnt n) := plain rfl (by decide) fun _ => rfl
theorem sazro (n : Niw) : Statement (.sazro n) := plain rfl (by decide) fun _ => rfl
theorem saevc (n : Niw) : Statement (.saevc n) := plain rfl (by decide) fun _ => rfl
theorem salod (n : Niw) : Statement (.salod n) := plain rfl (by decide) fun _ => rfl
theorem lbind (n : Niw) : Statement (.lbind n) := plain rfl (by decide) fun _ => rfl
theorem lfeed (n : Niw) : Statement (.lfeed n) := plain rfl (by decide) fun _ => rfl
theorem lqry (n : Niw) : Statement (.lqry n) := plain rfl (by decide) fun _ => rfl
theorem lsusp (n : Niw) : Statement (.lsusp n) := plain rfl (by decide) fun _ => rfl
theorem lresm (n : Niw) : Statement (.lresm n) := plain rfl (by decide) fun _ => rfl
theorem ldrop (n : Niw) : Statement (.ldrop n) := plain rfl (by decide) fun _ => rfl
theorem cfgld (n : Niw) : Statement (.cfgld n) := plain rfl (by decide) fun _ => rfl
theorem cfgsw (n : Niw) : Statement (.cfgsw n) := plain rfl (by decide) fun _ => rfl
theorem splice (n : Niw) : Statement (.splice n) := plain rfl (by decide) fun _ => rfl
theorem launch (n : Niw) : Statement (.launch n) := plain rfl (by decide) fun _ => rfl
theorem seed (n : Niw) : Statement (.seed n) := plain rfl (by decide) fun _ => rfl
theorem evwait (n : Niw) : Statement (.evwait n) := plain rfl (by decide) fun _ => rfl
theorem evpost (n : Niw) : Statement (.evpost n) := plain rfl (by decide) fun _ => rfl
theorem markFreeze (n : Niw) : Statement (.markFreeze n) := by
  intro _ _ h; cases h
  refine ⟨by decide, fun f j hj => ?_⟩
  simp only [build] at hj; (repeat' split at hj) <;> (cases hj; rfl)
theorem markGang (n : Niw) : Statement (.markGang n) := by
  intro _ _ h; cases h
  refine ⟨by decide, fun f j hj => ?_⟩
  simp only [build] at hj; (repeat' split at hj) <;> (cases hj; rfl)
theorem markResume (n : Niw) : Statement (.markResume n) := by
  intro _ _ h; cases h
  refine ⟨by decide, fun f j hj => ?_⟩
  simp only [build] at hj; (repeat' split at hj) <;> (cases hj; rfl)
theorem snap (n : Niw) : Statement (.snap n) := plain rfl (by decide) fun _ => rfl
theorem rstr (n : Niw) : Statement (.rstr n) := plain rfl (by decide) fun _ => rfl
theorem xlinv (n : Niw) : Statement (.xlinv n) := plain rfl (by decide) fun _ => rfl
theorem throt (n : Niw) : Statement (.throt n) := plain rfl (by decide) fun _ => rfl
theorem sysrd (n : Niw) : Statement (.sysrd n) := by
  intro _ _ h; cases h
  refine ⟨by decide, fun f j hj => ?_⟩
  simp only [build] at hj; (repeat' split at hj) <;> (cases hj; rfl)
theorem sysrdFltdrop (n : Niw) : Statement (.sysrdFltdrop n) := by
  intro _ _ h; cases h
  refine ⟨by decide, fun f j hj => ?_⟩
  simp only [build] at hj; (repeat' split at hj) <;> (cases hj; rfl)
theorem syswrMode (n : Niw) : Statement (.syswrMode n) := by
  intro _ _ h; cases h
  refine ⟨by decide, fun f j hj => ?_⟩
  simp only [build] at hj; (repeat' split at hj) <;> (cases hj; rfl)
theorem syswrThrotwin (n : Niw) : Statement (.syswrThrotwin n) := by
  intro _ _ h; cases h
  refine ⟨by decide, fun f j hj => ?_⟩
  simp only [build] at hj; (repeat' split at hj) <;> (cases hj; rfl)
theorem syswr (n : Niw) : Statement (.syswr n) := by
  intro _ _ h; cases h
  refine ⟨by decide, fun f j hj => ?_⟩
  simp only [build] at hj; (repeat' split at hj) <;> (cases hj; rfl)
theorem trap (n : Niw) : Statement (.trap n) := plain rfl (by decide) fun _ => rfl
theorem halt (n : Niw) : Statement (.halt n) := plain rfl (by decide) fun _ => rfl
theorem gwynlinkPortRetrain (port : Nat) : Statement (.gwynlinkPortRetrain port) := event rfl
theorem zeroingEnd (what : Zeroed) : Statement (.zeroingEnd what) := event rfl
theorem newFirmwareImage (image : Firmware) : Statement (.newFirmwareImage image) := event rfl

end Sys2Proof.Laws.Row
end

