-- ==== Sys2Proof/Tests/Slice0.lean ====
section
/-!
SUPPORT. Tests: words written out from the spec's encodings, words and terms that are refused, the spec's worked values of
one instruction on a small state, and for each statement a state and operands that meet its hypotheses.
-/

namespace Sys2Proof.Tests

open Sys2Proof Sys2Proof.Machine Sys2Proof.Claims
set_option Elab.async false

/- Words. Each is built field by field: OPC, FMT, RND, PRD, ARI, XW, IMM8, then V, SLOT and DEST of three targets. -/

/-- A word of a mode decodes to an instruction. -/
abbrev decodes (fabric : Bool) (w : BitVec 64) (i : Instr) : Prop := decodeWord fabric w = .ok i

theorem test_decode_control_1 :
    decodes true 0x0000E00000000000 (.nop ⟨.s8, .rne, .ift, 3, false, 0x00, none, none, none⟩) ∧
    decodes true 0x0100A00A02803C03 (.mov ⟨.s8, .rne, .ift, 1, false, 0x00, some ⟨.b, 2⟩, some ⟨.a, 3⟩, some ⟨.c, 3⟩⟩) ∧
    decodes true 0x0200900A03804C03 (.const ⟨.s8, .rne, .ift, 0, true, 0x00, some ⟨.b, 3⟩, some ⟨.a, 4⟩, some ⟨.c, 3⟩⟩) ∧
    decodes false 0x0300A00A04805C03 (.nullTok ⟨.s8, .rne, .ift, 1, false, 0x00, some ⟨.b, 4⟩, some ⟨.a, 5⟩, some ⟨.c, 3⟩⟩) ∧
    decodes true 0x0400A00A05806000 (.steer ⟨.s8, .rne, .ift, 1, false, 0x00, some ⟨.b, 5⟩, some ⟨.a, 6⟩, none⟩) ∧
    decodes true 0x0500C00A06807C03 (.gate ⟨.s8, .rne, .ift, 2, false, 0x00, some ⟨.b, 6⟩, some ⟨.a, 7⟩, some ⟨.c, 3⟩⟩) ∧
    decodes true 0x0600A00A07808C03 (.wave ⟨.s8, .rne, .ift, 1, false, 0x00, some ⟨.b, 7⟩, some ⟨.a, 8⟩, some ⟨.c, 3⟩⟩) ∧
    decodes true 0x0700AC3A08809C03 (.bound ⟨.s8, .rne, .ift, 1, false, 0xC3, some ⟨.b, 8⟩, some ⟨.a, 9⟩, some ⟨.c, 3⟩⟩) ∧
    decodes true 0x0800A00A0980AC03 (.exitl ⟨.s8, .rne, .ift, 1, false, 0x00, some ⟨.b, 9⟩, some ⟨.a, 10⟩, some ⟨.c, 3⟩⟩) ∧
    decodes true 0x0900AC3A0A80BC03 (.pushf ⟨.s8, .rne, .ift, 1, false, 0xC3, some ⟨.b, 10⟩, some ⟨.a, 11⟩, some ⟨.c, 3⟩⟩) ∧
    decodes true 0x0A00A00A0B80CC03 (.popf ⟨.s8, .rne, .ift, 1, false, 0x00, some ⟨.b, 11⟩, some ⟨.a, 12⟩, some ⟨.c, 3⟩⟩) ∧
    decodes true 0x0B00A0AA0C80DC03 (.tagrd ⟨.s8, .rne, .ift, 1, false, 0x0A, some ⟨.b, 12⟩, some ⟨.a, 13⟩, some ⟨.c, 3⟩⟩) ∧
    decodes true 0x0C00C0AA0D80EC03 (.tagwr ⟨.s8, .rne, .ift, 2, false, 0x0A, some ⟨.b, 13⟩, some ⟨.a, 14⟩, some ⟨.c, 3⟩⟩) ∧
    decodes true 0x0D00AC3A0E80FC03 (.call ⟨.s8, .rne, .ift, 1, false, 0xC3, some ⟨.b, 14⟩, some ⟨.a, 15⟩, some ⟨.c, 3⟩⟩) := by decide +kernel

theorem test_decode_control_2 :
    decodes true 0x0E00A00A0F000000 (.ret ⟨.s8, .rne, .ift, 1, false, 0x00, some ⟨.b, 15⟩, none, none⟩) ∧
    decodes true 0x0F00E00A10811C03 (.join ⟨.s8, .rne, .ift, 3, false, 0x00, some ⟨.b, 16⟩, some ⟨.a, 17⟩, some ⟨.c, 3⟩⟩) ∧
    decodes true 0x0F00AC3A11812C03 (.joinCount ⟨.s8, .rne, .ift, 1, false, 0xC3, some ⟨.b, 17⟩, some ⟨.a, 18⟩, some ⟨.c, 3⟩⟩) ∧
    decodes true 0x1000A00A12813C03 (.drainFabric ⟨.s8, .rne, .ift, 1, false, 0x00, some ⟨.b, 18⟩, some ⟨.a, 19⟩, some ⟨.c, 3⟩⟩) ∧
    decodes false 0x1000A00A13814C03 (.drainBlock ⟨.s8, .rne, .ift, 1, false, 0x00, some ⟨.b, 19⟩, some ⟨.a, 20⟩, some ⟨.c, 3⟩⟩) ∧
    decodes true 0x1100A05A14815C03 (.pchk ⟨.s8, .rne, .ift, 1, false, 0x05, some ⟨.b, 20⟩, some ⟨.a, 21⟩, some ⟨.c, 3⟩⟩) ∧
    decodes false 0x1200A00000000000 (.br ⟨.s8, .rne, .ift, 1, false, 0x00, none, none, none⟩) ∧
    decodes false 0x1300E00000000000 (.brc ⟨.s8, .rne, .ift, 3, false, 0x00, none, none, none⟩) ∧
    decodes false 0x1400C00000000000 (.bcall ⟨.s8, .rne, .ift, 2, false, 0x00, none, none, none⟩) ∧
    decodes false 0x1500800000000000 (.bret ⟨.s8, .rne, .ift, 0, false, 0x00, none, none, none⟩) ∧
    decodes false 0x1600822A19803C03 (.grd ⟨.s8, .rne, .ift, 0, false, 0x22, some ⟨.b, 25⟩, some ⟨.a, 3⟩, some ⟨.c, 3⟩⟩) ∧
    decodes false 0x1700A22000000000 (.gwr ⟨.s8, .rne, .ift, 1, false, 0x22, none, none, none⟩) := by decide +kernel

theorem test_decode_integer_1 :
    decodes true 0x2050C00A1B805C03 (.add ⟨.z16, .rne, .ift, 2, false, 0x00, some ⟨.b, 27⟩, some ⟨.a, 5⟩, some ⟨.c, 3⟩⟩) ∧
    decodes true 0x2150C00A1C806C03 (.sub ⟨.z16, .rne, .ift, 2, false, 0x00, some ⟨.b, 28⟩, some ⟨.a, 6⟩, some ⟨.c, 3⟩⟩) ∧
    decodes true 0x2250C00A1D807C03 (.mul ⟨.z16, .rne, .ift, 2, false, 0x00, some ⟨.b, 29⟩, some ⟨.a, 7⟩, some ⟨.c, 3⟩⟩) ∧
    decodes true 0x2350C00A01808C03 (.mulh ⟨.z16, .rne, .ift, 2, false, 0x00, some ⟨.b, 1⟩, some ⟨.a, 8⟩, some ⟨.c, 3⟩⟩) ∧
    decodes true 0x2450E00A02809C03 (.mad ⟨.z16, .rne, .ift, 3, false, 0x00, some ⟨.b, 2⟩, some ⟨.a, 9⟩, some ⟨.c, 3⟩⟩) ∧
    decodes true 0x2520C03A0380AC03 (.div ⟨.s32, .rne, .ift, 2, false, 0x03, some ⟨.b, 3⟩, some ⟨.a, 10⟩, some ⟨.c, 3⟩⟩) ∧
    decodes true 0x2650C00A0480BC03 (.min ⟨.z16, .rne, .ift, 2, false, 0x00, some ⟨.b, 4⟩, some ⟨.a, 11⟩, some ⟨.c, 3⟩⟩) ∧
    decodes true 0x2750C00A0580CC03 (.max ⟨.z16, .rne, .ift, 2, false, 0x00, some ⟨.b, 5⟩, some ⟨.a, 12⟩, some ⟨.c, 3⟩⟩) ∧
    decodes true 0x2850C00A0680DC03 (.andI ⟨.z16, .rne, .ift, 2, false, 0x00, some ⟨.b, 6⟩, some ⟨.a, 13⟩, some ⟨.c, 3⟩⟩) ∧
    decodes true 0x2950C00A0780EC03 (.orI ⟨.z16, .rne, .ift, 2, false, 0x00, some ⟨.b, 7⟩, some ⟨.a, 14⟩, some ⟨.c, 3⟩⟩) ∧
    decodes true 0x2A50C00A0880FC03 (.xorI ⟨.z16, .rne, .ift, 2, false, 0x00, some ⟨.b, 8⟩, some ⟨.a, 15⟩, some ⟨.c, 3⟩⟩) ∧
    decodes true 0x2B50C00A09810C03 (.andn ⟨.z16, .rne, .ift, 2, false, 0x00, some ⟨.b, 9⟩, some ⟨.a, 16⟩, some ⟨.c, 3⟩⟩) ∧
    decodes true 0x2C50C00A0A811C03 (.shl ⟨.z16, .rne, .ift, 2, false, 0x00, some ⟨.b, 10⟩, some ⟨.a, 17⟩, some ⟨.c, 3⟩⟩) ∧
    decodes true 0x2D50C00A0B812C03 (.shr ⟨.z16, .rne, .ift, 2, false, 0x00, some ⟨.b, 11⟩, some ⟨.a, 18⟩, some ⟨.c, 3⟩⟩) := by decide +kernel

theorem test_decode_integer_2 :
    decodes true 0x2E50C00A0C813C03 (.sar ⟨.z16, .rne, .ift, 2, false, 0x00, some ⟨.b, 12⟩, some ⟨.a, 19⟩, some ⟨.c, 3⟩⟩) ∧
    decodes true 0x2F50A00A0D814C03 (.clz ⟨.z16, .rne, .ift, 1, false, 0x00, some ⟨.b, 13⟩, some ⟨.a, 20⟩, some ⟨.c, 3⟩⟩) ∧
    decodes true 0x3050A00A0E815C03 (.popc ⟨.z16, .rne, .ift, 1, false, 0x00, some ⟨.b, 14⟩, some ⟨.a, 21⟩, some ⟨.c, 3⟩⟩) ∧
    decodes true 0x3150C00A0F816C03 (.cmp ⟨.z16, .rne, .ift, 2, false, 0x00, some ⟨.b, 15⟩, some ⟨.a, 22⟩, some ⟨.c, 3⟩⟩) ∧
    decodes true 0x3250E00A10817C03 (.sel ⟨.z16, .rne, .ift, 3, false, 0x00, some ⟨.b, 16⟩, some ⟨.a, 23⟩, some ⟨.c, 3⟩⟩) ∧
    decodes true 0x3350C00A11818C03 (.ext ⟨.z16, .rne, .ift, 2, false, 0x00, some ⟨.b, 17⟩, some ⟨.a, 24⟩, some ⟨.c, 3⟩⟩) ∧
    decodes true 0x3400C22A12802C03 (.lea ⟨.s8, .rne, .ift, 2, false, 0x22, some ⟨.b, 18⟩, some ⟨.a, 2⟩, some ⟨.c, 3⟩⟩) := by decide +kernel

theorem test_decode_float_1 :
    decodes true 0x40E6C00A13803C03 (.fadd ⟨.f32, .rdn, .ift, 2, false, 0x00, some ⟨.b, 19⟩, some ⟨.a, 3⟩, some ⟨.c, 3⟩⟩) ∧
    decodes true 0x41E6C00A14804C03 (.fsub ⟨.f32, .rdn, .ift, 2, false, 0x00, some ⟨.b, 20⟩, some ⟨.a, 4⟩, some ⟨.c, 3⟩⟩) ∧
    decodes true 0x42E6C00A15805C03 (.fmul ⟨.f32, .rdn, .ift, 2, false, 0x00, some ⟨.b, 21⟩, some ⟨.a, 5⟩, some ⟨.c, 3⟩⟩) ∧
    decodes true 0x43E6E00A16806C03 (.ffma ⟨.f32, .rdn, .ift, 3, false, 0x00, some ⟨.b, 22⟩, some ⟨.a, 6⟩, some ⟨.c, 3⟩⟩) ∧
    decodes true 0x44E6C00A17807C03 (.fdiv ⟨.f32, .rdn, .ift, 2, false, 0x00, some ⟨.b, 23⟩, some ⟨.a, 7⟩, some ⟨.c, 3⟩⟩) ∧
    decodes true 0x45E6A00A18808C03 (.fsqrt ⟨.f32, .rdn, .ift, 1, false, 0x00, some ⟨.b, 24⟩, some ⟨.a, 8⟩, some ⟨.c, 3⟩⟩) ∧
    decodes true 0x46E6A00A19809C03 (.frcp ⟨.f32, .rdn, .ift, 1, false, 0x00, some ⟨.b, 25⟩, some ⟨.a, 9⟩, some ⟨.c, 3⟩⟩) ∧
    decodes true 0x47E6A00A1A80AC03 (.frsq ⟨.f32, .rdn, .ift, 1, false, 0x00, some ⟨.b, 26⟩, some ⟨.a, 10⟩, some ⟨.c, 3⟩⟩) ∧
    decodes true 0x48E0C00A1B80BC03 (.fmin ⟨.f32, .rne, .ift, 2, false, 0x00, some ⟨.b, 27⟩, some ⟨.a, 11⟩, some ⟨.c, 3⟩⟩) ∧
    decodes true 0x49E0C00A1C80CC03 (.fmax ⟨.f32, .rne, .ift, 2, false, 0x00, some ⟨.b, 28⟩, some ⟨.a, 12⟩, some ⟨.c, 3⟩⟩) ∧
    decodes true 0x4AE0A00A1D80DC03 (.fsgn ⟨.f32, .rne, .ift, 1, false, 0x00, some ⟨.b, 29⟩, some ⟨.a, 13⟩, some ⟨.c, 3⟩⟩) ∧
    decodes true 0x4BE0C00A0180EC03 (.fcmp ⟨.f32, .rne, .ift, 2, false, 0x00, some ⟨.b, 1⟩, some ⟨.a, 14⟩, some ⟨.c, 3⟩⟩) ∧
    decodes true 0x4CE0AC3A0280FC03 (.fcls ⟨.f32, .rne, .ift, 1, false, 0xC3, some ⟨.b, 2⟩, some ⟨.a, 15⟩, some ⟨.c, 3⟩⟩) ∧
    decodes true 0x4D06AC3A03810C03 (.fcvt ⟨.s8, .rdn, .ift, 1, false, 0xC3, some ⟨.b, 3⟩, some ⟨.a, 16⟩, some ⟨.c, 3⟩⟩) := by decide +kernel

theorem test_decode_float_2 :
    decodes true 0x4EE6A00A04811C03 (.frnd ⟨.f32, .rdn, .ift, 1, false, 0x00, some ⟨.b, 4⟩, some ⟨.a, 17⟩, some ⟨.c, 3⟩⟩) ∧
    decodes true 0x4FE6C00A05812C03 (.fscl ⟨.f32, .rdn, .ift, 2, false, 0x00, some ⟨.b, 5⟩, some ⟨.a, 18⟩, some ⟨.c, 3⟩⟩) := by decide +kernel

theorem test_decode_lane :
    decodes true 0x6000A0AA06813C03 (.bcst ⟨.s8, .rne, .ift, 1, false, 0x0A, some ⟨.b, 6⟩, some ⟨.a, 19⟩, some ⟨.c, 3⟩⟩) ∧
    decodes true 0x6100A43A07814C03 (.shuf ⟨.s8, .rne, .ift, 1, false, 0x43, some ⟨.b, 7⟩, some ⟨.a, 20⟩, some ⟨.c, 3⟩⟩) ∧
    decodes true 0x6250A01A08815C03 (.pack ⟨.z16, .rne, .ift, 1, false, 0x01, some ⟨.b, 8⟩, some ⟨.a, 21⟩, some ⟨.c, 3⟩⟩) ∧
    decodes true 0x6350A00A09816C03 (.unpk ⟨.z16, .rne, .ift, 1, false, 0x00, some ⟨.b, 9⟩, some ⟨.a, 22⟩, some ⟨.c, 3⟩⟩) ∧
    decodes true 0x64E6A02A0A817C03 (.vred ⟨.f32, .rdn, .ift, 1, false, 0x02, some ⟨.b, 10⟩, some ⟨.a, 23⟩, some ⟨.c, 3⟩⟩) ∧
    decodes true 0x65E6A05A0B818C03 (.scan ⟨.f32, .rdn, .ift, 1, false, 0x05, some ⟨.b, 11⟩, some ⟨.a, 24⟩, some ⟨.c, 3⟩⟩) ∧
    decodes true 0x66E6C02A0C802C03 (.tred ⟨.f32, .rdn, .ift, 2, false, 0x02, some ⟨.b, 12⟩, some ⟨.a, 2⟩, some ⟨.c, 3⟩⟩) ∧
    decodes true 0x6700AC3A0D803C03 (.rng ⟨.s8, .rne, .ift, 1, false, 0xC3, some ⟨.b, 13⟩, some ⟨.a, 3⟩, some ⟨.c, 3⟩⟩) := by decide +kernel

theorem test_decode_memory_1 :
    decodes true 0x7050B00A0E804C03 (.ld ⟨.z16, .rne, .ift, 1, true, 0x00, some ⟨.b, 14⟩, some ⟨.a, 4⟩, some ⟨.c, 3⟩⟩) ∧
    decodes true 0x7150D00A0F805C03 (.st ⟨.z16, .rne, .ift, 2, true, 0x00, some ⟨.b, 15⟩, some ⟨.a, 5⟩, some ⟨.c, 3⟩⟩) ∧
    decodes true 0x7250D00A10806C03 (.ldv ⟨.z16, .rne, .ift, 2, true, 0x00, some ⟨.b, 16⟩, some ⟨.a, 6⟩, some ⟨.c, 3⟩⟩) ∧
    decodes true 0x7350F00A11807C03 (.stv ⟨.z16, .rne, .ift, 3, true, 0x00, some ⟨.b, 17⟩, some ⟨.a, 7⟩, some ⟨.c, 3⟩⟩) ∧
    decodes true 0x7450D22A12808C03 (.gth ⟨.z16, .rne, .ift, 2, true, 0x22, some ⟨.b, 18⟩, some ⟨.a, 8⟩, some ⟨.c, 3⟩⟩) ∧
    decodes true 0x7550F22A13809C03 (.sct ⟨.z16, .rne, .ift, 3, true, 0x22, some ⟨.b, 19⟩, some ⟨.a, 9⟩, some ⟨.c, 3⟩⟩) ∧
    decodes true 0x7550F43A1480AC03 (.sctCompact ⟨.z16, .rne, .ift, 3, true, 0x43, some ⟨.b, 20⟩, some ⟨.a, 10⟩, some ⟨.c, 3⟩⟩) ∧
    decodes true 0x7670B00A1580BC03 (.ird ⟨.z64, .rne, .ift, 1, true, 0x00, some ⟨.b, 21⟩, some ⟨.a, 11⟩, some ⟨.c, 3⟩⟩) ∧
    decodes true 0x7770D00A1680CC03 (.iwr ⟨.z64, .rne, .ift, 2, true, 0x00, some ⟨.b, 22⟩, some ⟨.a, 12⟩, some ⟨.c, 3⟩⟩) ∧
    decodes true 0x7800B00A1780DC03 (.irst ⟨.s8, .rne, .ift, 1, true, 0x00, some ⟨.b, 23⟩, some ⟨.a, 13⟩, some ⟨.c, 3⟩⟩) ∧
    decodes true 0x7950B00A1880EC03 (.hin ⟨.z16, .rne, .ift, 1, true, 0x00, some ⟨.b, 24⟩, some ⟨.a, 14⟩, some ⟨.c, 3⟩⟩) ∧
    decodes true 0x7A50D00A1980FC03 (.hout ⟨.z16, .rne, .ift, 2, true, 0x00, some ⟨.b, 25⟩, some ⟨.a, 15⟩, some ⟨.c, 3⟩⟩) ∧
    decodes true 0x8070D00A1A810C03 (.aadd ⟨.z64, .rne, .ift, 2, true, 0x00, some ⟨.b, 26⟩, some ⟨.a, 16⟩, some ⟨.c, 3⟩⟩) ∧
    decodes true 0x8170D00A1B811C03 (.amin ⟨.z64, .rne, .ift, 2, true, 0x00, some ⟨.b, 27⟩, some ⟨.a, 17⟩, some ⟨.c, 3⟩⟩) := by decide +kernel

theorem test_decode_memory_2 :
    decodes true 0x8270D00A1C812C03 (.amax ⟨.z64, .rne, .ift, 2, true, 0x00, some ⟨.b, 28⟩, some ⟨.a, 18⟩, some ⟨.c, 3⟩⟩) ∧
    decodes true 0x8370D00A1D813C03 (.alog ⟨.z64, .rne, .ift, 2, true, 0x00, some ⟨.b, 29⟩, some ⟨.a, 19⟩, some ⟨.c, 3⟩⟩) ∧
    decodes true 0x8470D00A01814C03 (.axch ⟨.z64, .rne, .ift, 2, true, 0x00, some ⟨.b, 1⟩, some ⟨.a, 20⟩, some ⟨.c, 3⟩⟩) ∧
    decodes true 0x8570F00A02815C03 (.acas ⟨.z64, .rne, .ift, 3, true, 0x00, some ⟨.b, 2⟩, some ⟨.a, 21⟩, some ⟨.c, 3⟩⟩) ∧
    decodes true 0x86E6F00A03816C03 (.red ⟨.f32, .rdn, .ift, 3, true, 0x00, some ⟨.b, 3⟩, some ⟨.a, 22⟩, some ⟨.c, 3⟩⟩) := by decide +kernel

theorem test_decode_matrix :
    decodes true 0x90C0C05A04817C03 (.mma ⟨.bf16, .rne, .ift, 2, false, 0x05, some ⟨.b, 4⟩, some ⟨.a, 23⟩, some ⟨.c, 3⟩⟩) ∧
    decodes true 0x91C0C05A05818C03 (.mmaz ⟨.bf16, .rne, .ift, 2, false, 0x05, some ⟨.b, 5⟩, some ⟨.a, 24⟩, some ⟨.c, 3⟩⟩) ∧
    decodes true 0x92E0A05A06802C03 (.acrd ⟨.f32, .rne, .ift, 1, false, 0x05, some ⟨.b, 6⟩, some ⟨.a, 2⟩, some ⟨.c, 3⟩⟩) ∧
    decodes true 0x93E0A05A07803C03 (.acwr ⟨.f32, .rne, .ift, 1, false, 0x05, some ⟨.b, 7⟩, some ⟨.a, 3⟩, some ⟨.c, 3⟩⟩) ∧
    decodes true 0x94B0A00A07809C03 (.scle ⟨.e5m2, .rne, .ift, 1, false, 0x00, some ⟨.b, 7⟩, some ⟨.a, 9⟩, some ⟨.c, 3⟩⟩) ∧
    decodes true 0x9550A00A09805C03 (.ctrn ⟨.z16, .rne, .ift, 1, false, 0x00, some ⟨.b, 9⟩, some ⟨.a, 5⟩, some ⟨.c, 3⟩⟩) := by decide +kernel

theorem test_decode_verdict :
    decodes true 0xA000C00A0A806C03 (.vopen ⟨.s8, .rne, .ift, 2, false, 0x00, some ⟨.b, 10⟩, some ⟨.a, 6⟩, some ⟨.c, 3⟩⟩) ∧
    decodes true 0xA1E0C00A0B807C03 (.vacc ⟨.f32, .rne, .ift, 2, false, 0x00, some ⟨.b, 11⟩, some ⟨.a, 7⟩, some ⟨.c, 3⟩⟩) ∧
    decodes true 0xA2E0A00A0C808C03 (.vclose ⟨.f32, .rne, .ift, 1, false, 0x00, some ⟨.b, 12⟩, some ⟨.a, 8⟩, some ⟨.c, 3⟩⟩) ∧
    decodes true 0xA3E0A00A0D809C03 (.vchk ⟨.f32, .rne, .ift, 1, false, 0x00, some ⟨.b, 13⟩, some ⟨.a, 9⟩, some ⟨.c, 3⟩⟩) ∧
    decodes true 0xA4E0C00A0E80AC03 (.vthrRaise ⟨.f32, .rne, .ift, 2, false, 0x00, some ⟨.b, 14⟩, some ⟨.a, 10⟩, some ⟨.c, 3⟩⟩) ∧
    decodes true 0xA4E0C01A0F80BC03 (.vthrReset ⟨.f32, .rne, .ift, 2, false, 0x01, some ⟨.b, 15⟩, some ⟨.a, 11⟩, some ⟨.c, 3⟩⟩) ∧
    decodes true 0xA5E0CC3A1080CC03 (.vtopk ⟨.f32, .rne, .ift, 2, false, 0xC3, some ⟨.b, 16⟩, some ⟨.a, 12⟩, some ⟨.c, 3⟩⟩) := by decide +kernel

theorem test_decode_stream :
    decodes true 0xB8E6C00A1180DC03 (.saadd ⟨.f32, .rdn, .ift, 2, false, 0x00, some ⟨.b, 17⟩, some ⟨.a, 13⟩, some ⟨.c, 3⟩⟩) ∧
    decodes true 0xB9E6E01A1280EC03 (.sanrm ⟨.f32, .rdn, .ift, 3, false, 0x01, some ⟨.b, 18⟩, some ⟨.a, 14⟩, some ⟨.c, 3⟩⟩) ∧
    decodes true 0xBA00A00A1380FC03 (.sacnt ⟨.s8, .rne, .ift, 1, false, 0x00, some ⟨.b, 19⟩, some ⟨.a, 15⟩, some ⟨.c, 3⟩⟩) ∧
    decodes true 0xBB00C00A14810C03 (.sazro ⟨.s8, .rne, .ift, 2, false, 0x00, some ⟨.b, 20⟩, some ⟨.a, 16⟩, some ⟨.c, 3⟩⟩) ∧
    decodes true 0xBC00E01A15811C03 (.saevc ⟨.s8, .rne, .ift, 3, false, 0x01, some ⟨.b, 21⟩, some ⟨.a, 17⟩, some ⟨.c, 3⟩⟩) ∧
    decodes true 0xBD00C00A16812C03 (.salod ⟨.s8, .rne, .ift, 2, false, 0x00, some ⟨.b, 22⟩, some ⟨.a, 18⟩, some ⟨.c, 3⟩⟩) := by decide +kernel

theorem test_decode_lace :
    decodes true 0xC000C00A17813C03 (.lbind ⟨.s8, .rne, .ift, 2, false, 0x00, some ⟨.b, 23⟩, some ⟨.a, 19⟩, some ⟨.c, 3⟩⟩) ∧
    decodes true 0xC150C22A18814C03 (.lfeed ⟨.z16, .rne, .ift, 2, false, 0x22, some ⟨.b, 24⟩, some ⟨.a, 20⟩, some ⟨.c, 3⟩⟩) ∧
    decodes true 0xC200E00A19815C03 (.lqry ⟨.s8, .rne, .ift, 3, false, 0x00, some ⟨.b, 25⟩, some ⟨.a, 21⟩, some ⟨.c, 3⟩⟩) ∧
    decodes true 0xC300E01A1A816C03 (.lsusp ⟨.s8, .rne, .ift, 3, false, 0x01, some ⟨.b, 26⟩, some ⟨.a, 22⟩, some ⟨.c, 3⟩⟩) ∧
    decodes true 0xC400E00A1B817C03 (.lresm ⟨.s8, .rne, .ift, 3, false, 0x00, some ⟨.b, 27⟩, some ⟨.a, 23⟩, some ⟨.c, 3⟩⟩) ∧
    decodes true 0xC500A00A1C818C03 (.ldrop ⟨.s8, .rne, .ift, 1, false, 0x00, some ⟨.b, 28⟩, some ⟨.a, 24⟩, some ⟨.c, 3⟩⟩) := by decide +kernel

theorem test_decode_system_1 :
    decodes false 0xE000C00A1D802C03 (.cfgld ⟨.s8, .rne, .ift, 2, false, 0x00, some ⟨.b, 29⟩, some ⟨.a, 2⟩, some ⟨.c, 3⟩⟩) ∧
    decodes false 0xE100A00A01803C03 (.cfgsw ⟨.s8, .rne, .ift, 1, false, 0x00, some ⟨.b, 1⟩, some ⟨.a, 3⟩, some ⟨.c, 3⟩⟩) ∧
    decodes false 0xE200C00A02804C03 (.splice ⟨.s8, .rne, .ift, 2, false, 0x00, some ⟨.b, 2⟩, some ⟨.a, 4⟩, some ⟨.c, 3⟩⟩) ∧
    decodes false 0xE300CC3A03805C03 (.launch ⟨.s8, .rne, .ift, 2, false, 0xC3, some ⟨.b, 3⟩, some ⟨.a, 5⟩, some ⟨.c, 3⟩⟩) ∧
    decodes false 0xE400C00A04806C03 (.seed ⟨.s8, .rne, .ift, 2, false, 0x00, some ⟨.b, 4⟩, some ⟨.a, 6⟩, some ⟨.c, 3⟩⟩) ∧
    decodes false 0xE500A01A05807C03 (.evwait ⟨.s8, .rne, .ift, 1, false, 0x01, some ⟨.b, 5⟩, some ⟨.a, 7⟩, some ⟨.c, 3⟩⟩) ∧
    decodes true 0xE600AC3A06808C03 (.evpost ⟨.s8, .rne, .ift, 1, false, 0xC3, some ⟨.b, 6⟩, some ⟨.a, 8⟩, some ⟨.c, 3⟩⟩) ∧
    decodes false 0xE700C00A07809C03 (.markFreeze ⟨.s8, .rne, .ift, 2, false, 0x00, some ⟨.b, 7⟩, some ⟨.a, 9⟩, some ⟨.c, 3⟩⟩) ∧
    decodes false 0xE700C01A0880AC03 (.markGang ⟨.s8, .rne, .ift, 2, false, 0x01, some ⟨.b, 8⟩, some ⟨.a, 10⟩, some ⟨.c, 3⟩⟩) ∧
    decodes false 0xE700C02A0980BC03 (.markResume ⟨.s8, .rne, .ift, 2, false, 0x02, some ⟨.b, 9⟩, some ⟨.a, 11⟩, some ⟨.c, 3⟩⟩) ∧
    decodes false 0xE800E03A0A80CC03 (.snap ⟨.s8, .rne, .ift, 3, false, 0x03, some ⟨.b, 10⟩, some ⟨.a, 12⟩, some ⟨.c, 3⟩⟩) ∧
    decodes false 0xE900C00A0B80DC03 (.rstr ⟨.s8, .rne, .ift, 2, false, 0x00, some ⟨.b, 11⟩, some ⟨.a, 13⟩, some ⟨.c, 3⟩⟩) ∧
    decodes false 0xEA00E00A0C80EC03 (.xlinv ⟨.s8, .rne, .ift, 3, false, 0x00, some ⟨.b, 12⟩, some ⟨.a, 14⟩, some ⟨.c, 3⟩⟩) ∧
    decodes true 0xEB00A00A0D80FC03 (.throt ⟨.s8, .rne, .ift, 1, false, 0x00, some ⟨.b, 13⟩, some ⟨.a, 15⟩, some ⟨.c, 3⟩⟩) := by decide +kernel

theorem test_decode_system_2 :
    decodes true 0xEC00A03A0E810C03 (.sysrd ⟨.s8, .rne, .ift, 1, false, 0x03, some ⟨.b, 14⟩, some ⟨.a, 16⟩, some ⟨.c, 3⟩⟩) ∧
    decodes true 0xEC00A05A0F811C03 (.sysrdFltdrop ⟨.s8, .rne, .ift, 1, false, 0x05, some ⟨.b, 15⟩, some ⟨.a, 17⟩, some ⟨.c, 3⟩⟩) ∧
    decodes false 0xED00A00A10812C03 (.syswrMode ⟨.s8, .rne, .ift, 1, false, 0x00, some ⟨.b, 16⟩, some ⟨.a, 18⟩, some ⟨.c, 3⟩⟩) ∧
    decodes false 0xED00A03A11813C03 (.syswrThrotwin ⟨.s8, .rne, .ift, 1, false, 0x03, some ⟨.b, 17⟩, some ⟨.a, 19⟩, some ⟨.c, 3⟩⟩) ∧
    decodes false 0xED00A05A12814C03 (.syswr ⟨.s8, .rne, .ift, 1, false, 0x05, some ⟨.b, 18⟩, some ⟨.a, 20⟩, some ⟨.c, 3⟩⟩) ∧
    decodes true 0xEE00C43A13815C03 (.trap ⟨.s8, .rne, .ift, 2, false, 0x43, some ⟨.b, 19⟩, some ⟨.a, 21⟩, some ⟨.c, 3⟩⟩) ∧
    decodes false 0xEF00A00000000000 (.halt ⟨.s8, .rne, .ift, 1, false, 0x00, none, none, none⟩) := by decide +kernel

/-- The words that the spec's own examples give. -/
theorem test_decode_spec_examples :
    decodes false 0xEB00201802000000 (.throt ⟨.s8, .rne, .always, 1, false, 1, some ⟨.a, 2⟩, none, none⟩) ∧
    decodes true 0xC150402805000000 (.lfeed ⟨.z16, .rne, .always, 2, false, 2, some ⟨.a, 5⟩, none, none⟩) ∧
    decodes false 0x2010480805000000 (.add ⟨.s16, .rne, .always, 2, false, 0x80, some ⟨.a, 5⟩, none, none⟩) ∧
    decodes false 0xE000400805000000 (.cfgld ⟨.s8, .rne, .always, 2, false, 0, some ⟨.a, 5⟩, none, none⟩) ∧
    decodes true 0xE600201000000000 (.evpost ⟨.s8, .rne, .always, 1, false, 1, none, none, none⟩) ∧
    decodes true 0x41E0400805000000 (.fsub ⟨.f32, .rne, .always, 2, false, 0, some ⟨.a, 5⟩, none, none⟩) ∧
    decodes true 0x4D9020E809000000 (.fcvt ⟨.t8, .rne, .always, 1, false, 0x0E, some ⟨.a, 9⟩, none, none⟩) ∧
    decodes true 0x74E0502803000000 (.gth ⟨.f32, .rne, .always, 2, true, 2, some ⟨.a, 3⟩, none, none⟩) ∧
    decodes false 0xE300C20806000000 (.launch ⟨.s8, .rne, .ift, 2, false, 32, some ⟨.a, 6⟩, none, none⟩) ∧
    decodes true 0x7040300807000000 (.ld ⟨.z8, .rne, .always, 1, true, 0, some ⟨.a, 7⟩, none, none⟩) ∧
    decodes false 0xE700400804000000 (.markFreeze ⟨.s8, .rne, .always, 2, false, 0, some ⟨.a, 4⟩, none, none⟩) ∧
    decodes true 0x90C0405802000000 (.mma ⟨.bf16, .rne, .always, 2, false, 5, some ⟨.a, 2⟩, none, none⟩) ∧
    decodes false 0xE900400806000000 (.rstr ⟨.s8, .rne, .always, 2, false, 0, some ⟨.a, 6⟩, none, none⟩) ∧
    decodes true 0x2E20400803000000 (.sar ⟨.s32, .rne, .always, 2, false, 0, some ⟨.a, 3⟩, none, none⟩) ∧
    decodes false 0xE800601804000000 (.snap ⟨.s8, .rne, .always, 3, false, 1, some ⟨.a, 4⟩, none, none⟩) ∧
    decodes false 0xEC00004805000000 (.sysrd ⟨.s8, .rne, .always, 0, false, 4, some ⟨.a, 5⟩, none, none⟩) ∧
    decodes true 0xA3E0200802000000 (.vchk ⟨.f32, .rne, .always, 1, false, 0, some ⟨.a, 2⟩, none, none⟩) ∧
    decodes false 0xEA00600807000000 (.xlinv ⟨.s8, .rne, .always, 3, false, 0, some ⟨.a, 7⟩, none, none⟩) := by
  decide +kernel

/-- The table's word of ADD with no targets decodes, and one of nbits 64 with a reserved opcode does not. -/
theorem test_table_word : decodeTableWord 64 0x2000400000000000 = some (.add ⟨.s8, .rne, .always, 2, false, 0, none, none, none⟩) ∧
    decodeTableWord 64 0xB100000000000000 = none := by decide +kernel

/- Terms and words that are refused, one for each check. -/

/-- A well-formed ADD, from which each ill-formed one differs in one field. -/
def addZ16 : Niw := ⟨.z16, .rne, .always, 2, false, 0, some ⟨.a, 3⟩, none, none⟩

theorem test_wellformed_add : (Instr.add addZ16).wellFormed true = true := by decide +kernel
theorem test_illformed_format : (Instr.add { addZ16 with fmt := .f32 }).wellFormed true = false := by decide +kernel
theorem test_illformed_rounding : (Instr.add { addZ16 with rnd := .rup }).wellFormed true = false := by decide +kernel
theorem test_illformed_arity : (Instr.add { addZ16 with ari := 3 }).wellFormed true = false := by decide +kernel
theorem test_illformed_constant : (Instr.add { addZ16 with xw := true }).wellFormed true = false := by decide +kernel
theorem test_illformed_immediate : (Instr.add { addZ16 with imm := 1 }).wellFormed true = false := by decide +kernel
theorem test_illformed_mode : (Instr.shuf addZ16).wellFormed false = false ∧ (Instr.br addZ16).wellFormed true = false := by decide +kernel
theorem test_illformed_swizzle : (Instr.shuf { addZ16 with fmt := .s8, ari := 1, imm := 0x44 }).wellFormed true = false := by
  decide +kernel
theorem test_illformed_block_target :
    (Instr.add { addZ16 with t0 := some ⟨.a, 32⟩ }).wellFormed false = false ∧
    (Instr.add { addZ16 with t0 := some ⟨.a, 31⟩ }).wellFormed false = true := by decide +kernel
theorem test_illformed_ret_target : (Instr.ret ⟨.s8, .rne, .always, 1, false, 0, none, none, none⟩).wellFormed true = false := by
  decide +kernel
theorem test_illformed_many_targets :
    (Instr.steer ⟨.s8, .rne, .always, 1, false, 0, some ⟨.a, 1⟩, some ⟨.a, 2⟩, some ⟨.a, 3⟩⟩).wellFormed true = false := by decide +kernel
theorem test_illformed_trap_free_verdict :
    (Instr.vthrReset ⟨.f32, .rne, .always, 2, false, 1, none, none, none⟩).wellFormed true = false := by decide +kernel
theorem test_illformed_event : Instr.arbiterGrant.wellFormed true = false ∧ encode .arbiterGrant = none := by decide +kernel

theorem test_word_reserved_opcode : decodeWord true 0xFF00000000000000 = .error 0x040 := by decide +kernel
theorem test_word_wrong_mode : decodeWord false 0x6100200000000000 = .error 0x044 := by decide +kernel
theorem test_word_format : decodeWord true 0x20E0400000000000 = .error 0x042 := by decide +kernel
theorem test_word_rounding : decodeWord true 0x200E400000000000 = .error 0x043 := by decide +kernel
theorem test_word_target : decodeWord true 0x2000400001000000 = .error 0x041 := by decide +kernel

/- A small machine: one tile whose route entry 0 leads to its own node 4, one context, one operation. -/

/-- The tile that issues. -/
def tile : TileId := ⟨.w, 0, 2⟩
/-- The memory tile east of it. -/
def mem : TileId := ⟨.w, 1, 2⟩
/-- Its plane: entry 0 to its own node 4, entry 1 to the memory tile's channel 0, and the constant 5. -/
def plane : CPlane :=
  { ctx := 1, img := 0, ins := [], cons := [5], routes := [0x00008000, 0x40100000], tpls := [(0, 8)],
    stages := [0, 0, 0, 0, 0, 0], mode := ⟨.rne, false, false⟩, widths := [5, 6, 7, 8], bodies := [] }
/-- The context. -/
def ctx : Ctx :=
  { num := 1, launch := 9, st := .running, program := false, home := 0, host := none, parent := none, handle := 0, img := 0,
    phys := false, seed := 5, part := 64, skl := 6, prio := 0, gang := 0, ten := 0, root := 0, rset := 1, sys := false, mode := 0,
    k := 0, arrival := 0, req := none, image := none, seeds := [], round := 0, issuer := none, markers := [], quiet := [],
    stopAfter := false, endAfter := false, gangMark := false, loops := [], skein := [], endpoints := [], sections := [],
    splice := none, switched := [], entered := [] }
/-- Fields without operands: no target but slot a of entry 0. -/
def fields (f : Fmt) (ari imm : Nat) : Niw :=
  ⟨f, .rne, .always, BitVec.ofNat 2 ari, false, BitVec.ofNat 8 imm, some ⟨.a, 0⟩, none, none⟩
/-- A token of context 1 with no field pushed. -/
def tok (v : Value) : Tok := ⟨tagOf 1 0 0, v, true, false, false⟩
/-- An operation of the tile with these operands. -/
def opOf (i : Instr) (vs : List Value) : Issued :=
  { site := .tile tile, word := (encode i).getD 0, ctx := 1, tag := tagOf 1 0 0, node := 3, draw := 0, a := (vs[0]?).map tok,
    b := (vs[1]?).map tok, c := (vs[2]?).map tok, p := none, konst := none, mode := ⟨.rne, false, false⟩, released := false,
    walk := none }
/-- The machine with an operation issued. -/
def withOp (op : Issued) : State :=
  { State.reset with ctxs := [ctx], issue := some op, ctiles := [(tile, { CTile.reset with active := some plane })] }
/-- The machine that issues an instruction with these operands. -/
def issuing (i : Instr) (vs : List Value) : State := withOp (opOf i vs)
/-- What a step on that machine sends to the tile's own node 4: value and predicate. -/
def sent (i : Instr) (vs : List Value) : List (Value × Bool) :=
  match step (issuing i vs) with
  | .next t => (t.ctile tile).own.map fun q => (q.tok.val, q.tok.pred)
  | _ => []
/-- A vector of these lanes, zero after them. -/
def lanes (l : List Word) (m : BitVec 16) : Value := .vector (l ++ List.replicate (16 - l.length) 0) m
/-- The causes of the faults that a step records in region 0. -/
def causes (i : Instr) (vs : List Value) : List Nat :=
  match step (issuing i vs) with
  | .next t => ((t.region 0).inbound.map (·.record)).filterMap fun r => match r with
    | .fault _ _ c _ _ _ _ _ _ _ _ _ _ => some c
    | _ => none
  | _ => []

/- The spec's worked values. -/

theorem test_add_saturates : sent (.add (fields .s16 2 0x80)) [.scalar 0x7FF0, .scalar 0x0100] = [(.scalar 0x7FFF, true)] := by
  decide +kernel
theorem test_add_wraps : sent (.add (fields .s16 2 0)) [.scalar 0x7FF0, .scalar 0x0100] = [(.scalar 0x80F0, true)] := by
  decide +kernel
theorem test_sub_saturates : sent (.sub (fields .z8 2 0x80)) [.scalar 0x10, .scalar 0x20] = [(.scalar 0, true)] := by
  decide +kernel
theorem test_sub_wraps : sent (.sub (fields .z8 2 0)) [.scalar 0x10, .scalar 0x20] = [(.scalar 0xF0, true)] := by decide +kernel
theorem test_clz : sent (.clz (fields .z64 1 0)) [.scalar 0x10] = [(.scalar 59, true)] := by decide +kernel
theorem test_clz_elements : sent (.clz (fields .z8 1 0)) [.scalar 0x10] = [(.scalar 0x0808080808080803, true)] := by decide +kernel
theorem test_popc : sent (.popc (fields .s16 1 0)) [.scalar 0xFFFF] = [(.scalar 16, true)] := by decide +kernel
theorem test_div_quotient :
    sent (.div (fields .s64 2 2)) [.scalar (-7), .scalar 2] = [(.scalar (-3), true)] := by decide +kernel
theorem test_div_remainder :
    sent (.div (fields .s64 2 3)) [.scalar (-7), .scalar 2] = [(.scalar (-1), true)] := by decide +kernel
theorem test_div_zero : sent (.div (fields .s64 2 2)) [.scalar 1, .scalar 0] = [] ∧
    causes (.div (fields .s64 2 2)) [.scalar 1, .scalar 0] = [0x0C2] := by decide +kernel
theorem test_ext_signed : sent (.ext (fields .s8 2 0)) [.scalar 0x7A, .scalar 0x0C4] = [(.scalar 0x07, true)] ∧
    sent (.ext (fields .s8 2 0)) [.scalar 0xB0, .scalar 0x0C4] = [(.scalar 0xFB, true)] := by decide +kernel
theorem test_lea : sent (.lea (fields .s8 2 0x20)) [.scalar 0x7FB00000, .scalar 13] = [(.scalar 0x0000000D7FB00000, true)] := by
  decide +kernel
theorem test_mad : sent (.mad (fields .s16 3 0)) [.scalar 0xFFFD, .scalar 1000, .scalar 7] = [(.scalar 0xF44F, true)] := by
  decide +kernel
theorem test_max_signed : sent (.max (fields .s8 2 0)) [.scalar 0x80, .scalar 0x01] = [(.scalar 0x01, true)] := by decide +kernel
theorem test_max_unsigned : sent (.max (fields .z8 2 0)) [.scalar 0x80, .scalar 0x01] = [(.scalar 0x80, true)] := by decide +kernel
theorem test_sar : sent (.sar (fields .s32 2 0)) [.scalar 0x80000010, .scalar 4] = [(.scalar 0xF8000001, true)] := by decide +kernel
theorem test_shr : sent (.shr (fields .s32 2 0)) [.scalar 0x80000010, .scalar 4] = [(.scalar 0x08000001, true)] := by decide +kernel
theorem test_shl_full_width : sent (.shl (fields .z8 2 0)) [.scalar 0xFF, .scalar 8] = [(.scalar 0, true)] := by decide +kernel
theorem test_fmin_zeros : sent (.fmin (fields .f32 2 0)) [.scalar 0x80000000, .scalar 0] = [(.scalar 0x80000000, true)] := by
  decide +kernel
theorem test_fmax_nan : sent (.fmax (fields .f32 2 0)) [.scalar 0x7FC00000, .scalar 0x40400000] = [(.scalar 0x40400000, true)] := by
  decide +kernel
theorem test_fscl_tie : sent (.fscl (fields .f32 2 0)) [.scalar 0x40400000, .scalar (-150)] = [(.scalar 2, true)] := by decide +kernel
theorem test_fadd_abandoned : sent (.fadd (fields .f32 2 0)) [.scalar 0x7FB00000, .scalar 0] = [] ∧
    causes (.fadd (fields .f32 2 0)) [.scalar 0x7FB00000, .scalar 0] = [0x0C0] := by decide +kernel
theorem test_pack : sent (.pack (fields .s8 1 1)) [lanes [300, -5, 7] 7] = [(lanes [0x07FB7F] 1, true)] := by decide +kernel
theorem test_unpk : sent (.unpk (fields .s8 1 0)) [lanes [0x07FB7F] 1] = [(lanes [127, -5, 7] 0xFF, true)] := by decide +kernel
theorem test_scan_inclusive : sent (.scan (fields .z64 1 0)) [lanes [1, 1, 1, 1] 0xF] = [(lanes [1, 2, 3, 4] 0xF, true)] := by
  decide +kernel
theorem test_scan_exclusive : sent (.scan (fields .z64 1 4)) [lanes [1, 1, 1, 1] 0xF] = [(lanes [0, 1, 2, 3] 0xF, true)] := by
  decide +kernel
theorem test_vred_max : sent (.vred (fields .z64 1 2)) [lanes [0x0E0A, 0x1308, 0x090B] 7] = [(.scalar 0x1308, true)] := by
  decide +kernel
theorem test_scle_product : sent (.scle (fields .t8 2 2)) [.scalar 0x7D0000007D, .scalar 0xC8000000C8] =
    [(.scalar 0xC6000000C6, true)] := by decide +kernel
theorem test_cmp : sent (.cmp (fields .s8 2 0x10)) [.scalar 0xFF, .scalar 1] = [(.scalar 1, false)] ∧
    sent (.cmp (fields .s8 2 0x10)) [lanes [0x0101010101010100] 1, lanes [0x0202020202020201] 1] =
      [(lanes [0x0101010101010101] 1, true)] := by decide +kernel

/- For each statement, a state and operands that meet its hypotheses; for a statement of several clauses, those of each. -/

/-- An operation as a MOV's, for statements that do not look at its word. -/
def plainOp (n : Niw) (vs : List Value) : Issued := opOf (.mov n) vs
/-- The operation is issued and runs. -/
theorem issues_with (op : Issued) (n : Niw) (h : firing n.prd op = .run) : Issues (withOp op) op n := ⟨rfl, h⟩

theorem witness_DecodeOfEncode : (Instr.add addZ16).wellFormed true = true ∧ (Instr.add addZ16).wellFormed false = true := by
  decide +kernel
theorem witness_DecodedIsEncoded : decodeWord true 0x0100200000000000 = .ok (.mov ⟨.s8, .rne, .always, 1, false, 0, none, none, none⟩) ∧
    decodeWord false 0xE000400805000000 = .ok (.cfgld ⟨.s8, .rne, .always, 2, false, 0, some ⟨.a, 5⟩, none, none⟩) := by
  decide +kernel
theorem witness_RefusedWords :
    rule 0xB1 = none ∧ rule 0xFF = none ∧ (rule 0x12).any (fun r => r.fab = false) = true ∧
    (rule 0x61).any (fun r => r.blk = false) = true ∧ (rule 0x20).any (fun r => r.fab ∧ r.fmts.testBit 14 = false) = true ∧
    headCause true 0x200E400000000000 = none ∧ headCause true 0x2000400001000000 = none ∧
    (0x2000400001000000 : BitVec 64).toNat / 2 ^ 24 % 2 ^ 11 = 1 := by decide +kernel
theorem witness_IntegerArithmetic : Issues (withOp (plainOp (fields .s16 2 0x80) [.scalar 1, .scalar 2]))
      (plainOp (fields .s16 2 0x80) [.scalar 1, .scalar 2]) (fields .s16 2 0x80) ∧
    (fields .s16 2 0x80).fmt.isFloat = false ∧ (fields .s16 2 0x80).imm.getLsbD 7 = true ∧
    (fields .s16 2 0).imm.getLsbD 7 = false := ⟨issues_with _ _ rfl, by decide, by decide, by decide⟩
theorem witness_BitwiseAndShifts : Issues (withOp (plainOp (fields .z8 3 0) [.scalar 1, lanes [2] 1, .scalar 3]))
      (plainOp (fields .z8 3 0) [.scalar 1, lanes [2] 1, .scalar 3]) (fields .z8 3 0) ∧ (fields .z8 3 0).fmt.isFloat = false :=
  ⟨issues_with _ _ rfl, by decide⟩
/-- A divisor of zero, and none. -/
theorem witness_Division :
    (∃ i ls j, i < 1 ∧ lanesAt [.scalar 1, .scalar 0] i = some ls ∧ j < Fmt.s64.perLane ∧ operand .s64 ls 1 j = 0) ∧
    ¬ (∃ i ls j, i < 1 ∧ lanesAt [.scalar 1, .scalar 3] i = some ls ∧ j < Fmt.s64.perLane ∧ operand .s64 ls 1 j = 0) := by
  refine ⟨⟨0, [1, 0], 0, by decide, by decide, by decide, by decide⟩, ?_⟩
  rintro ⟨i, ls, j, hi, hl, hj, h⟩
  obtain rfl : i = 0 := by omega
  obtain rfl : j = 0 := by simp [Fmt.perLane, Fmt.width] at hj; omega
  obtain rfl : [1, 3] = ls := by simpa [lanesAt, laneAt] using hl
  exact absurd h (by decide)
theorem witness_CompareExtractAddress : (fields .s8 2 0x28).imm.toNat / 8 % 8 = 5 ∧ (fields .s8 2 0x28).fmt.isFloat = false := by
  decide

/-- Where no operand is a vector, the elements of one lane are all there are. -/
theorem allGiven_one (count : Nat) (vs : List Value) (code : Nat → Nat → List Nat → Option (Nat × Bool)) (l : List Nat)
    (hv : vs.any (·.isVec) = false) (hl : lanesAt vs 0 = some l)
    (h : (List.range count).all (fun j => (code 0 j l).isSome) = true) : allGiven count vs code := by
  intro i ls j hi hls hj
  simp only [hv, Bool.false_eq_true, if_false] at hi
  obtain rfl : i = 0 := by omega
  obtain rfl : l = ls := Option.some.inj (hl.symm.trans hls)
  have := List.all_eq_true.mp h j (List.mem_range.mpr hj)
  intro hn
  rw [hn] at this
  exact absurd this (by decide)

/-- One and two in binary32. -/
def f32Op : Issued := plainOp (fields .f32 3 0) [.scalar 0x3F800000, .scalar 0x40000000, .scalar 0x40000000]
/-- The environment of a float node in the small machine. -/
def f32Env : FloatEnv := (after (withOp f32Op) f32Op).floatEnv f32Op (fields .f32 3 0) .f32 false

theorem witness_FloatArithmetic : Issues (withOp f32Op) f32Op (fields .f32 3 0) ∧ (fields .f32 3 0).fmt.isFloat = true ∧
    allGiven 2 (operandVals f32Op (fields .f32 3 0) id)
      (floatCode f32Env (fun xs => (xs.getD 0 .nan).add false (xs.getD 1 .nan))) ∧
    allGiven 2 (operandVals f32Op (fields .f32 3 0) id) (floatCode f32Env (fun xs => (xs.getD 0 .nan).div (xs.getD 1 .nan))) ∧
    allGiven 2 (operandVals f32Op (fields .f32 3 0) id) (floatCode f32Env (fun xs => (xs.getD 0 .nan).sqrt)) ∧
    allGiven 2 (operandVals f32Op (fields .f32 3 0) id) (floatCode f32Env
      (fun xs => ((xs.getD 0 .nan).mul (xs.getD 1 .nan)).add false (xs.getD 2 .nan))) ∧
    allGiven 2 (operandVals f32Op (fields .f32 3 0) id) (floatCode f32Env
      (fun xs => roundIntegral .f32 .rne (xs.getD 0 .nan) 0)) := by
  refine ⟨issues_with _ _ rfl, by decide, ?_, ?_, ?_, ?_, ?_⟩ <;>
    exact allGiven_one _ _ _ [0x3F800000, 0x40000000, 0x40000000] (by decide +kernel) (by decide +kernel) (by decide +kernel)
/-- The abandoned value of binary32 in slot a. -/
def badOp : Issued := plainOp (fields .f32 2 0) [.scalar 0x7FB00000, .scalar 0]
theorem witness_AbandonedOperand :
    let e := (after (withOp badOp) badOp).floatEnv badOp (fields .f32 2 0) .f32 false
    e.ntrp = false ∧ e.dest.isFloat = true ∧ lanesAt (operandVals badOp (fields .f32 2 0) id) 0 = some [0x7FB00000, 0] ∧
    abandonedElem (e.fmtOf 0) (floatOperand e [0x7FB00000, 0] 0 0) = true := by decide +kernel
theorem witness_ExactOperations : (0 < 3) ∧ (true ≠ false) ∧ ratValue (.rat false 3 4) + ratValue (.rat true 6 8) = 0 := by
  refine ⟨by decide, by decide, ?_⟩
  norm_num [ratValue]
/-- The value of a code. -/
def magOf (f : Fmt) (c : Nat) : ℚ := ratValue (decodeElem f c)
/-- A code kept; 3/2 exactly a code, and 1 + 2^-24 between two; beyond the ends of a tapered format; the last half step and the
first whole one beyond the largest number of eight bits; 7/2 and 3 on their way to an integer. -/
theorem witness_Rounding :
    (Fmt.f32.isFloat = true ∧ 0x7F7FFFFF < 2 ^ Fmt.f32.width ∧ decodeElem .f32 0x7F7FFFFF ≠ .nan) ∧
    (Fmt.t8.isFloat = true ∧ 0x7F < 2 ^ Fmt.t8.width ∧ decodeElem .t8 0x7F ≠ .nan) ∧
    (Fmt.f64.isFloat = true ∧ 1 < 2 ^ Fmt.f64.width ∧ decodeElem .f64 1 ≠ .nan) ∧ Rnd.sto ≠ .ctx ∧
    (let x := Exact.rat false 3 2
     isNumber x ∧ 0x3FC00000 ≤ maxCode .f32 ∧ reaches x (magOf .f32 0x3FC00000) ∧ ¬ exceeds x (magOf .f32 0x3FC00000)) ∧
    (let x := Exact.rat true 16777217 16777216
     isNumber x ∧ tapered .f32 = false ∧ 0x3F800000 < maxCode .f32 ∧ exceeds x (magOf .f32 0x3F800000) ∧
       ¬ reaches x (magOf .f32 0x3F800001)) ∧
    (tapered .t8 = true ∧ exceeds (.rat false (2 ^ 60) 1) (magOf .t8 (maxCode .t8)) ∧ ¬ reaches (.rat true 1 (2 ^ 60)) (magOf .t8 1)) ∧
    (let top := magOf .e4m3 (maxCode .e4m3)
     let next := 2 * top - magOf .e4m3 (maxCode .e4m3 - 1)
     tapered .e4m3 = false ∧ isNumber (.rat false 450 1) ∧ exceeds (.rat false 450 1) top ∧ ¬ reaches (.rat false 450 1) next ∧
       isNumber (.rat true 500 1) ∧ reaches (.rat true 500 1) next) ∧
    (Fmt.s8.isFloat = false ∧ isNumber (.rat true 7 2) ∧ reaches (.rat true 7 2) 3 ∧ ¬ reaches (.rat true 7 2) (3 + 1) ∧
      exceeds (.rat true 7 2) 3 ∧ reaches (.rat false 3 1) 3 ∧ ¬ exceeds (.rat false 3 1) 3) := by
  simp only [reaches, exceeds, isNumber, magOf]
  decide +kernel
theorem witness_FloatScaleSignCompareConvert :
    (let op := plainOp (fields .f32 2 0) [.scalar 0x40400000, .scalar (-150)]
     let e := (after (withOp op) op).floatEnv op (fields .f32 2 0) .f32 false
     Issues (withOp op) op (fields .f32 2 0) ∧ allGiven 2 (operandVals op (fields .f32 2 0) id) fun i j ls =>
        let v := floatOperand e ls 0 j
        if abandonedElem e.fmtA v || (e.ntrp && isNaR e.fmtA v) then none
        else rounded e i j (decodeElem e.fmtA v).finite
          ((decodeElem e.fmtA v).scale (max (-8192) (min 8192
            (BitVec.ofNat 32 (floatOperand { e with fmtB := .f32 } ls 1 j)).toInt)))) ∧
    (let op := plainOp (fields .t8 1 0x0E) [.scalar 0x42]
     let e := (after (withOp op) op).floatEnv op (fields .t8 1 0x0E) .f32 false
     Issues (withOp op) op (fields .t8 1 0x0E) ∧ e.dest = .f32 ∧ allGiven 2 (operandVals op (fields .t8 1 0x0E) id) fun i j ls =>
       rounded e i j (decodeElem .t8 (floatOperand e ls 0 j)).finite (decodeElem .t8 (floatOperand e ls 0 j))) := by
  refine ⟨⟨issues_with _ _ rfl, ?_⟩, issues_with _ _ rfl, by decide +kernel, ?_⟩
  · exact allGiven_one _ _ _ [0x40400000, 2 ^ 64 - 150] (by decide +kernel) (by decide +kernel) (by decide +kernel)
  · exact allGiven_one _ _ _ [0x42] (by decide +kernel) (by decide +kernel) (by decide +kernel)
/-- A vector with a masked lane, a scalar, and a vector of indices. -/
theorem witness_LaneMoves :
    Issues (withOp (plainOp (fields .s8 1 0x1F) [lanes [1, 2, 3] 5])) (plainOp (fields .s8 1 0x1F) [lanes [1, 2, 3] 5])
      (fields .s8 1 0x1F) ∧
    (fields .s8 1 0x1F).ari = 1 ∧ (plainOp (fields .s8 1 0x1F) [lanes [1, 2, 3] 5]).ta.isVec = true ∧
    sourceLane 2 15 15 < 16 ∧
    (let op := plainOp (fields .s8 2 0) [.scalar 1, lanes [3] 1]
     op.ta.isVec = false ∧ op.tb.isVec = true ∧ Issues (withOp op) op (fields .s8 2 0)) ∧
    (let op := plainOp (fields .s8 2 0) [lanes [3] 1, lanes [3] 1]
     op.ta.isVec = true ∧ Issues (withOp op) op (fields .s8 2 0)) ∧
    (let op := plainOp (fields .s8 2 1) [.scalar 1, .scalar 2]
     op.tb.isVec = false ∧ (fields .s8 2 1).imm.getLsbD 0 = true ∧ (fields .s8 2 1).fmt.isFloat = false ∧
     Issues (withOp op) op (fields .s8 2 1)) := by
  refine ⟨issues_with _ _ rfl, by decide, by decide, by decide, ⟨by decide, by decide, issues_with _ _ rfl⟩,
    ⟨by decide, issues_with _ _ rfl⟩, by decide, by decide, by decide, issues_with _ _ rfl⟩
/-- The positions of a vector with two lanes, the canonical tree over them, and a vector without a lane. -/
theorem witness_Reductions :
    (let op := plainOp (fields .z64 1 2) [lanes [0x0E0A, 0x1308] 3]
     let ps := allPositions .z64 op.ta.val
     Issues (withOp op) op (fields .z64 1 2) ∧ (fields .z64 1 2).imm.toNat % 4 < 3 ∧
     (ps.all fun x => x.all fun v => !abandonedElem .z64 v) = true ∧
     canonical .z64 .rne 2 (clog2 ps.length) ps = some 0x1308 ∧
     ((after (withOp op) op).floatEnv op (fields .z64 1 2) .z64 false).cve = false) ∧
    (let op := plainOp (fields .z64 1 2) [lanes [7] 0]
     Issues (withOp op) op (fields .z64 1 2) ∧ ∀ x ∈ allPositions .z64 op.ta.val, x = none) := by
  refine ⟨⟨issues_with _ _ rfl, by decide, by decide +kernel, by decide +kernel, by decide +kernel⟩, issues_with _ _ rfl,
    by decide +kernel⟩

/-- A tag of two fields: three in the outer, `i` in the inner. -/
def tag2 (i : Nat) : Word := tagOf 1 2 (3 * 2 ^ 43 + i * 2 ^ 37)
/-- A scalar operation with this tag. -/
def tagged (i : Instr) (t : Word) (vs : List Value) : Issued := { opOf i vs with tag := t }
/-- The small machine whose context has these loop records. -/
def looping (rs : List LoopRec) (op : Issued) : State := { withOp op with ctxs := [{ ctx with loops := rs }] }
/-- The record of a loop entered under `tag2`'s outer field. -/
def loopRec (cont exited : List Nat) (kill : Option Nat) : LoopRec :=
  ⟨popped [5, 6, 7, 8, 4, 4, 4, 4, 4, 4, 4, 4] (tag2 0), some (tile, 1), some 4, 0, [], cont, exited, [], false, kill, [], none⟩
/-- The operation in a block of region 1. -/
def blockOp (i : Instr) (vs : List Value) : Issued := { opOf i vs with site := .block 1 0 0 }
/-- The block: no exit counted, register 3 to be written, its write of register 4 counted. -/
def blockRun : Block :=
  { addr := 0x1000, ins := [0, 0], cons := [], sm := 0, wm := 0x18, mode := ⟨.rne, false, false⟩, toks := [], fired := [],
    doneS := 0, doneW := 0x10, exit := none, stores := [], writes := [(4, 9)], hin := [], fixed := false }
/-- The small machine with the block in flight. -/
def withBlock (op : Issued) (b : Block) (stack : List Word) : State :=
  let s := withOp op
  s.setRegion 1 { s.region 1 with bcs := [{ BlockCtx.reset with st := .run b, ctx := 1, stack := stack }] }

theorem witness_MovesAndSteering :
    Issues (withOp (plainOp (fields .s8 1 5) [lanes [1, 0] 3])) (plainOp (fields .s8 1 5) [lanes [1, 0] 3]) (fields .s8 1 5) ∧
    (let op := { plainOp (fields .s8 0 0) [] with konst := some 7 }
     Issues (withOp op) op (unbubbled { fields .s8 0 0 with prd := .bub })) ∧
    (let op := { plainOp (fields .s8 1 0) [.scalar 1] with p := some (tok (.scalar 1)) }
     (withOp op).issue = some op ∧ (∀ p ∈ op.p, p.nul = false) ∧
     ((fields .s8 1 0).prd = .always ∧ op.ta.pred = true) ∧
     ¬ ({ fields .s8 1 0 with prd := Prd.iff }.prd = .iff ∧ ∀ p ∈ op.p, p.pred = false)) := by
  refine ⟨issues_with _ _ rfl, issues_with _ _ rfl, rfl, by decide, by decide, by decide⟩
/-- A field pushed with its largest value, one too large, twelve fields already there, and none to pop. -/
theorem witness_TagFields :
    Issues (withOp (tagged (.pushf (fields .s8 2 63)) (tagOf 1 1 0) [.scalar 1, .scalar 63]))
      (tagged (.pushf (fields .s8 2 63)) (tagOf 1 1 0) [.scalar 1, .scalar 63]) (fields .s8 2 63) ∧
    (fields .s8 1 63).ari ≠ 2 ∧ pushable [5, 6, 7, 8] (tagOf 1 1 0) 63 ∧ ¬ pushable [5, 6, 7, 8] (tagOf 1 1 0) 64 ∧
    ¬ pushable [5, 6, 7, 8] (tagOf 1 12 0) 0 ∧ 0 < depthOf (tagOf 1 1 0) ∧ depthOf (tagOf 1 0 0) = 0 ∧
    (tok (.scalar 63)).val.isVec = false ∧ (tok (lanes [1] 1)).val.isVec = true ∧
    (let imm : BitVec 8 := 0x01
     imm.toNat / 16 % 4 = 0 ∧ imm.toNat % 16 < depthOf (tag2 5) ∧ depthOf (tagOf 1 1 0) ≤ imm.toNat % 16) ∧
    (0x1F : BitVec 8).toNat / 16 % 4 = 1 ∧ (0x20 : BitVec 8).toNat / 16 % 4 = 2 ∧ (0x3F : BitVec 8).toNat / 16 % 4 = 3 := by
  refine ⟨issues_with _ _ rfl, ?_⟩
  unfold pushable
  decide +kernel
/-- The route table has two entries: call site 1 finds the last, call site 2 none. -/
theorem witness_ReturnsAndTagWrites :
    (∀ i ∈ [1, 2], let op := tagged (.ret (fields .s8 1 0)) (tag2 i) [.scalar 1]
      Issues (withOp op) op (fields .s8 1 0) ∧ op.site = .tile tile ∧ ((withOp op).ctile tile).active = some plane ∧
      (fields .s8 1 0).t0 = some ⟨.a, 0⟩ ∧ 0 < depthOf op.tag ∧ innermostOf ((after (withOp op) op).widths op) op.tag = i) ∧
    1 < plane.routes.length ∧ plane.routes.length ≤ 2 ∧ depthOf (tagOf 1 0 0) = 0 ∧
    (let op := tagged (.tagwr (fields .s8 2 1)) (tag2 5) [.scalar 1, .scalar 31]
     let s := withOp op
     Issues s op (fields .s8 2 1) ∧ op.tb.isVec = false ∧ (fields .s8 2 1).imm.toNat / 16 % 4 = 0 ∧
     (fields .s8 2 1).imm.toNat % 16 < depthOf op.tag ∧ depthOf op.tag ≤ (fields .s8 2 2).imm.toNat % 16 ∧
     op.tb.word.toNat < 2 ^ ((after s op).widths op).getD 0 4 ∧ 2 ^ ((after s op).widths op).getD 0 4 ≤ 32 ∧
     (after s op).isSystem op.ctx = false) ∧
    (let op := tagged (.tagwr (fields .s8 2 0x20)) (tag2 5) [.scalar 1, .scalar (tagOf 7 1 (3 * 2 ^ 43))]
     let s := { withOp op with ctxs := [{ ctx with sys := true }] }
     Issues s op (fields .s8 2 0x20) ∧ 2 ≤ (fields .s8 2 0x20).imm.toNat / 16 % 4 ∧ (after s op).isSystem op.ctx = true ∧
     depthOf op.tb.word ≤ 12 ∧ widthOfFirst ((after s op).widths op) (depthOf op.tb.word) ≤ 48 ∧
     areaOf op.tb.word % 2 ^ (48 - widthOfFirst ((after s op).widths op) (depthOf op.tb.word)) = 0 ∧
     ¬ (depthOf (tagOf 7 1 1) ≤ 12 ∧ widthOfFirst ((after s op).widths op) (depthOf (tagOf 7 1 1)) ≤ 48 ∧
        areaOf (tagOf 7 1 1) % 2 ^ (48 - widthOfFirst ((after s op).widths op) (depthOf (tagOf 7 1 1))) = 0)) := by
  refine ⟨?_, by decide +kernel, by decide +kernel, by decide +kernel, ⟨issues_with _ _ rfl, by decide +kernel⟩, ⟨rfl, rfl⟩,
    by decide +kernel⟩
  intro i hi
  rcases List.mem_cons.mp hi with rfl | hi
  · exact ⟨issues_with _ _ rfl, by decide +kernel⟩
  · obtain rfl : i = 2 := by simpa using hi
    exact ⟨issues_with _ _ rfl, by decide +kernel⟩
theorem witness_LoopsAndGathers_Loops :
    (let op := tagged (.bound (fields .s8 1 4)) (tag2 0) [.scalar 1]
     let s := looping [] op
     Issues s op (fields .s8 1 4) ∧ op.site = .tile tile ∧ (after s op).ctx? op.ctx = some ctx ∧ (fields .s8 1 4).imm ≠ 0 ∧
     (∀ r ∈ ctx.loops, r.tag ≠ op.tag) ∧ pushable ((after s op).widths op) op.tag 0 ∧
     ctx.skein.length + ctx.loops.length < 2 ^ ctx.skl) ∧
    (let op := tagged (.wave (fields .s8 1 0)) (tag2 1) [.scalar 1]
     let r := loopRec [0] [] none
     let s := looping [r] op
     Issues s op (fields .s8 1 0) ∧ (after s op).ctx? op.ctx = some { ctx with loops := [r] } ∧ 0 < depthOf op.tag ∧
     [r].find? (·.tag = popped ((after s op).widths op) op.tag) = some r ∧ (∀ k ∈ r.kill, 1 ≤ k) ∧ (1 ∉ r.cont ∧ 1 ∉ r.exited) ∧
     innermostOf ((after s op).widths op) op.tag = 1 ∧ 1 + 1 < 2 ^ ((after s op).widths op).getD 1 4 ∧
     (∀ k, k < 1 → k ∈ r.cont) ∧ ¬ ∀ k ∈ (loopRec [0] [] (some 0)).kill, 1 ≤ k) ∧
    (let op := tagged (.exitl (fields .s8 1 0)) (tag2 63) [.scalar 1]
     let s := looping [loopRec [0] [] none] op
     innermostOf ((after s op).widths op) op.tag = 63 ∧ 2 ^ ((after s op).widths op).getD 1 4 ≤ 63 + 1 ∧
     decodeWord true op.word = .ok (.exitl (fields .s8 1 0)) ∧ ∃ k, k < 63 ∧ k ∉ (loopRec [0] [] none).cont) ∧
    (1 ∉ (loopRec [1] [] none).cont → False) ∧ depthOf (tagOf 1 0 0) = 0 := by
  refine ⟨⟨⟨rfl, rfl⟩, ?_⟩, ⟨⟨rfl, rfl⟩, by decide +kernel⟩, ⟨by decide +kernel, by decide +kernel, by decide +kernel, 1, by decide +kernel⟩,
    by decide +kernel, by decide +kernel⟩
  unfold pushable
  decide +kernel
/-- Nothing gathered at node 3; the first input of two there; the end count 1. -/
theorem witness_LoopsAndGathers_Gathering :
    (let op := tagged (.joinCount (fields .s8 1 0x81)) (tag2 1) [.scalar 1]
     let s := withOp op
     let s1 := after s op
     let g := popped (s1.widths op) op.tag
     let u := s1.ctile tile
     Issues s op (fields .s8 1 0x81) ∧ op.site = .tile tile ∧ s1.ctx? op.ctx = some ctx ∧ 0 < depthOf op.tag ∧
     innermostOf (s1.widths op) op.tag = 1 ∧ innermostOf (s1.widths op) (tag2 0) = 0 ∧ noGather s1 tile ctx g op.node ∧
     u.active = some plane ∧ s1.launched? ctx.launch = some ctx ∧
     u.noWay ctx (Entry.gather g op.node (.count [(1, op.ta.word)] op.poisoned)) = false ∧
     u.noWay ctx (Entry.gather g op.node (.tree 2 false
       [⟨0, 1, some ((allPositions .s8 op.ta.val).map fun v => v.map word), false, op.poisoned⟩] [1])) = false ∧
     op.ta.isVec = false ∧ op.ta.pred = true ∧ Fmt.s8.isFloat = false ∧ (fields .s8 2 2).imm.toNat % 4 < 3) ∧
    (let op := tagged (.tred (fields .s8 2 0)) (tag2 0) [.scalar 1, .scalar 2]
     let g := popped ((after (withOp op) op).widths op) op.tag
     let x := Entry.gather g op.node (.tree 2 false [⟨0, 1, some ((allPositions .s8 (.scalar 9)).map fun v => v.map word), false, false⟩] [1])
     let y := Entry.gather g op.node (.count [(1, 9)] true)
     takeFirst (fun e : Entry => e.tag = g && e.node = op.node && e.agg ≠ .none) [x] = some (x, []) ∧
     takeFirst (fun e : Entry => e.tag = g && e.node = op.node && e.agg ≠ .none) [y] = some (y, []) ∧
     x.agg = .tree 2 false [⟨0, 1 - 0, some ((allPositions .s8 (.scalar 9)).map fun v => v.map word), false, false⟩] [1 - 0] ∧
     y.agg = .count [(1 - 0, 9)] true ∧ op.tb.word = 2 ∧ op.tb.isVec = false) := by
  refine ⟨⟨issues_with _ _ rfl, ?_⟩, by decide +kernel⟩
  unfold noGather
  decide +kernel
theorem witness_BlockExitsAndRegisters :
    (let op := blockOp (.brc (fields .s8 3 0)) [.scalar 8, .scalar 16, .scalar 0]
     let s := withBlock op blockRun []
     InBlock (after s op) op 1 0 blockRun ∧ Issues s op (fields .s8 3 0) ∧ Issues s op (unbubbled (fields .s8 3 0)) ∧
     op.ta.isVec = false ∧ op.tb.isVec = false ∧ op.tc.isVec = false ∧ blockRun.exit = none ∧
     ((after s op).bctx 1 0).stack = [] ∧ blockRun.wm.testBit 3 = true ∧ blockRun.doneW.testBit 3 = false ∧
     blockRun.doneW.testBit 4 = true) ∧
    (let op := blockOp (.bret (fields .s8 0 0)) []
     let b := { blockRun with exit := some .halt }
     let s := withBlock op b [0x40]
     InBlock (after s op) op 1 0 b ∧ ((after s op).bctx 1 0).stack = [0x40] ∧ b.exit ≠ none) := by
  refine ⟨⟨⟨⟨0, rfl⟩, rfl, by decide +kernel⟩, ⟨rfl, rfl⟩, ⟨rfl, rfl⟩, by decide +kernel⟩, ⟨⟨0, rfl⟩, rfl, by decide +kernel⟩, by decide +kernel, by decide⟩

/-- A leaf that allows every access: 4 KiB from 0x40000. -/
def leaf : Word := 0x401E0
/-- The small machine with a page at 0x10000 in the cache of region `r`, and some bytes of it not zero. -/
def paged (op : Issued) (r : Nat) : State :=
  let s := withOp op
  (s.setRegion r { s.region r with tc := [⟨1, 0x10000, 0x10000, leaf⟩] }).writeMain 0x40100 [1, 0x82, 3, 4, 5, 6, 7, 0x88]
/-- Fields whose TGT0 leads to the memory tile. -/
def tileFields (f : Fmt) (ari imm : Nat) : Niw := { fields f ari imm with t0 := some ⟨.a, 1⟩, t1 := some ⟨.b, 0⟩ }
/-- The small machine whose memory tile is configured with a mode word. -/
def tiled (op : Issued) (m : MTile) : State := (withOp op).setMtile mem m
/-- A memory tile with a mode word, nothing held. -/
def mtile (w : Word) : MTile := { MTile.reset with active := some ⟨1, w, [], [], [], [], []⟩, gated := false }

theorem look_mem {κ α : Type} [DecidableEq κ] {k : κ} {a : α} : ∀ l : List (κ × α), look k l = some a → (k, a) ∈ l
  | [], h => by simp [look] at h
  | (k', a') :: l, h => by
    by_cases hk : k' = k
    · subst hk; simp [look] at h; simp [h]
    · simp [look, hk] at h; simp [look_mem l h]
/-- The memories of a state are canonical where each listed one is. -/
theorem memoryInv_of {s : State} (hm : Memory.wf s = true) (ht : s.mtiles.all (fun x => cellsWf x.2.banks) = true) : MemoryInv s := by
  refine ⟨hm, fun t => ?_⟩
  unfold State.mtile lookD
  cases h : look t s.mtiles with
  | none => rfl
  | some a => exact List.all_eq_true.mp ht _ (look_mem _ h)
/-- An access reaches main memory where the cache has this entry. -/
theorem reaches_of {s : State} {op : Issued} {need : Need} {va len pa : Nat} (e : TcEntry)
    (hl : Legal (s.isSystem op.ctx) va len) (hc : s.tcFind (siteRegion op.site) op.ctx va = some e ∧
      permits e.leaf need = true ∧ pa = leafBase e.leaf + (va - e.base))
    (hw : op.walk = none ∧ s.laneDown op (portLane op pa) pa = false ∧ s.replyDown op pa = false) :
    Reaches s op need va len pa := ⟨⟨hl, ⟨e, hc⟩, hw.1⟩, hw.2.1, hw.2.2⟩
/-- The same of a Carder's element. -/
theorem carried_of {s : State} {op : Issued} {need : Need} {va len pa : Nat} (e : TcEntry)
    (hl : Legal (s.isSystem op.ctx) va len) (hc : s.tcFind (siteRegion op.site) op.ctx va = some e ∧
      permits e.leaf need = true ∧ pa = leafBase e.leaf + (va - e.base))
    (hw : op.walk = none ∧ s.laneDown op (carderLane pa) pa = false) : ByCarder s op need va len pa := ⟨⟨hl, ⟨e, hc⟩, hw.1⟩, hw.2⟩
/-- A translated access, whatever its lane. -/
theorem translated_of {s : State} {op : Issued} {need : Need} {va len pa : Nat} (e : TcEntry)
    (hl : Legal (s.isSystem op.ctx) va len) (hc : s.tcFind (siteRegion op.site) op.ctx va = some e ∧
      permits e.leaf need = true ∧ pa = leafBase e.leaf + (va - e.base)) (hw : op.walk = none) :
    Translated s op need va len pa := ⟨hl, ⟨e, hc⟩, hw⟩
/-- The cached page. -/
def entry : TcEntry := ⟨1, 0x10000, 0x10000, leaf⟩
/-- The fabric operation. -/
theorem atMain_of {s : State} {op : Issued} {n : Niw} {b : Bool} (h1 : op.site = .tile tile) (h2 : s.homeTile op n = none)
    (h3 : s.mayPerform op b = true) (h4 : n.fmt ≠ .t6) : AtMain s op n b := ⟨⟨tile, h1⟩, h2, h3, h4⟩

/-- A load of the page's last byte, one of another whose lane of the bridge has failed, a vector load of two lanes, a gather with a negative index; a block's load. -/
theorem witness_LoadsFromMain :
    (let op := plainOp (fields .s8 1 0) [.scalar 0x10FFF]
     let s := paged op 0
     Issues s op (fields .s8 1 0) ∧ op.ta.isVec = false ∧ op.ta.psn = false ∧ AtMain (after s op) op (fields .s8 1 0) false ∧
     Reaches (after s op) op .read 0x10FFF 1 0x40FFF) ∧
    (let op := plainOp (fields .s8 1 0) [.scalar 0x10100]
     let s := { paged op 0 with failed := [(.e, 860)] }
     AtMain (after s op) op (fields .s8 1 0) false ∧ Translated (after s op) op .read 0x10100 1 0x40100 ∧
     (after s op).laneDown op (portLane op 0x40100) 0x40100 = true) ∧
    (let op := plainOp (fields .s8 2 0) [.scalar 0x10100, .scalar 3]
     let s := paged op 0
     AtMain (after s op) op (fields .s8 2 0) false ∧ op.tb.isVec = false ∧ (3 : BitVec 16) = op.tb.word.setWidth 16 ∧
     ∀ j, j < 16 → (3 : BitVec 16).getLsbD j = true → Reaches (after s op) op .read (0x10100 + 8 * j) 8 (0x40100 + 8 * j)) ∧
    (let op := plainOp (fields .z16 2 1) [.scalar 0x10100, lanes [1, -1] 2]
     let s := paged op 0
     AtMain (after s op) op (fields .z16 2 1) false ∧ op.allTrue = true ∧ op.poisoned = false ∧
     ∀ k l, k < laneCount op.tb.val → laneAt op.tb.val k = some l →
       0 ≤ ((0x10100 : Int) + (BitVec.ofNat 64 l).toInt * 2 ^ 1) ∧
       ByCarder (after s op) op .read ((0x10100 : Int) + (BitVec.ofNat 64 l).toInt * 2 ^ 1).toNat 2 0x400FE) ∧
    (let op := blockOp (.ld { fields .s8 1 0 with xw := true }) [.scalar 0x10100]
     let s := { (withBlock op blockRun []) with regions := (1, { (withBlock op blockRun []).region 1 with tc := [entry] }) :: (withBlock op blockRun []).regions }
     BlockLoad (after s op) op (fields .s8 1 0) ∧ Reaches (after s op) op .read 0x10100 1 0x40100) := by
  refine ⟨⟨⟨rfl, rfl⟩, by decide, by decide, atMain_of rfl ?_ ?_ ?_, reaches_of entry ?_ ?_ ?_⟩,
    ⟨atMain_of rfl ?_ ?_ ?_, translated_of entry ?_ ?_ ?_, ?_⟩, ⟨atMain_of rfl ?_ ?_ ?_, by decide, by decide, ?_⟩, ⟨atMain_of rfl ?_ ?_ ?_, ?_, ?_, ?_⟩,
    ⟨⟨1, 0, 0, blockRun, ?_⟩, ?_, ?_⟩, reaches_of entry ?_ ?_ ?_⟩
  any_goals (first | decide +kernel | (unfold Legal; decide +kernel))
  · intro j hj hm
    interval_cases j <;> first
      | exact absurd hm (by decide)
      | exact reaches_of entry (by unfold Legal; decide +kernel) (by decide +kernel) (by decide +kernel)
  · intro k l hk hl
    rcases (by decide : ∀ k, k < 16 → k = 1 ∨ laneAt (lanes [1, -1] 2) k = none) k hk with rfl | h
    · obtain rfl : 2 ^ 64 - 1 = l := Option.some.inj ((by decide +kernel : some (2 ^ 64 - 1) = laneAt (lanes [1, -1] 2) 1).trans hl)
      exact ⟨by decide, carried_of entry (by unfold Legal; decide +kernel) (by decide +kernel) (by decide +kernel)⟩
    · exact absurd (h.symm.trans hl) (by simp)
/-- A store of two bytes, a block's stores counted and not, two lanes of a vector store, a scatter whose two indices are one
address, and a compacting scatter of two elements into room for one. -/
theorem witness_StoresToMain :
    (let op := plainOp (fields .z16 2 0) [.scalar 0x10FFE, .scalar 0x123456]
     let s := paged op 0
     Issues s op (fields .z16 2 0) ∧ MemoryInv s ∧ Clean op ∧ op.ta.isVec = false ∧ op.tb.isVec = false ∧
     AtMain (after s op) op (fields .z16 2 0) true ∧ Reaches (after s op) op .write 0x10FFE 2 0x40FFE) ∧
    (let op := blockOp (.st { fields .s8 2 3 with xw := true }) [.scalar 0x10100, .scalar 7]
     let b := { blockRun with sm := 0x18, doneS := 0x10 }
     let s := { (withBlock op b []) with regions := (1, { (withBlock op b []).region 1 with tc := [entry] }) :: (withBlock op b []).regions }
     InBlock (after s op) op 1 0 b ∧ Translated (after s op) op .write 0x10100 1 0x40100 ∧ b.sm.testBit 3 = true ∧
     b.doneS.testBit 3 = false ∧ b.sm.testBit 5 = false ∧ b.doneS.testBit 4 = true) ∧
    (let op := plainOp (fields .s8 3 0) [.scalar 0x10100, lanes [1, 2, 3] 7, .scalar 5]
     let s := paged op 0
     Clean op ∧ AtMain (after s op) op (fields .s8 3 0) true ∧ op.tc.isVec = false ∧ (5 : BitVec 16) = op.tc.word.setWidth 16 ∧
     (∀ j, (j < 16 ∧ (5 : BitVec 16).getLsbD j = true ∧ (laneAt op.tb.val j).isSome = true) →
       Reaches (after s op) op .write (0x10100 + 8 * j) 8 (0x40100 + 8 * j))) ∧
    (let op := plainOp (fields .z16 3 1) [.scalar 0x10100, lanes [2, 2] 3, lanes [0x00020001] 1]
     let s := paged op 0
     Clean op ∧ AtMain (after s op) op (fields .z16 3 1) true ∧
     ((List.range 16).filter fun k => k < laneCount op.tb.val && (laneAt op.tb.val k).isSome
       && (position .z16 op.tc.val k).isSome) = [0, 1] ∧
     (∀ k ∈ [0, 1], ∀ l, laneAt op.tb.val k = some l → 0 ≤ ((0x10100 : Int) + (BitVec.ofNat 64 l).toInt * 2 ^ 1) ∧
       ByCarder (after s op) op .write ((0x10100 : Int) + (BitVec.ofNat 64 l).toInt * 2 ^ 1).toNat 2 0x40104)) ∧
    (let op := plainOp (fields .s64 3 0x43) [.scalar 0x10100, .scalar 0x100000000, lanes [8, 0, 9] 5]
     let s := paged op 0
     Clean op ∧ op.tb.isVec = false ∧ (op.count = 0 ∧ op.bound = none) ∧ AtMain (after s op) op (fields .s64 3 0x43) true ∧
     (List.range 16).filterMap (fun k => position .s64 op.tc.val k) = [8, 9] ∧ op.tb.word.toNat % 2 ^ 32 = 0 ∧
     op.tb.word.toNat / 2 ^ 32 = 1 ∧ (fields .s64 3 0x43).imm.toNat % 64 = 3 ∧
     ByCarder (after s op) op .write (0x10100 + (0 + 0) * 2 ^ 3) 8 0x40100 ∧ (after s op).ctx? op.ctx = some ctx) := by
  refine ⟨⟨⟨rfl, rfl⟩, memoryInv_of ?_ ?_, ⟨?_, ?_, ?_⟩, by decide, by decide, atMain_of rfl ?_ ?_ ?_, reaches_of entry ?_ ?_ ?_⟩,
    ⟨⟨⟨0, rfl⟩, rfl, ?_⟩, translated_of entry ?_ ?_ ?_, ?_⟩, ⟨⟨?_, ?_, ?_⟩, atMain_of rfl ?_ ?_ ?_, by decide, by decide, ?_⟩,
    ⟨⟨?_, ?_, ?_⟩, atMain_of rfl ?_ ?_ ?_, ?_, ?_⟩,
    ⟨⟨?_, ?_, ?_⟩, by decide, by decide, atMain_of rfl ?_ ?_ ?_, by decide +kernel, by decide, by decide, by decide,
      carried_of entry ?_ ?_ ?_, ?_⟩⟩
  any_goals (first | decide +kernel | (unfold Legal; decide +kernel))
  · rintro j ⟨hj, hm, -⟩
    interval_cases j <;> first
      | exact absurd hm (by decide)
      | exact reaches_of entry (by unfold Legal; decide +kernel) (by decide +kernel) (by decide +kernel)
  · intro k hk l hl
    rcases (by decide : ∀ k ∈ [0, 1], laneAt (lanes [2, 2] 3) k = some 2 ∨ laneAt (lanes [2, 2] 3) k = none) k hk with h | h
    · obtain rfl : 2 = l := Option.some.inj (h.symm.trans hl)
      exact ⟨by decide, carried_of entry (by unfold Legal; decide +kernel) (by decide +kernel) (by decide +kernel)⟩
    · exact absurd (h.symm.trans hl) (by simp)
/-- A fabric operation at the memory tile is that tile's. -/
theorem atTile_of {s : State} {op : Issued} {n : Niw} {b : Bool} {md : Nat} (h1 : op.site = .tile tile)
    (h2 : s.homeTile op n = some (mem, 0)) (h3 : s.mayPerform op b = true ∧ (s.mtile mem).mode? = some md ∧ (s.mtile mem).asleep = false ∧
      n.fmt ≠ .t6) : AtTile s op n b mem md := ⟨⟨tile, h1⟩, ⟨0, h2, by decide, fun h => absurd h (by decide)⟩, h3.1, h3.2.1, h3.2.2.1, h3.2.2.2⟩
/-- The small machine whose route to the memory tile names channel 12. -/
def channelled (op : Issued) (m : MTile) : State :=
  ((withOp op).setCtile tile { (withOp op).ctile tile with active := some { plane with routes := [0x00008000, 0x401C0000] } }).setMtile
    mem m
/-- The four modes: two buffers of 256 bytes; a FIFO of 8-byte elements; rows of 64 bytes, two and one; a ring. -/
theorem witness_TileAccesses :
    let ld := plainOp (tileFields .z8 1 0) [.scalar 64]
    let st := plainOp (tileFields .z8 2 0) [.scalar 255, .scalar 9]
    let stl := plainOp (tileFields .z8 2 0) [.scalar 64, .scalar 9]
    let fifo := { mtile (1 * 2 ^ 60 + 4 * 2 ^ 43) with fifo := [bytesOf 8 7] }
    let line := mtile (2 * 2 ^ 60 + 1 * 2 ^ 48 + 2 * 2 ^ 36 + 1 * 2 ^ 28)
    let buf := mtile (1 * 2 ^ 43 + 1 * 2 ^ 56)
    let wide := mtile (1 * 2 ^ 60 + 4 * 2 ^ 40 + 8 * 2 ^ 43)
    (Issues (tiled ld fifo) ld (tileFields .z8 1 0) ∧ MemoryInv (tiled ld fifo) ∧ ld.ta.isVec = false ∧ Clean ld ∧
      AtTile (after (tiled ld fifo) ld) ld (tileFields .z8 1 0) false mem 1 ∧ fifo.elemBytes = 8 ∧ fifo.fifo = [bytesOf 8 7] ∧
      AtTile (after (tiled st fifo) st) st (tileFields .z8 2 0) true mem 1 ∧ fifo.fifoRoom = true) ∧
    (AtTile (after (tiled ld line) ld) ld (tileFields .z8 1 0) false mem 2 ∧ 64 + 1 ≤ (line.win + line.spec) * line.rowBytes ∧
      (line.line (64 / line.rowBytes)).written = false ∧ AtTile (after (tiled stl line) stl) stl (tileFields .z8 2 0) true mem 2 ∧
      64 / line.rowBytes < line.win) ∧
    (AtTile (after (tiled ld buf) ld) ld (tileFields .z8 1 0) false mem 0 ∧
      AtTile (after (tiled ld (mtile (3 * 2 ^ 60))) ld) ld (tileFields .z8 1 0) false mem 3 ∧
      AtTile (after (tiled st buf) st) st (tileFields .z8 2 0) true mem 0 ∧ 255 + 1 ≤ buf.depth ∧ buf.isFull buf.fill = false ∧
      Clean st ∧ st.tb.isVec = false ∧ st.c.any (·.isVec) = false ∧ (tileFields .z8 2 0).prd ≠ .ift ∧ 248 + 8 ≤ buf.depth) ∧
    (AtTile (after (tiled st wide) st) st (tileFields .z8 2 0) true mem 1 ∧ wide.elemBytes = 128 ∧ wide.fifoRoom = true ∧
      (after (channelled ld fifo) ld).homeTile ld (tileFields .z8 1 0) = some (mem, 12) ∧
      (after (channelled ld fifo) ld).mayPerform ld true = true ∧ (after (channelled ld fifo) ld).mayPerform ld false = true) := by
  refine ⟨⟨⟨rfl, rfl⟩, memoryInv_of ?_ ?_, ?_, ⟨?_, ?_, ?_⟩, atTile_of rfl ?_ ?_, ?_, ?_, atTile_of rfl ?_ ?_, ?_⟩,
    ⟨atTile_of rfl ?_ ?_, ?_, ?_, atTile_of rfl ?_ ?_, ?_⟩, ⟨atTile_of rfl ?_ ?_, atTile_of rfl ?_ ?_, atTile_of rfl ?_ ?_, ?_, ?_,
      ⟨?_, ?_, ?_⟩, ?_⟩, atTile_of rfl ?_ ?_, ?_⟩ <;> decide +kernel
theorem witness_AccessesWithoutEffect_AddressFaults :
    (let op := plainOp (fields .z16 2 0) [.scalar 0x00800000_00000000, .scalar 1]
     let s := paged op 0
     Issues s op (fields .z16 2 0) ∧ Clean op ∧ op.ta.isVec = false ∧ op.tb.isVec = false ∧ op.site = .tile tile ∧
     AtMain (after s op) op (fields .z16 2 0) false ∧ AtMain (after s op) op (fields .z16 2 0) true ∧
     (op.ta.word.toNat / 2 ^ 55 = 1) ∧ (after s op).isSystem op.ctx = false) ∧
    (0x007FFFFFFFFFFFFF / 2 ^ 55 = 0 ∧ 2 ^ 55 < 0x007FFFFFFFFFFFFF + 2) ∧ (0x10001 / 2 ^ 55 = 0 ∧ 0x10001 % 2 ≠ 0) ∧
    ((2 ^ 64 - 2) / 2 ^ 55 = 511 ∧ (2 ^ 64 - 2) % 2 = 0) ∧
    (let op := blockOp (.st { fields .s8 2 3 with xw := true }) [.scalar 0x00800000_00000000, .scalar 7]
     op.site = .block 1 0 0 ∧ op.released = false) := by
  refine ⟨⟨⟨rfl, rfl⟩, ⟨?_, ?_, ?_⟩, ?_, ?_, ?_, atMain_of rfl ?_ ?_ ?_, atMain_of rfl ?_ ?_ ?_, ?_, ?_⟩, ?_, ?_, ?_, ?_⟩ <;>
    decide +kernel
theorem witness_AccessesWithoutEffect_SinksWithoutEffect :
    (let op := { plainOp (fields .s8 2 0) [.scalar 0x10100, .scalar 7] with b := some { tok (.scalar 7) with pred := false } }
     Issues (withOp op) op (fields .s8 2 0) ∧ op.site = .tile tile ∧ (after (withOp op) op).homeTile op (fields .s8 2 0) = none ∧
     op.allTrue = false) ∧
    (let op := { plainOp (fields .s8 2 0) [.scalar 0x10100, .scalar 7] with b := some { tok (.scalar 7) with psn := true } }
     Issues (withOp op) op (fields .s8 2 0) ∧ op.allTrue = true ∧ op.anyNull = false ∧ op.poisoned = true) ∧
    (let op := { blockOp (.st { fields .s8 2 3 with xw := true }) [.scalar 8] with b := some { tok (.scalar 7) with pred := false } }
     let b := { blockRun with sm := 0x08 }
     InBlock (after (withBlock op b []) op) op 1 0 b ∧ op.allTrue = false ∧ b.sm.testBit 3 = true ∧ b.doneS.testBit 3 = false) := by
  refine ⟨⟨⟨rfl, rfl⟩, ?_⟩, ⟨⟨rfl, rfl⟩, ?_⟩, ⟨⟨0, rfl⟩, rfl, ?_⟩, ?_⟩ <;> decide +kernel
theorem witness_WriteOnceWords :
    let op := plainOp (fields .s8 2 0) [.scalar 0x10100, .scalar 7]
    let s := paged op 0
    let s' := { s with main := { s.main with wstate := [(0x40100, .full)] } }
    Issues s op (fields .s8 2 0) ∧ Clean op ∧ op.ta.isVec = false ∧ op.tb.isVec = false ∧
    Reaches (after s op) op .once 0x10100 8 0x40100 ∧ AtMain (after s op) op (fields .s8 2 0) false ∧
    AtMain (after s op) op (fields .s8 2 0) true ∧ look 0x40100 (after s op).main.wstate ≠ some .full ∧
    Reaches (after s' op) op .once 0x10100 8 0x40100 ∧ AtMain (after s' op) op (fields .s8 2 0) true ∧
    look 0x40100 (after s' op).main.wstate = some .full := by
  refine ⟨⟨rfl, rfl⟩, ⟨?_, ?_, ?_⟩, ?_, ?_, reaches_of entry ?_ ?_ ?_, atMain_of rfl ?_ ?_ ?_, atMain_of rfl ?_ ?_ ?_, ?_,
    reaches_of entry ?_ ?_ ?_, atMain_of rfl ?_ ?_ ?_, ?_⟩
  any_goals (first | decide +kernel | (unfold Legal; decide +kernel))
theorem witness_AtomicOperations :
    (let op := plainOp (fields .s64 3 0x40) [.scalar 0x10FF8, .scalar 7, .scalar 9]
     let s := paged op 0
     Issues s op (fields .s64 3 0x40) ∧ Clean op ∧ op.ta.isVec = false ∧ op.tb.isVec = false ∧ op.c.any (·.isVec) = false ∧
     (fields .s64 3 0x40).prd ≠ .ift ∧ Reaches (after s op) op .both 0x10FF8 8 0x40FF8 ∧
     AtMain (after s op) op (fields .s64 3 0x40) true ∧ (after s op).wordAt 0x40FF8 ≠ op.tb.word) ∧
    (let op := plainOp (fields .s64 3 0x40) [.scalar 0x10FF8, .scalar 0, .scalar 9]
     Reaches (after (paged op 0) op) op .both 0x10FF8 8 0x40FF8 ∧ (after (paged op 0) op).wordAt 0x40FF8 = op.tb.word) ∧
    (let n := { fields .s64 2 3 with xw := true }
     let op := blockOp (.aadd n) [.scalar 0x10100, .scalar 7]
     let b := { blockRun with sm := 0x08 }
     let s := { (withBlock op b []) with regions := (1, { (withBlock op b []).region 1 with tc := [entry] }) :: (withBlock op b []).regions }
     InBlock (after s op) op 1 0 b ∧ (after s op).lowerDone op n = true ∧ b.stores = [] ∧
     ((after s op).countNulled op n).block? 1 0 ≠ none ∧ Reaches (after s op) op .both 0x10100 8 0x40100) := by
  refine ⟨⟨⟨rfl, rfl⟩, ⟨?_, ?_, ?_⟩, ?_, ?_, ?_, ?_, reaches_of entry ?_ ?_ ?_, atMain_of rfl ?_ ?_ ?_, ?_⟩,
    ⟨reaches_of entry ?_ ?_ ?_, ?_⟩, ⟨⟨0, rfl⟩, rfl, ?_⟩, ?_, ?_, ?_, reaches_of entry ?_ ?_ ?_⟩
  any_goals (first | decide +kernel | (unfold Legal; decide +kernel))
theorem witness_ReductionIntoMemory :
    ∀ w ∈ [(1 : Word), word (1048575 + 1048574 * 2 ^ 32), 0],
    let n := { fields .f32 3 0x40 with xw := true }
    let op := plainOp n [.scalar 0x10FFC, .scalar 0x3F800000, .scalar w]
    let op := { op with word := (encode (.red n)).getD 0 }
    let s := paged op 0
    Issues s op n ∧ Clean op ∧ op.released = false ∧ op.ta.isVec = false ∧ op.tb.isVec = false ∧ op.tc.isVec = false ∧
    AtMain (after s op) op n true ∧ n.prd ≠ .ift ∧ n.imm.toNat / 32 % 4 < 3 ∧
    Reaches (after s op) op .both 0x10FFC 4 0x40FFC ∧ (after s op).reds = [] ∧ abandonedElem .f32 0x3F800000 = false ∧
    decodeWord true op.word = .ok (.red n) ∧ op.tc.word = w := by
  intro w hw
  simp only [List.mem_cons, List.not_mem_nil, or_false] at hw
  rcases hw with rfl | rfl | rfl <;>
    refine ⟨⟨rfl, rfl⟩, ⟨?_, ?_, ?_⟩, ?_, ?_, ?_, ?_, atMain_of rfl ?_ ?_ ?_, ?_, ?_, reaches_of entry ?_ ?_ ?_, ?_⟩
  any_goals (first | decide +kernel | (unfold Legal; decide +kernel))
/-- An endpoint of 128 bytes at its start and at its end. -/
theorem witness_HostEndpoints :
    let n := { fields .s64 2 0x80 with xw := true }
    let op := plainOp n [.scalar 63, lanes [1] 1]
    let c := { ctx with endpoints := [(63, ⟨5000, 0, 128, 0⟩), (1, ⟨5000, 0, 128, 1⟩)] }
    let s := { withOp op with ctxs := [c] }
    Issues s op n ∧ Clean op ∧ op.site = .tile tile ∧ op.ta.isVec = false ∧ n.imm.getLsbD 7 = true ∧
    (after s op).ctx? op.ctx = some c ∧ (after s op).mayPerform op false = true ∧ (after s op).mayPerform op true = true ∧
    look 63 c.endpoints = some ⟨5000, 0, 128, 0⟩ ∧ 4096 ≤ 5000 ∧ look 2 c.endpoints = none ∧
    look 1 c.endpoints = some ⟨5000, 0, 128, 1⟩ ∧ 128 < 1 + 128 ∧
    (after s op).homeTile op n = none ∧ (after s op).homeTile op (tileFields .s64 2 0x80) = some (mem, 0) := by
  refine ⟨⟨rfl, rfl⟩, ⟨?_, ?_, ?_⟩, ?_⟩ <;> decide +kernel

/-- The operand store: two buffers of 4,352 bytes, buffer 1 full. -/
def buffers : MTile := { mtile (1 * 2 ^ 56 + 17 * 2 ^ 43) with full := [(1, 5)], banks := [(4352, 0x38)] }
/-- The small machine with operand stores on two sides of the tile. -/
def between (op : Issued) (c : CTile) : State :=
  { (withOp op) with mtiles := [(mem, buffers), (⟨.w, 0, 3⟩, buffers)], ctiles := [(tile, { c with active := some plane })] }
/-- An operation of two operand-store words: buffer 1 on side 1, buffer 1 on side 2. -/
def mmaOp (i : Instr) : Issued := opOf i [.scalar 17, .scalar 33]

theorem witness_MatrixMultiply :
    (let n := fields .e4m3 2 3
     let op := mmaOp (.mma n)
     let s := between op CTile.reset
     Issues s op n ∧ op.site = .tile tile ∧ op.ta.isVec = false ∧ op.tb.isVec = false ∧
     (after s op).operandTile tile op.ta.word = some (mem, 1) ∧ (after s op).operandTile tile op.tb.word = some (⟨.w, 0, 3⟩, 1) ∧
     (∀ o ∈ ((after s op).ctile tile).mma, o.niw.imm.toNat % 8 ≠ 3) ∧ (rowShape .e4m3).2.2 ≤ ((after s op).mtile mem).depth ∧
     (∀ f ∈ (((after s op).ctile tile).acc 3).fmt, f = .e4m3)) ∧
    (let n := fields .e4m3 2 7
     let op := mmaOp (.mmaz n)
     let c := { CTile.reset with mma := [op], q := setNth CTile.reset.q 7 { Acc.zero with fmt := some .bf16 } }
     let s := between op c
     (∃ o ∈ ((after s op).ctile tile).mma, o.niw.imm.toNat % 8 = 7) ∧ (s.ctile tile).mma = [op] ∧
     decodeWord true op.word = .ok (.mmaz n) ∧ n.fmt.width = 8 ∧ n.fmt.isFloat = true ∧ op.mode.ntrp = false ∧
     s.operandTile tile op.ta.word = some (mem, 1) ∧ s.operandTile tile op.tb.word = some (⟨.w, 0, 3⟩, 1) ∧
     (s.ctile tile).q.length = 8 ∧ (((after s op).ctile tile).acc 7).fmt = some .bf16 ∧ (s.mtile mem).isFull 1 = true ∧
     (s.mtile ⟨.w, 0, 3⟩).isFull 1 = true ∧ s.inTurn tile op = true ∧
     ((s.ctile tile).acc 7).abandoned = false) ∧
    ({ Acc.zero with rows := [[0x7FB00000]] } : Acc).abandoned = true := by
  refine ⟨⟨⟨rfl, rfl⟩, ?_⟩, ?_⟩ <;> decide +kernel
/-- The accumulator tiles after reset, a written row, the first, the last and a doubled row of a block, and another block's. -/
theorem witness_AccumulatorsAndScales_AccumulatorAccess :
    (let n := fields .f32 0 3
     let op := tagged (.acrd n) (tagOf 1 1 0) []
     let s := withOp op
     let raw : Value := .vector (List.replicate 16 0) 0x00FF
     Issues s op n ∧ op.site = .tile tile ∧ (∀ o ∈ ((after s op).ctile tile).mma, o.niw.imm.toNat % 8 ≠ 3) ∧
     pushable ((after s op).widths op) op.tag 15 ∧ (∀ i, i < 16 → (laneAt raw i).isSome = decide (i < 8)) ∧
     (∀ r, r < 16 → ∀ j, j < 16 → packedAt .f32 raw j = (accAt (((after s op).ctile tile).acc 3) r j).toNat) ∧
     ((after s op).floatEnv op n .f32 false).fuse raw = .ok ⟨raw, true, false⟩) ∧
    (let n := fields .f32 1 3
     let op := tagged (.acwr n) (tag2 15) [lanes [1] 1]
     let s := withOp op
     op.ta.isVec = true ∧ 0 < depthOf op.tag ∧ innermostOf ((after s op).widths op) op.tag = 15 ∧
     ((after s op).ctile tile).q.length = 8 ∧ (((after s op).ctile tile).acc 3).rows.length = 16) ∧
    (let n := fields .z16 1 0
     let op := tagged (.ctrn n) (tag2 15) [lanes [1] 1]
     let agg := popped ((after (withOp op) op).widths op) op.tag
     let k : Corner := ⟨agg, (List.range 15).map fun r => (r, List.replicate 16 (word r)), false⟩
     16 ≤ n.fmt.width ∧ n.fmt ≠ .t6 ∧ ((after (withOp op) op).ctile tile).corner = none ∧ k.rows.length = 15 ∧
     15 ∉ k.rows.map (·.1) ∧ (∀ i, i < 16 → i = 15 ∨ i ∈ k.rows.map (·.1)) ∧ 14 ∈ k.rows.map (·.1) ∧ k.tag ≠ op.tag ∧
     pushable ((after (withOp op) op).widths op) agg 15) := by
  unfold pushable
  refine ⟨⟨⟨rfl, rfl⟩, rfl, ?_, ?_, ?_, ?_, rfl⟩, ?_, ?_⟩ <;> decide +kernel
/-- One and zero have scales; the largest scale codes; 127 and 1; and an infinity and two scales whose product is too large. -/
theorem witness_AccumulatorsAndScales_BlockScales :
    (let op := plainOp (fields .t8 1 0) [.scalar 0x3F800000]
     Issues (withOp op) op (fields .t8 1 0) ∧ (fields .t8 1 0).xw = false ∧
     allGiven 2 (operandVals op (fields .t8 1 0) id) fun _ j ls =>
       let x := decodeElem .f32 (operand .f32 ls 0 j).toNat
       if x.finite = false then none else if x.isZero then some (127, false)
       else some ((max 0 (Int.log 2 |ratValue x| - 12 + 127)).toNat, false)) ∧
    (let op := plainOp (fields .t8 2 2) [.scalar 0x7F0000007F, .scalar 0xFE00000001]
     Issues (withOp op) op (fields .t8 2 2) ∧ allGiven 2 (operandVals op (fields .t8 2 2) id) fun _ j ls =>
       let sa := (operand .f32 ls 0 j).toNat % 256
       let sb := (operand .f32 ls 1 j).toNat % 256
       if sa = 255 ∨ sb = 255 then some (255, false)
       else if 127 ≤ sa + sb ∧ sa + sb - 127 ≤ 254 then some (sa + sb - 127, false) else none) ∧
    (let op := plainOp (fields .t8 1 1) [.scalar 0xFF]
     Issues (withOp op) op (fields .t8 1 1) ∧ ((after (withOp op) op).floatEnv op (fields .t8 1 1) .f32 false).cve = false) ∧
    ¬ allGiven 2 (operandVals (plainOp (fields .t8 2 2) [.scalar 254, .scalar 128]) (fields .t8 2 2) id) fun _ j ls =>
       let sa := (operand .f32 ls 0 j).toNat % 256
       let sb := (operand .f32 ls 1 j).toNat % 256
       if sa = 255 ∨ sb = 255 then some (255, false)
       else if 127 ≤ sa + sb ∧ sa + sb - 127 ≤ 254 then some (sa + sb - 127, false) else none := by
  refine ⟨⟨issues_with _ _ rfl, by decide, ?_⟩, ⟨issues_with _ _ rfl, ?_⟩, ⟨issues_with _ _ rfl, by decide +kernel⟩, ?_⟩
  · exact allGiven_one _ _ _ [0x3F800000] (by decide +kernel) (by decide +kernel) (by decide +kernel)
  · exact allGiven_one _ _ _ [0x7F0000007F, 0xFE00000001] (by decide +kernel) (by decide +kernel) (by decide +kernel)
  · intro h
    exact h 0 [254, 128] 0 (by decide) (by decide +kernel) (by decide) (by decide +kernel)
/-- A slot at its last block but one. -/
def verdict (st : VState) : Verdict := ⟨tagOf 1 0 0, st, 0, 4, 0x3F800000, 0x40000000, 5, 0, 0, 0xFF800000, 0, 0, false, false, none⟩
/-- A descriptor for SIGN with Q 2.0 and one block, one for FLOOR, two that are not good, and the slot in each state. -/
theorem witness_Verdicts_VerdictSlots :
    (let op := plainOp (fields .s8 2 0) [.scalar 0x140000000, .scalar 0]
     let s := withOp op
     Issues s op (fields .s8 2 0) ∧ op.site = .tile tile ∧ op.ta.isVec = false ∧
     (let d := op.ta.word.toNat
      d / 2 ^ 44 % 4 = 0 ∧ d / 2 ^ 32 % 2 ^ 12 ≠ 0 ∧ d / 2 ^ 62 = 0 ∧ (decodeElem .f32 (d % 2 ^ 32)).finite = true ∧
      d / 2 ^ 31 % 2 = 0) ∧
     ((after s op).ctile tile).slot? op.tag = none ∧ ((after s op).ctile tile).verdicts.length < 64) ∧
    (let op := plainOp (fields .s8 2 0) [.scalar 0x100140000000, .scalar 0x10100]
     let s := paged op 0
     op.ta.word.toNat / 2 ^ 44 % 4 = 1 ∧ op.tb.psn = false ∧ op.tb.isVec = false ∧
     Translated (after s op) op .read op.tb.word.toNat 8 0x40100) ∧
    ((0x340000000 : Word).toNat / 2 ^ 44 % 4 = 0 ∧ (0x40000000 : Word).toNat / 2 ^ 32 % 2 ^ 12 = 0) ∧
    (let op := plainOp (fields .s8 2 0) [.scalar 0x3F800000, .scalar 0x500000000]
     let s := { withOp op with ctiles := [(tile, { CTile.reset with active := some plane, verdicts := [verdict .live] })] }
     let v := verdict .live
     let x := decodeElem .f32 0x3F800000
     let u := decodeElem .f32 0
     Issues s op (fields .s8 2 0) ∧ ((after s op).ctile tile).slot? op.tag = some v ∧ op.ta.isVec = false ∧
     isAbandoned 0x3F800000 = false ∧ v.st = .live ∧ (0x500000000 : Nat) / 2 ^ 56 = 0 ∧ 0x500000000 / 2 ^ 32 % 2 ^ 12 = v.j + 1 ∧
     u.finite = true ∧ u.isZero = true ∧ u.cmp (decodeElem .f32 v.uprev.toNat) ≠ some .gt ∧ x.finite = true ∧
     (exactAbs x).cmp (rup ((f32 v.uprev).mul (f32 v.q))) ≠ some .gt ∧ op.mode.psn = false ∧
     ((after s op).floatEnv op (fields .s8 2 0) .f32 false).cve = false) ∧
    (∀ st ∈ [VState.live, .abandoned, .complete],
      ({ CTile.reset with verdicts := [verdict st] } : CTile).slot? (tagOf 1 0 0) = some (verdict st)) := by
  refine ⟨⟨⟨rfl, rfl⟩, ?_⟩, ⟨?_, ?_, ?_, translated_of entry ?_ ?_ ?_⟩, ?_, ⟨⟨rfl, rfl⟩, ?_⟩, ?_⟩
  any_goals (first | decide +kernel | (unfold Legal; decide +kernel))
/-- A cell raised from 1.0 to 2.0, and a slot that waits for its cell's value, of a context whose table maps it. -/
theorem witness_Verdicts_ThresholdCells :
    (let op := plainOp (fields .s8 2 0) [.scalar 0x10108, .scalar 0x40000000]
     let s := paged op 0
     Issues s op (fields .s8 2 0) ∧ Clean op ∧ op.ta.isVec = false ∧ op.tb.isVec = false ∧ op.inBlock = none ∧
     Translated (after s op) op .both 0x10108 8 0x40108 ∧ ((after s op).wordAt 0x40108).toNat / 2 ^ 48 = 0 ∧
     isAbandoned 0x40000000 = false ∧ (decodeElem .f32 0x40000000).cmp (decodeElem .f32 0) = some .gt ∧
     (decodeElem .f32 0).cmp (decodeElem .f32 0) ≠ some .gt) ∧
    (let op := plainOp (fields .s8 2 0) [.scalar 0x100140000000, .scalar 0x108]
     let op := { op with word := (encode (.vopen (fields .s8 2 0))).getD 0 }
     let v := { (verdict .live) with cell := 0x108, reading := true, opener := some op }
     let s := { withOp op with
       ctxs := [{ ctx with root := 0x80000 }]
       ctiles := [(tile, { CTile.reset with active := some plane, verdicts := [v] })]
       main := { State.reset.main with cells := [(0x80000, 0x01), (0x80001, 0x10), (0x80002, 0x08), (0x81000, 0x01), (0x81001, 0x20),
         (0x81002, 0x08), (0x82000, 0x23)] } }
     (s.ctile tile).verdicts.find? (fun v => v.reading && !((s.ctile tile).frozen.contains (tagCtx v.tag))) = some v ∧ s.ctx? (tagCtx v.tag) = some { ctx with root := 0x80000 } ∧
     s.walkByte 0x80000 .read v.cell.toNat = .ok 0x108 ∧ decodeWord true op.word = .ok (.vopen (fields .s8 2 0)) ∧
     op.site = .tile tile) := by
  refine ⟨⟨⟨rfl, rfl⟩, ⟨?_, ?_, ?_⟩, ?_, ?_, ?_, translated_of entry ?_ ?_ ?_, ?_⟩, ?_, ?_, rfl, ?_, ?_⟩
  any_goals (first | decide +kernel | (unfold Legal; decide +kernel))
/-- Sixteen lanes with equal values and a NaN, the best one asked for; an empty and an excessive count. -/
theorem witness_TopLists :
    let op := tagged (.vtopk (fields .f32 2 0x80)) (tagOf 1 1 0) [lanes [0x3F800000, 0x100000000 + 0x3F800000, 0x7FC00000] 7, .scalar 1]
    let n := fields .f32 2 0x80
    let s := withOp op
    let ins : List Word := ((List.range 16).filterMap (laneAt op.ta.val)).map word
    Issues s op n ∧ op.site = .tile tile ∧ (after s op).ctx? op.ctx = some ctx ∧ op.tb.isVec = false ∧ op.tb.word = 1 ∧
    op.ta.isVec = n.imm.getLsbD 7 ∧ n.imm.getLsbD 6 = false ∧ n.imm.toNat % 64 + 1 ≤ 16 ∧
    noGather (after s op) tile ctx op.tag op.node ∧
    (∀ w ∈ ins, isAbandoned (w.toNat % 2 ^ 32) = true → w.toNat % 2 ^ 32 = 0x7FB00000) ∧ 2 ^ 20 < (word (2 ^ 20 + 1)).toNat := by
  unfold noGather
  refine ⟨⟨rfl, rfl⟩, by decide +kernel, by decide +kernel, by decide +kernel, by decide +kernel, by decide +kernel,
    by decide +kernel, by decide +kernel, by decide +kernel, ?_, by decide +kernel⟩
  rw [show ((List.range 16).filterMap (laneAt _)).map word = [0x3F800000, 0x13F800000, 0x7FC00000] by decide +kernel]
  simp [isAbandoned]

/-- A row of one element in the memory tile alone, five adds counted. -/
def row1 (trap : Bool) : Row :=
  { num := 7, home := memIndex mem, n := 1, eps := 0x3F50624DD2F1A9FC, trap := trap, sat := false, psn := false, count := 5,
    base := 100, smask := 2 ^ memIndex mem, sigma := 0 }
/-- The memory tile as a stream accumulator. -/
def sacc (rows : List Row) : MTile := { mtile (4 * 2 ^ 60) with rows := rows }
/-- The small machine with that row, its element at the largest value. -/
def summed (op : Issued) (trap : Bool) : State := (tiled op (sacc [row1 trap])).setElems 0 (row1 trap) [(0, 2 ^ 47 - 1)]
/-- Fields of a stream node: TGT0 leads to the memory tile, TGT1 to the tile's own node. -/
def rowFields (f : Fmt) (ari imm : Nat) : Niw := { tileFields f ari imm with t1 := some ⟨.a, 0⟩ }

theorem rowHome_of {s : State} {op : Issued} {n : Niw} (h : op.ta.word.toNat / 2 ^ 60 = 0) (h1 : op.site = .tile tile)
    (h2 : s.homeTile op n = some (mem, 0)) (h3 : (s.mtile mem).mode? = some 4) (h4 : (s.mtile mem).asleep = false) :
    RowHome s op n mem := ⟨.inl ⟨h, ⟨tile, h1⟩, 0, h2⟩, h3, h4⟩
/-- The sums are right where the tile of the one stripe says so. -/
theorem sumsExact_of {s : State} {x : Row} (hm : x.smask = 2 ^ memIndex mem)
    (hz : (s.mtile mem).row? x.num = some x ∧ (x.sigma : Int) =
      ∑ c ∈ Finset.range x.n, if (elemPlace 0 x c).1 = mem then s.elem 0 x c ^ 2 else 0) : SumsExact s 0 x := by
  intro k hk hb
  rw [hm] at hb
  obtain rfl : k = memIndex mem := by
    have := (by decide +kernel : ∀ k, k < 16 → (2 ^ memIndex mem).testBit k = true → k = memIndex mem)
    exact this k hk hb
  rw [show memTile 0 (memIndex mem) = mem by decide +kernel]
  exact ⟨x, hz⟩
/-- One element within the range, and one beyond it in either mode. -/
theorem witness_StreamAdds :
    ∀ trap : Bool, ∀ v ∈ [(-5 : Word), 5],
    let n := rowFields .s64 2 0
    let op := plainOp n [.scalar 7, .scalar v]
    let x := { row1 trap with sigma := (2 ^ 47 - 1) ^ 2 }
    let s := summed op trap
    (Issues s op n ∧ MemoryInv s ∧ Clean op ∧ op.site = .tile tile ∧ op.ta.isVec = false ∧ op.ta.word.toNat / 2 ^ 24 = 0 ∧
    RowHome (after s op) op n mem ∧ RowAt (after s op) op mem x) ∧ x.count < 2 ^ 32 - 1 ∧ 0 < x.n ∧ x.smask ≠ 0 ∧
    x.smask < 2 ^ 16 ∧ regionOf mem = 0 ∧ SumsExact (after s op) 0 x ∧
    (∀ e w, position .s64 op.tb.val e = some w → 0 + e < x.n) ∧
    (clamped ((after s op).elem 0 x 0 + addend .s64 .rne v.toNat) ≠ (after s op).elem 0 x 0 + addend .s64 .rne v.toNat ↔ v = 5) := by
  intro trap v hv
  simp only [List.mem_cons, List.not_mem_nil, or_false] at hv
  rcases hv with rfl | rfl <;> cases trap <;>
    refine ⟨⟨⟨rfl, rfl⟩, memoryInv_of ?_ ?_, ⟨?_, ?_, ?_⟩, ?_, ?_, ?_, rowHome_of ?_ ?_ ?_ ?_ ?_, ⟨?_, ?_⟩⟩, ?_, ?_, ?_, ?_, ?_,
      sumsExact_of rfl ⟨?_, ?_⟩, ?_, ?_⟩
  all_goals try decide +kernel
  all_goals
    intro e w h
    rcases e with _ | e
    · decide
    · simp [position, plainOp, opOf, Issued.tb, tok, Fmt.perLane, Fmt.width, laneCount, Value.isVec] at h
/-- The row whose count is five, with the element 2⁴⁷ − 1: a read of one column that asks for five and one that asks for six. -/
theorem witness_StreamReads :
    (∀ need ∈ [(5 : Word), 6],
      let n := rowFields .f32 3 0
      let op := { plainOp n [.scalar 7, .scalar 0x3F800000, .scalar need] with word := (encode (.sanrm n)).getD 0 }
      let x := { row1 false with sigma := (2 ^ 47 - 1) ^ 2 }
      let s := summed op false
      (Issues s op n ∧ MemoryInv s ∧ op.ta.isVec = false ∧ RowHome (after s op) op n mem ∧ RowAt ((after s op).fix op) op mem x) ∧
      op.site = .tile tile ∧ op.tc.isVec = false ∧ op.tc.word.toNat < 2 ^ 32 ∧ op.ta.word.toNat / 2 ^ 30 = 0 ∧ x.smask < 2 ^ 16 ∧
      SumsExact ((after s op).fix op) 0 x ∧ (x.count < op.tc.word.toNat ↔ need = 6) ∧ 0 + 1 ≤ x.n ∧ 1 ≤ 16 * Fmt.f32.perLane ∧
      op.mode.psn = false ∧ isAbandoned (op.tb.word.toNat % 2 ^ 32) = false ∧
      ((((after s op).fix op).mtile mem).waiting.filter isCountWait).length = 0 ∧
      (((after s op).fix op).floatEnv op n n.fmt false).cve = false ∧ ((List.replicate 64 op).filter isCountWait).length = 64 ∧
      decodeWord true op.word = .ok (.sanrm n)) ∧
    (let op := plainOp (rowFields .f32 3 0) [.scalar 8]
     (((after (summed op false) op).fix op).mtile mem).row? (op.ta.word.toNat % 2 ^ 8) = none ∧ op.ta.word.toNat / 2 ^ 24 % 2 ^ 36 = 0) ∧
    (let n := rowFields .f32 3 0
     let op := { plainOp n [.scalar 7, .scalar 0x3F800000, .scalar 5] with word := (encode (.sanrm n)).getD 0 }
     let t := (summed op false).setMtile mem { (summed op false).mtile mem with waiting := [op] }
     let s := { t with issue := none }
     s.issue = none ∧ (s.mtile mem).asleep = false ∧ (s.mtile mem).waiting = [op] ∧ op.node < 1024 ∧
     decodeWord true op.word = .ok (.sanrm n) ∧ RowAt s op mem { row1 false with sigma := (2 ^ 47 - 1) ^ 2 } ∧ op.tc.word.toNat ≤ 5) := by
  refine ⟨?_, ?_, ⟨rfl, ?_, ?_, ?_, ?_, ⟨?_, ?_⟩, ?_⟩⟩
  rotate_left
  any_goals decide +kernel
  intro v hv
  simp only [List.mem_cons, List.not_mem_nil, or_false] at hv
  rcases hv with rfl | rfl <;>
    refine ⟨⟨⟨rfl, rfl⟩, memoryInv_of ?_ ?_, ?_, rowHome_of ?_ ?_ ?_ ?_ ?_, ⟨?_, ?_⟩⟩, ?_, ?_, ?_, ?_, ?_, sumsExact_of rfl ⟨?_, ?_⟩, ?_⟩
  all_goals decide +kernel

/-- Nothing stands in the way of a row of one element in the memory tile alone. -/
theorem placeable_of {s : State} {x : Row} (h1 : x.home = memIndex mem) (h2 : x.smask = 2 ^ memIndex mem) (h3 : x.base = 100)
    (h4 : x.n = 1) (hm : (s.mtile mem).mode? = some 4 ∧ (s.mtile mem).asleep = false ∧
      ∀ y ∈ (s.mtile mem).rows, y.num = x.num ∧ y.home = x.home) : Placeable s mem x := by
  have hr : regionOf mem = 0 := by decide +kernel
  refine ⟨⟨h1, by decide +kernel, by rw [h2]; decide +kernel, by rw [h2]; decide +kernel⟩, by rw [h2, h3, h4]; decide +kernel, ?_⟩
  intro k hk hb
  rw [h2] at hb
  obtain rfl : k = memIndex mem :=
    (by decide +kernel : ∀ k, k < 16 → (2 ^ memIndex mem).testBit k = true → k = memIndex mem) k hk hb
  rw [hr, show memTile 0 (memIndex mem) = mem by decide +kernel]
  exact ⟨hm.1, hm.2.1, rfl, fun y hy => ⟨fun _ => (hm.2.2 y hy).2, fun h => absurd (hm.2.2 y hy).1 h⟩⟩
/-- A range of 38 bytes of the cached page. -/
theorem spans_of {s : State} {op : Issued} {need : Need} (hp : permits leaf need = true)
    (hc : ∀ k, k < 5 → s.tcFind (siteRegion op.site) op.ctx (0x10100 + 8 * k) = some entry) (hw : op.walk = none) :
    Spans s op need 0x10100 38 (fun k => 0x40100 + 8 * k) := by
  refine ⟨by decide, fun k hk => ⟨entry, hc k (by omega), hp, ?_⟩, fun j k _ _ h => by omega, hw⟩
  rw [show leafBase entry.leaf = 0x40000 by decide +kernel, show entry.base = 0x10000 by decide]
  omega
/-- The image of a row of one element, 3, with count 5. -/
def rowImage : List Byte := [7, 0, 0, 0, 5, 0, 0, 0] ++ List.replicate 8 0 ++ (9 :: List.replicate 15 0) ++ [3, 0, 0, 0, 0, 0]
/-- The small machine with the page and the stream accumulator, and these bytes in the page. -/
def streaming (op : Issued) (rows : List Row) (bs : List Byte) : State :=
  ((paged op 0).setMtile mem (sacc rows)).writeMain 0x40100 bs
/-- The definition word of row 7: one element, base 100, the memory tile. -/
def rowWord : Word := word (7 + 100 * 2 ^ 24 + 2 ^ memIndex mem * 2 ^ 41)
theorem witness_StreamRowImages :
    (let n := rowFields .s8 2 0
     let op := plainOp n [.scalar rowWord, .scalar 0]
     let s := streaming op [row1 false] []
     (Issues s op n ∧ MemoryInv s ∧ Clean op ∧ op.ta.isVec = false ∧ op.tb.isVec = false ∧ regionOf mem < 42 ∧
     RowHome (after s op) op n mem) ∧ rowWord.toNat / 2 ^ 58 % 4 = 0 ∧ n.ari ≠ 3 ∧ GoodEps op.tb.word ∧
     Placeable ((after s op).fix op) mem (defined mem rowWord.toNat 1 0 false false false 0)) ∧
    (let n := rowFields .s8 3 1
     let op := plainOp n [.scalar 7, .scalar 0x10100, .scalar 5]
     let s := streaming op [row1 false] []
     (7 : Nat) / 2 ^ 24 % 2 ^ 36 = 0 ∧ op.tc.isVec = false ∧ op.tc.word.toNat < 2 ^ 32 ∧ RowAt ((after s op).fix op) op mem (row1 false) ∧
     op.tc.word.toNat ≤ (row1 false).count ∧ ((((after s op).fix op).mtile mem).waiting.filter isCountWait).length < 64 ∧ Spans ((after s op).fix op) op .write 0x10100 38 (fun k => 0x40100 + 8 * k) ∧
     SumsExact ((after s op).fix op) 0 (row1 false)) ∧
    (let n := rowFields .s8 2 0
     let op := plainOp n [.scalar rowWord, .scalar 0x10100]
     let s := streaming op [] rowImage
     let y := { row1 false with eps := 0 }
     rowWord.toNat / 2 ^ 57 % 2 = 0 ∧ rowWord.toNat / 2 ^ 8 % 2 ^ 16 = 0 ∧ GoodEps y.eps ∧
     Spans ((after s op).fix op) op .read 0x10100 38 (fun k => 0x40100 + 8 * k) ∧
     Image ((after s op).fix op) (fun k => 0x40100 + 8 * k) y 7 (fun _ => 3) ∧
     Placeable ((after s op).fix op) mem (defined mem rowWord.toNat 1 0 false false false 5)) := by
  refine ⟨⟨⟨⟨rfl, rfl⟩, memoryInv_of ?_ ?_, ⟨?_, ?_, ?_⟩, ?_, ?_, ?_, rowHome_of ?_ ?_ ?_ ?_ ?_⟩, ?_, ?_, ⟨?_, ?_⟩,
      placeable_of ?_ ?_ ?_ ?_ ⟨?_, ?_, ?_⟩⟩,
    ⟨?_, ?_, ?_, ⟨?_, ?_⟩, ?_, ?_, spans_of ?_ ?_ rfl, sumsExact_of rfl ⟨?_, ?_⟩⟩,
    ⟨?_, ?_, ⟨?_, ?_⟩, spans_of ?_ ?_ rfl, ⟨?_, ?_, ?_, ?_, ?_, ?_⟩, placeable_of ?_ ?_ ?_ ?_ ⟨?_, ?_, ?_⟩⟩⟩
  any_goals decide +kernel

/-- A graph of `m` cells that all start, each with itself as successor and symbol 0 in its class set, no stack action. -/
def graphOn (m rpt : Nat) : Graph :=
  ⟨(List.range m).map fun i => ⟨0, 0, 0, rpt, 0, true, i, 1⟩, [1], [0x8000], 0, m, 0x77⟩
/-- A stream of context 1 in array 3, bind number 5. -/
def stream (st : SState) (cs : List Conf) : Stream := ⟨st, 5, 1, 3, cs, 0, 9, 1⟩
/-- The handle of slot 0 of array 3. -/
def handle : Word := word (0 + 3 * 16 + 5 * 2 ^ 8 + 1 * 2 ^ 40)
/-- An array with this graph and these streams in its first slots. -/
def arrayOf (g : Option Graph) (sts : List Stream) : LaceArray := ⟨g, sts ++ List.replicate (16 - sts.length) Stream.reset, [], [], 0⟩
/-- The small machine whose array 3 has this graph and these streams in its first slots. -/
def lacing (op : Issued) (g : Option Graph) (sts : List Stream) (bs : List Byte) : State :=
  ((paged op 0).setArray 3 (arrayOf g sts)).writeMain 0x40100 bs
/-- The pre-start configuration. -/
def start : Conf := ⟨none, []⟩

/-- A step on symbol 0 reaches every start cell with an empty stack. -/
theorem stepped_start (m rpt : Nat) (hm : m = 1 ∨ m = 2) (c : Conf) : c ∈ stepped (graphOn m rpt) 0 0 {c | c ∈ [start]} ↔
    ∃ k, k < m ∧ c = ⟨some k, []⟩ := by
  have hs : ∀ k, ((graphOn m rpt).cell k).sact = 0 ∧ ((graphOn m rpt).cell k).cset = 0 := by
    intro k
    by_cases h : k < m
    · rcases hm with rfl | rfl <;> interval_cases k <;> exact ⟨rfl, rfl⟩
    · have : (graphOn m rpt).cell k = ⟨0, 0, 0, 0, 0, false, 0, 0⟩ := by
        rcases hm with rfl | rfl
        · obtain ⟨j, rfl⟩ := Nat.exists_eq_add_of_le (Nat.le_of_not_lt h); rw [Nat.add_comm]; rfl
        · obtain ⟨j, rfl⟩ := Nat.exists_eq_add_of_le (Nat.le_of_not_lt h); rw [Nat.add_comm]; rfl
      rw [this]; exact ⟨rfl, rfl⟩
  have he : (graphOn m rpt).entry 0 = (true, 0) := by
    rcases hm with rfl | rfl <;> exact (by decide +kernel : Graph.entry ⟨[], [1], [0x8000], 0, 1, 0⟩ 0 = (true, 0))
  constructor
  · rintro ⟨c0, h0, k, hk, hf, -, -, ha⟩
    obtain rfl : c0 = start := by simpa using h0
    refine ⟨k, by simpa [follows, start, graphOn] using hf, ?_⟩
    unfold acts at ha
    rw [(hs k).1] at ha
    rcases ha with ⟨-, h⟩ | ⟨h, -⟩ | ⟨h, -⟩ | ⟨h, -⟩
    · cases c; simp_all [start]
    all_goals exact absurd h (by decide)
  · rintro ⟨k, hk, rfl⟩
    refine ⟨start, by simp, k, rfl, by simpa [follows, start, graphOn] using hk, by rw [he], ?_, .inl ⟨(hs k).1, rfl⟩⟩
    rw [(hs k).2, he]
    exact (by decide +kernel : (nth 0 [1] 0 : Nat).testBit 0 = true)

/-- The other slots hold no configuration. -/
theorem slot_other (g : Option Graph) (st : Stream) : ∀ j, j ≠ 0 → ((arrayOf g [st]).slot j).confs = []
  | 0, h => absurd rfl h
  | j + 1, _ => by
    have : ∀ (k n : Nat), nth Stream.reset (List.replicate n Stream.reset) k = Stream.reset := by
      intro k n
      induction n generalizing k with
      | zero => cases k <;> rfl
      | succ n ih => cases k with
        | zero => rfl
        | succ k => exact ih k
    change (nth Stream.reset (List.replicate 15 Stream.reset) j).confs = []
    rw [this]; rfl
/-- One step from the pre-start configuration to one cell fits an array that holds nothing else. -/
theorem fits_one (rpt : Nat) : Fits (arrayOf (some (graphOn 1 rpt)) [stream .bound [start]]) (graphOn 1 rpt) 0 0 [0] {c | c ∈ [start]} := by
  intro i hi
  obtain rfl : i = 0 := by simpa using hi
  have hn : ∀ c, c ∈ activeAfter (graphOn 1 rpt) 0 ([0].take (0 + 1)) {c | c ∈ [start]} → c = ⟨some 0, []⟩ := by
    intro c hc
    obtain ⟨k, hk, rfl⟩ := (stepped_start 1 rpt (.inl rfl) c).mp hc
    obtain rfl : k = 0 := by omega
    rfl
  constructor
  · intro l hl hc
    have h1 : l.length ≤ 1 := by
      rcases l with _ | ⟨a, _ | ⟨b, l⟩⟩
      · simp
      · simp
      · have := (hn a (hc a (by simp))).trans (hn b (hc b (by simp))).symm
        rw [this] at hl
        simp at hl
    have h2 : ((List.range 16).map fun j => if j = 0 then 0 else
        ((arrayOf (some (graphOn 1 rpt)) [stream .bound [start]]).slot j).confs.length).sum = 0 := by
      apply List.sum_eq_zero
      intro x hx
      obtain ⟨j, -, rfl⟩ := List.mem_map.mp hx
      by_cases hj : j = 0
      · simp [hj]
      · simp [hj, slot_other _ _ j hj]
    rw [h2]
    omega
  · intro l hl hy
    rcases l with _ | ⟨y, l⟩
    · simp
    · obtain ⟨h1, c, hc, hp⟩ := hy y (by simp)
      have : c.stack = [] := by
        rcases hc with hc | hc | ⟨j, hj, hc⟩
        · obtain rfl : c = start := by simpa [activeAfter] using hc
          rfl
        · rw [hn c hc]
        · rw [slot_other _ _ j hj] at hc
          exact absurd hc (by simp)
      rw [this] at hp
      exact absurd (List.prefix_nil.mp hp) h1

theorem confs_two (l : List Conf) : (LaceArray.confs
    { LaceArray.reset with slots := [stream .bound [start], stream .bound l] }).length = 1 + l.length := by
  simp [LaceArray.confs, stream]; omega
/-- One symbol and one start cell; five symbols of which four are given; two start cells in an array with 65,536 entries. -/
theorem witness_LaceFeeding :
    (∀ rpt ∈ [0, 2],
      let n := fields .z16 2 0
      let op := opOf (.lfeed n) [.scalar handle, lanes [0] 1]
      let st := stream .bound [start]
      let g := graphOn 1 rpt
      let s := lacing op (some g) [st] []
      (Issues s op n ∧ (op.opc = 0xC1 ∧ op.niw = n) ∧ LaceOperands op [op.ta] ∧ OnStream ((after s op).fix op) op [.bound] 3 0 st g) ∧
      st.confs.Nodup ∧ (allPositions .z16 op.tb.val).filterMap id = [0, 0, 0, 0] ∧
      (∀ i, i < 1 → (g.cell i).rpt = rpt) ∧ Fits (((after s op).fix op).array 3) g 0 st.pos [0] {c | c ∈ st.confs}) ∧
    (fields .z16 2 4).imm.toNat % 64 + 1 = 5 ∧
    (let op := opOf (.lfeed (fields .z16 2 0)) [.scalar handle, lanes [0] 1]
     let s := (withOp op).setArray 3 { arrayOf (some (graphOn 1 2)) [stream .bound [start]] with
       out := [eventOf 3 0 (stream .bound [start]) 9 1 0 1], ops := [⟨op, .feed [], false, false⟩] }
     let x := ((after s op).fix op).array 3
     op.ta.word.toNat / 16 % 8 = 3 ∧ x.out = [eventOf 3 0 (stream .bound [start]) 9 1 0 1] ∧
     (x.ops.all fun y => y.away = false) = true) ∧
    (let x : LaceArray := { LaceArray.reset with slots := [stream .bound [start], stream .bound (List.replicate 65535 start)] }
     let l : List Conf := [⟨some 0, []⟩, ⟨some 1, []⟩]
     l.Nodup ∧ (∀ c, c ∈ l ↔ c ∈ activeAfter (graphOn 2 0) 0 [0] {c | c ∈ [start]}) ∧ x.confs.length ≤ 65536 ∧
     65536 + 1 < l.length + x.confs.length) := by
  refine ⟨?_, by decide, by decide +kernel, by decide, ?_, ?_, ?_⟩
  · intro rpt hr
    simp only [List.mem_cons, List.not_mem_nil, or_false] at hr
    rcases hr with rfl | rfl <;>
      refine ⟨⟨⟨rfl, rfl⟩, ⟨?_, ?_⟩, ⟨?_, ?_⟩, ⟨?_, ?_, ?_, ?_, ?_, ⟨?_, ?_⟩⟩⟩, ?_, ?_, ?_, ?_⟩
    all_goals first | exact fits_one _ | decide +kernel
  · intro c
    rw [show activeAfter (graphOn 2 0) 0 [0] {c | c ∈ [start]} = stepped (graphOn 2 0) 0 0 {c | c ∈ [start]} from rfl,
      stepped_start 2 0 (.inr rfl)]
    constructor
    · intro h
      rcases List.mem_cons.mp h with rfl | h
      · exact ⟨0, by decide, rfl⟩
      · obtain rfl := List.mem_singleton.mp h
        exact ⟨1, by decide, rfl⟩
    · rintro ⟨k, hk, rfl⟩
      interval_cases k <;> simp
  all_goals
    rw [confs_two, List.length_replicate]
    try decide

/-- An access gives this. -/
theorem ok_of {α : Type} [DecidableEq α] {r : Res α} {x : α} (h : (match r with | .ok y => decide (y = x) | _ => false) = true) :
    r = .ok x := by cases r <;> simp_all
/-- A graph image of three words: a length of two, one cell, a check word. -/
def graphImage : List Byte := bytesOf 8 (2 * 2 ^ 24) ++ bytesOf 8 1 ++ bytesOf 8 0x77
/-- Slot 1 is free; the array has the image's graph, another graph with a stream, or no graph; a stream to drop, and none. -/
theorem witness_LaceBinding :
    let n := fields .s8 2 0
    let op := opOf (.lbind n) [.scalar 0x10100, .scalar 3]
    let s := lacing op (some (graphOn 1 0)) [stream .bound [start]] graphImage
    (Issues s op n ∧ (op.opc = 0xC0 ∧ op.niw = n) ∧ LaceOperands op [op.ta, op.tb] ∧ Binds ((after s op).fix op) op 3 1) ∧
    ((after s op).fix op).readVirt op 0x10100 16 8 = .ok (graphImage.take 16) ∧
    ofBytes (graphImage.take 8) / 2 ^ 24 % 2 ^ 32 = 2 ∧ ((after s op).fix op).readVirt op 0x10100 (8 * (2 + 1)) 8 = .ok graphImage ∧
    graphImage.length = 8 * (2 + 1) ∧ (graphOn 1 0).check = word (ofBytes (graphImage.drop (8 * 2))) ∧
    (graphOn 1 0).cells.length = ofBytes ((graphImage.drop 8).take 8) % 2 ^ 15 ∧ (graphOn 2 0).cells.length ≠ 1 ∧
    ((arrayOf (some (graphOn 2 0)) [stream .bound [start]]).slot 0).st ≠ .free ∧ graphOf (wordsOf (2 + 1) graphImage) = none ∧
    (let op := opOf (.ldrop (fields .s8 1 0)) [.scalar handle]
     let s := lacing op (some (graphOn 1 0)) [stream .held [start]] []
     (op.opc = 0xC5 ∧ op.niw = fields .s8 1 0) ∧ LaceOperands op [op.ta] ∧ OnStream ((after s op).fix op) op [.bound, .held] 3 0 (stream .held [start]) (graphOn 1 0)) ∧
    (let op := plainOp (fields .s8 1 0) [.scalar 0x31]
     let s := lacing op (some (graphOn 1 0)) [stream .held [start]] []
     (((after s op).fix op).array (op.ta.word.toNat / 16 % 8)).out = [] ∧ (((after s op).fix op).array (op.ta.word.toNat / 16 % 8)).ops = [] ∧
     ((((after s op).fix op).array (op.ta.word.toNat / 16 % 8)).slot (op.ta.word.toNat % 16)).st = .free) := by
  refine ⟨⟨⟨rfl, rfl⟩, ⟨?_, ?_⟩, ⟨?_, ?_⟩, ⟨?_, ?_, ?_, ?_, ⟨?_, ?_⟩⟩⟩, ok_of ?_, ?_, ok_of ?_, ?_, ?_, ?_, ?_, ?_, ?_,
    ⟨⟨?_, ?_⟩, ⟨?_, ?_⟩, ⟨?_, ?_, ?_, ?_, ?_, ⟨?_, ?_⟩⟩⟩, ?_⟩
  all_goals decide +kernel
/-- The parameters of a query: a vocabulary of 512 tokens at 0x11000, the mask to 0x18000. -/
def queryWords : List Word := [0x11000, word (64 + 512 * 2 ^ 32), 0x18000]
/-- The machine that asks: a page of 64 KiB, the stream before its first symbol, the tokens 0 and 511 in the row of class 0. -/
def asking (op : Issued) : State :=
  let s := lacing op (some (graphOn 1 0)) [stream .bound [start]] []
  { s.setRegion 0 { s.region 0 with tc := [⟨1, 0x10000, 0x10000, leaf⟩] } with
    main := { State.reset.main with cells := [(0x40101, 0x10), (0x40102, 0x01), (0x40108, 0x40), (0x4010D, 0x02), (0x40111, 0x80),
      (0x40112, 0x01), (0x41000, 0x01), (0x4103F, 0x80)] } }
/-- The query. -/
def queryOp : Issued := opOf (.lqry (fields .s8 3 0)) [.scalar handle, .scalar 0x10100, .scalar 0]
/-- The row of a class. -/
def rowOf (b : Nat) : List Byte := if b = 0 then 1 :: List.replicate 62 0 ++ [0x80] else List.replicate 64 0

/-- Above every listed cell memory reads zero. -/
theorem readPieces_high (s : State) : ∀ ps : List (Nat × Nat), (∀ p ∈ ps, ∀ c ∈ s.main.cells, c.1 < p.1) →
    s.readPieces ps = List.replicate (ps.map (·.2)).sum 0
  | [], _ => rfl
  | p :: ps, h => by
    have hc : ∀ (l : List Host.Cell) (a : Nat), (∀ c ∈ l, c.1 < a) → cellGet l a = 0 := by
      intro l a hl
      induction l with
      | nil => rfl
      | cons c l ih =>
        have := hl c (by simp)
        simp only [cellGet]
        rw [if_neg (by omega), ih fun x hx => hl x (by simp [hx])]
    have hp : s.readMain p.1 p.2 = List.replicate p.2 0 := by
      apply List.eq_replicate_iff.mpr
      refine ⟨by simp [State.readMain, cellsGet], fun b hb => ?_⟩
      obtain ⟨i, -, rfl⟩ := List.mem_map.mp hb
      exact hc _ _ fun c hx => Nat.lt_of_lt_of_le (h p (by simp) c hx) (Nat.le_add_right _ _)
    have := readPieces_high s ps fun q hq => h q (by simp [hq])
    simp only [State.readPieces, List.flatMap_cons] at this ⊢
    rw [hp, this, List.map_cons, List.sum_cons, List.replicate_add]
/-- The rows of the vocabulary. -/
theorem rows_read : ∀ b, b < 256 → ((after (asking queryOp) queryOp).fix queryOp).readVirt queryOp (0x11000 + b * 64) 64 64 = .ok (rowOf b) := by
  have h : ∀ b, b < 256 → (match ((after (asking queryOp) queryOp).fix queryOp).range queryOp .read (0x11000 + b * 64) 64 64 with
      | .ok ps => b = 0 || (ps.all (fun p => 0x41040 ≤ p.1) && decide ((ps.map (·.2)).sum = 64))
      | _ => false) = true := by decide +kernel
  have hk : ∀ c ∈ ((after (asking queryOp) queryOp).fix queryOp).main.cells, c.1 < 0x41040 := by decide +kernel
  intro b hb
  by_cases h0 : b = 0
  · subst h0
    exact ok_of (by decide +kernel)
  · have := h b hb
    unfold State.readVirt
    cases hr : State.range _ queryOp .read (0x11000 + b * 64) 64 64 with
    | ok ps =>
      simp only [hr, h0, decide_false, Bool.false_or, Bool.and_eq_true, List.all_eq_true, decide_eq_true_eq] at this
      simp only [Res.bind]
      rw [readPieces_high _ ps fun p hp c hc => Nat.lt_of_lt_of_le (hk c hc) (this.1 p hp), this.2]
      simp [rowOf, h0]
    | fault c a p => simp [hr] at this
    | miss v => simp [hr] at this

theorem witness_LaceQueriesAndImages_LaceQueries :
    let n := fields .s8 3 0
    let s1 := (after (asking queryOp) queryOp).fix queryOp
    let m := 2 ^ 511 + 1
    (Issues (asking queryOp) queryOp n ∧ (queryOp.opc = 0xC2 ∧ queryOp.niw = n) ∧ LaceOperands queryOp [queryOp.ta, queryOp.tb, queryOp.tc] ∧
    OnStream s1 queryOp [.bound] 3 0 (stream .bound [start]) (graphOn 1 0)) ∧
    s1.readVirt queryOp 0x10100 24 8 = .ok (wordBytes queryWords) ∧ queryWords.length = 3 ∧ 512 ≤ 8 * 64 ∧
    (∀ b, b < 256 → s1.readVirt queryOp (0x11000 + b * 64) 64 64 = .ok (rowOf b)) ∧
    (∃ ps, s1.range queryOp .write 0x18000 64 64 = .ok ps) ∧
    (∀ i, m.testBit i = true ↔ i < 512 ∧ ∃ b, b < 256 ∧ mayFollow (graphOn 1 0) 0 {c | c ∈ [start]} b ∧
      (ofBytes (rowOf b)).testBit i = true) ∧
    [0, 511].Pairwise (· < ·) ∧ (∀ i, i ∈ [0, 511] ↔ m.testBit i = true) ∧ queryOp.tc.word = 0 := by
  have hb : ∀ i, i < 512 → ((2 ^ 511 + 1).testBit i = true ↔ i ∈ [0, 511]) := by decide +kernel
  have hl : ∀ i, (2 ^ 511 + 1).testBit i = true → i < 512 := fun i h => by
    by_contra hn
    rw [Nat.testBit_lt_two_pow (Nat.lt_of_lt_of_le (by decide +kernel : 2 ^ 511 + 1 < 2 ^ 512)
      (Nat.pow_le_pow_right (by decide) (Nat.le_of_not_lt hn)))] at h
    exact absurd h (by decide)
  refine ⟨⟨⟨rfl, rfl⟩, ⟨?_, ?_⟩, ⟨?_, ?_⟩, ⟨?_, ?_, ?_, ?_, ?_, ⟨?_, ?_⟩⟩⟩, ok_of ?_, ?_, ?_, rows_read, ?_, fun i => ?_, ?_, fun i => ?_, ?_⟩
  any_goals decide +kernel
  · have hk : (match ((after (asking queryOp) queryOp).fix queryOp).range queryOp .write 0x18000 64 64 with
      | .ok _ => true | _ => false) = true := by decide +kernel
    cases h : State.range _ queryOp .write 0x18000 64 64 with
    | ok ps => exact ⟨ps, rfl⟩
    | fault c a p => simp [h] at hk
    | miss v => simp [h] at hk
  · have hm : ∀ b, mayFollow (graphOn 1 0) 0 {c | c ∈ [start]} b ↔ b = 0 := by
      intro b
      constructor
      · rintro ⟨c, hc, k, s', hf, ht, -⟩
        obtain rfl : c = start := by simpa using hc
        obtain rfl : k = 0 := by simpa [follows, start, graphOn] using hf
        have : (1 : Nat).testBit b = true := ht
        by_contra hn
        rw [Nat.testBit_lt_two_pow (Nat.one_lt_two_pow hn)] at this
        exact absurd this (by decide)
      · rintro rfl
        exact ⟨start, by simp, 0, [], by simp [follows, start, graphOn], by decide +kernel, .inl ⟨by decide +kernel, rfl⟩⟩
    have ho : ofBytes (rowOf 0) = 2 ^ 511 + 1 := by decide +kernel
    constructor
    · intro h
      exact ⟨hl i h, 0, by decide, (hm 0).mpr rfl, by rw [ho]; exact h⟩
    · rintro ⟨-, b, -, h, ht⟩
      rw [(hm b).mp h, ho] at ht
      exact ht
  · exact ⟨fun h => (hb i (by rcases List.mem_cons.mp h with rfl | h
                              · decide
                              · rw [List.mem_singleton.mp h]; decide)).mpr h, fun h => (hb i (hl i h)).mp h⟩
/-- What a stream may hold, at its start and in the middle of a word. -/
theorem good_confs : GoodConfs (graphOn 1 0) [start] 0 9 ∧ GoodConfs (graphOn 1 0) [⟨some 0, [(1, 2)]⟩] 5 9 := by
  refine ⟨⟨by decide, ?_, ?_, ?_, by decide +kernel⟩, ⟨by decide, ?_, ?_, ?_, by decide +kernel⟩⟩
  · intro c hc k hk; obtain rfl := List.mem_singleton.mp hc; exact absurd hk (by simp [start])
  · intro c hc p hp; obtain rfl := List.mem_singleton.mp hc; exact absurd hp (by simp [start])
  · intro c hc _; exact ⟨rfl, rfl⟩
  · intro c hc k hk; obtain rfl := List.mem_singleton.mp hc; obtain rfl : 0 = k := by simpa using hk
    decide
  · intro c hc p hp; obtain rfl := List.mem_singleton.mp hc; obtain rfl := List.mem_singleton.mp hp; decide
  · intro c hc h; obtain rfl := List.mem_singleton.mp hc; exact absurd h (by simp)
/-- The image of a stream at its start. -/
def startImage : List Word := saveImage 0x77 [start] 0 9
/-- A stream to suspend into 56 bytes and into 55, and its image to resume in slot 1. -/
theorem witness_LaceQueriesAndImages_LaceImages :
    (GoodConfs (graphOn 1 0) [start] 0 9 ∧ GoodConfs (graphOn 1 0) [⟨some 0, [(1, 2)]⟩] 5 9) ∧
    (∀ size ∈ [(55 : Word), 56],
      let op := opOf (.lsusp (fields .s8 3 0)) [.scalar handle, .scalar 0x10100, .scalar size]
      let s := lacing op (some (graphOn 1 0)) [stream .held [start]] []
      Issues s op (fields .s8 3 0) ∧ (op.opc = 0xC3 ∧ op.niw = fields .s8 3 0) ∧ LaceOperands op [op.ta, op.tb, op.tc] ∧
      OnStream ((after s op).fix op) op [.bound, .held] 3 0 (stream .held [start]) (graphOn 1 0) ∧ op.tc.word.toNat < 2 ^ 32 ∧
      8 * startImage.length = 56 ∧ (size = 55 ∨ ((after s op).fix op).range op .write 0x10100 56 8 =
        .ok ((List.range 7).map fun i => (0x40100 + 8 * i, 8)))) ∧
    (let n := fields .s8 3 0
     let op := opOf (.lresm n) [.scalar 0x10100, .scalar 3, .scalar 0x10200]
     let s := (lacing op (some (graphOn 1 0)) [stream .bound [start]] graphImage).writeMain 0x40200 (wordBytes startImage)
     let s1 := (after s op).fix op
     (Issues s op n ∧ (op.opc = 0xC4 ∧ op.niw = n) ∧ LaceOperands op [op.ta, op.tb, op.tc] ∧ Binds s1 op 3 1) ∧ (s1.array 3).graph = some (graphOn 1 0) ∧
     s1.readVirt op 0x10100 16 8 = .ok (graphImage.take 16) ∧ s1.readVirt op 0x10100 (8 * (2 + 1)) 8 = .ok graphImage ∧
     s1.readVirt op 0x10200 8 8 = .ok ((wordBytes startImage).take 8) ∧
     s1.readVirt op 0x10200 (8 * startImage.length) 8 = .ok (wordBytes startImage) ∧
     (s1.array 3).confs.length + 1 ≤ 65536 ∧ (nodeList (s1.array 3).confs).length + (nodeList [start]).length ≤ 262144) := by
  refine ⟨good_confs, ?_, ⟨⟨⟨rfl, rfl⟩, ⟨?_, ?_⟩, ⟨?_, ?_⟩, ⟨?_, ?_, ?_, ?_, ⟨?_, ?_⟩⟩⟩, ?_, ok_of ?_, ok_of ?_, ok_of ?_, ok_of ?_, ?_, ?_⟩⟩
  rotate_left
  any_goals decide +kernel
  intro size hs
  simp only [List.mem_cons, List.not_mem_nil, or_false] at hs
  rcases hs with rfl | rfl
  · refine ⟨⟨rfl, rfl⟩, ⟨?_, ?_⟩, ⟨?_, ?_⟩, ⟨?_, ?_, ?_, ?_, ?_, ⟨?_, ?_⟩⟩, ?_, ?_, .inl rfl⟩ <;> decide +kernel
  · refine ⟨⟨rfl, rfl⟩, ⟨?_, ?_⟩, ⟨?_, ?_⟩, ⟨?_, ?_, ?_, ?_, ?_, ⟨?_, ?_⟩⟩, ?_, ?_, .inr (ok_of ?_)⟩ <;> decide +kernel

/-- A second context, with home in region 0, under launch number 77. -/
def other (st : CState) : Ctx := { ctx with num := 5, launch := 77, st := st, gang := 3, round := 6, rset := 2 }
/-- The small machine with the second context. -/
def beside (op : Issued) (st : CState) : State := { paged op 0 with ctxs := [ctx, other st], feat := some 2 }
/-- An image without sections, for region 0, and its words. -/
def bareWords : List Word :=
  let ws : List Word := [word (0x5A39 * 2 ^ 48 + 2 ^ 40 + 9), 1, 0, 0, 0, 0, 0, 0]
  ws ++ [crcWords ws]
/-- What the loader makes of it. -/
def bareImage : Image :=
  { sys := false, rset := 1, widths := [], len := 9, check := bareWords.getLastD 0, ctiles := [], mtiles := [], blocks := [], data := [],
    seeds := [], entries := [] }
/-- A machine whose page table maps the low gigabyte onto itself, the image at 0x1000. -/
def imaged (op : Issued) (l : Option Loaded) : State :=
  let s := withOp op
  ({ s.setRegion 0 { s.region 0 with shadow := l } with
     ctxs := [{ ctx with root := 0x80000, st := .running }, other .running]
     main := { State.reset.main with cells := [(0x80000, 0x01), (0x80001, 0x10), (0x80002, 0x08), (0x81000, 0x01), (0x81001, 0x20),
       (0x81002, 0x08), (0x82000, 0x23)] } } : State).writeMain 0x1000 (wordBytes bareWords)
/-- What CFGLD leaves of it. -/
def bareLoaded : Loaded := ⟨1, bareImage.check, 1, 9, true, []⟩
/-- A result is there. -/
theorem exists_ok {α : Type} {r : Res α} (h : (match r with | .ok _ => true | _ => false) = true) : ∃ x, r = .ok x := by
  cases r <;> simp_all

/-- The image to load and loaded, a region to swap at once and one to wait for, launches to drain, and a splice. -/
theorem witness_ConfigurationsAndSwaps :
    (let n := fields .s8 2 0
     let op := { opOf (.cfgld n) [.scalar 0x1000, .scalar 1] with site := .block 0 0 0 }
     let c := { ctx with root := 0x80000 }
     (Issues (imaged op none) op n ∧ op.niw = n ∧ op.ta.isVec = false ∧ op.tb.isVec = false ∧
       (after (imaged op none) op).ctx? op.ctx = some c) ∧
     (after (imaged op none) op).readImage (.virt c.root c.sys) false 0x1000 = .ok bareImage ∧
     (∀ l ∈ [none, some bareLoaded], ((after (imaged op l) op).region 0).reserved = none ∧
       (after (imaged op l) op).loadingSet = 0 ∧ ((after (imaged op l) op).region 0).shadow = l) ∧
     (∃ u, (after (imaged op none) op).loadFabric c bareImage 1 true = .ok u) ∧ c.rset.testBit 0 = true ∧ c.rset.testBit 1 = false) ∧
    (let op := { opOf (.cfgsw (fields .s8 1 0)) [.scalar 1] with site := .block 0 0 0 }
     let s := withOp op
     let s' := s.setRegion 0 { s.region 0 with activeCtx := some 5 }
     Issues s op (fields .s8 1 0) ∧ op.niw = fields .s8 1 0 ∧ ((after s op).region 0).activeCtx = none ∧ (after s op).held = [] ∧
     ((after s' op).region 0).activeCtx.isSome = true ∧ ctx.rset.testBit 0 = true) ∧
    (∀ st ∈ [CState.running, .ended],
      let op := plainOp (fields .s8 1 0) [.scalar 77]
      (after (beside op st) op).launched? 77 = some (other st) ∧ (other st).home = siteRegion op.site) ∧
    (let op := plainOp (fields .s8 1 0) [.scalar 9]
     let s := { imaged op (some bareLoaded) with ctxs := [ctx] }
     NamesLive (after s op) op.ta.word ctx ∧ ctx.st = .running ∧ Commands (after s op) op ctx ∧ ctx.rset = 1 ∧ ctx.splice = none ∧
     ((after s op).region 0).shadow = some bareLoaded ∧ (after s op).ctile tile = { CTile.reset with active := some plane } ∧
     regionOf tile = 0 ∧ tile ∈ tilesOf 0 ∧ isCompute tile = true ∧ plane.ctx = ctx.num) := by
  unfold NamesLive Commands
  refine ⟨⟨⟨⟨rfl, rfl⟩, ?_, ?_, ?_, ?_⟩, ok_of ?_, ?_, exists_ok ?_, ?_, ?_⟩, ⟨⟨rfl, rfl⟩, ?_⟩, ?_, ⟨?_, ?_, .inl ?_, ?_⟩⟩
  all_goals decide +kernel
/-- The words of a descriptor. -/
def descriptor : List Word := [0x1000, 5, word (64 + 6 * 2 ^ 16), 0, 0, 0, 0, 0]
theorem good_descriptor : GoodDescriptor descriptor := by
  refine ⟨?_, ?_, ?_, ?_, ?_, ?_, ?_, ?_⟩ <;> decide +kernel
/-- The plane with a node 0 that takes slot a. -/
def nodePlane : CPlane := { plane with ins := [(encode (.mov (fields .s8 1 0))).getD 0] }
/-- A seed for it. -/
def seedCtl : Word := word (2 ^ 53 * 2 + 2 ^ 37)
/-- A launch of region 1 and of region 0, a seed of a running context, a waiting context whose region is free, a loading one. -/
theorem witness_LaunchesAndSeeds :
    (let n := fields .s8 2 0
     let op := plainOp n [.scalar 0x10100, .scalar 2]
     let s := (paged op 0).writeMain 0x40100 (wordBytes descriptor)
     (Issues s op n ∧ op.ta.isVec = false ∧ op.tb.isVec = false ∧ (after s op).ctx? op.ctx = some ctx) ∧
     (after s op).readVirt op 0x10100 64 64 = .ok (wordBytes descriptor) ∧ GoodDescriptor descriptor ∧
     ¬ GoodDescriptor (descriptor.set 7 1) ∧ ctx.gang = 0 ∧ (after s op).waiting < 256 ∧ 0x10100 % 64 = 0) ∧
    (let op := plainOp (fields .s8 2 0) [.scalar 9, .scalar 0x10100]
     let s := { (paged op 0).writeMain 0x40100 (wordBytes [seedCtl, 0, 7]) with
       ctiles := [(tile, { CTile.reset with active := some nodePlane })] }
     let r : SeedRec := ⟨seedCtl, 0, 7⟩
     (NamesLive (after s op) op.ta.word ctx ∧ Commands (after s op) op ctx) ∧
     (after s op).readVirt op 0x10100 24 8 = .ok (wordBytes [seedCtl, 0, 7]) ∧ seedCtl.toNat % 2 ^ 35 = 0 ∧
     seedCtl.getLsbD 38 = false ∧ seedCtl.toNat / 2 ^ 39 % 8 = 0 ∧ (parcelOf seedCtl 0 [7]).tile = tile ∧
     look tile ((after s op).planesOf 1) = some nodePlane ∧
     seedFits ((after s op).planesOf 1) 1 nodePlane.widths r = true) ∧
    (let c := { other .waiting with launch := 78 }
     let s := { State.reset with ctxs := [{ ctx with rset := 1 }, c] }
     (s.launched? c.launch = some c ∧ (s.ctxs.map (·.launch)).Nodup ∧ c.st = .waiting ∧ c.program = false ∧ c.stopAfter = false ∧
      s.loadingSet = 0 ∧
      (∀ d ∈ s.ctxs, d.st = .waiting → d = c) ∧ (∀ d ∈ s.ctxs, d.st ≠ .loading ∧ d.program = false)) ∧
     ((∀ r, r < 42 → c.rset.testBit r = true → (s.region r).shadow = none ∧ (s.region r).reserved = none) ∧
      c.rset.testBit 1 = true ∧ (∀ r, r < 42 → (s.region r).activeCtx ≠ some 2 ∧ (s.region r).shadow = none) ∧
      (∀ d ∈ s.ctxs, d.st ≠ .waiting → d.st ≠ .ended → d.num ≠ 2) ∧
      (∀ k, 1 ≤ k → k < 2 → ∃ d ∈ s.ctxs, d.st ≠ .waiting ∧ d.st ≠ .ended ∧ d.num = k))) ∧
    (let c := { ctx with st := .loading, seeds := [⟨seedCtl, 0, 7⟩] }
     let s := ({ State.reset with ctxs := [c] } : State).setRegion 0 { State.reset.region 0 with activeCtx := some 1 }
     s.ctx? c.num = some c ∧ s.launched? c.launch = some c ∧ c.image = none ∧ c.host = none ∧ c.req = none ∧
     ∀ r, r < 42 → c.rset.testBit r = true → (s.region r).activeCtx = some c.num) := by
  unfold NamesLive Commands
  refine ⟨⟨⟨⟨rfl, rfl⟩, ?_⟩, ok_of ?_, good_descriptor, fun h => ?_, ?_⟩, ⟨⟨⟨?_, ?_⟩, .inl ?_⟩, ok_of ?_, ?_⟩, ⟨?_, ?_, ?_, ?_, ?_, ?_⟩, ?_⟩
  any_goals decide +kernel
  · exact absurd h.rest.2.2 (by decide +kernel)
/-- A record to post and one not to; a queue with a record of the launch awaited behind another; a post and a fault that
find room, and a fault that finds none. -/
theorem witness_RecordsAndMarkers_EventQueues :
    (∀ pred : Bool,
      let op := { plainOp (fields .s8 1 9) [] with a := some { tok (.scalar 78) with pred := pred } }
      Issues (withOp op) op (fields .s8 1 9) ∧ (after (withOp op) op).ctx? op.ctx = some ctx ∧ op.ta.pred = pred ∧ op.anyNull = false) ∧
    (let op := plainOp (fields .s8 1 0) [.scalar 9]
     let x : Record := .post 1 2 30 9 5 6 false 7
     let y : Record := .post 1 2 30 8 5 6 false 7
     let s := withOp op
     let s := s.setRegion 0 { s.region 0 with queue := [y, x] }
     op.ta.isVec = false ∧ ((after s op).region (siteRegion op.site)).queue = [y] ++ x :: [] ∧
     (after s op).held = [] ∧
     picks (after s op) (fields .s8 1 0) op.ta.word.toNat x ∧ ¬ picks (after s op) (fields .s8 1 0) op.ta.word.toNat y) ∧
    (let op := opOf (.evwait (fields .s8 1 0)) [.scalar 9]
     let s := { withOp op with held := [⟨op, .record⟩] }
     OlderTakes (s.setRegion 0 { s.region 0 with queue := [.post 1 2 30 9 5 6 false 7] }) 0) ∧
    (let i : Inbound := ⟨.post 1 2 30 9 5 6 false 7, none⟩
     let f : Inbound := ⟨.fault 1 2 0x41 0 0 0 0 0 1 0 0 0 9, none⟩
     let g (q : List Record) (i : Inbound) : Region := { Region.reset with queue := q, inbound := [i] }
     let full := List.replicate 127 f.record ++ [i.record]
     (({ State.reset with regions := [(3, g [] i)] } : State).region 3).inbound = i :: [] ∧
     (({ State.reset with regions := [(3, g full f)] } : State).region 3).inbound = f :: [] ∧ queueSize [] < 240 ∧
     queueSize [] + 2 ≤ 256 ∧ 255 ≤ queueSize full) := by
  refine ⟨fun p => ⟨⟨rfl, ?_⟩, ?_⟩, ⟨?_, ?_, rfl, ⟨rfl, rfl⟩, fun h => absurd h.2 (by decide)⟩,
    ⟨_, List.mem_singleton_self _, rfl, rfl, _, List.mem_singleton_self _, by decide +kernel, by decide +kernel⟩, ?_⟩
  all_goals first | decide +kernel | (cases p <;> decide +kernel)
/-- The second context in each state; a tile that its marker reaches, the last one too; its last quiet element. -/
theorem witness_RecordsAndMarkers_Marking :
    (∀ st ∈ [CState.running, .frozen, .freezing, .stopped],
      let op := plainOp (fields .s8 2 0) [.scalar 77, .scalar 12]
      let s := beside op st
      Issues s op (fields .s8 2 0) ∧ Marks (after s op) op (other st) ∧ (other st).st = st ∧ 0 < op.tb.word.toNat ∧
      op.tb.word.toNat < 2 ^ 32 ∧ (other st).gang ≠ 0 ∧ (after s op).hasFeature 1 = true ∧ (after s op).tables.gangs = []) ∧
    (let c := { ctx with st := .freezing, round := 12, markers := [.tile tile, .port 0], quiet := [.port 0] }
     let s := { State.reset with ctxs := [c] }
     s.ctx? c.num = some c ∧ s.launched? c.launch = some c ∧ .tile tile ∈ c.markers ∧ s.held = [] ∧ isCompute tile = true) ∧
    (let c := { ctx with st := .freezing, round := 12, markers := [.tile tile], quiet := [.port 0], issuer := some 0 }
     let op := plainOp (fields .s8 2 0) [.scalar 9, .scalar 12]
     let s := { State.reset with ctxs := [c], held := [⟨op, .delivery c.launch c.round⟩] }
     s.ctx? c.num = some c ∧ .tile tile ∈ c.markers ∧ (∀ e ∈ c.markers, e = .tile tile) ∧
     s.held = [⟨op, .delivery c.launch c.round⟩] ∧ .port 0 ∈ c.quiet ∧ s.quietAt c (.port 0) = true ∧
     (∀ e ∈ c.quiet, e = .port 0) ∧ c.endAfter = false ∧ c.gangMark = false ∧ c.issuer = some 0) ∧
    (let c := { ctx with st := .freezing, round := 12, quiet := [.tile mem], gang := 3, gangMark := true }
     let s := ({ State.reset with ctxs := [c], tables := { State.reset.tables with peers := [(2, 41)] } } : State).setPort 2
       { Port.reset with up := true }
     .tile mem ∈ c.quiet ∧ s.quietAt c (.tile mem) = true ∧ (s.port 2).up = true ∧ s.peer 2 < 4096 ∧
     (c.gang, c.round) ∉ (s.port 2).marked) := by
  refine ⟨fun st hst => ?_, ?_, ?_, ?_⟩
  · simp only [List.mem_cons, List.not_mem_nil, or_false] at hst
    rcases hst with rfl | rfl | rfl | rfl <;>
      refine ⟨⟨rfl, rfl⟩, ⟨⟨?_, ?_⟩, .inr ?_, ?_, .inl ?_, ?_⟩, ?_⟩ <;> decide +kernel
  all_goals decide +kernel
/-- The words of a snapshot image, without a section. -/
def snapWords : List Word :=
  let ws : List Word := [word (0x5A53 * 2 ^ 48 + 2 ^ 40 + 9), word (3 + 12 * 2 ^ 32), 0x10200, 2, 3, 0, 0, 0]
  ws ++ [crcWords ws]
theorem witness_SnapshotsAndRestores :
    (∀ st ∈ [CState.running, .freezing, .frozen, .stopped],
      let op := plainOp (fields .s8 3 0) [.scalar 77, .scalar 0x10100, .scalar 0]
      let s := beside op st
      Issues s op (fields .s8 3 0) ∧ op.ta.isVec = false ∧ op.tb.isVec = false ∧ op.tc.isVec = false ∧
      NamesLive (after s op) op.ta.word (other st) ∧ Commands (after s op) op (other st) ∧ (other st).st = st ∧
      (after s op).images = []) ∧
    (let op := plainOp (fields .s8 2 0) [.scalar 0x10100, .scalar 4]
     let s := ((paged op 0).writeMain 0x40100 (wordBytes snapWords)).writeMain 0x40200 (wordBytes descriptor)
     (Issues s op (fields .s8 2 0) ∧ (after s op).ctx? op.ctx = some ctx) ∧ snapWords.length = 9 ∧
     (snapWords.getD 0 0).toNat = 0x5A53 * 2 ^ 48 + 2 ^ 40 + snapWords.length ∧
     snapWords.getLastD 0 = crcWords snapWords.dropLast ∧
     (after s op).readVirt op 0x10100 64 8 = .ok (wordBytes (snapWords.take 8)) ∧
     (after s op).readVirt op 0x10100 (8 * snapWords.length) 8 = .ok (wordBytes snapWords) ∧
     (after s op).readVirt op (snapWords.getD 2 0).toNat 64 8 = .ok (wordBytes descriptor) ∧ GoodDescriptor descriptor ∧
     (after s op).waiting < 256 ∧ ((Finset.range 42).filter fun r => (4 : Nat).testBit r = true).card =
        ((Finset.range 42).filter fun r => (snapWords.getD 3 0).toNat.testBit r = true).card) := by
  refine ⟨fun st hst => ?_, ⟨⟨rfl, rfl⟩, ?_⟩, ?_, ?_, ?_, ok_of ?_, ok_of ?_, ok_of ?_, good_descriptor, ?_, ?_⟩
  · simp only [List.mem_cons, List.not_mem_nil, or_false] at hst
    rcases hst with rfl | rfl | rfl | rfl <;>
      refine ⟨⟨rfl, rfl⟩, ?_, ?_, ?_, ⟨?_, ?_⟩, .inl ?_, ?_⟩ <;> decide +kernel
  all_goals decide +kernel
/-- Every register read; the mode written with its largest value, THROTWIN with its limits, by either kind of context; a
region's routers from a block, and a region that there is not. -/
theorem witness_SystemRegisters :
    (∀ k ∈ [(0 : BitVec 8), 1, 2, 3, 4, 6, 7], ∀ sys : Bool,
      let n := { fields .s8 1 0 with imm := k }
      let op := plainOp n [.scalar 29]
      let c := { ctx with sys := sys }
      let s := { withOp op with ctxs := [c] }
      Issues s op n ∧ (after s op).ctx? op.ctx = some c ∧ op.site = .tile tile ∧ op.ta.isVec = false ∧
      op.ta.word.toNat % 8 < 6 ∧ op.ta.word.toNat < 32) ∧
    (6 ≤ (6 : Word).toNat % 8 ∧ 32 ≤ (32 : Word).toNat) ∧
    ((0x7000 : Word).toNat < 2 ^ 16 ∧ (0x7000 : Word).toNat % 2 ^ 13 ≤ 4096 ∧ 2 ^ 16 ≤ (0x10000 : Word).toNat ∧
      4096 < (0x1001 : Word).toNat % 2 ^ 13) ∧
    (let op := blockOp (.throt (fields .s8 1 1)) [.scalar 41]
     Issues (withBlock op blockRun []) op (fields .s8 1 1) ∧ op.site = .block 1 0 0 ∧ op.ta.word.toNat < 42 ∧
     (fields .s8 1 1).imm.getLsbD 0 = true ∧ 42 ≤ (42 : Word).toNat) := by
  refine ⟨fun k hk sys => ⟨⟨rfl, rfl⟩, ?_⟩, ?_, ?_, ⟨⟨rfl, rfl⟩, ?_⟩⟩
  · cases sys <;> exact ⟨rfl, rfl, rfl, (by decide : (29 : Word).toNat % 8 < 6), (by decide : (29 : Word).toNat < 32)⟩
  all_goals decide +kernel
/-- A context's own range, and another's for an ordinary and a system context; the limits of a bad set and an empty range. -/
theorem witness_Translation_Invalidation :
    (∀ num ∈ [1, 5], ∀ sys : Bool,
      let op := plainOp (fields .s8 3 0) [.scalar 0x10800, .scalar 0x400, .scalar (word (1 + num * 2 ^ 52))]
      let s := { paged op 0 with ctxs := [{ ctx with sys := sys }, other .running] }
      Issues s op (fields .s8 3 0) ∧ op.ta.isVec = false ∧ op.tb.isVec = false ∧ op.tc.isVec = false ∧
      op.tc.word.toNat % 2 ^ 42 ≠ 0 ∧ op.tc.word.toNat / 2 ^ 42 % 2 ^ 10 = 0 ∧ op.tc.word.toNat / 2 ^ 52 = num ∧
      0x10800 + 0x400 ≤ 2 ^ 55 ∧ (after s op).isSystem op.ctx = sys ∧ (after s op).mtiles = [] ∧ (after s op).scatters = [] ∧
      (after s op).reds = [] ∧ (after s op).main.readers = []) ∧
    (let op := plainOp (fields .s8 1 0) [.scalar 0x10800]
     let s := { paged op 0 with main := { (paged op 0).main with readers := [(0x40800, op)] } }
     s.unperformed 1 0x10800 0x400 [0] = true) ∧
    (word (2 ^ 42 + 2 ^ 52)).toNat / 2 ^ 42 % 2 ^ 10 ≠ 0 ∧ (word (2 ^ 52)).toNat % 2 ^ 42 = 0 := by
  refine ⟨fun num hn sys => ?_, by decide +kernel, by decide +kernel, by decide +kernel⟩
  simp only [List.mem_cons, List.not_mem_nil, or_false] at hn
  rcases hn with rfl | rfl <;> cases sys <;> exact ⟨⟨rfl, rfl⟩, by decide +kernel⟩

/-- An operation of each element, its context alive; a TRAP that stops and one that does not. -/
theorem witness_FaultsAndChecks_FaultsTaken :
    (let op := plainOp (fields .s8 1 0x41) [.scalar 7]
     (withOp op).ctx? op.ctx = some ctx ∧ Plain 0x041 ∧ op.site = .tile tile ∧ Issues (withOp op) op (fields .s8 1 0x41) ∧
     op.tb.isVec = false ∧ (after (withOp op) op).ctx? op.ctx = some ctx ∧ Alive (after (withOp op) op) ctx ∧ ctx.st = .running ∧
     ctx.num = op.ctx ∧ (fields .s8 1 0x40).imm.getLsbD 6 = true ∧ (fields .s8 1 0x3F).imm.getLsbD 6 = false) ∧
    (let op := blockOp (.trap (fields .s8 1 0x41)) [.scalar 7]
     InBlock (withBlock op blockRun []) op 1 0 blockRun ∧ InBlock (after (withBlock op blockRun []) op) op 1 0 blockRun) := by
  unfold Alive Plain
  refine ⟨⟨?_, ?_, ?_, ⟨rfl, rfl⟩, ?_⟩, ⟨⟨0, rfl⟩, rfl, ?_⟩, ⟨⟨0, rfl⟩, rfl, ?_⟩⟩ <;> decide +kernel
/-- A running context that a region runs; a line tile with a speculative row; two contexts of which one runs. -/
theorem witness_FaultsAndChecks_MachineChecks :
    (let s := { State.reset with ctxs := [ctx] }
     let s := s.setRegion 5 { s.region 5 with activeCtx := some 1 }
     Alive s ctx ∧ ctx.st = .running ∧ (s.region 5).activeCtx = some ctx.num ∧ (s.region 5).shadow = none ∧
     (s.region 5).reserved = none) ∧
    (let m := { mtile (2 * 2 ^ 60 + 1 * 2 ^ 48 + 2 * 2 ^ 36 + 1 * 2 ^ 28) with lines := [⟨0, true, false⟩, ⟨1, true, false⟩, ⟨2, true, false⟩] }
     let s := { State.reset with ctxs := [ctx], mtiles := [(mem, m)] }
     ((s.mtile mem).active.map (·.ctx)) = some 1 ∧ Alive s ctx ∧ m.lines.length = m.win + m.spec ∧ m.win ≤ 2 ∧ 2 < m.win + m.spec) ∧
    (let s := { State.reset with ctxs := [ctx, other .ended, { other .waiting with num := 6, launch := 78 }] }
     Alive s ctx ∧ (s.ctxs.map (·.launch)).Nodup ∧ (∀ d ∈ s.ctxs, d.num = ctx.num → d = ctx ∨ d.st = .ended ∨ d.st = .waiting)) := by
  unfold Alive
  decide +kernel

/-- A plane whose node 0 is an instruction. -/
def nodeOf (i : Instr) : CPlane := { plane with ins := [(encode i).getD 0] }
/-- A node that adds two operands. -/
def addPlane : CPlane := nodeOf (.add (fields .s8 2 0))
/-- A token for a slot of node 0. -/
def arriving (k : Slot) (v : Value) : Parcel := { tile := tile, node := 0, slot := k, tok := tok v }
/-- The tile with a plane, some entries and tokens that wait. -/
def matchTile (p : CPlane) (es : List Entry) (own refill : List Parcel) : CTile :=
  { CTile.reset with active := some p, map := [(1, 0)], entries := es, own := own, refill := refill }
/-- A machine of this tile and of the context with a Skein. -/
def matcher (x : CTile) (sk : List Spilled) : State :=
  { State.reset with ctxs := [{ ctx with skein := sk }], ctiles := [(tile, x)] }
/-- An entry of node 0 that holds slot b. -/
def halfEntry (tag : Word) (way : Bool) : Entry :=
  ⟨tag, 0, none, some (tok (.scalar 5)), none, none, .none, none, way, none, false, []⟩
theorem nodeAt_of {s : State} {sk : List Spilled} {x : CTile} {i : Instr} {opc : Nat} {n : Niw} (hs : s = matcher x sk)
    (hx : x.active = some (nodeOf i) ∧ x.map = [(1, 0)] ∧ x.frozen = []) (hd : opc ≠ 0x05)
    (hi : decodeWord true ((encode i).getD 0) = .ok i) (hp : i.parts = some (opc, n)) :
    NodeAt s tile { ctx with skein := sk } (nodeOf i) 0 opc n := by
  subst hs
  have h : (matcher x sk).ctile tile = x := by simp [State.ctile, matcher, lookD, look]
  exact ⟨⟨by rw [h]; exact hx.1, rfl⟩, ⟨⟨rfl, rfl⟩, by rw [h, hx.2.2]; simp, rfl, rfl⟩, ⟨0, by rw [h, hx.2.1]; rfl, by decide⟩,
    ⟨hd, _, i, rfl, hi, hp⟩, ⟨(0, 8), List.mem_singleton.mpr rfl, by decide, by decide⟩⟩
/-- Every slot of the vector operand buffer is held. -/
theorem noFree (l : List Entry) (e : Entry) (tag : Word) : ∀ k, ¬ FreeSlot ({ halfEntry tag true with vslots := List.range 128 } :: l) e k :=
  fun _ h => h.2.2 _ (List.mem_cons_self ..) (List.mem_range.mpr h.1)
/-- The first operand, the second, a second one for a slot, and a token for a slot that the node does not take; a vector with a
free slot in the buffer and without; a second token where the node gathers; a node below the base and one in no template. -/
theorem witness_MatchingAndFiring_Matching :
    (∀ k ∈ [Slot.a, .b, .c], ∀ es ∈ [[], [halfEntry (tagOf 1 0 0) true]],
      let s := matcher (matchTile addPlane es [arriving k (.scalar 7)] []) []
      (Arrives s tile (arriving k (.scalar 7)) ∧ NodeAt s tile ctx addPlane 0 0x20 (fields .s8 2 0)) ∧
      (s.ctile tile).entries = es ∧ ctx.skein = []) ∧
    takesSlot (fields .s8 2 0) .a ∧ takesSlot (fields .s8 2 0) .b ∧ ¬ takesSlot (fields .s8 2 0) .c ∧ ¬ GathersAt 0x20 (fields .s8 2 0) ∧
    (let e := halfEntry (tagOf 1 0 0) true
     e.tag = (arriving .a (.scalar 7)).tok.tag ∧ tagCtx (arriving .a (.scalar 7)).tok.tag = ctx.num ∧
     (arriving .a (.scalar 7)).tok.nul = false ∧ e.node = 0 ∧ e.way = true ∧ e.vslots.length = e.vectors ∧
     e.agg = .none ∧ e.parked = false ∧ e.ready = none ∧ slotOf e .a = none ∧ slotOf e .b = some (tok (.scalar 5)) ∧
     (([] : List Entry).filter fun e => e.way && decide (setIndex e.tag e.node = setIndex (tagOf 1 0 0) 0)).length < 8 ∧
     (([] : List Entry).filter fun e => e.way && decide (tagCtx e.tag = ctx.num)).length < ctx.part) ∧
    (let e : Entry := { halfEntry (tagOf 1 0 0) true with b := none }
     (arriving .a (lanes [1] 1)).tok.isVec = true ∧ FreeSlot [] e 127 ∧ e.vslots.length = e.vectors ∧ slotOf e .a = none ∧
     (∀ k, ¬ FreeSlot [{ halfEntry (tagOf 1 1 0) true with vslots := List.range 128 }] e k) ∧
     ¬ ∀ k, takesSlot (fields .s8 2 0) k → k = .a ∨ (slotOf e k).isSome = true) ∧
    (let e := { halfEntry (tagOf 1 0 0) true with a := some (tok (.scalar 1)) }
     let s := matcher (matchTile (nodeOf (.tred (fields .s8 2 0))) [e] [arriving .a (.scalar 7)] []) []
     NodeAt s tile ctx (nodeOf (.tred (fields .s8 2 0))) 0 0x66 (fields .s8 2 0) ∧ GathersAt 0x66 (fields .s8 2 0) ∧
     (slotOf e .a).isSome = true) ∧
    (let q := { arriving .a (.scalar 7) with node := 9 }
     let s := matcher (matchTile addPlane [] [q] []) []
     let u := s.setCtile tile { s.ctile tile with map := [(1, 12)] }
     Arrives s tile q ∧ Alive s ctx ∧ (s.ctile tile).active = some addPlane ∧ addPlane.ctx = ctx.num ∧
     look ctx.num (s.ctile tile).map = some 0 ∧ look ctx.num (u.ctile tile).map = some 12 ∧ (s.ctile tile).frozen = [] ∧
     (∀ x ∈ addPlane.tpls, q.node < x.1 ∨ x.1 + x.2 ≤ q.node) ∧ CTile.reset.active = none) := by
  refine ⟨fun k hk es he => ⟨⟨⟨rfl, ⟨rfl, rfl, rfl⟩, rfl⟩, nodeAt_of rfl ⟨rfl, rfl, rfl⟩ (by decide) (by decide +kernel) rfl⟩, rfl, rfl⟩,
    by unfold takesSlot; decide, by unfold takesSlot; decide, by unfold takesSlot; decide, by unfold GathersAt; decide,
    by decide +kernel, ⟨rfl, ⟨by decide, by decide, fun d h => absurd h (by simp)⟩, rfl, rfl, noFree [] _ _, fun h => ?_⟩,
    ⟨nodeAt_of rfl ⟨rfl, rfl, rfl⟩ (by decide) (by decide +kernel) rfl, .inl rfl, rfl⟩,
    ⟨⟨rfl, ⟨rfl, rfl, rfl⟩, rfl⟩, ⟨rfl, rfl⟩, rfl, rfl, rfl, by decide +kernel, rfl, by decide +kernel, rfl⟩⟩
  have := h .b (.inr (.inl ⟨rfl, by decide⟩))
  revert this
  decide
/-- A spilled entry whose token waits before a later one; a ready entry before a later one; a load that sets out; a block's
instruction; a kill mark with an entry and a held store above it; releases in tag order; a predicate that does not agree, a
null and a bubble. -/
theorem witness_MatchingAndFiring_IssuingAndFiring :
    (let e := halfEntry (tagOf 1 0 0) false
     let q := { arriving .a (.scalar 1) with tok := { tok (.scalar 1) with tag := tagOf 1 1 0 } }
     let s := matcher (matchTile addPlane [] [] [q, arriving .a (.scalar 7)]) [.entry tile e]
     (NodeAt s tile { ctx with skein := [.entry tile e] } addPlane 0 0x20 (fields .s8 2 0) ∧
      (s.ctile tile).refill = [q] ++ arriving .a (.scalar 7) :: [] ∧ (∀ d ∈ [q] ++ [], tagLt (tok (.scalar 7)).tag d.tok.tag = true) ∧
      tagCtx (tok (.scalar 7)).tag = ctx.num ∧ e.tag = (tok (.scalar 7)).tag ∧ slotOf e .a = none ∧ e.vslots = [] ∧
      ∀ k, takesSlot (fields .s8 2 0) k → k = .a ∨ (slotOf e k).isSome = true)) ∧
    (let e := { halfEntry (tagOf 1 0 0) true with a := some (tok (.scalar 1)), ready := some 4 }
     let d := { halfEntry (tagOf 1 1 0) true with ready := some 4 }
     let s := matcher (matchTile addPlane [e, d] [] []) []
     s.issue = none ∧ s.held = [] ∧ NodeAt s tile ctx addPlane e.node 0x20 (fields .s8 2 0) ∧
     0x20 ∉ [0x90, 0x91, 0x95, 0xA0, 0xC0, 0xC4] ∧
     tagCtx e.tag = ctx.num ∧ (fields .s8 2 0).xw = false ∧ (s.ctile tile).entries = [] ++ e :: [d] ∧ e.ready.isSome = true ∧
     e.parked = false ∧ (e.ready = d.ready ∧ tagLt e.tag d.tag = true) ∧ (nth 0 addPlane.stages 1).toNat / 2 ^ 53 % 2 ^ 3 = 0) ∧
    (let n := { fields .s8 1 0 with xw := true }
     let op := opOf (.ld n) [.scalar 0x10100]
     let e : Entry := { halfEntry (tagOf 1 0 0) true with a := some (tok (.scalar 1)), b := none, ready := some 4 }
     let s := matcher (matchTile (nodeOf (.ld n)) [e] [] []) []
     NodeAt s tile ctx (nodeOf (.ld n)) 0 0x70 n ∧ firing n.prd op = .run ∧
     s.homeTile op n = none ∧ tile.col < 28 ∧ tile.row < 24) ∧
    (let w := (encode (.add { fields .s8 2 0 with t0 := none })).getD 0
     let b := { blockRun with ins := [w, 0], toks := [((0, .a), tok (.scalar 1)), ((0, .b), tok (.scalar 2))] }
     let s := { withBlock (plainOp (fields .s8 2 0) []) b [] with issue := none }
     s.issue = none ∧ s.held = [] ∧ s.block? 1 0 = some b ∧ b.ins[0]? = some w ∧
     decodeWord false w = .ok (.add { fields .s8 2 0 with t0 := none }) ∧
     (Instr.add { fields .s8 2 0 with t0 := none }).parts = some (0x20, { fields .s8 2 0 with t0 := none }) ∧ 0 ∉ b.fired ∧
     (look (0, .a) b.toks).isSome = true ∧ (look (0, .b) b.toks).isSome = true) ∧
    (let e := halfEntry (tagOf 1 1 (5 * 2 ^ 43)) true
     let k : Kill := ⟨tagOf 1 0 0, 4⟩
     let op := tagged (.mov (fields .s8 1 0)) (tagOf 1 1 (5 * 2 ^ 43)) []
     let s := matcher { matchTile addPlane [e] [] [] with kills := [k] } []
     let s := s.setRegion 0 { s.region 0 with storeBuf := [op] }
     (s.ctile tile).kills = k :: [] ∧ (s.ctile tile).active = some addPlane ∧ tagCtx k.tag ∉ (s.ctile tile).frozen ∧
     op ∈ (s.region (regionOf tile)).storeBuf ∧
     iterationOf (fullWidths addPlane.widths) k.tag e.tag = some 5 ∧ k.mark < 5) ∧
    (let op := opOf (.st (fields .s8 2 0)) [.scalar 1, .scalar 2]
     let later := { op with tag := tagOf 1 1 0 }
     let s := { withOp op with issue := none }
     let s := s.setRegion 0 { s.region 0 with storeBuf := [later, op] }
     s.issue = none ∧ (s.region 0).storeBuf = [later] ++ op :: [] ∧ tagLt op.tag later.tag = true ∧
     s.mayPerform op (isStoreOpc op.opc) = true) ∧
    (let op := { plainOp (fields .s8 1 0) [.scalar 1] with p := some { tok (.scalar 0) with pred := false } }
     (withOp op).issue = some op ∧ { fields .s8 1 0 with prd := Prd.ift }.prd = .ift ∧ (∀ p ∈ op.p, p.nul = false ∧ p.pred = false)) ∧
    (∀ nul : Bool, let op := { plainOp (fields .s8 1 0) [.scalar 1] with a := some { tok (.scalar 1) with pred := false, nul := nul } }
     (withOp op).issue = some op ∧ op.p = none ∧ { fields .s8 1 0 with prd := Prd.bub }.prd = .bub) := by
  refine ⟨⟨nodeAt_of rfl ⟨rfl, rfl, rfl⟩ (by decide) (by decide +kernel) rfl, ?_, ?_, ?_, ?_, ?_, ?_, fun k hk => ?_⟩,
    ⟨rfl, rfl, nodeAt_of rfl ⟨rfl, rfl, rfl⟩ (by decide) (by decide +kernel) rfl, ?_⟩,
    ⟨nodeAt_of rfl ⟨rfl, rfl, rfl⟩ (by decide) (by decide +kernel) rfl, ?_⟩, ⟨rfl, rfl, ?_⟩, ?_, ?_, ?_, fun nul => ⟨rfl, rfl, rfl⟩⟩
  case refine_7 =>
    unfold takesSlot at hk
    rcases hk with ⟨rfl, -⟩ | ⟨rfl, -⟩ | ⟨-, h⟩ | ⟨-, h⟩
    · exact .inl rfl
    · exact .inr rfl
    · exact absurd h (by decide)
    · exact absurd h (by decide)
  all_goals decide +kernel

/-- A memory tile of two committed and three speculative rows, all written. -/
def lineTile (bad : Nat → Bool) : MTile :=
  { mtile (2 * 2 ^ 60 + 1 * 2 ^ 48 + 2 * 2 ^ 36 + 3 * 2 ^ 28) with lines := (List.range 5).map fun i => ⟨i, true, bad i⟩ }
/-- A commit's request for `k` rows. -/
def commitOp (k : Nat) : Issued := { opOf (.st (fields .s8 2 0)) [.scalar (word k)] with node := 1035 }
/-- A generator of a linear descriptor that is enabled. -/
def genTile (g : Gen) : MTile :=
  ({ mtile 0 with active := some { ctx := 1, mode := 1 * 2 ^ 60 + 1 * 2 ^ 43, gens := [[0, word (2 ^ 40)]], frames := [], data := [], code := [] } } : MTile).setGen 0 g
/-- A gated tile, a generator that starts and one that ends, a FIFO and an operand store that serve what waits behind what
they do not, and commits of no row, of the rows up to a bad one, and of them all. -/
theorem witness_TileTurns_MemoryTileEvents :
    ({ mtile 0 with gated := true } : MTile).active.isSome = true ∧
    (let op := { commitOp 1 with node := 1036 }
     let m := genTile ⟨[0, 0, 0, 0], none, [op], 0, [], false, []⟩
     (m.gen 0).run = none ∧ (m.gen 0).waiting = op :: [] ∧ descEn (m.desc 0) = true ∧ descSpace (m.desc 0) ≠ 1 ∧
     (tiled op m).genClosed mem (m.desc 0) = false ∧ descEn ((mtile 0).desc 0) = false ∧ (mtile (5 * 2 ^ 60)).mode? = some 5) ∧
    (let op := { commitOp 1 with node := 1036 }
     let m := genTile ⟨[], some op, [], 5, [], false, []⟩
     (m.gen 0).run = some op ∧ (m.gen 0).pos = [] ∧ (m.gen 0).chan = [] ∧ op.walk = none ∧ m.mode? ≠ some 0 ∧ descSpace (m.desc 0) ≠ 2) ∧
    (let st := opOf (.st (fields .s8 2 0)) [.scalar 0, .scalar 1]
     let ld := opOf (.ld (fields .s8 1 0)) [.scalar 0]
     let fifo := { mtile (1 * 2 ^ 60 + 1 * 2 ^ 43) with waiting := [ld, st] }
     let full := { fifo with fifo := [bytesOf 8 1], waiting := [ld] }
     let s := { withOp st with issue := none }
     s.issue = none ∧ (∀ a, a < 8 → (s.array a).out = []) ∧ fifo.waiting = [ld] ++ st :: [] ∧ fifo.serves ld = false ∧
     st.node < 1024 ∧ fifo.asleep = false ∧ fifo.mode? = some 1 ∧ isStoreOpc st.opc = true ∧
     (fifo.fifo.length + 1) * fifo.elemBytes ≤ fifo.depth ∧ isStoreOpc ld.opc = false ∧ full.fifo ≠ [] ∧
     (mtile (1 * 2 ^ 43)).mode? = some 0) ∧
    (∀ x ∈ [(0, 0), (2, 3), (3, 3), (3, 1)],
      let m := { lineTile fun i => i == 2 + x.2 with waiting := [commitOp x.1] }
      let k := min x.1 x.2
      m.asleep = false ∧ m.mode? = some 2 ∧ m.waiting = commitOp x.1 :: [] ∧ (commitOp x.1).node = 1035 ∧
      (commitOp x.1).ta.nul = false ∧ (commitOp x.1).ta.isVec = false ∧ (commitOp x.1).ta.word.toNat ≤ m.spec ∧ (commitOp x.1).ta.word.toNat < 256 ∧
      m.lines.length = m.win + m.spec ∧ (∀ i, i < k → (m.line (m.win + i)).written = true ∧ (m.line (m.win + i)).bad = false) ∧
      (k = (commitOp x.1).ta.word.toNat ∨ (k < (commitOp x.1).ta.word.toNat ∧
        ((m.line (m.win + k)).written = false ∨ (m.line (m.win + k)).bad = true)))) := by
  refine ⟨?_, ?_, ?_, ?_, ?_⟩ <;> decide +kernel
/-- A node whose slots a drain has reached; a tile with a drain and no work; a region to swap; a splice with one tile left and
with two. -/
theorem witness_TileTurns_DrainsAndSwitches :
    (let p := { plane with ins := [(encode (.mov (fields .s8 1 0))).getD 0] }
     let s := { State.reset with ctxs := [ctx], ctiles := [(tile, { CTile.reset with active := some p, drains := [(0, .a)] })] }
     isCompute tile = true ∧ (s.ctile tile).active = some p ∧ s.passes tile 0 = true ∧
     decodeWord true (p.ins.getD 0 0) = .ok (.mov (fields .s8 1 0)) ∧ p.ins[0]? = some (p.ins.getD 0 0) ∧
     (Instr.mov (fields .s8 1 0)).parts = some (0x01, fields .s8 1 0) ∧ (s.region (regionOf tile)).storeBuf = []) ∧
    (let op := { commitOp 0 with node := 1024, a := some (drainOf 1) }
     let s := { State.reset with ctxs := [ctx], mtiles := [(mem, { lineTile (fun _ => false) with waiting := [op] })] }
     isCompute mem = false ∧ (s.mtile mem).waiting = op :: [] ∧ 1024 ≤ op.node ∧ op.node < 1036 ∧ op.ta.nul = true ∧ s.tileDrained mem op = true) ∧
    (let s := { State.reset with ctxs := [{ ctx with st := .loading }] }
     let s := s.setRegion 0 { Region.reset with shadow := some { bareLoaded with byCfgld := false } }
     s.swapReady 0 = true ∧ s.held = [] ∧ (s.region 0).activeCtx = none) ∧
    (∀ two : Bool,
      let c := { ctx with splice := some bareLoaded }
      let x := { CTile.reset with active := some plane, shadow := some { plane with img := 7 } }
      let op := opOf (.splice (fields .s8 2 0)) [.scalar 9, .scalar 1]
      let s := { State.reset with
        ctxs := [c], held := [⟨op, .splice c.launch⟩], ctiles := (tile, x) :: (if two then [(⟨.w, 0, 4⟩, x)] else []) }
      Alive s c ∧ c.st = .running ∧ c.splice = some bareLoaded ∧ (∀ d ∈ s.ctxs, d.splice.isSome = true → d = c) ∧
      s.canSwitch c tile = true ∧ (s.ctile tile).shadow = some { plane with img := 7 } ∧ plane.ctx = c.num ∧ (s.ctxs.map (·.launch)).Nodup ∧
      ((∀ v ∈ s.spliceTiles c, v ∈ c.switched ∨ v = tile) ↔ two = false)) := by
  unfold Alive
  decide +kernel

/-- Tables at 0x1000 to 0x5000 that lead a page to a leaf. -/
def mapped (va : Nat) (leaf : Word) (s : State) : State :=
  [(0x1000 + 8 * (va / 2 ^ 48 % 2 ^ 8), 0x2001), (0x2000 + 8 * (va / 2 ^ 39 % 2 ^ 9), 0x3001),
   (0x3000 + 8 * (va / 2 ^ 30 % 2 ^ 9), 0x4001), (0x4000 + 8 * (va / 2 ^ 21 % 2 ^ 9), 0x5001),
   (0x5000 + 8 * (va / 2 ^ 12 % 2 ^ 9), leaf.toNat)].foldl (fun s x => s.writeMain x.1 (bytesOf 8 x.2)) s
/-- The address of the examples, its page, and the context whose table is at 0x1000. -/
def va0 : Nat := 0x0123456789AB8
def page0 : Nat := 0x0123456789000
def pagedCtx : Ctx := { ctx with root := 0x1000 }
/-- A machine with that context and a page that is present, absent, or waits for the pager. -/
def tabled (leaf : Word) : State := { mapped va0 leaf State.reset with ctxs := [pagedCtx] }
/-- The leaf of a present page at 0x40000, and of one that waits. -/
def present : Word := 0x40163
def absent : Word := 0x1000000000007062
theorem smallPage (leaf : Word) (hl : leaf = present) : SmallPage (tabled leaf) 0x1000 va0 leaf := by
  subst hl
  refine ⟨?_, ⟨0x2000, 0x3000, 0x4000, 0x5000, ?_⟩, ?_⟩ <;> decide +kernel
/-- The leaf of a page in transit. -/
def moving : Word := 0x2000000000040162
/-- The load that misses. -/
def missOp : Issued := { opOf (.ld (fields .s8 1 0)) [.scalar (word va0)] with site := .block 0 0 0 }
theorem walk_of {s : State} {root va : Nat} {w : Walk} (h : (match w, s.walk root va with
    | .page a b c, .page a' b' c' => decide (a = a' ∧ b = b' ∧ c = c')
    | .fault k, .fault k' => decide (k = k')
    | .park, .park => true
    | _, _ => false) = true) : s.walk root va = w := by
  cases w <;> cases hs : s.walk root va <;> simp_all
theorem witness_Translation_Paging :
    (va0 < 2 ^ 55 ∧ SmallPage (tabled present) 0x1000 va0 present) ∧
    (∀ leaf ∈ [present, 0, absent],
      let s := (tabled leaf).setRegion 0 { Region.reset with walks := [(missOp, va0)] }
      s.issue = none ∧ (s.region 0).walks = (missOp, va0) :: [] ∧ s.ctx? missOp.ctx = some pagedCtx ∧ s.pageFaults = []) ∧
    (tabled present).walk 0x1000 va0 = .page page0 4096 present ∧ (tabled 0).walk 0x1000 va0 = .fault 0x141 ∧
    (tabled absent).walk 0x1000 va0 = .park ∧
    (let s := (tabled present).setRegion 0 { Region.reset with parked := [⟨missOp, va0, false⟩, ⟨missOp, va0, true⟩] }
     s.issue = none ∧ (s.region 0).parked = [⟨missOp, va0, false⟩] ++ ⟨missOp, va0, true⟩ :: [] ∧ missOp.site = .block 0 0 0) ∧
    (let f : PageFault := ⟨1, va0, 0, false⟩
     let s := { tabled absent with pager := ⟨[(.w, f)], [(0x50000, 4096)], [], []⟩ }
     MemoryInv s ∧ s.pager.faults = [(.w, f)] ∧ s.ctx? f.ctx = some pagedCtx ∧ pagedCtx.num = f.ctx ∧
     s.walk pagedCtx.root f.va = .park ∧ s.leafAt pagedCtx.root f.va = some (0x5C48, 0, 12, absent) ∧
     absent.toNat / 2 ^ 60 = 1 ∧ absent.toNat / 2 ^ 2 % 2 ^ 3 = 0 ∧ s.pager.free1 = (0x50000, 4096) :: [] ∧ s.mtiles = [] ∧
     0x5C48 + 8 ≤ 0x50000) ∧
    (let s := { tabled present with feat := some 1, tier2 := [(2 ^ 40, 2 ^ 30)], pager := ⟨[], [], [(2 ^ 40, 4096)], []⟩ }
     MemoryInv s ∧ s.ctx? pagedCtx.num = some pagedCtx ∧ s.walk pagedCtx.root page0 = .page page0 4096 present ∧ page0 % 4096 = 0 ∧
     s.leafAt pagedCtx.root page0 = some (0x5C48, 0, 12, present) ∧ present.toNat / 2 ^ 2 % 2 ^ 3 = 0 ∧ present.getLsbD 9 = false ∧
     s.hasFeature 0 = true ∧ s.pager.free2 = (2 ^ 40, 4096) :: [] ∧ s.pager.moving = [] ∧ s.mtiles = []) ∧
    (let x : PageMove := ⟨1, page0, 4096, 2 ^ 40⟩
     let s := { tabled moving with feat := some 1, tier2 := [(2 ^ 40, 2 ^ 30)], pager := ⟨[], [], [], [x]⟩ }
     MemoryInv s ∧ s.leafAt pagedCtx.root page0 = some (0x5C48, 0, 12, moving) ∧ moving.toNat / 2 ^ 2 % 2 ^ 3 = 0 ∧
     moving.getLsbD 9 = false ∧ moving.getLsbD 0 = false ∧ moving.toNat / 2 ^ 60 = 2 ∧ s.moveWaits x = false ∧ s.scatters = [] ∧
     leafBase moving = 0x40000) := by
  refine ⟨⟨?_, smallPage _ rfl⟩, ?leaves, walk_of ?_, walk_of ?_, walk_of ?_, ?_, ⟨memoryInv_of ?_ ?_, ?_, ?_, ?_, walk_of ?_, ?_⟩,
    ⟨memoryInv_of ?_ ?_, ?_, walk_of ?_, ?_⟩, ⟨memoryInv_of ?_ ?_, ?_⟩⟩
  case leaves =>
    intro leaf hl
    simp only [List.mem_cons, List.not_mem_nil, or_false] at hl
    rcases hl with rfl | rfl | rfl <;> decide +kernel
  all_goals decide +kernel
/-- A block of one HALT. -/
def haltWord : Word := (encode (.halt { fields .s8 1 0 with t0 := none })).getD 0
/-- A machine whose block context 0 of region 0 is in a state, the block at the page's first line. -/
def blocking (x : BlockCtx) : State :=
  let s := ((tabled present).writeMain 0x40000 (wordBytes [word (0xB1 * 2 ^ 56 + 2 ^ 44), 0, haltWord])).setRegion 0
    { Region.reset with bcs := x :: List.replicate 3 BlockCtx.reset }
  { s with main := { s.main with heads := [0x1000] }, cycle := 65536 }
/-- The same context with a block. -/
def runsBlock (b : Block) : BlockCtx := { BlockCtx.reset with st := .run b, ctx := 1 }
/-- What the fetch makes of the block. -/
def haltBlock : Block :=
  { addr := word page0, ins := [haltWord], cons := [], sm := 0, wm := 0, mode := ⟨.rne, false, false⟩, toks := [], fired := [],
    doneS := 0, doneW := 0, exit := none, stores := [], writes := [], hin := [], fixed := false }
/-- A fetch of a block and one that is misaligned; commits of two registers and of a store; a stall. -/
theorem witness_BlockEvents :
    (let x := { BlockCtx.reset with st := .fetch (word page0), ctx := 1 }
     let s := blocking x
     MemoryInv s ∧ 0 < (s.region 0).bcs.length ∧ s.bctx 0 0 = x ∧ x.held = false ∧ s.ctx? x.ctx = some pagedCtx ∧
     s.storesPending 0 0 = false ∧ s.readBlock 0 pagedCtx page0 = .ok haltBlock) ∧
    (let x := { BlockCtx.reset with st := .fetch (word (page0 + 8)), ctx := 1 }
     let s := blocking x
     s.bctx 0 0 = x ∧ Alive s pagedCtx ∧ x.ctx = pagedCtx.num ∧ pagedCtx.program = false ∧ (∀ d ∈ s.ctxs, d.program = false) ∧
     (word (page0 + 8)).toNat % 64 ≠ 0) ∧
    (∀ e ∈ [Exit.to 64, .call 64 128, .ret 192, .halt],
      let b := { haltBlock with wm := 0x28, doneW := 0x28, writes := [(3, 9), (5, 7)], exit := some e }
      let s := blocking (runsBlock b)
      s.bctx 0 0 = runsBlock b ∧ b.doneS = b.sm ∧ b.doneW = b.wm ∧ b.stores = [] ∧ b.hin = [] ∧ (∀ d ∈ s.ctxs, d.program = false) ∧
      (b.writes.map (·.1)).Nodup ∧ 5 < (runsBlock b).g.length) ∧
    (let n := { fields .s32 2 4 with t0 := none, xw := true }
     let op := { opOf (.st { n with xw := false }) [.scalar (word va0), .scalar 0x1122334455667788] with site := .block 0 0 0, released := true }
     let b := { haltBlock with sm := 0x10, doneS := 0x10, stores := [⟨4, op⟩], exit := some .halt }
     let s := blocking (runsBlock b)
     MemoryInv s ∧ s.bctx 0 0 = runsBlock b ∧ b.stores = [⟨4, op⟩] ∧ decodeWord false op.word = .ok (.st { n with xw := false }) ∧
     op.released = true ∧ n.fmt.width % 8 = 0 ∧ s.ctx? op.ctx = some pagedCtx ∧ op.ta.isVec = false ∧ op.tb.isVec = false ∧
     op.poisoned = false ∧ va0 % 4 = 0 ∧ va0 < 2 ^ 55 ∧ va0 < 0x007FFF0000000000 ∧
     s.walk pagedCtx.root va0 = .page (va0 / 4096 * 4096) 4096 present ∧ present.getLsbD 6 = true) ∧
    (let s := blocking (runsBlock haltBlock)
     s.bctx 0 0 = runsBlock haltBlock ∧ (runsBlock haltBlock).lastFire + 65536 ≤ s.cycle ∧ Alive s pagedCtx) := by
  unfold Alive
  refine ⟨⟨memoryInv_of ?_ ?_, ?_, ?_, ?_, ?_, ?_, ok_of ?_⟩, ?_, ?_, ⟨memoryInv_of ?_ ?_, ?_, ?_, ?_, ?_, ?_, ?_, ?_, ?_, ?_, ?_, ?_, ?_, walk_of ?_, ?_⟩, ?_⟩
  all_goals decide +kernel

/-- A tile in the middle of the west die, and a flit to a destination. -/
def here : TileId := ⟨.w, 10, 5⟩
def flitTo (d : TileId) (age fidx flast typ data : Nat) : Flit :=
  ⟨BitVec.ofNat 32 (dieNum d.die * 2 ^ 31 + d.col * 2 ^ 26 + d.row * 2 ^ 21 + age * 2 ^ 11 + fidx * 2 ^ 8 + flast * 2 ^ 5 + typ * 4),
    BitVec.ofNat 256 data, .bits⟩
/-- The machine with these flits at that tile. -/
def withFlits (l : List (Nat × Flit)) : State := { State.reset with flits := l.map fun x => (here, x.1, x.2) }
/-- A plane with one swizzle and two route words. -/
def routePlane (w y : BitVec 32) (swizzle : Word) : CPlane :=
  { plane with routes := [w, y], stages := [0, 0, 0, 0, 0, swizzle] }
/-- The tile with that plane, of a member of gang 5. -/
def routing (w y : BitVec 32) : State :=
  { State.reset with
    ctxs := [{ ctx with gang := 5 }], tables := { State.reset.tables with gangs := [((5, 9), 55)], ports := [(55, 3)] }
    ctiles := [(tile, { CTile.reset with active := some (routePlane w y 0), pid := 255 })]
    ports := [(3, { Port.reset with up := true, txSeq := 7 })] }
/-- Every swizzle that there is; an entry of each kind: own node, compute neighbour, tile channel 11 and 12, packet, gang member. -/
theorem witness_Routes :
    (∀ x ∈ [(0, 0), (1, 0), (2, 15), (3, 15), (4, 3), (5, 0)],
      let p := routePlane 0 0 (word (x.1 * 2 ^ 60 + x.2 * 2 ^ 56))
      p.stages.length = 6 ∧ x.1 < 6 ∧ x.2 < 16 ∧ (x.1 = 4 → x.2 < 4) ∧ (nth 0 p.stages 5).toNat = x.1 * 2 ^ 60 + x.2 * 2 ^ 56) ∧
    (let op := plainOp (fields .s8 1 0) []
     let w : BitVec 32 := BitVec.ofNat 32 (77 * 2 ^ 13)
     op.site = .tile tile ∧ ((routing w 0).ctile tile).active = some (routePlane w 0 0) ∧ (routePlane w 0 0).routes[0]? = some w ∧
     w.toNat / 2 ^ 30 = 0 ∧ Uncut (routing w 0) (tok (.scalar 1)).tag) ∧
    ((2 ^ 30 + 1 * 2 ^ 20 + 11 * 2 ^ 16) / 2 ^ 30 = 1 ∧ neighbour tile ((2 ^ 30 + 1 * 2 ^ 20 + 11 * 2 ^ 16) / 2 ^ 20 % 4) = some mem ∧
      isCompute mem = false ∧ (2 ^ 30 + 1 * 2 ^ 20 + 11 * 2 ^ 16) / 2 ^ 16 % 16 = 11 ∧ (2 ^ 30 + 1 * 2 ^ 20 + 12 * 2 ^ 16) / 2 ^ 16 % 16 = 12) ∧
    (∃ k v, k < 4 ∧ neighbour tile k = some v ∧ isCompute v = false) ∧ (∃ k v, k < 4 ∧ neighbour mem k = some v ∧ isCompute v = true) ∧
    (let x := 2 ^ 31 + 2 ^ 21 + 3 * 2 ^ 16 + 7 * 2 ^ 11 + 77 * 4
     x / 2 ^ 30 = 2 ∧ x.testBit 1 = false ∧ (routing (BitVec.ofNat 32 x) 0).succeeds 1 tile = false) ∧
    (let x := 2 ^ 31 + 2 + 3 * 2 ^ 16
     let s := routing (BitVec.ofNat 32 x) 9
     x / 2 ^ 30 = 2 ∧ x.testBit 1 = true ∧ s.ctx? 1 = some { ctx with gang := 5 } ∧ look (5, 9) s.tables.gangs = some 55 ∧
     s.portOf 55 = some 3 ∧ (s.port 3).up = true ∧ look (5, 8) s.tables.gangs = none ∧
     ({ s with tables := { s.tables with ports := [] } } : State).portOf 55 = none ∧ ((s.setPort 3 Port.reset).port 3).up = false) := by
  refine ⟨?_, ⟨?_, ?_, ?_, ?_, fun c h => ?_⟩, ?_, ⟨1, mem, by decide, by decide +kernel, by decide +kernel⟩, ⟨0, _, by decide, rfl, by decide +kernel⟩, ?_, ?_⟩
  case refine_6 => obtain rfl := Option.some.inj ((by decide +kernel : some { ctx with gang := 5 } = _).trans h); rfl
  all_goals decide +kernel
/-- A reserved field, an ejection of each type, a full ingress, each direction, the bridge; two flits for one port; an injection. -/
theorem witness_Routers_RouterCycle :
    (∀ f ∈ [flitTo here 3 0 0 6 0, flitTo here 1022 0 0 0 0, flitTo ⟨.w, 27, 23⟩ 1022 7 7 5 1, flitTo ⟨.w, 0, 0⟩ 0 0 0 0 0,
        flitTo ⟨.w, 10, 0⟩ 0 0 0 0 0, flitTo ⟨.w, 10, 23⟩ 0 0 0 0 0],
      Alone (withFlits [(3, f)]) here 3 f) ∧
    (∀ d age fidx flast typ data, d.col < 32 → d.row < 32 → age < 1024 → fidx < 8 → flast < 8 → typ < 8 →
      FlitTo (flitTo d age fidx flast typ data) d age fidx flast typ) ∧
    (let op := plainOp (fields .s8 1 0) []
     Alone (withFlits [(3, { flitTo here 9 0 0 1 0 with cargo := .request op })]) here 3 { flitTo here 9 0 0 1 0 with cargo := .request op } ∧
     Alone (withFlits [(3, { flitTo here 9 0 0 2 0 with cargo := .reply op (tok (.scalar 1)) })]) here 3
       { flitTo here 9 0 0 2 0 with cargo := .reply op (tok (.scalar 1)) } ∧
     ((withFlits []).region (regionOf here)).requests.length < 64 ∧
     (let s := (withFlits [(3, flitTo here 1022 0 0 0 0)]).setCtile here { CTile.reset with
        ingress := List.replicate 64 ⟨here, 0, .a, tok (.scalar 1), false⟩ }
      Alone s here 3 (flitTo here 1022 0 0 0 0) ∧ 64 ≤ (s.ctile here).ingress.length)) ∧
    5 < (flitTo here 3 0 0 6 0).ctl.toNat / 4 % 8 ∧ ((withFlits []).ctile here).ingress.length < 64 ∧ OnGrid ⟨.w, 27, 23⟩ ∧
    (let f := flitTo ⟨.e, 10, 0⟩ 1021 0 0 0 0
     let t : TileId := ⟨.w, 27, 5⟩
     Alone { State.reset with flits := [(t, 0, f)] } t 0 f) ∧
    (let f := flitTo ⟨.w, 14, 5⟩ 31 0 0 0 0
     let g := flitTo ⟨.w, 11, 5⟩ 30 0 0 0 0
     let s := withFlits [(0, f), (3, g)]
     s.flits = [(here, 0, f), (here, 3, g)] ∧ (s.ctile here).inject = [] ∧ (s.ctile here).router.arb ≤ s.cycle ∧ s.failed = []) ∧
    (let f := flitTo ⟨.w, 11, 5⟩ 0 0 0 0 0
     let s := { State.reset with ctiles := [(here, { CTile.reset with inject := [f] })] }
     s.flits = [] ∧ (s.ctile here).inject = f :: [] ∧ (s.ctile here).router.arb ≤ s.cycle ∧ (s.ctile here).router.injects ≤ s.cycle) := by
  unfold Alone OnGrid
  refine ⟨?_, ?_, ?_, ?_, ?_, ?_, ?_, ?_, ?_⟩
  case refine_2 =>
    intro d age fidx flast typ data h1 h2 h3 h4 h5 h6
    have : dieNum d.die < 2 := by cases d.die <;> decide
    unfold FlitTo flitTo
    simp only [BitVec.toNat_ofNat]
    omega
  all_goals decide +kernel
/-- A packet at and before its limit, and a flit on a lane of two. -/
theorem witness_Routers_RouterTimers :
    (∀ c ∈ [65546, 65545],
      let x : Reasm := ⟨77, 5, [(0, 9)], 0, 10, .bits⟩
      let s := { State.reset with cycle := c, ctiles := [(here, { CTile.reset with reasm := [x] })] }
      (s.ctile here).reasm = [x] ∧ x.got.length ≠ x.last + 1 ∧ (x.since + 65536 ≤ s.cycle ↔ c = 65546)) ∧
    (let x : Nat × TileId × Nat × Flit := (9, ⟨.e, 0, 5⟩, 3, flitTo here 0 0 0 0 0)
     let y : Nat × TileId × Nat × Flit := (9, ⟨.e, 0, 6⟩, 3, flitTo here 0 0 0 0 0)
     x.2.1.die = .e ∧ laneAcross x.2.2.2 x.2.1.row = 5 ∧ laneAcross y.2.2.2 y.2.1.row ≠ 5) := by
  refine ⟨?_, ?_⟩ <;> decide +kernel

/-- A payload of 240 bytes, and a port that awaits flit 4095. -/
def payload : List Byte := List.replicate 240 7
def upPort (rx : List (List Byte)) : Port := { Port.reset with up := true, rxSeq := 4095, rx := rx }
/-- The machine with that port as port 3, and a flit on it. -/
def linked (f : List Byte) : State :=
  { State.reset with ports := [(3, upPort [f, [2]])], tables := { State.reset.tables with peers := [(3, 41)] } }
/-- A flit in sequence of each kind, one ahead, one behind at either limit, one with a wrong byte, one with a token for a tile with a member and without. -/
theorem witness_Gwynlink_LinkFlits :
    (∀ x ∈ [(1, 4095), (2, 4095), (4, 4095), (4, 0), (4, 3838), (4, 4094), (4, 3839)],
      Receives (linked (linkFlit x.1 x.2 5 false payload)) 3 (linkFlit x.1 x.2 5 false payload) [[2]] ∧ x.2 < 4096) ∧
    payload.length = 240 ∧ (1 ≤ (0 + 4096 - 4095) % 4096 ∧ (3838 + 4096 - 4095) % 4096 < 3840) ∧
    (1 ≤ (4095 + 4096 - 4094) % 4096 ∧ (4095 + 4096 - 3839) % 4096 ≤ 256) ∧
    (∃ f, Receives (linked f) 3 f [[2]] ∧ f.length = 256 ∧ ofBytes (f.drop 248) ≠ (crc64 (f.take 248)).toNat) ∧
    (let f := flitTo tile 0 0 0 0 5
     let load := bytesOf 4 (9 + 2 ^ 13) ++ bytesOf 4 f.ctl.toNat ++ bytesOf 32 f.data.toNat ++ List.replicate 200 0
     let s := { linked (linkFlit 1 4095 5 false load) with
       node := 9
       ctxs := [{ ctx with gang := 5 }]
       ctiles := [(tile, { CTile.reset with active := some plane })] }
     Receives s 3 (linkFlit 1 (s.port 3).rxSeq 5 false load) [[2]] ∧ load.length = 240 ∧ s.node < 4096 ∧ OnGrid tile ∧
     FlitTo f tile 0 0 0 0 ∧ (s.ctile tile).active = some plane ∧ s.ctx? plane.ctx = some { ctx with gang := 5 } ∧ (s.ctile tile).frozen = [] ∧
     (look 3 s.tables.peers).getD 0 < 4096 ∧ (({ s with ctiles := [] } : State).ctile tile).active = none) := by
  refine ⟨?_, rfl, by decide, by decide, ?_, ⟨rfl, rfl, rfl, by decide⟩, ?_, ?_⟩
  · intro x hx
    exact ⟨⟨rfl, rfl, rfl, (by decide : 4095 < 4096)⟩, (by decide : ∀ x ∈ [(1, 4095), (2, 4095), (4, 4095), (4, 0), (4, 3838), (4, 4094), (4, 3839)],
      x.2 < 4096) x hx⟩
  · have ht : ∀ x : List Byte, ((List.replicate 248 (0 : Byte)) ++ x).take 248 = List.replicate 248 0 := fun x =>
      List.take_left' (List.length_replicate)
    have hd : ∀ x : List Byte, ((List.replicate 248 (0 : Byte)) ++ x).drop 248 = x := fun x => List.drop_left' (List.length_replicate)
    by_cases h : (crc64 (List.replicate 248 0)).toNat = 0
    · refine ⟨List.replicate 248 0 ++ bytesOf 8 1, ⟨rfl, rfl, rfl, (by decide : 4095 < 4096)⟩,
        by rw [List.length_append, List.length_replicate]; rfl, ?_⟩
      rw [ht, hd, h]; decide
    · refine ⟨List.replicate 248 0 ++ bytesOf 8 0, ⟨rfl, rfl, rfl, (by decide : 4095 < 4096)⟩,
        by rw [List.length_append, List.length_replicate]; rfl, ?_⟩
      rw [ht, hd]
      exact fun hh => h (hh.symm.trans (by decide))
  · decide +kernel
  · unfold OnGrid FlitTo
    decide +kernel
/-- A first marker for a member, and for a relay with two ports; a port that falls silent or has replayed too often, and one that
has not; the only context with traffic over it, and one with traffic over another. -/
theorem witness_Gwynlink_PortEvents :
    (let c := { ctx with gang := 5 }
     let s := { State.reset with ctxs := [c], ports := [(3, { upPort [] with marks := [(5, 12)] }), (4, upPort [])] }
     s.tables.relays = [] ∧ (s.port 3).marks = (5, 12) :: [] ∧ (∀ k, k < 16 → (5, 12) ∉ (s.port k).marked) ∧ c ∈ s.ctxs ∧ Alive s c ∧ c.gang = 5 ∧
     c.st = .running ∧ (∀ d ∈ s.ctxs, d.gang = 5 → d = c) ∧ (s.port 3).up = true ∧ (s.port 4).up = true ∧
     (({ s with tables := { s.tables with relays := [(4, 3)] } } : State).port 4).up = true) ∧
    (∀ c ∈ ({ State.reset with ctxs := [ctx], ports := [(3, upPort []), (4, upPort [])] } : State).ctxs, c.gang ≠ 5) ∧
    (let c := { ctx with host := some 55 }
     let s := { State.reset with
       ctxs := [c]
       cycle := 150000
       tables := { State.reset.tables with ports := [(55, 3)] }
       ports := [(3, { upPort [] with replays := [2, 16] }), (4, { upPort [] with replays := [15], lastRx := 1 })] }
     (s.port 3).up = true ∧ (∃ x ∈ (s.port 3).replays, 16 ≤ x) ∧ (s.port 3).lastRx + 150000 ≤ s.cycle ∧ s.ctxs = [c] ∧ c.st = .running ∧
     c.host = some 55 ∧ 55 ≠ s.node ∧ s.portOf 55 = some 3 ∧ (s.port 4).up = true ∧ c.gang = 0 ∧ c.endpoints = [] ∧
     (∀ x ∈ (s.port 4).replays, x < 16) ∧ s.cycle < (s.port 4).lastRx + 150000) ∧
    (State.reset.port 3).up = false := by
  unfold Alive
  refine ⟨?_, ?_, ?_, ?_⟩ <;> decide +kernel
/-- A context of host node 5000. -/
def hosted (st : CState) : Ctx := { ctx with host := some 5000, st := st }
/-- The machine that runs its firmware, with a message. -/
def hosting (kind : Nat) (body : List Byte) (st : CState) : State :=
  { imaged (plainOp (fields .s8 1 0) []) none with
    issue := none, boot := .running, node := 77, ctxs := [hosted st], hostIn := [hostMsg 5000 kind 9 body], feat := some 15 }
theorem messageIn_of (kind : Nat) (body : List Byte) (st : CState) (h : body.length ≤ 232) :
    MessageIn (hosting kind body st) 5000 kind body [] := ⟨rfl, h, 9, rfl⟩
/-- The bodies of the messages: words at the top of tier 1, a load for context 1 and for none, a launch, an end. -/
def cfgwBody : List Byte :=
  bytesOf 1 41 ++ bytesOf 1 0 ++ bytesOf 2 26 ++ bytesOf 2 0 ++ bytesOf 2 0 ++ bytesOf 8 (2 ^ 39 - 208) ++ bytesOf 8 0 ++ List.replicate 208 7
def loadBody (num rs : Nat) : List Byte :=
  bytesOf 1 41 ++ bytesOf 1 1 ++ bytesOf 2 0 ++ bytesOf 2 num ++ bytesOf 2 0 ++ bytesOf 8 0x1000 ++ bytesOf 8 rs
def launchBody : List Byte := bytesOf 1 41 ++ bytesOf 1 255 ++ bytesOf 6 0 ++ bytesOf 8 0x10000 ++ bytesOf 8 (2 ^ 41)
def endBody : List Byte := bytesOf 2 1 ++ bytesOf 6 0
theorem witness_HostMessages_HostCommands :
    (let s := hosting 1 (bytesOf 16 (2 ^ 128 - 1)) .running
     MessageIn s 5000 1 (bytesOf 16 (2 ^ 128 - 1)) [] ∧ s.feat = some 15 ∧
     MessageIn { s with feat := none } 5000 1 (bytesOf 16 (2 ^ 128 - 1)) []) ∧
    (MessageIn (hosting 2 cfgwBody .running) 5000 2 cfgwBody [] ∧ MemoryInv (hosting 2 cfgwBody .running) ∧
      (2 ^ 39 - 208) % 8 = 0 ∧ 2 ^ 39 - 208 + 8 * max 26 1 ≤ 2 ^ 39) ∧
    (∀ x ∈ [(1, 1), (1, 0), (2, 1)], MessageIn (hosting 2 (loadBody x.1 x.2) .running) 5000 2 (loadBody x.1 x.2) []) ∧
    (let s := { hosting 2 (loadBody 1 1) .running with hostIn := [] }
     s.ctx? 1 = some (hosted .running) ∧ s.ctx? 2 = none ∧ s.readImage .phys false 0x1000 = .ok bareImage ∧ bareImage.rset = 1 ∧
     (hosted .running).rset.testBit 0 = true ∧ (s.region 0).reserved = none ∧ s.loadingSet = 0 ∧ (s.region 0).shadow = none ∧
     ∃ u, s.loadFabric (hosted .running) bareImage 1 true = .ok u) ∧
    (let s := hosting 3 launchBody .running
     let g := s.writeMain 0x10000 (wordBytes descriptor)
     MessageIn s 5000 3 launchBody [] ∧ MessageIn g 5000 3 launchBody [] ∧ ¬ GoodDescriptor (List.replicate 8 0) ∧
     (∀ i, i < 8 → (List.replicate 8 (0 : Word)).getD i 0 = s.wordAt (0x10000 + 8 * i)) ∧ GoodDescriptor descriptor ∧
     (∀ i, i < 8 → descriptor.getD i 0 = g.wordAt (0x10000 + 8 * i)) ∧ (descriptor.getD 3 0).toNat % 2 ^ 16 = 0 ∧ g.waiting < 256) ∧
    (∀ st ∈ [CState.running, .frozen, .stopped],
      let s := hosting 8 endBody st
      MessageIn s 5000 8 endBody [] ∧ s.ctxs = [hosted st] ∧ s.ctx? 1 = some (hosted st) ∧ (hosted st).host = some 5000 ∧
      (hosted st).program = false ∧ (hosted st).sys = false ∧ 5001 ≠ 5000) ∧
    (∀ kind ∈ [0, 6, 9, 255], MessageIn (hosting kind [1] .running) 5000 kind [1] []) := by
  refine ⟨⟨messageIn_of _ _ _ ?_, rfl, ⟨rfl, ?_, 9, rfl⟩⟩, ⟨messageIn_of _ _ _ ?_, memoryInv_of ?_ ?_, ?_, ?_⟩,
    fun x _ => messageIn_of _ _ _ ?_, ⟨?_, ?_, ok_of ?_, ?_, ?_, ?_, ?_, ?_, exists_ok ?_⟩,
    ⟨messageIn_of _ _ _ ?_, ⟨rfl, ?_, 9, ?_⟩, fun h => ?bad, ?_, good_descriptor, ?_, ?_, ?_⟩,
    fun st hst => ⟨messageIn_of _ _ _ ?_, rfl, ?ends⟩, fun k _ => messageIn_of _ _ _ ?_⟩
  case bad => exact absurd h.part.1 (by decide +kernel)
  case ends =>
    simp only [List.mem_cons, List.not_mem_nil, or_false] at hst
    rcases hst with rfl | rfl | rfl <;> decide +kernel
  all_goals first | decide +kernel | simp [bytesOf, loadBody]

/-- The body of an ATTACH of endpoint 63. -/
def attachBody (nd ext : Nat) : List Byte :=
  bytesOf 2 1 ++ bytesOf 1 63 ++ bytesOf 1 0 ++ bytesOf 2 nd ++ bytesOf 2 0 ++ bytesOf 8 (2 ^ 64 - 1) ++ bytesOf 8 ext
/-- The machine that waits for a transfer of `need` bytes of which two have come, and a message. -/
def transferring (i : Instr) (op' need : Nat) (data : List Byte) : State :=
  { hosting 5 (epBody 4095 63 op' data.length (2 ^ 64 - 1) 77 data) .running with held := [⟨opOf i [], .transfer 77 [1, 1] need⟩] }
/-- An attachment to a module, to a host and of nothing; a read and a write of 200 bytes at the last address; a part and the
rest of a read and of a write. -/
theorem witness_HostMessages_EndpointMessages :
    (∀ nd ∈ [4095, 4096, 8191], ∀ ext ∈ [0, 2 ^ 64 - 1],
      let s := hosting 4 (attachBody nd ext) .running
      MessageIn s 5000 4 (attachBody nd ext) [] ∧ s.ctx? 1 = some (hosted .running) ∧ Alive s (hosted .running) ∧
      s.hasFeature 2 = true) ∧
    (∀ x ∈ [(0, []), (2, payload.take 200)],
      let body := epBody 4095 63 x.1 200 (2 ^ 64 - 1) (2 ^ 64 - 1) x.2
      let s := hosting 5 body .running
      MemoryInv s ∧ s.hasFeature 2 = true ∧ MessageIn s 5000 5 body [] ∧
      MessageIn { s with hostIn := [hostMsg 41 5 9 body] } 41 5 body [] ∧ (payload.take 200).length = 200) ∧
    (∀ need ∈ [5, 4],
      let i := Instr.hin { fields .s8 1 0 with xw := true }
      let s := transferring i 1 need [7, 8]
      MessageIn s 5000 5 (epBody 4095 63 1 2 (2 ^ 64 - 1) 77 [7, 8]) [] ∧ s.held = [⟨opOf i [], .transfer 77 [1, 1] need⟩] ∧
      decodeWord (!siteIsBlock (opOf i []).site) (opOf i []).word = .ok i) ∧
    (∀ need ∈ [4, 3],
      let i := Instr.hout { fields .s8 2 0 with xw := true }
      let s := transferring i 3 need []
      MessageIn s 5000 5 (epBody 4095 63 3 0 (2 ^ 64 - 1) 77 []) [] ∧ s.held = [⟨opOf i [], .transfer 77 [1, 1] need⟩] ∧
      (opOf i []).released = false ∧ decodeWord (!siteIsBlock (opOf i []).site) (opOf i []).word = .ok i) := by
  refine ⟨fun nd _ ext _ => ⟨messageIn_of _ _ _ ?_, rfl, ?_, rfl⟩, fun x hx => ⟨memoryInv_of ?_ ?_, rfl, messageIn_of _ _ _ ?_, ⟨rfl, ?_, 9, rfl⟩, rfl⟩,
    fun need hn => ⟨⟨rfl, ?_, 9, rfl⟩, rfl, ?_⟩, fun need hn => ⟨⟨rfl, ?_, 9, rfl⟩, rfl, rfl, ?_⟩⟩
  case refine_2 => exact ⟨rfl, rfl⟩
  case refine_3 | refine_4 =>
    simp only [List.mem_cons, List.not_mem_nil, or_false] at hx
    rcases hx with rfl | rfl <;> decide +kernel
  case refine_5 | refine_6 =>
    simp only [List.mem_cons, List.not_mem_nil, or_false] at hx
    rcases hx with rfl | rfl <;> decide +kernel
  all_goals first | decide +kernel | simp [bytesOf, attachBody]
/-- An ATTEST in the recovery state, with feature 3 and without it. -/
def attesting (b : Boot) (feat : Option (BitVec 128)) : State :=
  { State.reset with boot := b, feat := feat, hostIn := [hostMsg 5000 7 9 (bytesOf 48 (2 ^ 384 - 1))] }
theorem witness_BootAndAttestation :
    ((attesting .running (some 8)).boot ≠ .off ∧ ((attesting .running (some 8)).boot = .running →
      (attesting .running (some 8)).hasFeature 3 = true) ∧ (attesting .recovery none).boot ≠ .off ∧
      ((attesting .recovery none).boot = .running → (attesting .recovery none).hasFeature 3 = true)) ∧
    ((attesting .running (some 7)).boot = .running ∧ (attesting .running (some 7)).hasFeature 3 = false ∧
      (attesting .running (some 7)).ctx? 0 = none) ∧
    (∃ f : Firmware, (f.rsaOk = true ∧ f.slhOk = true) ∧ ({ f with rsaOk := false }.rsaOk = false ∨ f.slhOk = false)) ∧
    (State.reset.boot ≠ .recovery) := by
  refine ⟨by decide +kernel, by decide +kernel, ⟨{ State.reset.flash with rsaOk := true, slhOk := true }, ⟨rfl, rfl⟩, .inl rfl⟩, by decide +kernel⟩

/-- A step or an instruction that answers a next state with a property. -/
theorem next_of {o : Host.Outcome State Fault Refusal} {P : State → Prop} [DecidablePred P]
    (h : (match o with | .next t => decide (P t) | _ => false) = true) : ∃ t, o = .next t ∧ P t := by
  cases o with
  | next t => exact ⟨t, rfl, of_decide_eq_true h⟩
  | _ => exact absurd h (by simp)
/-- Memory in canonical form before a step that stores. -/
theorem witness_MemoryKept :
    let op := opOf (.st { fields .z32 2 0 with xw := true }) [.scalar 0x10100, .scalar 7]
    MemoryInv (paged op 0) ∧ ∃ t, step (paged op 0) = .next t ∧ t.main ≠ (paged op 0).main := by
  refine ⟨memoryInv_of ?_ ?_, next_of ?_⟩ <;> decide +kernel
/-- A machine in the recovery state, with a feature vector. -/
def recovering : State := { attesting .recovery (some 15) with throtwin := 1 }
/-- Each word changed by an event that may change it. -/
theorem witness_SettingsKept :
    (∃ t, exec .powerOnBoot recovering = .next t ∧ t.throtwin ≠ recovering.throtwin ∧ t.feat ≠ recovering.feat) ∧
    (let n := fields .s8 1 0
     let s := { withOp (plainOp n [.scalar 0x7000]) with ctxs := [{ ctx with sys := true }] }
     ∃ t, exec (.syswrThrotwin n) s = .next t ∧ t.throtwin ≠ s.throtwin) ∧
    (let s := { hosting 1 (bytesOf 16 7) .running with feat := none }
     ∃ t, exec .hostFeat s = .next t ∧ t.feat ≠ s.feat) ∧
    (∃ t, exec (.newFirmwareImage { recovering.flash with rsaOk := !recovering.flash.rsaOk }) recovering = .next t ∧
      t.flash ≠ recovering.flash) ∧
    (∃ t, exec (.routingTableLoad { recovering.tables with privileged := [9] }) recovering = .next t ∧ t.tables ≠ recovering.tables) ∧
    (∃ t, exec .powerOnBoot { recovering with flash := { recovering.flash with rsaOk := true, slhOk := true } } = .next t ∧
      t.boot ≠ .recovery) := by
  refine ⟨next_of ?_, next_of ?_, next_of ?_, next_of ?_, next_of ?_, next_of ?_⟩ <;> decide +kernel
/-- Every instruction of the list goes on. -/
theorem witness_TokenFrames :
    tokenOps.all (fun mk => match exec (mk (fields .s8 2 0)) (issuing (mk (fields .s8 2 0)) [.scalar 7, .scalar 9]) with
      | .next _ => true
      | _ => false) = true := by
  decide +kernel
/-- The loads and the stores of a node, and a block's store, go on. -/
theorem witness_MemoryFrames :
    (let n := fields .s64 2 0
     let op := plainOp n [.scalar 0x10100, .scalar 7]
     let s := paged op 0
     s.issue = some op ∧ op.site = .tile tile ∧ MemoryInv s ∧
     [Instr.ld n, .ldv n, .gth n, .ird n, .hin n, .st n, .stv n].all (fun i => match exec i s with
       | .next _ => true
       | _ => false) = true) ∧
    (let n := fields .s64 2 0
     let op := blockOp (.st n) [.scalar 0x10100, .scalar 7]
     let s := withBlock op blockRun []
     s.issue = some op ∧ op.site = .block 1 0 0 ∧ op.released = false ∧ ∃ t, exec (.st n) s = .next t ∧ t.main = s.main) := by
  refine ⟨⟨rfl, rfl, memoryInv_of ?_ ?_, ?_⟩, rfl, rfl, rfl, next_of ?_⟩ <;> decide +kernel
/-- An operation that is issued, an agenda with an event and one with cycles, without a flit and with one, and a word of the table. -/
theorem witness_StepRunsDecoded :
    (let op := opOf (.add (fields .s8 2 0)) [.scalar 7, .scalar 9]
     (withOp op).issue = some op ∧ decodeWord (!siteIsBlock op.site) op.word = .ok (.add (fields .s8 2 0))) ∧
    (({ State.reset with agenda := [.run .powerOnBoot] } : State).issue = none ∧
      ({ State.reset with agenda := [.run .powerOnBoot] } : State).agenda = .run .powerOnBoot :: [] ∧
      ({ State.reset with agenda := [.cycles 3] } : State).agenda = .cycles 3 :: [] ∧
      State.reset.flits = [] ∧ State.reset.next = [] ∧ State.reset.late = [] ∧ (∀ t, (State.reset.ctile t).inject = []) ∧
      ({ withFlits [(3, flitTo here 0 0 0 0 0)] with agenda := [.cycles 3] } : State).flits ≠ []) ∧
    decodeTableWord 64 0x0100200000000000 = some (.mov ⟨.s8, .rne, .always, 1, false, 0, none, none, none⟩) := by
  refine ⟨⟨rfl, ?_⟩, ⟨rfl, rfl, rfl, rfl, rfl, rfl, fun _ => rfl, List.cons_ne_nil _ _⟩, ?_⟩ <;> decide +kernel
/-- The same load, of a region of whose die the lane of the same number has failed: the reply is lost. -/
theorem witness_LoadsFromMain_replyLost :
    let op := plainOp (fields .s8 1 0) [.scalar 0x10100]
    let s := { paged op 0 with failed := [(.w, 860)] }
    Issues s op (fields .s8 1 0) ∧ AtMain (after s op) op (fields .s8 1 0) false ∧
      Translated (after s op) op .read 0x10100 1 0x40100 ∧ (after s op).laneDown op (portLane op 0x40100) 0x40100 = false ∧
      (after s op).replyDown op 0x40100 = true := by
  refine ⟨⟨rfl, rfl⟩, atMain_of rfl ?_ ?_ ?_, translated_of entry ?_ ?_ ?_, ?_⟩
  any_goals (first | decide +kernel | (unfold Legal; decide +kernel))
/-- A vector store of a scalar into a FIFO of lines, and an atomic at the end of the buffer that is being filled. -/
theorem witness_TileAccesses_linesAndAtomics :
    (let op := plainOp (tileFields .z8 2 0) [.scalar 64, .scalar 9]
     let wide := mtile (1 * 2 ^ 60 + 4 * 2 ^ 40 + 8 * 2 ^ 43)
     let e := (List.replicate 16 (bytesOf 8 9)).flatten
     AtTile (after (tiled op wide) op) op (tileFields .z8 2 0) true mem 1 ∧ wide.elemBytes = 128 ∧ wide.fifoRoom = true ∧
       e.length = 128 ∧ ∀ j, j < 16 → ofBytes ((e.drop (8 * j)).take 8) = 9) ∧
    (let op := plainOp (tileFields .s64 2 0) [.scalar 248, .scalar 9]
     let buf := mtile (1 * 2 ^ 43 + 1 * 2 ^ 56)
     Issues (tiled op buf) op (tileFields .s64 2 0) ∧ Clean op ∧
       AtTile (after (tiled op buf) op) op (tileFields .s64 2 0) true mem 0 ∧ op.tb.isVec = false ∧ op.c.any (·.isVec) = false ∧
       (tileFields .s64 2 0).prd ≠ .ift ∧ 248 + 8 ≤ buf.depth ∧ 248 % 8 = 0 ∧ buf.isFull buf.fill = false) := by
  refine ⟨⟨atTile_of rfl ?_ ?_, ?_⟩, ⟨rfl, rfl⟩, ⟨?_, ?_, ?_⟩, atTile_of rfl ?_ ?_, ?_⟩ <;> decide +kernel
/-- A block's store of LSID 1, and an atomic of LSID 3 behind it, with room for both. -/
theorem witness_AtomicOperations_lowerStores :
    let st := { blockOp (.st { fields .s8 2 1 with t0 := none }) [.scalar 0x10200, .scalar 5] with released := true }
    let n := { fields .s64 2 3 with xw := true }
    let op := blockOp (.aadd n) [.scalar 0x10100, .scalar 7]
    let b := { blockRun with sm := 0x0A, doneS := 0x02, stores := [⟨1, st⟩] }
    let s := { (withBlock op b []) with regions := (1, { (withBlock op b []).region 1 with tc := [entry] }) :: (withBlock op b []).regions }
    let u := (((after s op).countNulled op n).releaseBelow op 3).mapBlock 1 0 fun b => { b with fixed := true }
    Issues s op n ∧ Clean op ∧ op.ta.isVec = false ∧ op.tb.isVec = false ∧ Reaches (after s op) op .both 0x10100 8 0x40100 ∧
    InBlock (after s op) op 1 0 b ∧ (after s op).lowerDone op n = true ∧
    [(⟨1, st⟩ : HeldStore)].Perm (b.stores.filter (·.lsid < 3)) ∧ [(⟨1, st⟩ : HeldStore)].Pairwise (fun x y => x.lsid < y.lsid) ∧
    (after s op).heldMiss [⟨1, st⟩] = none ∧ (after s op).anyMustWait [⟨1, st⟩] = false ∧
    ((after s op).mapBlock 1 0 fun b => { b with stores := b.stores.filter (3 ≤ ·.lsid) }).anyMustWait [⟨1, st⟩] = false ∧
    ((after s op).countNulled op n).block? 1 0 ≠ none ∧ u.laneDown op (portLane op 0x40100) 0x40100 = false ∧
    u.replyDown op 0x40100 = false := by
  refine ⟨⟨rfl, rfl⟩, ⟨?_, ?_, ?_⟩, ?_, ?_, reaches_of entry ?_ ?_ ?_, ⟨⟨0, rfl⟩, rfl, ?_⟩, ?_, .refl _, .cons (by simp) .nil, ?_⟩
  any_goals (first | decide +kernel | (unfold Legal; decide +kernel))
/-- The second and last leaf of a reduction of two, whose first has the higher index. -/
theorem witness_ReductionIntoMemory_lastLeaf :
    let n := { fields .f32 3 0x40 with xw := true }
    let raw (w : Word) := plainOp n [.scalar 0x10FFC, .scalar 0x3F800000, .scalar w]
    let leaf (w : Word) := { raw w with word := (encode (.red n)).getD 0 }
    let op := leaf 2
    let l : RedLeaf := ⟨1, some 0x40000000, leaf (word (2 + 2 ^ 32)), 0⟩
    let s := { paged op 0 with reds := [⟨1, op.ta.word, 0x40FFC, 2, word (Fmt.f32.code + 16 * 2), .rne, [l], false⟩] }
    Issues s op n ∧ Clean op ∧ op.released = false ∧ AtMain (after s op) op n true ∧ n.prd ≠ .ift ∧
    op.mode.resolve n.rnd = .rne ∧ n.imm.toNat / 32 % 4 = 2 ∧ Reaches (after s op) op .both 0x10FFC 4 0x40FFC ∧
    abandonedElem .f32 0x3F800000 = false ∧ decodeWord true op.word = .ok (.red n) ∧ op.tc.word = word (2 + 0 * 2 ^ 32) ∧
    (after s op).reds = [⟨op.ctx, op.ta.word, 0x40FFC, 2, word (Fmt.f32.code + 16 * 2), .rne, [l], false⟩] ∧
    [l].length + 1 = 2 ∧ ([l].map (·.index)).Nodup ∧ (l.index < 2 ∧ l.index ≠ 0 ∧ l.op.niw = n) ∧
    canonical .f32 .rne 2 (clog2 2) [some 0x3F800000, some 0x40000000] ≠ none := by
  refine ⟨⟨rfl, rfl⟩, ⟨?_, ?_, ?_⟩, ?_, atMain_of rfl ?_ ?_ ?_, ?_, ?_, ?_, reaches_of entry ?_ ?_ ?_, ?_⟩
  any_goals (first | decide +kernel | (unfold Legal; decide +kernel))
/-- A leaf behind an order token of another context, and a float sum whose mode draws. -/
theorem witness_ReductionIntoMemory_refused :
    (let n := { fields .f32 3 0 with xw := true, prd := .ift }
     let op := { plainOp n [.scalar 0x10FFC, .scalar 0x3F800000, .scalar 1] with p := some { tok (.scalar 1) with tag := tagOf 2 0 0 } }
     let s := paged op 0
     Issues s op n ∧ Clean op ∧ op.released = false ∧ op.ta.isVec = false ∧ op.tb.isVec = false ∧ op.tc.isVec = false ∧
     AtMain (after s op) op n true ∧ n.prd = .ift ∧ ∃ p ∈ op.p, tagCtx p.tag ≠ tagCtx op.tag) ∧
    (let n := { fields .f32 3 0 with xw := true, rnd := .ctx }
     let op := { plainOp n [.scalar 0x10FFC, .scalar 0x3F800000, .scalar 1] with mode := ⟨.sto, false, false⟩ }
     let s := paged op 0
     Issues s op n ∧ AtMain (after s op) op n true ∧ n.prd ≠ .ift ∧ op.mode.resolve n.rnd = .sto ∧ n.fmt.isFloat = true ∧
     n.imm.toNat / 32 % 4 = 0) := by
  refine ⟨⟨⟨rfl, rfl⟩, ⟨?_, ?_, ?_⟩, ?_, ?_, ?_, ?_, atMain_of rfl ?_ ?_ ?_, ?_, _, rfl, ?_⟩, ⟨rfl, rfl⟩, atMain_of rfl ?_ ?_ ?_, ?_⟩ <;>
    decide +kernel
/-- An F64 row whose mode rounds and one whose mode draws; a block whose columns no conversion changes; scales switched off and on. -/
theorem witness_AccumulatorsAndScales_modes :
    (∀ rnd ∈ [Rnd.rup, .sto],
      let n := { fields .f64 1 3 with rnd := .ctx }
      let op := { tagged (.acwr n) (tag2 15) [lanes [1] 1] with mode := ⟨rnd, false, false⟩ }
      let s := withOp op
      Issues s op n ∧ op.site = .tile tile ∧ op.ta.isVec = true ∧ 0 < depthOf op.tag ∧
      innermostOf ((after s op).widths op) op.tag = 15 ∧ (op.mode.resolve n.rnd = .sto ↔ rnd = .sto)) ∧
    (let n := fields .z16 1 0
     let op := tagged (.ctrn n) (tag2 15) [lanes [1] 1]
     let s := withOp op
     ∀ x, x < 16 → ¬ ((((after s op).floatEnv op n n.fmt false).under
       (pushed ((after s op).widths op) (popped ((after s op).widths op) op.tag) x)).cve = true)) ∧
    (∀ b ∈ [false, true],
      let op := mmaOp (.mma (fields .e4m3 2 3))
      let p := { plane with stages := [0, if b then 2 ^ 42 else 0, 0, 0, 0, 0] }
      let s := { between op CTile.reset with ctiles := [(tile, { CTile.reset with active := some p })] }
      scalesApplied s tile = b) := by
  refine ⟨fun rnd h => ?_, ?_, ?_⟩
  · simp only [List.mem_cons, List.not_mem_nil, or_false] at h
    rcases h with rfl | rfl <;> exact ⟨⟨rfl, rfl⟩, by decide +kernel⟩
  all_goals decide +kernel
/-- A list of three with two to come, where the input says five; and an abandoned value of a slot that a verdict left. -/
theorem witness_TopLists_refused :
    (let n := fields .f32 2 0x82
     let op := tagged (.vtopk n) (tagOf 1 1 0) [lanes [0x7FB00001] 1, .scalar 5]
     let x := Entry.gather op.tag op.node (.topk 3 2 1 [(0x3F800000, 0)] false)
     let s := { withOp op with ctiles := [(tile, { CTile.reset with active := some plane, entries := [x] })] }
     Issues s op n ∧ op.site = .tile tile ∧ (after s op).ctx? op.ctx = some ctx ∧ op.tb.isVec = false ∧ op.ta.isVec = true ∧
     ((after s op).takeAgg tile ctx op.tag op.node).1 = some x ∧ x.agg = .topk 3 2 1 [(0x3F800000, 0)] false) ∧
    (let n := fields .f32 2 0x80
     let op := tagged (.vtopk n) (tagOf 1 1 0) [lanes [0x3F800000, 0x7FB00001] 3, .scalar 5]
     let s := withOp op
     let ins : List Word := ((List.range 16).filterMap (laneAt op.ta.val)).map word
     Issues s op n ∧ op.ta.isVec = n.imm.getLsbD 7 ∧ noGather (after s op) tile ctx op.tag op.node ∧
     ins = [0x3F800000, 0x7FB00001] ∧ isAbandoned 0x7FB00001 = true) := by
  unfold noGather
  refine ⟨⟨⟨rfl, rfl⟩, ?_⟩, ⟨rfl, rfl⟩, ?_⟩
  · decide +kernel
  · refine ⟨by decide +kernel, by decide +kernel, by decide +kernel, ?_⟩
    unfold isAbandoned
    decide +kernel
/-- An add of a float and a read of a row under a mode that draws. -/
theorem witness_StreamRows_draws :
    (let n := { rowFields .f32 2 0 with rnd := .ctx }
     let op := { plainOp n [.scalar 7, .scalar 0x3F800000] with mode := ⟨.sto, false, false⟩ }
     let x := { row1 false with sigma := (2 ^ 47 - 1) ^ 2 }
     let s := summed op false
     Issues s op n ∧ MemoryInv s ∧ Clean op ∧ op.site = .tile tile ∧ op.ta.word.toNat / 2 ^ 24 = 0 ∧
     RowHome (after s op) op n mem ∧ RowAt (after s op) op mem x ∧ n.fmt ≠ .s64 ∧ op.mode.resolve n.rnd = .sto) ∧
    (let n := { rowFields .f32 3 0 with rnd := .ctx }
     let op := { plainOp n [.scalar 7, .scalar 0x3F800000, .scalar 5] with mode := ⟨.sto, false, false⟩ }
     let x := { row1 false with sigma := (2 ^ 47 - 1) ^ 2 }
     let s := summed op false
     Issues s op n ∧ RowHome (after s op) op n mem ∧ RowAt ((after s op).fix op) op mem x ∧ op.tc.word.toNat < 2 ^ 32 ∧
     op.ta.word.toNat / 2 ^ 30 = 0 ∧ op.mode.resolve n.rnd = .sto) := by
  refine ⟨⟨⟨rfl, rfl⟩, memoryInv_of ?_ ?_, ⟨?_, ?_, ?_⟩, ?_, ?_, rowHome_of ?_ ?_ ?_ ?_ ?_, ⟨?_, ?_⟩, ?_, ?_⟩,
    ⟨rfl, rfl⟩, rowHome_of ?_ ?_ ?_ ?_ ?_, ⟨?_, ?_⟩, ?_, ?_, ?_⟩ <;> decide +kernel
/-- A seed read once and held, of a running context and of a frozen one. -/
theorem witness_LaunchesAndSeeds_held :
    ∀ st ∈ [CState.running, .freezing, .frozen],
    let op := { plainOp (fields .s8 2 0) [.scalar 77, .scalar 0x10100] with record := [seedCtl, 0, 7], count := 1 }
    let x := { other st with num := 1, rset := 1 }
    let s := { withOp op with ctxs := [{ ctx with num := 2 }, x], ctiles := [(tile, { CTile.reset with active := some nodePlane })] }
    let r : SeedRec := ⟨seedCtl, 0, 7⟩
    NamesLive (after s op) op.ta.word x ∧ Commands (after s op) op x ∧ x.st = st ∧ op.record = [seedCtl, 0, 7] ∧
    look tile ((after s op).planesOf x.num) = some nodePlane ∧ (parcelOf seedCtl 0 [7]).tile = tile ∧
    seedFits ((after s op).planesOf x.num) x.rset nodePlane.widths r = true := by
  intro st h
  simp only [List.mem_cons, List.not_mem_nil, or_false] at h
  unfold NamesLive Commands
  rcases h with rfl | rfl | rfl <;> refine ⟨⟨?_, ?_⟩, .inl ?_, ?_⟩ <;> decide +kernel
/-- The endpoint of a snapshot, one that the context does not have, and the two bits of IMM8. -/
theorem witness_SnapshotsAndRestores_endpoints :
    let d := { ctx with endpoints := [(63, ⟨5000, 0, 2 ^ 40, 0⟩)] }
    let op := plainOp (fields .s8 3 3) [.scalar 77, .scalar 63, .scalar (-1)]
    let s := { withOp op with ctxs := [d, other .frozen] }
    Issues s op (fields .s8 3 3) ∧ op.tc.isVec = false ∧ NamesLive (after s op) op.ta.word (other .frozen) ∧
    Commands (after s op) op (other .frozen) ∧ (after s op).images = [] ∧ (fields .s8 3 3).imm.getLsbD 1 = true ∧
    (fields .s8 3 3).imm.getLsbD 0 = true ∧ (after s op).ctx? op.ctx = some d ∧ d.num = op.ctx ∧ op.tb.word.toNat < 64 ∧
    look 63 d.endpoints = some ⟨5000, 0, 2 ^ 40, 0⟩ ∧ 4096 ≤ 5000 ∧ look 62 d.endpoints = none ∧ op.tc.word.toNat = 2 ^ 64 - 1 := by
  unfold NamesLive Commands
  refine ⟨⟨rfl, rfl⟩, ?_, ⟨?_, ?_⟩, .inl ?_, ?_⟩ <;> decide +kernel
/-- A tree and a sum into memory, whose partials may leave the module. -/
theorem witness_Routes_partials :
    (opOf (.tred (fields .s8 2 0)) []).opc = 0x66 ∧ (opOf (.red (fields .f32 3 0)) []).opc = 0x86 ∧
    ¬ ((plainOp (fields .s8 1 0) []).opc = 0x66 ∨ (plainOp (fields .s8 1 0) []).opc = 0x86) := by decide +kernel
/-- A window that is one and two behind the router's own cycle. -/
theorem witness_Routers_RouterTimers_own (k : Nat) :
    let c := ({ State.reset with cycle := 4096 } : State).ownCycle here
    let s := { State.reset with cycle := 4096, ctiles := [(here, { CTile.reset with router := { Router.reset with now := 513, start := c - 1024 * k } })] }
    (k = 1 → (s.ctile here).router.start + 1024 ≤ s.ownCycle here ∧ s.ownCycle here < (s.ctile here).router.start + 2048) ∧
    (k = 2 → (s.ctile here).router.start + 2048 ≤ s.ownCycle here) := by
  intro c s
  have hs : (s.ctile here).router.start = c - 1024 * k := rfl
  have hc : s.ownCycle here = c := rfl
  have h0 : 4096 ≤ c := Nat.le_add_right _ _
  rw [hs, hc]
  omega
/-- Of two parked accesses that have been answered, the second is the first in tag order. -/
theorem witness_Translation_Paging_order :
    let x : ParkedAcc := ⟨{ missOp with tag := tagOf 1 1 5 }, va0, true⟩
    let y : ParkedAcc := ⟨{ missOp with tag := tagOf 1 1 6 }, va0, true⟩
    let z : ParkedAcc := ⟨missOp, va0, false⟩
    let s := (tabled present).setRegion 0 { Region.reset with parked := [y, x, z] }
    (s.region 0).parked = [y] ++ x :: [z] ∧ x.answered = true ∧ (∃ q bc k, x.op.site = .block q bc k) ∧
    ∀ w ∈ [y] ++ [z], w.answered = true → tagLt x.op.tag w.op.tag = true ∨ (x.op.tag = w.op.tag ∧ x.op.node < w.op.node) := by
  refine ⟨rfl, rfl, ⟨_, _, _, rfl⟩, ?_⟩
  decide +kernel
/-- Generators of each space that are not enabled, and a RET of a tile with two call sites. -/
theorem witness_TileTurns_refusedAndReturns :
    (∀ k ∈ [0, 1, 2, 3],
      let op := { commitOp 1 with node := 1036 }
      let gens := [[0, word (k % 2 * 2 ^ 41 + k / 2 * 2 ^ 42)]]
      let m := ({ mtile 0 with active := some ⟨1, 0, gens, [], [], [], []⟩ } : MTile).setGen 0 ⟨[0, 0, 0, 0], none, [op], 0, [], false, []⟩
      (m.gen 0).run = none ∧ (m.gen 0).waiting = op :: [] ∧ descEn (m.desc 0) = false) ∧
    (let n := { fields .s8 1 0 with t0 := some ⟨.b, 4⟩ }
     let w := (encode (.ret n)).getD 0
     let p := { plane with ins := [w], sites := [1, 3] }
     let s := { State.reset with ctxs := [ctx], ctiles := [(tile, { CTile.reset with active := some p, drains := [(0, .a)] })] }
     p.ins[0]? = some w ∧ decodeWord true w = .ok (.ret n) ∧ (Instr.ret n).parts = some (0x0E, n) ∧ s.passes tile 0 = true ∧
     (s.region (regionOf tile)).storeBuf = [] ∧ n.t0 = some ⟨.b, 4⟩) := by decide +kernel
end Sys2Proof.Tests
end

section

/-!
The firing of an issued operation, once: what `fire` and its variants run where the firing condition of R34 lets the
operation run, and what emitting a value is.
-/

namespace Sys2Proof.Proofs

open Sys2Proof Sys2Proof.Machine Sys2Proof.Claims

variable {s : State} {op : Issued} {n : Niw}

/-- An operation that fires runs its body on the state in which it has its effect (R34). -/
theorem fire_of_issues (h : Issues s op n) (body : Issued → State → State) :
    fire s n body = .next (body op (after s op)) := by
  obtain ⟨hs, hf⟩ := h
  simp only [fire, hs, hf, after]

/-- An instruction without targets runs its body where its firing condition lets it (R82, R246). -/
theorem fireExit_of_issues (h : Issues s op n) (body : Issued → State → State) :
    fireExit s n body = .next (body op (after s op)) := by
  obtain ⟨hs, hf⟩ := h
  simp only [fireExit, fireRaw, hs, hf, after]

/-- An instruction with its own rule for nulls and predicates takes the issued word (R30, R325). -/
theorem fireRaw_of_issued (h : s.issue = some op) (body : Issued → State → State) :
    fireRaw s body = .next (body op (taken s)) := by
  simp only [fireRaw, h, taken]

/-- PRD 11 is taken as 00 (R256). -/
theorem noBubble_eq_unbubbled (n : Niw) : noBubble n = unbubbled n := by
  unfold noBubble unbubbled
  split
  · rfl
  · rfl

/-- A scalar operand passes the check of R239. -/
theorem scalars_of_all {ts : List Tok} (h : ∀ t ∈ ts, t.isVec = false) (k : State → State) : s.scalars op ts k = k s := by
  have : ts.any (·.isVec) = false := by simpa using h
  simp [State.scalars, this]

/-- The lanes of a value, in order. -/
theorem lanesOf_eq_map (v : Value) : lanesOf v = (List.range (laneCount v)).map (laneAt v) := by
  cases v with
  | scalar w => rfl
  | vector ls m => rfl

/-- The lanes that take part are those that some lane number names. -/
theorem mem_lanesOf_some (v : Value) (l : Nat) :
    l ∈ (lanesOf v).filterMap id ↔ ∃ i, i < laneCount v ∧ laneAt v i = some l := by
  simp [lanesOf_eq_map]

/-- PCHK's test, in the words of R304. -/
theorem pchkTest_iff (op : Issued) (imm : BitVec 8) :
    pchkTest imm.toNat op = true ↔
      (((imm.toNat % 4 = 0 ∧ op.ta.pred = true) ∨
        (imm.toNat % 4 = 1 ∧ (∃ i l, laneAt op.ta.val i = some l ∧ i < laneCount op.ta.val) ∧
          ∀ i l, i < laneCount op.ta.val → laneAt op.ta.val i = some l → l ≠ 0) ∨
        (imm.toNat % 4 = 2 ∧ ∃ i l, i < laneCount op.ta.val ∧ laneAt op.ta.val i = some l ∧ l ≠ 0) ∨
        (imm.toNat % 4 = 3 ∧ op.ta.psn = true)) ↔ imm.getLsbD 2 = false) := by
  have hm : imm.toNat % 4 < 4 := Nat.mod_lt _ (by decide)
  have hsome : ((lanesOf op.ta.val).filterMap id).isEmpty = false ↔
      ∃ i l, laneAt op.ta.val i = some l ∧ i < laneCount op.ta.val := by
    rw [Bool.eq_false_iff, Ne, List.isEmpty_iff, List.eq_nil_iff_forall_not_mem]
    simp only [mem_lanesOf_some, not_forall, not_not]
    constructor
    · rintro ⟨l, i, hi, hl⟩; exact ⟨i, l, hl, hi⟩
    · rintro ⟨i, l, hl, hi⟩; exact ⟨l, i, hi, hl⟩
  have hall : ((lanesOf op.ta.val).filterMap id).all (· ≠ 0) = true ↔
      ∀ i l, i < laneCount op.ta.val → laneAt op.ta.val i = some l → l ≠ 0 := by
    simp only [List.all_eq_true, mem_lanesOf_some, decide_eq_true_eq]
    exact ⟨fun h i l hi hl => h l ⟨i, hi, hl⟩, fun h l ⟨i, hi, hl⟩ => h i l hi hl⟩
  have hany : ((lanesOf op.ta.val).filterMap id).any (· ≠ 0) = true ↔
      ∃ i l, i < laneCount op.ta.val ∧ laneAt op.ta.val i = some l ∧ l ≠ 0 := by
    simp only [List.any_eq_true, mem_lanesOf_some, decide_eq_true_eq]
    exact ⟨fun ⟨l, ⟨i, hi, hl⟩, h0⟩ => ⟨i, l, hi, hl, h0⟩, fun ⟨i, l, hi, hl, h0⟩ => ⟨l, ⟨i, hi, hl⟩, h0⟩⟩
  have hbit : ∀ r : Bool, ((r != imm.getLsbD 2) = true) ↔ (r = true ↔ imm.getLsbD 2 = false) := by
    intro r; cases r <;> cases imm.getLsbD 2 <;> simp
  have h4 : bits imm.toNat 0 2 = imm.toNat % 4 := by simp [bits]
  unfold pchkTest
  rw [h4, ← BitVec.getLsbD, hbit]
  obtain h | h | h | h : imm.toNat % 4 = 0 ∨ imm.toNat % 4 = 1 ∨ imm.toNat % 4 = 2 ∨ imm.toNat % 4 = 3 := by omega
  · simp [h]
  · simp only [h, Bool.and_eq_true, Bool.not_eq_true', hsome, hall]; simp
  · simp only [h, hany]; simp
  · simp [h]

/-- STEER's condition, in the words of R325. -/
theorem steerCond_iff (n : Niw) (op : Issued) :
    steerCond n.prd op = true ↔ ((n.prd = .always ∨ n.prd = .bub) ∧ op.ta.pred = true) ∨
      (n.prd = .ift ∧ ∀ p ∈ op.p, p.pred = true) ∨ (n.prd = .iff ∧ ∀ p ∈ op.p, p.pred = false) := by
  cases h : n.prd <;> cases hp : op.p <;> simp [steerCond, hp]

/-- Settles O17: each instruction's body, run on the state in which it has its effect. -/
theorem movesAndSteering : Obligations.MovesAndSteering := by
  unfold Obligations.MovesAndSteering
  intro s op n
  refine ⟨fun h => ⟨?_, ?_, ?_, ?_, ?_⟩, fun h => ⟨?_, ?_⟩, fun h hp => ?_⟩
  · simp only [exec, execNop, fire_of_issues h]
  · simp only [Emits, exec, execMov, fire_of_issues h, State.emitVal]
  · simp only [Emits, exec, execJoin, fire_of_issues h, State.emitVal]
  · simp only [Emits, exec, execGate, fire_of_issues h, State.emitVal]
  · refine ⟨pchkTest n.imm.toNat op, ?_, pchkTest_iff op n.imm⟩
    simp only [Emits, exec, execPchk, fire_of_issues h, State.emitVal]
  · rw [← noBubble_eq_unbubbled] at h
    simp only [Emits, exec, execConst, fire_of_issues h, State.emitWord, Tok.scalar]
  · rw [← noBubble_eq_unbubbled] at h
    simp only [exec, execNullTok, fire_of_issues h, State.nulls]
  · have hnul : op.p.any (·.nul) = false := by
      cases hq : op.p with
      | none => rfl
      | some p => exact hp p hq
    have hrun : exec (.steer n) s = .next ((after s op).emit1 op (if steerCond n.prd op then n.t0 else n.t1)
        ⟨op.tag, op.ta.val, true, op.poisoned, op.ta.nul⟩) := by
      simp only [exec, execSteer, fireRaw_of_issued h, hnul]
      rfl
    refine ⟨fun hc => ?_, fun hc => ?_⟩
    · rw [hrun, if_pos ((steerCond_iff n op).2 hc)]
    · rw [hrun, if_neg (mt (steerCond_iff n op).1 hc)]

end Sys2Proof.Proofs
end

section

/-!
Three statements fail on one machine: a tile whose plane declares a field of 60 bits. `Claims.fieldOfTag` takes a field out
of the 48 bits of the field area (R24), while the model takes it out of the whole tag, so that a field wider than the area
also holds DEPTH. No statement bounds the widths of a plane; the loader's checks keep such a plane out.
-/

namespace Sys2Proof.Proofs

open Sys2Proof Sys2Proof.Machine Sys2Proof.Claims

/-- The tile of the counterexample. -/
def wideTile : TileId := ⟨.w, 0, 0⟩

/-- A plane with one route, to node 0 of the tile itself, that declares fields of 60 bits. -/
def widePlane : CPlane :=
  { ctx := 1, img := 0, ins := [], cons := [], routes := [0], tpls := [], stages := [], mode := ⟨.rne, false, false⟩,
    widths := [60], bodies := [] }

/-- The running context of the plane. -/
def wideCtx : Ctx :=
  { num := 1, launch := 1, st := .running, program := false, home := 0, host := none, parent := none, handle := 0, img := 0,
    phys := false, seed := 0, part := 64, skl := 6, prio := 0, gang := 0, ten := 0, root := 0, rset := 1, sys := false, mode := 0,
    k := 0, arrival := 0, req := none, image := none, seeds := [], round := 0, issuer := none, markers := [], quiet := [],
    stopAfter := false, endAfter := false, gangMark := false, loops := [], skein := [], endpoints := [], sections := [],
    splice := none, switched := [], entered := [] }

/-- An operation of the tile whose tag has one field, and that field is zero. -/
def wideOp : Issued :=
  { site := .tile wideTile, word := 0, ctx := 1, tag := tagOf 1 1 0, node := 0, draw := 0, a := none, b := none, c := none,
    p := none, konst := none, mode := ⟨.rne, false, false⟩, released := false, walk := none }

/-- Fields with this immediate and the one route as TGT0. -/
def wideFields (imm : BitVec 8) : Niw := ⟨.s8, .rne, .always, 1, false, imm, some ⟨.a, 0⟩, none, none⟩

/-- The machine with the operation issued. -/
def wideState : State :=
  { State.reset with
    ctxs := [wideCtx], ctiles := [(wideTile, { CTile.reset with active := some widePlane })], issue := some wideOp }

theorem wideState_issues (imm : BitVec 8) : Issues wideState wideOp (wideFields imm) := ⟨rfl, rfl⟩

/-- A part of the state that an outcome answers. -/
def nextView {α : Type} (v : State → α) : Out → Option α
  | .next u => some (v u)
  | .fault _ | .refused _ => none

@[simp] theorem nextView_next {α : Type} (v : State → α) (u : State) : nextView v (.next u) = some (v u) := rfl

/-- Refutes O18: TAGRD of the one field, which is zero, emits a word that holds the tag's DEPTH. -/
theorem not_tagFields : ¬ Obligations.TagFields := by
  unfold Obligations.TagFields
  intro h
  obtain ⟨-, -, -, -, -, -, -, hread, -⟩ := h wideState wideOp (wideFields 0) (wideState_issues 0)
  have hexec := hread rfl (by decide)
  unfold Emits at hexec
  have hown := congrArg (nextView fun u => (u.ctile wideTile).own) hexec
  revert hown
  decide

/-- Refutes O19: RET of the call site 0 finds the field beyond the end of the table, and faults. -/
theorem not_returnsAndTagWrites : ¬ Obligations.ReturnsAndTagWrites := by
  unfold Obligations.ReturnsAndTagWrites
  intro h
  obtain ⟨hret, -⟩ := h wideState wideOp (wideFields 0) (wideState_issues 0)
  have hexec := (hret wideTile widePlane ⟨.a, 0⟩ rfl rfl rfl (by decide)).1 (by decide)
  have hseqs := congrArg (nextView State.seqs) hexec
  revert hseqs
  decide

/-- Refutes O21: a counting JOIN of one leaf takes the leaf of index 0 for one beyond its count, and faults. -/
theorem not_loopsAndGathers : ¬ Obligations.LoopsAndGathers := by
  unfold Obligations.LoopsAndGathers
  rintro ⟨-, h⟩
  unfold Claims.Gathering at h
  obtain ⟨-, hjoin, -⟩ := h wideState wideOp (wideFields 0x80) wideTile wideCtx (wideState_issues _) rfl rfl
  have hexec := hjoin (by decide) rfl (by decide) ⟨by decide, rfl⟩
  have hseqs := congrArg (nextView State.seqs) hexec
  revert hseqs
  decide

end Sys2Proof.Proofs
end

section

/-!
Block exits and block registers: the running block after an operation has fired, and what counting an exit or a register
does with it.
-/

namespace Sys2Proof.Proofs

open Sys2Proof Sys2Proof.Machine Sys2Proof.Claims

variable {s : State} {op : Issued} {n : Niw} {r bc : Nat} {b : Block}

/-- A block that runs counts its one exit (R45). -/
theorem countExit_first (h : InBlock s op r bc b) (hx : b.exit = none) (x : Exit) :
    s.countExit op x = s.mapBlock r bc fun b => { b with exit := some x } := by
  obtain ⟨⟨k, hsite⟩, -, hruns⟩ := h
  simp [State.countExit, hsite, hruns, hx]

/-- A second exit is a fault (R45). -/
theorem countExit_second (h : InBlock s op r bc b) (hx : b.exit ≠ none) (x : Exit) :
    s.countExit op x = s.opFault op 0x342 0 0 := by
  obtain ⟨⟨k, hsite⟩, -, hruns⟩ := h
  have : b.exit.isSome = true := Option.isSome_iff_ne_none.2 hx
  simp [State.countExit, hsite, hruns, this]

/-- A register of the mask that has not been counted is counted, and its value held (R45, R278). -/
theorem countWrite_counted (h : InBlock s op r bc b) (g : Nat) (v : Word) (hm : b.wm.testBit g = true)
    (hd : b.doneW.testBit g = false) :
    s.countWrite op g (some v) = s.mapBlock r bc fun b =>
      { b with doneW := b.doneW + 2 ^ g, writes := b.writes ++ [(g, v)] } := by
  obtain ⟨⟨k, hsite⟩, -, hruns⟩ := h
  simp [State.countWrite, hsite, hruns, hm, hd]

/-- Any other register is a fault (R45, R278). -/
theorem countWrite_refused (h : InBlock s op r bc b) (g : Nat) (v : Option Word)
    (hm : b.wm.testBit g = false ∨ b.doneW.testBit g = true) : s.countWrite op g v = s.opFault op 0x344 0 0 := by
  obtain ⟨⟨k, hsite⟩, -, hruns⟩ := h
  have : (!b.wm.testBit g || b.doneW.testBit g) = true := by simpa using hm
  simp only [State.countWrite, hsite, hruns, this, if_true]

/-- An instruction that counts an exit leaves its block, once (R45, R246). -/
theorem leaves_of_countExit {i : Instr} {x : Exit} (h : InBlock (after s op) op r bc b)
    (hi : exec i s = .next ((after s op).countExit op x)) :
    (b.exit = none → exec i s = .next ((after s op).mapBlock r bc fun b => { b with exit := some x })) ∧
      (b.exit ≠ none → Faults i s op 0x342) :=
  ⟨fun hx => by rw [hi, countExit_first h hx], fun hx => by rw [Faults, hi, countExit_second h hx]⟩

/-- Settles O20: what each exit and each register access does to the running block. -/
theorem blockExitsAndRegisters : Obligations.BlockExitsAndRegisters := by
  unfold Obligations.BlockExitsAndRegisters
  intro s op n r bc b hb
  have hb' := hb
  obtain ⟨⟨k, hsite⟩, -, -⟩ := hb'
  refine ⟨fun h => ?_, fun h => ⟨fun ha => ?_, fun ha hb2 hc => ?_, fun ha hb2 => ?_, fun a l hs => ?_, fun hs => ?_, ?_, ?_⟩⟩
  · rw [← noBubble_eq_unbubbled] at h
    simp only [Emits, exec, execGrd, fire_of_issues h, hsite, State.emitWord, Tok.scalar]
    simp [bits, nth, List.getD]
  · exact leaves_of_countExit hb (by
      simp only [exec, execBr, fireExit_of_issues h, scalars_of_all (ts := [op.ta]) (by simpa using ha)])
  · refine leaves_of_countExit hb ?_
    simp only [exec, execBrc, fireExit_of_issues h,
      scalars_of_all (ts := [op.ta, op.tb, op.tc]) (by simpa using ⟨ha, hb2, hc⟩), ne_eq, ite_not]
  · exact leaves_of_countExit hb (by
      simp only [exec, execBcall, fireExit_of_issues h,
        scalars_of_all (ts := [op.ta, op.tb]) (by simpa using ⟨ha, hb2⟩)])
  · exact leaves_of_countExit hb (by simp only [exec, execBret, fireExit_of_issues h, hsite, hs])
  · simp only [Faults, exec, execBret, fireExit_of_issues h, hsite, hs]
  · exact leaves_of_countExit hb (by simp only [exec, execHalt, fireExit_of_issues h])
  · have hrun (g : Nat) (hg : g = n.imm.toNat % 64) :
        exec (.gwr n) s = .next ((after s op).countWrite op g (some op.ta.word)) := by
      have hbits : bits n.imm.toNat 0 6 = g := by simp [bits, hg]
      simp only [exec, execGwr, fireRaw_of_issued h.issued, h.fires, hbits]
      rfl
    refine ⟨fun hm hd => ?_, fun hm => ?_⟩
    · rw [hrun _ rfl, countWrite_counted hb _ _ hm hd]
    · rw [Faults, hrun _ rfl, countWrite_refused hb _ _ hm]

end Sys2Proof.Proofs
end

section

/-!
A scatter through two translation-cache entries that map two virtual addresses to overlapping bytes. An entry's base need not
be aligned in a state, so two aligned elements can share some bytes without having one physical address; R114 then gives them to
two lanes of the Carder, and the lane, not the element's number, decides which of them stays.
-/

namespace Sys2Proof.Proofs

open Sys2Proof Sys2Proof.Machine Sys2Proof.Claims

variable {s : State} {op : Issued} {n : Niw}

/-- A fabric operation's reply without a target leaves main memory alone. -/
theorem reply_main_of_no_targets {t : TileId} (hs : op.site = .tile t) (ha : op.away = none) (h0 : n.t0 = none)
    (h1 : n.t1 = none) (h2 : n.t2 = none) (v : Value) (psn : Bool) : (s.reply op n v psn).main = s.main := by
  have hd : (s.markDone op).main = s.main := by
    simp only [State.markDone, hs]
    split <;> rfl
  have ht : (s.markDone op).replyTargets op n = [none, none, none] := by
    simp [State.replyTargets, State.homeTile, hs, State.routeOf, h0, h1, h2]
  simp only [State.reply, ht, State.hand, ha, State.emitTo, State.emit1, State.send1, hd]

/-- The scatter: element 0 to virtual address 256, element 1 to 4352. -/
def overlapOp : Issued :=
  let tok (v : Value) : Tok := ⟨0, v, true, false, false⟩
  { site := .tile wideTile, word := 0, ctx := 1, tag := 0, node := 0, draw := 0, a := some (tok (.scalar 0)),
    b := some (tok (.vector [256, 4352] 3)), c := some (tok (.scalar 0xBBBBBBBBAAAAAAAA)), p := none, konst := none,
    mode := ⟨.rne, false, false⟩, released := false, walk := none }

/-- A scatter of 32-bit elements without targets. -/
def overlapFields : Niw := ⟨.z32, .rne, .always, 3, false, 0, none, none, none⟩

/-- The translations: 256 is at physical address 256, and 4352, through an entry whose base is 4098, at 254. -/
def overlapState : State :=
  { State.reset with
    regions := [(0, { Region.reset with tc := [⟨1, 0, 4096, 0x40⟩, ⟨1, 4098, 4096, 0x40⟩] })], issue := some overlapOp }

/-- The physical address of each element. -/
def overlapAddr (k : Nat) : Nat := if k = 0 then 256 else 254

theorem overlapState_byCarder (e : TcEntry) (va : Nat) (pa : Nat)
    (hl : Legal ((after overlapState overlapOp).isSystem overlapOp.ctx) va 4)
    (hf : (after overlapState overlapOp).tcFind (siteRegion overlapOp.site) overlapOp.ctx va = some e)
    (hp : permits e.leaf .write = true ∧ pa = leafBase e.leaf + (va - e.base))
    (hc : (after overlapState overlapOp).laneDown overlapOp (carderLane pa) pa = false) :
    ByCarder (after overlapState overlapOp) overlapOp .write va 4 pa :=
  ⟨⟨hl, ⟨e, hf, hp.1, hp.2⟩, rfl⟩, hc⟩

/-- Both elements take part. -/
theorem overlapParts : ((List.range 16).filter fun k => k < laneCount overlapOp.tb.val &&
    (laneAt overlapOp.tb.val k).isSome && (position overlapFields.fmt overlapOp.tc.val k).isSome) = [0, 1] := by
  decide

/-- Both elements reach main memory by the Carder. -/
theorem overlapElems_byCarder : ∀ k ∈ [0, 1], ∀ l, laneAt overlapOp.tb.val k = some l →
    0 ≤ (overlapOp.ta.word.toNat : Int) + (BitVec.ofNat 64 l).toInt * 2 ^ (overlapFields.imm.toNat % 64) ∧
      ByCarder (after overlapState overlapOp) overlapOp .write
        ((overlapOp.ta.word.toNat : Int) + (BitVec.ofNat 64 l).toInt * 2 ^ (overlapFields.imm.toNat % 64)).toNat
        (overlapFields.fmt.width / 8) (overlapAddr k) := by
  intro k hk l hl
  rcases List.mem_pair.1 hk with rfl | rfl
  · obtain rfl : 256 = l := Option.some.inj hl
    exact ⟨by decide, overlapState_byCarder ⟨1, 0, 4096, 0x40⟩ 256 256 (by unfold Legal; decide) (by decide) (by decide)
      (by decide)⟩
  · obtain rfl : 4352 = l := Option.some.inj hl
    exact ⟨by decide, overlapState_byCarder ⟨1, 4098, 4096, 0x40⟩ 4352 254 (by unfold Legal; decide) (by decide)
      (by decide) (by decide)⟩

/-- What the machine leaves at 254: two bytes of element 1, then two of element 0. -/
theorem overlapBytes : (nextView State.main (exec (.sct overlapFields) overlapState)).map (fun m =>
    (List.range 4).map fun i => cellGet m.cells (254 + i)) = some [0xBB, 0xBB, 0xAA, 0xAA] := by
  decide

/-- Refutes O23: of two elements that overlap in part, the one of the higher number is written first. -/
theorem not_storesToMain : ¬ Obligations.StoresToMain := by
  unfold Obligations.StoresToMain
  intro h
  obtain ⟨-, -, -, hsct, -⟩ := h overlapState overlapOp overlapFields ⟨rfl, rfl⟩ ⟨rfl, fun _ => rfl⟩
    ⟨by decide, by decide, by decide⟩ rfl
  clear h
  have hat : AtMain (after overlapState overlapOp) overlapOp overlapFields true :=
    ⟨⟨wideTile, rfl⟩, rfl, by decide, by decide⟩
  have hs := hsct overlapAddr hat
  dsimp only at hs
  rw [overlapParts] at hs
  obtain ⟨u, hexec, hval, -⟩ := hs overlapElems_byCarder
  have hnum := hval 1 (by decide) (by decide)
  have hcell := overlapBytes
  rw [hexec, nextView_next, reply_main_of_no_targets (t := wideTile) rfl rfl rfl rfl rfl] at hcell
  have hbytes : u.byteAt 254 = 0xBB ∧ u.byteAt 255 = 0xBB ∧ u.byteAt 256 = 0xAA ∧ u.byteAt 257 = 0xAA := by
    simpa [List.range_succ, State.byteAt] using hcell
  obtain ⟨h0, h1, h2, h3⟩ := hbytes
  have hsum : numberAt u (overlapAddr 1) (overlapFields.fmt.width / 8) = 0xAAAABBBB := by
    show numberAt u 254 4 = _
    simp [numberAt, Finset.sum_range_succ, h0, h1, h2, h3]
  rw [hsum] at hnum
  exact absurd hnum (by decide)

end Sys2Proof.Proofs
end

section

/-!
Taking an exception, once: what a message, a record and the stop of a context can change. A message leaves everything but
sequence numbers, the messages and the ports as it was; a record also stands in one region's inbound list; a stop changes the
contexts alone.
-/

namespace Sys2Proof.Proofs

open Sys2Proof Sys2Proof.Machine Sys2Proof.Claims

variable (s : State)

/-- `u` differs from `s` in sequence numbers, host messages and ports alone. -/
def OnlyMessages (s u : State) : Prop := ∃ q h p, u = { s with seqs := q, hostOut := h, ports := p }

theorem OnlyMessages.refl : OnlyMessages s s := ⟨s.seqs, s.hostOut, s.ports, rfl⟩

variable {s}

theorem OnlyMessages.trans {u v : State} (h : OnlyMessages s u) (h' : OnlyMessages u v) : OnlyMessages s v := by
  obtain ⟨_, _, _, rfl⟩ := h
  obtain ⟨q, o, p, rfl⟩ := h'
  exact ⟨q, o, p, rfl⟩

variable (s)

theorem sendLink_onlyMessages (p : Nat) (load : LinkLoad) : OnlyMessages s (s.sendLink p load) := by
  unfold State.sendLink
  simp only
  split
  · exact .refl s
  · exact ⟨_, _, _, rfl⟩

theorem sendMsg_onlyMessages (node kind : Nat) (body : List Byte) : OnlyMessages s (s.sendMsg node kind body) := by
  unfold State.sendMsg
  simp only
  split
  · exact .trans ⟨_, _, _, rfl⟩ (sendLink_onlyMessages _ _ _)
  · exact ⟨_, _, _, rfl⟩

theorem sendCompl_onlyMessages (node region kind launch cause : Nat) (value : Word) :
    OnlyMessages s (s.sendCompl node region kind launch cause value) := by
  unfold State.sendCompl
  exact .trans ⟨_, _, _, rfl⟩ (sendMsg_onlyMessages _ _ _ _)

/-- Several messages are messages. -/
theorem onlyMessages_foldl {α : Type} (f : State → α → State) (hf : ∀ s x, OnlyMessages s (f s x)) (l : List α) :
    OnlyMessages s (l.foldl f s) := by
  induction l generalizing s with
  | nil => exact .refl s
  | cons x l ih => exact .trans (hf s x) (ih _)

/-- The causes that stop their context (R233). -/
def stopsContext (cause : Nat) : Bool := cause = 0x2C1 || cause = 0x380 || cause = 0x382 || cause = 0x383

/-- FLG of a fault's record (R231). -/
def flagsOf (f : Flt) : Nat :=
  (f.stop || stopsContext f.cause).toNat + 2 * (f.cause = 0x106 : Bool).toNat + 4 * (hostCopied f).toNat

/-- The record of a fault under a sequence number, with its owner's launch number (R231). -/
def recordOfFault (f : Flt) (seq launch : Nat) : Record :=
  .fault f.place.fields.1 seq f.cause f.place.fields.2.1 (flagsOf f) f.place.fields.2.2.1 f.place.fields.2.2.2.1
    f.place.fields.2.2.2.2 f.ctx f.tag f.addr f.detail launch

/-- The home of a fault's record (R230). -/
def recordHome (f : Flt) (owner : Option Ctx) : Nat :=
  match owner with
  | some c => c.home
  | none => f.place.region

/-- The launch number in a fault's record; zero where it has no owner (R231). -/
def recordLaunch (owner : Option Ctx) : Nat :=
  match owner with
  | some c => c.launch
  | none => 0

/-- The machine with a fault's record on its way, before its context stops: everything else but messages is as it was. -/
def Recorded (s u : State) (f : Flt) (owner : Option Ctx) : Prop :=
  OnlyMessages (s.postRecord (recordHome f owner)
    (recordOfFault f (lookD 0 f.place.fields.1 s.seqs) (recordLaunch owner)) none) u

/-- The copies of a fault that go to hosts (R231). -/
def copiedToHosts (w : State) (f : Flt) (owner : Option Ctx) : State :=
  if hostCopied f then
    (match owner with
      | some c => (hostNode w.ctxs w.ctxs.length c).toList
      | none => w.tables.privileged).foldl
      (fun s h => s.sendCompl h (recordHome f owner) 1 (recordLaunch owner) f.cause f.detail) w
  else w

theorem copiedToHosts_onlyMessages (f : Flt) (owner : Option Ctx) : OnlyMessages s (copiedToHosts s f owner) := by
  unfold copiedToHosts
  split
  · exact onlyMessages_foldl _ _ (fun s x => sendCompl_onlyMessages s _ _ _ _ _ _) _
  · exact .refl _

/-- Recording a fault, step by step: the sequence number, the record, the copies, the stop (R230 to R233). -/
theorem recordFault_eq (f : Flt) (owner : Option Ctx) :
    s.recordFault f owner =
      let u := copiedToHosts ((s.takeSeq f.place.fields.1).2.postRecord (recordHome f owner)
        (recordOfFault f (lookD 0 f.place.fields.1 s.seqs) (recordLaunch owner)) none) f owner
      if stopsContext f.cause then u.stopCtx f.ctx else u := by
  cases owner <;> rfl

/-- Taking an exception records it, and stops its context where the cause does so (R231, R233). -/
theorem recordFault_recorded (f : Flt) (owner : Option Ctx) : ∃ u, Recorded s u f owner ∧
    s.recordFault f owner = if stopsContext f.cause then u.stopCtx f.ctx else u :=
  ⟨_, .trans ⟨_, _, _, rfl⟩ (copiedToHosts_onlyMessages _ f owner), recordFault_eq s f owner⟩

variable {s} {u : State} {f : Flt} {owner : Option Ctx}

theorem Recorded.ctxs (h : Recorded s u f owner) : u.ctxs = s.ctxs := by obtain ⟨_, _, _, rfl⟩ := h; rfl
theorem Recorded.ctiles (h : Recorded s u f owner) : u.ctiles = s.ctiles := by obtain ⟨_, _, _, rfl⟩ := h; rfl
theorem Recorded.mtiles (h : Recorded s u f owner) : u.mtiles = s.mtiles := by obtain ⟨_, _, _, rfl⟩ := h; rfl
theorem Recorded.main (h : Recorded s u f owner) : u.main = s.main := by obtain ⟨_, _, _, rfl⟩ := h; rfl

/-- The region of a machine whose record is on its way. -/
theorem Recorded.region (h : Recorded s u f owner) (k : Nat) : u.region k =
    if k = recordHome f owner then
      { s.region k with inbound := (s.region k).inbound ++
          [⟨recordOfFault f (lookD 0 f.place.fields.1 s.seqs) (recordLaunch owner), none⟩] }
    else s.region k := by
  obtain ⟨_, _, _, rfl⟩ := h
  show (s.postRecord _ _ none).region k = _
  rw [State.postRecord, State.region_setRegion]
  split
  · subst k; rfl
  · rfl

theorem Recorded.bctx (h : Recorded s u f owner) (r bc : Nat) : u.bctx r bc = s.bctx r bc := by
  unfold State.bctx
  rw [h.region]
  split <;> rfl

/-- The record of an owned fault goes to its owner's home (R230). -/
theorem Recorded.logged {c : Ctx} (h : Recorded s u f (some c)) :
    Logged s u c.home (recordOfFault f (lookD 0 f.place.fields.1 s.seqs) c.launch) := by
  unfold Logged
  rw [h.region]
  simp [recordHome, recordLaunch]

/-- A lookup by launch number after a change that keeps launch numbers. -/
theorem launched_mapCtx (s : State) (ln k : Nat) (g : Ctx → Ctx) (hg : ∀ c, (g c).launch = c.launch) :
    (s.mapCtx ln g).launched? k = (s.launched? k).map fun c => if c.launch = ln then g c else c := by
  unfold State.launched?
  rw [State.mapCtx_ctxs, List.find?_map]
  congr 1
  congr 1
  funext c
  simp only [Function.comp_apply]
  split <;> simp [hg]

/-- A marked context waits to be Stopped (R233). -/
theorem markCtx_markedToStop {c : Ctx} (h : s.launched? c.launch = some c) :
    MarkedToStop (s.markCtx c.launch 0 none true false) c := by
  unfold State.markCtx MarkedToStop
  rw [launched_mapCtx _ _ _ _ (by simp), h]
  simp

/-- A stopping fault marks its running context (R233). -/
theorem stopCtx_of_running {c : Ctx} (h : s.ctx? c.num = some c) (hr : c.st = .running) :
    s.stopCtx c.num = s.markCtx c.launch 0 none true false := by
  simp only [State.stopCtx, h, hr]

/-- The stop of a context changes the contexts alone. -/
theorem stopCtx_onlyCtxs (s : State) (k : Nat) : ∃ l, s.stopCtx k = { s with ctxs := l } := by
  unfold State.stopCtx
  split
  · split
    · exact ⟨_, rfl⟩
    · exact ⟨_, rfl⟩
    · exact ⟨_, rfl⟩
    · exact ⟨_, rfl⟩
    · exact ⟨s.ctxs, rfl⟩
  · exact ⟨s.ctxs, rfl⟩

@[simp] theorem stopCtx_ctiles (s : State) (k : Nat) : (s.stopCtx k).ctiles = s.ctiles := by
  obtain ⟨l, h⟩ := stopCtx_onlyCtxs s k; rw [h]
@[simp] theorem stopCtx_mtiles (s : State) (k : Nat) : (s.stopCtx k).mtiles = s.mtiles := by
  obtain ⟨l, h⟩ := stopCtx_onlyCtxs s k; rw [h]
@[simp] theorem stopCtx_main (s : State) (k : Nat) : (s.stopCtx k).main = s.main := by
  obtain ⟨l, h⟩ := stopCtx_onlyCtxs s k; rw [h]
@[simp] theorem stopCtx_regions (s : State) (k : Nat) : (s.stopCtx k).regions = s.regions := by
  obtain ⟨l, h⟩ := stopCtx_onlyCtxs s k; rw [h]
@[simp] theorem stopCtx_bctx (s : State) (k r bc : Nat) : (s.stopCtx k).bctx r bc = s.bctx r bc := by
  obtain ⟨l, h⟩ := stopCtx_onlyCtxs s k; rw [h]; rfl

/-- A view of a table's value that a change of every value keeps. -/
theorem lookD_map_view {κ α β : Type} [DecidableEq κ] (v : α → β) (g : α → α) (hg : ∀ a, v (g a) = v a) (d : α) (k : κ)
    (l : List (κ × α)) : v (lookD d k (l.map fun x => (x.1, g x.2))) = v (lookD d k l) := by
  unfold lookD
  rw [look_map fun _ => g]
  cases look k l <;> simp [hg]

/-- The records on their way to a region, and its block contexts. -/
def recordsAndBlocks (g : Region) : List Record × List BlockCtx := (g.inbound.map (·.record), g.bcs)

/-- Every region's inbound list changed by a function that keeps the records. -/
theorem recordsAndBlocks_mapInbound (q : Inbound → Inbound) (hq : ∀ i, (q i).record = i.record) (k : Nat)
    (l : List (Nat × Region)) :
    recordsAndBlocks (lookD Region.reset k (l.map fun x => (x.1, { x.2 with inbound := x.2.inbound.map q }))) =
      recordsAndBlocks (lookD Region.reset k l) := by
  refine lookD_map_view recordsAndBlocks (fun g : Region => { g with inbound := g.inbound.map q }) (fun g => ?_) _ k l
  simp [recordsAndBlocks, hq]

/-- Dropping the operations of a block leaves every region's records and block contexts. -/
theorem recordsAndBlocks_dropBlockOps (s : State) (r bc : Nat) (keep : Bool) (k : Nat) :
    recordsAndBlocks ((s.dropBlockOps r bc keep).region k) = recordsAndBlocks (s.region k) := by
  refine (recordsAndBlocks_mapInbound _ (fun i => ?_) k _).trans ?_
  · split <;> rfl
  · rw [← State.region, State.region_setRegion]
    split
    · subst k; rfl
    · rfl

/-- An operation of a block context. -/
def opOfBlock (r bc : Nat) (op : Issued) : Bool :=
  match op.site with
  | .block r' b' _ => r' = r && b' = bc
  | .tile _ => false

/-- A context whose waiting LAUNCH is dropped: one that waits for its grant ends (R287). -/
def dropRequest (mine : Issued → Bool) (c : Ctx) : Ctx :=
  if c.st = .waiting && c.req.any mine then { c with st := .ended, req := none }
  else if c.req.any mine then { c with req := none } else c

theorem dropBlockOps_ctxs (s : State) (r bc : Nat) (keep : Bool) :
    (s.dropBlockOps r bc keep).ctxs = s.ctxs.map (dropRequest (opOfBlock r bc)) := rfl

@[simp] theorem dropRequest_launch (mine : Issued → Bool) (c : Ctx) : (dropRequest mine c).launch = c.launch := by
  unfold dropRequest; split <;> [rfl; (split <;> rfl)]

@[simp] theorem dropRequest_num (mine : Issued → Bool) (c : Ctx) : (dropRequest mine c).num = c.num := by
  unfold dropRequest; split <;> [rfl; (split <;> rfl)]

@[simp] theorem dropRequest_mode (mine : Issued → Bool) (c : Ctx) : (dropRequest mine c).mode = c.mode := by
  unfold dropRequest; split <;> [rfl; (split <;> rfl)]

/-- A context that does not wait for its grant keeps its state. -/
theorem dropRequest_st {mine : Issued → Bool} {c : Ctx} (h : c.st ≠ .waiting) : (dropRequest mine c).st = c.st := by
  unfold dropRequest
  rw [if_neg (by simp [h])]
  split <;> rfl

/-- Dropping requests does not change which contexts are live. -/
theorem dropRequest_live (mine : Issued → Bool) (c : Ctx) :
    ((dropRequest mine c).st != .ended && (dropRequest mine c).st != .waiting) = (c.st != .ended && c.st != .waiting) := by
  by_cases h : c.st = .waiting
  · unfold dropRequest
    split
    · simp [h]
    · split <;> simp
  · rw [dropRequest_st h]

/-- A live context by its number after a block's operations have been dropped. -/
theorem ctx_dropBlockOps (s : State) (r bc : Nat) (keep : Bool) (k : Nat) :
    (s.dropBlockOps r bc keep).ctx? k = (s.ctx? k).map (dropRequest (opOfBlock r bc)) := by
  unfold State.ctx?
  rw [dropBlockOps_ctxs, List.find?_map]
  congr 2
  funext c
  simp only [Function.comp_apply, dropRequest_num, Bool.and_assoc, dropRequest_live]

/-- A context by its launch number after a block's operations have been dropped. -/
theorem launched_dropBlockOps (s : State) (r bc : Nat) (keep : Bool) (k : Nat) :
    (s.dropBlockOps r bc keep).launched? k = (s.launched? k).map (dropRequest (opOfBlock r bc)) := by
  unfold State.launched?
  rw [dropBlockOps_ctxs, List.find?_map]
  congr 2
  funext c
  simp only [Function.comp_apply, dropRequest_launch]

/-- Writing a block context leaves every region's records. -/
theorem records_setBctx (s : State) (r bc : Nat) (x : BlockCtx) (k : Nat) :
    ((s.setBctx r bc x).region k).inbound = (s.region k).inbound := by
  unfold State.setBctx
  rw [State.region_setRegion]
  split
  · subst k; rfl
  · rfl

/-- Stopping a block context leaves the records on their way. -/
theorem records_stopBlock (s : State) (r bc k : Nat) :
    ((s.stopBlock r bc).region k).inbound.map (·.record) = (s.region k).inbound.map (·.record) := by
  unfold State.stopBlock
  simp only [records_setBctx]
  exact congrArg Prod.fst (recordsAndBlocks_dropBlockOps s r bc false k)

theorem stopBlock_ctiles (s : State) (r bc : Nat) : (s.stopBlock r bc).ctiles = s.ctiles := rfl

theorem stopBlock_cells (s : State) (r bc : Nat) : (s.stopBlock r bc).main.cells = s.main.cells := rfl

theorem ctx_stopBlock (s : State) (r bc k : Nat) :
    (s.stopBlock r bc).ctx? k = (s.ctx? k).map (dropRequest (opOfBlock r bc)) := ctx_dropBlockOps s r bc false k

theorem launched_stopBlock (s : State) (r bc k : Nat) :
    (s.stopBlock r bc).launched? k = (s.launched? k).map (dropRequest (opOfBlock r bc)) := launched_dropBlockOps s r bc false k

/-- A block context that runs a block is one of its region's. -/
theorem bctx_lt_of_block {s : State} {r bc : Nat} {b : Block} (h : s.block? r bc = some b) :
    bc < (s.region r).bcs.length := by
  by_contra hlt
  have : s.bctx r bc = BlockCtx.reset := by
    unfold State.bctx nth
    rw [List.getElem?_eq_none (by omega)]
    rfl
  simp [State.block?, this, BlockCtx.reset] at h

/-- A stopped block context is stopped (R45). -/
theorem stopBlock_stopped {s : State} {r bc : Nat} (h : bc < (s.region r).bcs.length) :
    ((s.stopBlock r bc).bctx r bc).st = .stopped := by
  have hb : ((s.dropBlockOps r bc false).region r).bcs = (s.region r).bcs :=
    congrArg Prod.snd (recordsAndBlocks_dropBlockOps s r bc false r)
  unfold State.stopBlock
  simp only
  rw [State.bctx_setBctx _ _ _ _ _ _ (by rw [hb]; exact h), if_pos ⟨rfl, rfl⟩]

end Sys2Proof.Proofs
end

section

/-!
What a fault of an operation does: the record at its context's home, and the stop of its block (R45, R230 to R233, R332).
-/

namespace Sys2Proof.Proofs

open Sys2Proof Sys2Proof.Machine Sys2Proof.Claims

variable {s : State} {op : Issued} {n : Niw} {c : Ctx} {f : Flt}

/-- An exception that stops no context is a record of its owner (R231). -/
theorem takeFault_recorded (h : s.ctx? f.ctx = some c) (hf : stopsContext f.cause = false) :
    Recorded s (s.takeFault f) f (some c) := by
  obtain ⟨u, hu, he⟩ := recordFault_recorded s f (some c)
  rw [State.takeFault, h, he, hf]
  exact hu

theorem stopsContext_of_plain {k : Nat} (h : Plain k) : stopsContext k = false := by
  obtain ⟨-, h1, h2, h3, h4⟩ := h
  have : k ≠ 0x2C1 := fun e => h1 (by omega)
  simp [stopsContext, this, h2, h3, h4]

/-- A plain cause of the machine's own is copied to no host. -/
theorem hostCopied_of_plain (h : Plain f.cause) (hh : f.fromHost = false) : hostCopied f = false := by
  obtain ⟨h0, h1, h2, h3, h4⟩ := h
  have ha : f.cause ≠ 0x2C1 := fun e => h1 (by omega)
  have hb : f.cause ≠ 0x2C2 := fun e => h1 (by omega)
  simp [hostCopied, hh, h0, ha, hb, h2, h3, h4]

/-- FLG of a plain fault (R231). -/
theorem flagsOf_plain (h : Plain f.cause) (hh : f.fromHost = false) :
    flagsOf f = f.stop.toNat + if f.cause = 0x106 then 2 else 0 := by
  rw [flagsOf, stopsContext_of_plain h, hostCopied_of_plain h hh]
  split <;> simp [*]

/-- An operation of a tile runs in no block. -/
theorem inBlock_of_tile {t : TileId} (h : op.site = .tile t) : op.inBlock = none := by
  simp [Issued.inBlock, h]

/-- An unreleased operation of a block runs in it. -/
theorem inBlock_of_block {r bc : Nat} {b : Block} (h : InBlock s op r bc b) : op.inBlock = some (r, bc) := by
  obtain ⟨⟨k, hs⟩, hr, -⟩ := h
  simp [Issued.inBlock, hs, hr]

theorem place_of_tile {t : TileId} (h : op.site = .tile t) : op.place = .tile t := by simp [Issued.place, h]

theorem place_of_block {r bc : Nat} {b : Block} (h : InBlock s op r bc b) : op.place = .control r := by
  obtain ⟨⟨k, hs⟩, -, -⟩ := h
  simp [Issued.place, hs]

/-- The fault that an operation raises at its own element. -/
def faultOf (op : Issued) (cause : Nat) (addr detail : Word) : Flt :=
  ⟨cause, op.place, op.ctx, op.tag, addr, detail, op.inBlock.isSome, false⟩

/-- A fault of a fabric operation is only recorded (R232). -/
theorem opFault_tile {t : TileId} (h : op.site = .tile t) (cause : Nat) (addr detail : Word) :
    s.opFault op cause addr detail = s.takeFault (faultOf op cause addr detail) := by
  simp [State.opFault, State.faultAt, faultOf, inBlock_of_tile h]

/-- A fault of a block's operation stops its block context too (R45, R232). -/
theorem opFault_block {r bc : Nat} (h : op.inBlock = some (r, bc)) (cause : Nat) (addr detail : Word) :
    s.opFault op cause addr detail = (s.takeFault (faultOf op cause addr detail)).stopBlock r bc := by
  simp [State.opFault, State.faultAt, faultOf, h]

/-- The block contexts of a recorded fault: a running one is still one of its region's. -/
theorem Recorded.bctx_lt {u : State} {o : Option Ctx} {r bc : Nat} {b : Block} (h : Recorded s u f o)
    (hb : s.block? r bc = some b) : bc < (u.region r).bcs.length := by
  have := bctx_lt_of_block hb
  rw [h.region]
  split <;> exact this

/-- Records that set out stay where a block stops. -/
theorem logged_stopBlock {u : State} {k r bc : Nat} {x : Record} (h : Logged s u k x) : Logged s (u.stopBlock r bc) k x := by
  unfold Logged
  rw [records_stopBlock]
  exact h

/-- Records that set out stay where a context stops. -/
theorem logged_stopCtx {u : State} {k j : Nat} {x : Record} (h : Logged s u k x) : Logged s (u.stopCtx j) k x := by
  obtain ⟨l, he⟩ := stopCtx_onlyCtxs u j
  rw [he]
  exact h

/-- The cause of a TRAP is plain (R332). -/
theorem plain_trap (k : Nat) (hk : k < 64) : Plain (0x3C0 + k) := by
  unfold Plain
  omega

/-- TRAP's fault. -/
def trapFault (op : Issued) (n : Niw) : Flt :=
  ⟨0x3C0 + n.imm.toNat % 64, op.place, op.ctx, op.ta.tag, op.ta.word, if n.ari = 2 then op.tb.word else 0,
    n.imm.getLsbD 6 || op.inBlock.isSome, n.imm.getLsbD 6⟩

/-- FLG of TRAP's record: bit 0 where something stops, bit 2 where the copy goes to the host (R332, log 51). -/
theorem flagsOf_trap (op : Issued) (n : Niw) : flagsOf (trapFault op n) =
    if n.imm.getLsbD 6 then 5 else op.inBlock.isSome.toNat := by
  have hk : n.imm.toNat % 64 < 64 := Nat.mod_lt _ (by decide)
  have hp : Plain (trapFault op n).cause := plain_trap _ hk
  have h106 : (trapFault op n).cause ≠ 0x106 := by show 0x3C0 + n.imm.toNat % 64 ≠ 0x106; omega
  cases h6 : n.imm.getLsbD 6 with
  | false =>
    have hs : (trapFault op n).stop = op.inBlock.isSome := by simp only [trapFault, h6, Bool.false_or]
    rw [flagsOf_plain hp h6, if_neg h106, hs]
    simp
  | true =>
    have hc : hostCopied (trapFault op n) = true := by
      have : 0x3C0 + n.imm.toNat % 64 ≤ 0x3FF := by omega
      simp [hostCopied, trapFault, h6, this]
    have hs : (trapFault op n).stop = true := by simp only [trapFault, h6, Bool.true_or]
    rw [flagsOf, stopsContext_of_plain hp, hc, hs, decide_eq_false h106]
    rfl

/-- TRAP, where its slot b takes a scalar: the record, then what stops or goes on. -/
theorem exec_trap (h : Issues s op n) (hb : op.tb.isVec = false) :
    exec (.trap n) s = .next (
      let u := (after s op).takeFault (trapFault op n)
      let u := match op.inBlock with
        | some (r, bc) => u.stopBlock r bc
        | none => if n.imm.getLsbD 6 then u else u.emitVal op n op.ta.val true op.poisoned
      if n.imm.getLsbD 6 then u.stopCtx op.ctx else u) := by
  have hari : n.ari.toNat = 2 ↔ n.ari = 2 := by
    rw [← BitVec.toNat_inj]; rfl
  simp only [exec, execTrap, fire_of_issues h, scalars_of_all (ts := [op.tb]) (by simpa using hb), trapFault, hari,
    bits, Nat.pow_zero, Nat.div_one]
  rfl

/-- A running context that stops is marked, wherever its block has stopped before (R233). -/
theorem stopCtx_markedToStop {u : State} {d : Ctx} {mine : Issued → Bool} (hn : u.ctx? c.num = some d)
    (hl : u.launched? c.launch = some d) (hr : d.st = .running) (hd : d = c ∨ d = dropRequest mine c) :
    MarkedToStop (u.stopCtx c.num) c := by
  have hnum : d.num = c.num := by rcases hd with rfl | rfl <;> simp
  have hlaunch : d.launch = c.launch := by rcases hd with rfl | rfl <;> simp
  have h := markCtx_markedToStop (s := u) (c := d) (by rw [hlaunch]; exact hl)
  rw [← hnum, stopCtx_of_running (by rw [hnum]; exact hn) hr]
  unfold MarkedToStop at h ⊢
  rw [← hlaunch]
  exact h

/-- The record of an operation's own fault, field by field (R231). -/
theorem recordOfFault_op (op : Issued) (cause : Nat) (addr detail : Word) (seq launch : Nat) (h : Plain cause) :
    recordOfFault (faultOf op cause addr detail) seq launch =
      .fault op.place.fields.1 seq cause op.place.fields.2.1 (op.inBlock.isSome.toNat + if cause = 0x106 then 2 else 0)
        op.place.fields.2.2.1 op.place.fields.2.2.2.1 op.place.fields.2.2.2.2 op.ctx op.tag addr detail launch := by
  unfold recordOfFault
  rw [flagsOf_plain h rfl]
  rfl

/-- What a fault of an operation and TRAP record and stop. -/
theorem faultsTaken : Claims.FaultsTaken := by
  unfold Claims.FaultsTaken
  refine ⟨fun s op c cause addr detail hc hp => ⟨fun t ht => ?_, fun r bc b hb => ?_⟩, fun s op n c hi hb hc => ?_⟩
  · have hrec := takeFault_recorded (f := faultOf op cause addr detail) hc (stopsContext_of_plain hp)
    rw [opFault_tile ht]
    refine ⟨hrec.ctxs, hrec.ctiles, hrec.mtiles, hrec.main, ?_⟩
    have := hrec.logged
    rw [recordOfFault_op op cause addr detail _ _ hp, inBlock_of_tile ht] at this
    simpa [faultOf, place_of_tile ht, Place.fields] using this
  · have hrec := takeFault_recorded (f := faultOf op cause addr detail) hc (stopsContext_of_plain hp)
    rw [opFault_block (inBlock_of_block hb)]
    refine ⟨stopBlock_stopped (hrec.bctx_lt hb.runs), hrec.ctiles, by rw [stopBlock_cells, hrec.main], ?_⟩
    have := logged_stopBlock (r := r) (bc := bc) hrec.logged
    rw [recordOfFault_op op cause addr detail _ _ hp, inBlock_of_block hb] at this
    have hflag : 1 + (if cause = 0x106 then 2 else 0) = if cause = 0x106 then 3 else 1 := by split <;> rfl
    simpa [faultOf, place_of_block hb, Place.fields, hflag] using this
  · have hk : n.imm.toNat % 64 < 64 := Nat.mod_lt _ (by decide)
    have hrec := takeFault_recorded (f := trapFault op n) (s := after s op) hc (stopsContext_of_plain (plain_trap _ hk))
    have hlog := hrec.logged
    rw [recordOfFault, flagsOf_trap] at hlog
    rw [exec_trap hi hb]
    refine ⟨fun t ht hs => ?_, fun t ht hs hr ha hn => ?_, fun r bc b hbl => ?_⟩
    · simp only [inBlock_of_tile ht, hs] at hlog ⊢
      exact ⟨_, rfl, hlog, hrec.ctxs, hrec.ctiles, hrec.mtiles, hrec.main⟩
    · simp only [inBlock_of_tile ht, hs, if_true] at hlog ⊢
      refine ⟨_, rfl, logged_stopCtx hlog, ?_, by rw [stopCtx_ctiles, hrec.ctiles], by rw [stopCtx_main, hrec.main]⟩
      rw [← hn]
      refine stopCtx_markedToStop (d := c) (mine := fun _ => false) ?_ ?_ hr (.inl rfl)
      · unfold State.ctx?; rw [hrec.ctxs]; exact ha.1
      · unfold State.launched?; rw [hrec.ctxs]; exact ha.2
    · have hin := inBlock_of_block hbl
      simp only [hin, Option.isSome_some, Bool.toNat_true] at hlog ⊢
      have hstop := stopBlock_stopped (hrec.bctx_lt hbl.runs)
      cases hs : n.imm.getLsbD 6 with
      | false =>
        simp only [hs, Bool.false_eq_true, if_false] at hlog ⊢
        exact ⟨_, rfl, hstop, logged_stopBlock hlog, by rw [stopBlock_ctiles, hrec.ctiles],
          by rw [stopBlock_cells, hrec.main], fun h => absurd h (by decide)⟩
      | true =>
        simp only [hs, if_true] at hlog ⊢
        refine ⟨_, rfl, by rw [stopCtx_bctx]; exact hstop, logged_stopCtx (logged_stopBlock hlog),
          by rw [stopCtx_ctiles, stopBlock_ctiles, hrec.ctiles],
          by rw [stopCtx_main, stopBlock_cells, hrec.main], fun _ hr ha hn => ?_⟩
        rw [← hn]
        refine stopCtx_markedToStop (d := dropRequest (opOfBlock r bc) c) ?_ ?_ ?_ (.inr rfl)
        · rw [ctx_stopBlock, State.ctx?, hrec.ctxs, ← State.ctx?, ha.1]; rfl
        · rw [launched_stopBlock, State.launched?, hrec.ctxs, ← State.launched?, ha.2]; rfl
        · rw [dropRequest_st (by simp [hr]), hr]

end Sys2Proof.Proofs
end

section

/-!
Machine checks and the thermal trip: a check is one record and the stop of its context (R231 to R233); the trip stops every
context and takes the ports down (R196).
-/

namespace Sys2Proof.Proofs

open Sys2Proof Sys2Proof.Machine Sys2Proof.Claims

variable {s : State} {c : Ctx} {f : Flt}

/-- A check of a running context is recorded, and the context stops (R233). -/
theorem takeFault_check (ha : Alive s c) (hr : c.st = .running) (hf : f.ctx = c.num) (hs : stopsContext f.cause = true) :
    MarkedToStop (s.takeFault f) c ∧ (s.takeFault f).main = s.main ∧
      Logged s (s.takeFault f) c.home (recordOfFault f (lookD 0 f.place.fields.1 s.seqs) c.launch) := by
  obtain ⟨u, hu, he⟩ := recordFault_recorded s f (some c)
  rw [State.takeFault, hf, ha.1, he, if_pos hs, hf]
  refine ⟨stopCtx_markedToStop (d := c) (mine := fun _ => false) ?_ ?_ hr (.inl rfl), by rw [stopCtx_main, hu.main],
    logged_stopCtx hu.logged⟩
  · rw [State.ctx?, hu.ctxs, ← State.ctx?, ha.1]
  · rw [State.launched?, hu.ctxs, ← State.launched?, ha.2]

/-- The contexts with a plane in a region that only one has a plane in. -/
theorem planesIn_of_active {r k : Nat} (ha : (s.region r).activeCtx = some k) (hs : (s.region r).shadow = none)
    (hv : (s.region r).reserved = none) : s.planesIn r = [k] := by
  simp [State.planesIn, ha, hs, hv, List.eraseDups_cons]

/-- One row of a memory tile replaced. -/
theorem line_setNth (m : MTile) (row i : Nat) (x : Line) (h : row < m.lines.length) :
    ({ m with lines := setNth m.lines row x } : MTile).line i = if i = row then x else m.line i := by
  unfold MTile.line
  rw [nth_setNth]
  by_cases hi : i = row <;> simp [hi, h]

/-- A port that the thermal trip takes down. -/
def portDown (s : State) (p : Nat) : State := s.setPort p { s.port p with up := false, replay := [], replays := [] }

/-- Ports taken down one after another are down, and the rest of the machine is as it was. -/
theorem foldl_portDown (l : List Nat) (s : State) : ∃ ps, l.foldl portDown s = { s with ports := ps } ∧
    (∀ p, p ∈ l ∨ (s.port p).up = false → ((l.foldl portDown s).port p).up = false) := by
  induction l generalizing s with
  | nil => exact ⟨s.ports, rfl, fun p hp => by simpa using hp⟩
  | cons q l ih =>
    obtain ⟨ps, he, hp⟩ := ih (portDown s q)
    refine ⟨ps, by rw [List.foldl_cons, he]; rfl, fun p h => hp p ?_⟩
    by_cases hq : p = q
    · subst hq
      right
      simp [portDown]
    · rcases h with h | h
      · exact .inl ((List.mem_cons.1 h).resolve_left hq)
      · right
        rw [portDown, State.port_setPort, if_neg hq, h]

/-- Where launch numbers are distinct, a context stands under its own. -/
theorem launched_of_mem {d : Ctx} (hn : (s.ctxs.map (·.launch)).Nodup) (hd : d ∈ s.ctxs) : s.launched? d.launch = some d := by
  unfold State.launched?
  cases h : s.ctxs.find? fun x => x.launch = d.launch with
  | none => exact absurd (List.find?_eq_none.1 h d hd) (by simp)
  | some x =>
    have hx : x.launch = d.launch := by simpa using List.find?_some h
    rw [List.inj_on_of_nodup_map hn (List.mem_of_find?_eq_some h) hd hx]

/-- What `ctx?` finds is live and has the number. -/
theorem ctx_some {k : Nat} {e : Ctx} (h : s.ctx? k = some e) :
    e ∈ s.ctxs ∧ e.num = k ∧ e.st ≠ .ended ∧ e.st ≠ .waiting := by
  have hp := List.find?_some h
  simp only [Bool.and_eq_true, decide_eq_true_eq, bne_iff_ne, and_assoc] at hp
  exact ⟨List.mem_of_find?_eq_some h, hp⟩

/-- A live context is found by its number, where no other live one has it. -/
theorem ctx_of_unique {d : Ctx} (hd : d ∈ s.ctxs) (he : d.st ≠ .ended) (hw : d.st ≠ .waiting)
    (hu : ∀ x ∈ s.ctxs, x.num = d.num → x = d ∨ x.st = .ended ∨ x.st = .waiting) : s.ctx? d.num = some d := by
  cases h : s.ctx? d.num with
  | none =>
    have := List.find?_eq_none.1 h d hd
    simp [he, hw] at this
  | some x =>
    obtain ⟨hx, hn, hxe, hxw⟩ := ctx_some h
    rcases hu x hx hn with rfl | h | h
    · rfl
    · exact absurd h hxe
    · exact absurd h hxw

/-- The change that a stop makes to a live context (R233). -/
structure StopChange (g : Ctx → Ctx) : Prop where
  launch : ∀ d, (g d).launch = d.launch
  num : ∀ d, (g d).num = d.num
  live : ∀ d, d.st ≠ .ended → d.st ≠ .waiting → (g d).st ≠ .ended ∧ (g d).st ≠ .waiting

/-- A context marked to be stopped (R233). -/
def markedStop (s : State) (c : Ctx) : Ctx :=
  { c with st := .freezing, round := 0, issuer := none, markers := s.elements c, quiet := s.elements c,
           stopAfter := c.stopAfter || true, endAfter := c.endAfter || false, gangMark := false }

/-- A marked context that is to be stopped once it is quiet (R233). -/
def stoppedAfter (c : Ctx) : Ctx := { c with stopAfter := true }

/-- A frozen context that becomes Stopped at once (R233). -/
def stoppedNow (c : Ctx) : Ctx := { c with st := .stopped }

theorem stopChange_markedStop (s : State) : StopChange (markedStop s) :=
  ⟨fun _ => rfl, fun _ => rfl, fun _ _ _ => ⟨fun h => CState.noConfusion h, fun h => CState.noConfusion h⟩⟩

theorem stopChange_stoppedAfter : StopChange stoppedAfter := ⟨fun _ => rfl, fun _ => rfl, fun _ he hw => ⟨he, hw⟩⟩

theorem stopChange_stoppedNow : StopChange stoppedNow :=
  ⟨fun _ => rfl, fun _ => rfl, fun _ _ _ => ⟨fun h => CState.noConfusion h, fun h => CState.noConfusion h⟩⟩

/-- The stop of a context number changes the context that it finds, or nothing (R233). -/
theorem stopCtx_cases (s : State) (k : Nat) :
    s.stopCtx k = s ∨ ∃ e g, s.ctx? k = some e ∧ StopChange g ∧ s.stopCtx k = s.mapCtx e.launch g := by
  unfold State.stopCtx
  cases h : s.ctx? k with
  | none => exact .inl rfl
  | some e =>
    simp only
    cases hst : e.st with
    | running | loading => exact .inr ⟨e, markedStop s, rfl, stopChange_markedStop s, rfl⟩
    | freezing => exact .inr ⟨e, stoppedAfter, rfl, stopChange_stoppedAfter, rfl⟩
    | frozen => exact .inr ⟨e, stoppedNow, rfl, stopChange_stoppedNow, rfl⟩
    | waiting | stopped | ended => exact .inl rfl

/-- The launch numbers stay through a stop. -/
theorem launches_stopCtx (s : State) (k : Nat) : (s.stopCtx k).ctxs.map (·.launch) = s.ctxs.map (·.launch) := by
  rcases stopCtx_cases s k with h | ⟨e, g, -, hg, h⟩
  · rw [h]
  · rw [h, State.mapCtx_ctxs, List.map_map]
    refine List.map_congr_left fun d _ => ?_
    simp only [Function.comp_apply]
    split <;> simp [hg.launch]

/-- A context of another number than the one that stops stays as it is, where launch numbers are distinct. -/
theorem mem_stopCtx_of_ne {d : Ctx} {k : Nat} (hn : (s.ctxs.map (·.launch)).Nodup) (hd : d ∈ s.ctxs)
    (h : d.num ≠ k ∨ d.st = .ended ∨ d.st = .waiting) : d ∈ (s.stopCtx k).ctxs := by
  rcases stopCtx_cases s k with he | ⟨e, g, hc, hg, he⟩
  · rw [he]; exact hd
  · obtain ⟨hm, hk, hne, hnw⟩ := ctx_some hc
    have hl : d.launch ≠ e.launch := by
      intro hl
      have hde := List.inj_on_of_nodup_map hn hd hm hl
      subst hde
      rcases h with h | h | h
      · exact h hk
      · exact hne h
      · exact hnw h
    rw [he, State.mapCtx_ctxs]
    exact List.mem_map.2 ⟨d, hd, if_neg hl⟩

/-- A context on its way to be stopped: marked, or, before the trip has reached it, still running. -/
structure Doomed (u : State) (c : Ctx) (reached : Prop) : Prop where
  nodup : (u.ctxs.map (·.launch)).Nodup
  unique : ∀ d ∈ u.ctxs, d.num = c.num → d.launch = c.launch ∨ d.st = .ended ∨ d.st = .waiting
  state : ∃ y ∈ u.ctxs, y.launch = c.launch ∧ y.num = c.num ∧
    ((y.st = .freezing ∧ y.stopAfter = true ∧ y.round = 0) ∨ (y.st = .running ∧ ¬ reached))

variable {u : State}

/-- A context number that names one live context at most does so after a stop. -/
theorem unique_stopCtx (k : Nat) (hn : (u.ctxs.map (·.launch)).Nodup)
    (h : ∀ d ∈ u.ctxs, d.num = c.num → d.launch = c.launch ∨ d.st = .ended ∨ d.st = .waiting) :
    ∀ d ∈ (u.stopCtx k).ctxs, d.num = c.num → d.launch = c.launch ∨ d.st = .ended ∨ d.st = .waiting := by
  rcases stopCtx_cases u k with he | ⟨e, g, hc, hg, he⟩
  · rwa [he]
  · obtain ⟨hm, -, hne, hnw⟩ := ctx_some hc
    intro d hd hnum
    rw [he, State.mapCtx_ctxs, List.mem_map] at hd
    obtain ⟨x, hx, rfl⟩ := hd
    split at hnum
    · next hl =>
      obtain rfl := List.inj_on_of_nodup_map hn hx hm hl
      rw [if_pos hl, hg.launch]
      rw [hg.num] at hnum
      exact .inl (((h x hx hnum).resolve_right fun h => h.elim hne hnw))
    · next hl =>
      rw [if_neg hl]
      exact h x hx hnum

/-- A stop of a context's own number reaches it; a stop of any other number leaves it as it is. -/
theorem Doomed.stopCtx {reached : Prop} (h : Doomed u c reached) (k : Nat) :
    Doomed (u.stopCtx k) c (reached ∨ k = c.num) := by
  obtain ⟨hn, hu, y, hy, hyl, hyn, hst⟩ := h
  refine ⟨by rw [launches_stopCtx]; exact hn, unique_stopCtx k hn hu, ?_⟩
  by_cases hk : k = c.num
  · have hlive : y.st ≠ .ended ∧ y.st ≠ .waiting := by
      rcases hst with ⟨h, -, -⟩ | ⟨h, -⟩ <;> simp [h]
    have hfind : u.ctx? k = some y := by
      rw [hk, ← hyn]
      refine ctx_of_unique hy hlive.1 hlive.2 fun x hx hxn => ?_
      exact (hu x hx (hxn.trans hyn)).imp_left fun hl => List.inj_on_of_nodup_map hn hx hy (hl.trans hyl.symm)
    have hmem (g : Ctx → Ctx) : g y ∈ (u.mapCtx y.launch g).ctxs := by
      rw [State.mapCtx_ctxs]
      exact List.mem_map.2 ⟨y, hy, if_pos rfl⟩
    rcases hst with ⟨hf, hs, hr⟩ | ⟨hf, -⟩
    · have he : u.stopCtx k = u.mapCtx y.launch stoppedAfter := by simp only [State.stopCtx, hfind, hf]; rfl
      exact ⟨stoppedAfter y, by rw [he]; exact hmem _, hyl, hyn, .inl ⟨hf, rfl, hr⟩⟩
    · have he : u.stopCtx k = u.mapCtx y.launch (markedStop u) := by simp only [State.stopCtx, hfind, hf]; rfl
      exact ⟨markedStop u y, by rw [he]; exact hmem _, hyl, hyn, .inl ⟨rfl, Bool.or_true _, rfl⟩⟩
  · refine ⟨y, mem_stopCtx_of_ne hn hy (.inl (by rw [hyn]; exact fun h => hk h.symm)), hyl, hyn, ?_⟩
    exact hst.imp_right fun ⟨hr, hnr⟩ => ⟨hr, fun h => h.elim hnr hk⟩

/-- The stops of the thermal trip, one after another. -/
theorem Doomed.foldl {reached : Prop} (l : List Ctx) (h : Doomed u c reached) :
    Doomed (l.foldl (fun s d => s.stopCtx d.num) u) c (reached ∨ ∃ d ∈ l, d.num = c.num) := by
  induction l generalizing u reached with
  | nil => simpa using h
  | cons d l ih =>
    have := ih (h.stopCtx d.num)
    simpa [or_assoc] using this

/-- A waiting context stays as it is through the stops of the thermal trip. -/
theorem mem_foldl_stopCtx_of_waiting {d : Ctx} (l : List Ctx) (hn : (u.ctxs.map (·.launch)).Nodup) (hd : d ∈ u.ctxs)
    (hw : d.st = .waiting) : d ∈ (l.foldl (fun s x => s.stopCtx x.num) u).ctxs := by
  induction l generalizing u with
  | nil => exact hd
  | cons x l ih => exact ih (by rw [launches_stopCtx]; exact hn) (mem_stopCtx_of_ne hn hd (.inr (.inr hw)))

/-- The stops of the thermal trip change the contexts alone. -/
theorem foldl_stopCtx_onlyCtxs (l : List Ctx) (u : State) :
    ∃ cs, l.foldl (fun s d => s.stopCtx d.num) u = { u with ctxs := cs } := by
  induction l generalizing u with
  | nil => exact ⟨u.ctxs, rfl⟩
  | cons d l ih =>
    obtain ⟨cs, h⟩ := stopCtx_onlyCtxs u d.num
    obtain ⟨cs', h'⟩ := ih (u.stopCtx d.num)
    exact ⟨cs', by rw [List.foldl_cons, h', h]⟩

/-- A launch that waits at the thermal trip is granted no more (R196, log 76). -/
def tripWaiting (c : Ctx) : Ctx := if c.st = .waiting then { c with stopAfter := true } else c

/-- The contexts after the stops of the thermal trip. -/
def tripped (s : State) : State :=
  (s.ctxs.filter fun c => c.st != .ended && c.st != .waiting).foldl (fun s c => s.stopCtx c.num) s

theorem exec_thermalTrip (s : State) (d : Die) : exec (.thermalTrip d) s =
    .next ((List.range 16).foldl portDown { tripped s with ctxs := (tripped s).ctxs.map tripWaiting }) := rfl

theorem tripWaiting_launch (c : Ctx) : (tripWaiting c).launch = c.launch := by unfold tripWaiting; split <;> rfl

theorem perm_insertBy {α : Type} (lt : α → α → Bool) (a : α) (l : List α) : (insertBy lt a l).Perm (a :: l) := by
  induction l with
  | nil => exact .refl _
  | cons b l ih =>
    unfold insertBy
    split
    · exact .refl _
    · exact (ih.cons b).trans (.swap a b l)

/-- Sorting keeps the elements. -/
theorem perm_sortBy {α : Type} (lt : α → α → Bool) (l : List α) : (sortBy lt l).Perm l := by
  induction l with
  | nil => exact .refl _
  | cons a l ih => exact (perm_insertBy _ a _).trans (ih.cons a)

/-- The arbiter passes over a launch that a trip has stopped. -/
theorem not_mem_arbiterOrder {d : Ctx} (h : d.stopAfter = true) : d ∉ u.arbiterOrder := by
  intro hd
  have := (perm_sortBy _ _).mem_iff.1 hd
  simp [h] at this

/-- The thermal trip (R196). -/
theorem thermalTrip_stops (s : State) (d : Die) : ∃ u : State, exec (.thermalTrip d) s = .next u ∧
    (∀ p, p < 16 → (u.port p).up = false) ∧
    (∀ c, Alive s c → (s.ctxs.map (·.launch)).Nodup →
      (∀ d ∈ s.ctxs, d.num = c.num → d = c ∨ d.st = .ended ∨ d.st = .waiting) → c.st = .running → MarkedToStop u c) ∧
    ((s.ctxs.map (·.launch)).Nodup → ∀ c ∈ s.ctxs, c.st = .waiting → { c with stopAfter := true } ∈ u.ctxs ∧
      { c with stopAfter := true } ∉ u.arbiterOrder) ∧
    u.main = s.main ∧ u.ctiles = s.ctiles ∧ u.mtiles = s.mtiles := by
  obtain ⟨ps, hp, hdown⟩ := foldl_portDown (List.range 16) { tripped s with ctxs := (tripped s).ctxs.map tripWaiting }
  obtain ⟨cs, hcs⟩ : ∃ cs, tripped s = { s with ctxs := cs } := foldl_stopCtx_onlyCtxs _ s
  refine ⟨_, exec_thermalTrip s d, fun p h => hdown p (.inl (List.mem_range.2 h)), fun c ha hn hu hr => ?_,
    fun hn c hc hw => ⟨?_, not_mem_arbiterOrder rfl⟩, by rw [hp, hcs], by rw [hp, hcs], by rw [hp, hcs]⟩
  · have hc : c ∈ s.ctxs := (ctx_some ha.1).1
    have h0 : Doomed s c False :=
      ⟨hn, fun d hd hdn => (hu d hd hdn).imp_left fun h => by rw [h], c, hc, rfl, rfl, .inr ⟨hr, not_false⟩⟩
    obtain ⟨hn', -, y, hy, hyl, -, hst⟩ := h0.foldl (s.ctxs.filter fun c => c.st != .ended && c.st != .waiting)
    have hreach : False ∨ ∃ d ∈ s.ctxs.filter (fun c => c.st != .ended && c.st != .waiting), d.num = c.num :=
      .inr ⟨c, by simp [hc, hr], rfl⟩
    have hyst := hst.resolve_right fun h => h.2 hreach
    have hty : tripWaiting y = y := if_neg (by simp [hyst.1])
    refine ⟨y, ?_, hyst⟩
    rw [hp, ← hyl]
    refine launched_of_mem ?_ (List.mem_map.2 ⟨y, hy, hty⟩)
    simp only [List.map_map, Function.comp_def, tripWaiting_launch]
    exact hn'
  · rw [hp]
    exact List.mem_map.2 ⟨c, mem_foldl_stopCtx_of_waiting _ hn hc hw, if_pos hw⟩

/-- FLG of a machine check: the context stops, and the host gets a copy (R231, R233). -/
theorem flagsOf_check (h : f.cause = 0x380 ∨ f.cause = 0x382 ∨ f.cause = 0x383) : flagsOf f = 5 := by
  rcases h with h | h | h <;> simp [flagsOf, stopsContext, hostCopied, h]

theorem stopsContext_check {k : Nat} (h : k = 0x380 ∨ k = 0x382 ∨ k = 0x383) : stopsContext k = true := by
  rcases h with rfl | rfl | rfl <;> rfl

/-- A machine check of a running context, with the fields of its record. -/
theorem check_logged (ha : Alive s c) (hr : c.st = .running) (hf : f.ctx = c.num)
    (hk : f.cause = 0x380 ∨ f.cause = 0x382 ∨ f.cause = 0x383) :
    MarkedToStop (s.takeFault f) c ∧ (s.takeFault f).main = s.main ∧
      Logged s (s.takeFault f) c.home (.fault f.place.fields.1 (lookD 0 f.place.fields.1 s.seqs) f.cause f.place.fields.2.1 5
        f.place.fields.2.2.1 f.place.fields.2.2.2.1 f.place.fields.2.2.2.2 c.num f.tag f.addr f.detail c.launch) := by
  have h := takeFault_check ha hr hf (stopsContext_check hk)
  rwa [recordOfFault, flagsOf_check hk, hf] at h

/-- A memory tile's row marked bad by an error in it (R109). -/
def markedBad (m : MTile) (row : Nat) : MTile := { m with lines := setNth m.lines row { m.line row with bad := true } }

/-- The fault of an error in a speculative row (R109). -/
def badRowFault (t : TileId) (p : MPlane) : Flt := ⟨0x381, .tile t, p.ctx, 0, 0, 0, false, false⟩

/-- An error in a speculative row of a running plane marks the row and is recorded (R109). -/
theorem exec_speculativeRowError {t : TileId} {row : Nat} {p : MPlane} (hp : (s.mtile t).active = some p)
    (hlen : (s.mtile t).lines.length = (s.mtile t).win + (s.mtile t).spec) (hwin : (s.mtile t).win ≤ row)
    (hrow : row < (s.mtile t).win + (s.mtile t).spec) : exec (.speculativeRowError t row) s =
      .next ((s.setMtile t (markedBad (s.mtile t) row)).takeFault (badRowFault t p)) := by
  simp only [exec, execSpeculativeRowError, markedBad, badRowFault, hp, if_neg (Nat.not_le.2 hrow),
    if_neg (Nat.not_lt.2 hwin), hlen]

/-- What each machine check records and stops. -/
theorem machineChecks : Claims.MachineChecks := by
  unfold Claims.MachineChecks
  refine ⟨fun s c ha hr => ⟨fun pa => ?_, fun t off => ?_, fun t => ?_, fun r _ hact hsh hres => ?_⟩,
    fun s t row p c hp ha hc hlen hwin hrow => ?_, fun s d => thermalTrip_stops s d⟩
  · obtain ⟨hm, hmain, hlog⟩ := check_logged (f := ⟨0x380, .channel (channelOf pa), c.num, 0, word (pa / 16 * 16),
      word (channelOf pa), true, false⟩) ha hr rfl (.inl rfl)
    exact ⟨_, _, _, _, _, _, rfl, hm, hmain, hlog⟩
  · obtain ⟨hm, -, hlog⟩ := check_logged (f := ⟨0x380, .tile t, c.num, 0, word off, word (tileSrc t), true, false⟩) ha hr
      rfl (.inl rfl)
    exact ⟨_, _, rfl, hm, hlog⟩
  · obtain ⟨hm, hmain, hlog⟩ := check_logged (f := ⟨0x382, .tile t, c.num, 0, 0, 0, true, false⟩) ha hr rfl (.inr (.inl rfl))
    exact ⟨_, _, rfl, hm, hmain, hlog⟩
  · obtain ⟨hm, -, hlog⟩ := check_logged (f := ⟨0x383, .loader r, c.num, 0, 0, 0, true, false⟩) ha hr rfl (.inr (.inr rfl))
    refine ⟨_, _, ?_, hm, hlog⟩
    simp only [exec, execConfigurationMemoryEcc, planesIn_of_active hact hsh hres, List.foldl_cons, List.foldl_nil]
  · have hrec := takeFault_recorded (s := s.setMtile t (markedBad (s.mtile t) row)) (f := badRowFault t p) (hc ▸ ha.1) rfl
    have hm : (((s.setMtile t (markedBad (s.mtile t) row)).takeFault (badRowFault t p)).mtile t) = markedBad (s.mtile t) row := by
      rw [State.mtile, hrec.mtiles]
      exact State.mtile_setMtile_same ..
    have hlog := hrec.logged
    rw [recordOfFault, show flagsOf (badRowFault t p) = 0 from flagsOf_plain (show Plain 0x381 by unfold Plain; decide) rfl] at hlog
    have hline := fun i => line_setNth (s.mtile t) row i { (s.mtile t).line row with bad := true } (by omega)
    refine ⟨_, _, exec_speculativeRowError hp hlen hwin hrow, ?_, fun i hi => ?_, by rw [hm]; rfl, hrec.ctxs, hlog⟩
    · rw [hm]; exact (hline row).trans (if_pos rfl)
    · rw [hm]; exact (hline i).trans (if_neg hi)

/-- Settles O45: a fault is one record that changes nothing but its home's inbound list and messages, and a stop changes
only its context or its block. -/
theorem faultsAndChecks : Obligations.FaultsAndChecks := ⟨faultsTaken, machineChecks⟩

end Sys2Proof.Proofs
end

section

/-!
Values lane by lane: what the lanes of a result of `ofLanes` are, and what stage 5 and the float class make of each element
where none fails (R23, R60, R265).
-/

namespace Sys2Proof.Proofs

open Sys2Proof Sys2Proof.Machine Sys2Proof.Claims

theorem toNat_word (x : Nat) : (word x).toNat = x % 2 ^ 64 := BitVec.toNat_ofNat ..

theorem laneCount_pos (v : Value) : 0 < laneCount v := by unfold laneCount; split <;> decide

/-- A vector's lane, by its mask. -/
theorem laneAt_vector (ls : List Word) (m : BitVec 16) (i : Nat) :
    laneAt (.vector ls m) i = if m.getLsbD i then some (rawLane (.vector ls m) i).toNat else none := by
  simp [laneAt, rawLane, nth, List.getD]

/-- Lane `i` of a vector made lane by lane. -/
theorem rawLane_vector_range (f : Nat → Word) (m : BitVec 16) {i : Nat} (hi : i < 16) :
    rawLane (.vector ((List.range 16).map f) m) i = f i := by
  simp [rawLane, hi]

/-- The word of a lane of a result. -/
theorem rawLane_ofLanes (vec : Bool) (rs : List (Option Nat)) {i : Nat} (hi : i < if vec then 16 else 1) :
    rawLane (ofLanes vec rs) i = word (((rs[i]?).getD none).getD 0) := by
  cases vec with
  | true => exact rawLane_vector_range _ _ hi
  | false =>
    obtain rfl : i = 0 := by simpa using hi
    rfl

/-- A lane of a result takes part where it has a result; a scalar always has one. -/
theorem laneAt_ofLanes (vec : Bool) (rs : List (Option Nat)) {i : Nat} (hi : i < if vec then 16 else 1)
    (hs : vec = false → ((rs[0]?).getD none).isSome = true) :
    laneAt (ofLanes vec rs) i = ((rs[i]?).getD none).map (· % 2 ^ 64) := by
  cases vec with
  | true =>
    have hi : i < 16 := by simpa using hi
    have hr := rawLane_ofLanes true rs (i := i) (by simpa using hi)
    simp only [ofLanes, if_true] at hr ⊢
    rw [laneAt_vector, maskOf_getLsbD _ i hi, hr, toNat_word]
    cases (rs[i]?).getD none <;> simp
  | false =>
    obtain rfl : i = 0 := by simpa using hi
    rw [laneAt_ofLanes_scalar]
    obtain ⟨l, hl⟩ := Option.isSome_iff_exists.1 (hs rfl)
    simp [hl]

/-- Where no operand is a vector, lane 0 takes part. -/
theorem lanesAt_of_scalars {vs : List Value} (h : vs.any (·.isVec) = false) (i : Nat) : (lanesAt vs i).isSome = true := by
  induction vs with
  | nil => rfl
  | cons v vs ih =>
    simp only [List.any_cons, Bool.or_eq_false_iff] at h
    obtain ⟨hv, hvs⟩ := h
    obtain ⟨ls, hls⟩ := Option.isSome_iff_exists.1 (ih hvs)
    unfold lanesAt at hls ⊢
    cases v with
    | vector ls m => cases hv
    | scalar w =>
      have h0 : laneAt (.scalar w) i = some w.toNat := rfl
      simp [List.mapM_cons, h0, hls]

/-- An operation that fails at no element position is applied to each. -/
theorem mapElems_of_ok {α : Type} {g : Nat → List Nat → Except Bad α} {xs : List (List Nat)} {c : Nat → α} {k : Nat}
    (h : ∀ j, j < k → g j (column xs j) = .ok (c j)) : mapElems g xs k = .ok ((List.range k).map c) := by
  induction k with
  | zero => rfl
  | succ k ih =>
    simp only [mapElems, ih fun j hj => h j (by omega), h k (by omega), bind, Except.bind, pure, Except.pure]
    simp [List.range_succ]

/-- An operation that fails at no lane that takes part is applied to each. -/
theorem mapLanes_of_ok {α : Type} {g : Nat → List Nat → Except Bad α} {c : Nat → List Nat → α}
    {ls : List (Option (List Nat))} {i : Nat} (h : ∀ m l, ls[m]? = some (some l) → g (i + m) l = .ok (c (i + m) l)) :
    mapLanes g i ls = .ok ((ls.zipIdx i).map fun l => l.1.map (c l.2)) := by
  induction ls generalizing i with
  | nil => rfl
  | cons x ls ih =>
    have ht := ih (i := i + 1) fun m l hm => by
      rw [show i + 1 + m = i + (m + 1) by omega]
      exact h (m + 1) l (by simpa using hm)
    cases x with
    | none => simp only [mapLanes, ht, bind, Except.bind, pure, Except.pure]; simp
    | some l =>
      have h0 := h 0 l rfl
      simp only [Nat.add_zero] at h0
      simp only [mapLanes, h0, ht, bind, Except.bind, pure, Except.pure]; simp

/-- The lanes that a float node leaves where no element fails, from the code of each element. -/
def codeLane (e : FloatEnv) (code : Nat → Nat → List Nat → Option (Nat × Bool)) (i : Nat) (ls : List Nat) : Nat × Bool :=
  let es := (List.range e.fmt.perLane).map fun j => (code i j ls).getD (0, false)
  (packLane e.dest ((es.take e.dest.perLane).map (·.1)), es.any (·.2))

theorem codeLane_lt (e : FloatEnv) (code : Nat → Nat → List Nat → Option (Nat × Bool)) (i : Nat) (ls : List Nat) :
    (codeLane e code i ls).1 < 2 ^ 64 := by
  refine Nat.lt_of_lt_of_le (packLane_lt _ _) (Nat.pow_le_pow_right (by decide) ?_)
  refine Nat.le_trans (Nat.mul_le_mul_left _ ?_) (width_perLane_le e.dest)
  simp

/-- Element `j` of a lane's word. -/
theorem toNat_elemAt (f : Fmt) (l j : Nat) : (elemAt f l j).toNat = bits l (f.width * j) f.width := BitVec.toNat_ofNat ..

/-- Element `j` of a float node's lane. -/
theorem elemAt_codeLane (e : FloatEnv) (code : Nat → Nat → List Nat → Option (Nat × Bool)) (i : Nat) (ls : List Nat) {j : Nat}
    (hj : j < e.dest.perLane) : (elemAt e.dest (codeLane e code i ls).1 j).toNat =
      if j < e.fmt.perLane then (((code i j ls).map (·.1)).getD 0) % 2 ^ e.dest.width else 0 := by
  rw [toNat_elemAt, codeLane, bits_packLane]
  simp only [List.getD, List.getElem?_map, List.getElem?_take, hj, if_true]
  split
  · next h => cases hc : code i j ls <;> simp [h, hc]
  · next h => rw [List.getElem?_eq_none (by simpa using h)]; simp

/-- How many lanes operands have together. -/
def widest (vs : List Value) : Nat := if vs.any (·.isVec) then 16 else 1

/-- The lanes of a float node's result, with the poison of each. -/
def codeLanes (e : FloatEnv) (vs : List Value) (code : Nat → Nat → List Nat → Option (Nat × Bool)) :
    List (Option (Nat × Bool)) := (alignLanes vs).zipIdx.map fun l => l.1.map (codeLane e code l.2)

theorem length_alignLanes (vs : List Value) : (alignLanes vs).length = widest vs := by simp [alignLanes, widest]

/-- The lanes of operands side by side, one by one. -/
theorem alignLanes_eq_some {vs : List Value} {i : Nat} {l : Option (List Nat)} :
    (alignLanes vs)[i]? = some l ↔ i < widest vs ∧ lanesAt vs i = l := by
  constructor
  · intro h
    have hi : i < widest vs := by rw [← length_alignLanes]; exact (List.getElem?_eq_some_iff.1 h).1
    exact ⟨hi, Option.some.inj ((alignLanes_get vs i hi).symm.trans h)⟩
  · rintro ⟨hi, rfl⟩
    exact alignLanes_get vs i hi

variable (e : FloatEnv) (vs : List Value) {g : Nat → Nat → List Nat → Except Bad (Nat × Bool)}
  {code : Nat → Nat → List Nat → Option (Nat × Bool)}

theorem codeLanes_get {i : Nat} (hi : i < widest vs) :
    (codeLanes e vs code)[i]? = some ((lanesAt vs i).map (codeLane e code i)) := by
  simp [codeLanes, List.getElem?_map, List.getElem?_zipIdx, alignLanes_eq_some.2 ⟨hi, rfl⟩]

/-- A float node's lanes set poison where some element does. -/
theorem codeLanes_poison : ((codeLanes e vs code).any fun r => r.any (·.2)) = true ↔
    ∃ i ls j, i < widest vs ∧ lanesAt vs i = some ls ∧ j < e.fmt.perLane ∧ (code i j ls).any (·.2) = true := by
  have hlane : ∀ i ls, (codeLane e code i ls).2 = true ↔ ∃ j, j < e.fmt.perLane ∧ (code i j ls).any (·.2) = true := by
    intro i ls
    simp only [codeLane, List.any_map, List.any_eq_true, List.mem_range, Function.comp_apply]
    refine exists_congr fun j => and_congr_right fun _ => ?_
    cases code i j ls <;> simp
  simp only [codeLanes, List.any_map, List.any_eq_true, Prod.exists, List.mem_zipIdx_iff_getElem?, Function.comp_apply,
    alignLanes_eq_some]
  constructor
  · rintro ⟨l, i, ⟨hi, hl⟩, hp⟩
    cases l with
    | none => simp at hp
    | some ls =>
      obtain ⟨j, hj, hp⟩ := (hlane i ls).1 (by simpa using hp)
      exact ⟨i, ls, j, hi, hl, hj, hp⟩
  · rintro ⟨i, ls, j, hi, hls, hj, hp⟩
    exact ⟨some ls, i, ⟨hi, hls⟩, by simpa using (hlane i ls).2 ⟨j, hj, hp⟩⟩

/-- A float node on whose elements nothing fails, run (R265). -/
theorem placeLanes_ok
    (hg : ∀ i j ls c, j < e.fmt.perLane → code i j ls = some c → g i j (column (e.lanes 0 ls) j) = .ok c)
    (hc : allGiven e.fmt.perLane vs code) : e.placeLanes vs g =
      .ok ⟨ofLanes (vs.any (·.isVec)) ((codeLanes e vs code).map fun r => r.map (·.1)), true,
        (codeLanes e vs code).any fun r => r.any (·.2)⟩ := by
  unfold FloatEnv.placeLanes
  rw [mapLanes_of_ok (c := codeLane e code)]
  · rfl
  · intro m ls hm
    obtain ⟨hmlt, hls⟩ := alignLanes_eq_some.1 hm
    rw [mapElems_of_ok (c := fun j => (code (0 + m) j ls).getD (0, false))]
    · rfl
    · intro j hj
      obtain ⟨c, hcode⟩ := Option.ne_none_iff_exists'.1 (hc m ls j hmlt hls hj)
      rw [Nat.zero_add, hcode]
      exact hg m j ls c hj hcode

/-- The value that a float node's lanes make, element by element. -/
theorem codeWise_codeLanes :
    CodeWise e.dest e.fmt.perLane vs code (ofLanes (vs.any (·.isVec)) ((codeLanes e vs code).map fun r => r.map (·.1)))
      ((codeLanes e vs code).any fun r => r.any (·.2)) := by
  set v := ofLanes (vs.any (·.isVec)) ((codeLanes e vs code).map fun r => r.map (·.1)) with hv
  have hcount : laneCount v = widest vs := by rw [laneCount, hv, isVec_ofLanes]; rfl
  have hget : ∀ i, i < widest vs → ((((codeLanes e vs code).map fun r => r.map (·.1))[i]?).getD none) =
      (lanesAt vs i).map fun ls => (codeLane e code i ls).1 := by
    intro i hi
    rw [List.getElem?_map, codeLanes_get e vs hi]
    cases lanesAt vs i <;> rfl
  have hscalar : vs.any (·.isVec) = false →
      ((((codeLanes e vs code).map fun r => r.map (·.1))[0]?).getD none).isSome = true := by
    intro h
    rw [hget 0 (by rw [widest, h]; decide)]
    simpa using lanesAt_of_scalars h 0
  have hlane : ∀ i, i < widest vs → laneAt v i = (lanesAt vs i).map fun ls => (codeLane e code i ls).1 := by
    intro i hi
    rw [hv, laneAt_ofLanes _ _ hi hscalar, hget i hi]
    cases lanesAt vs i with
    | none => rfl
    | some ls => exact congrArg some (Nat.mod_eq_of_lt (codeLane_lt ..))
  have hraw : ∀ i, i < widest vs → rawLane v i = word (((lanesAt vs i).map fun ls => (codeLane e code i ls).1).getD 0) := by
    intro i hi
    rw [hv, rawLane_ofLanes _ _ hi, hget i hi]
  have hword : ∀ i ls, (word (codeLane e code i ls).1).toNat = (codeLane e code i ls).1 := fun i ls =>
    (toNat_word _).trans (Nat.mod_eq_of_lt (codeLane_lt ..))
  refine ⟨isVec_ofLanes _ _, fun i hi ls hls => ?_, fun i hi hls => ?_, ?_⟩
  · rw [hcount] at hi
    rw [hlane i hi, hraw i hi, hls, Option.map_some, Option.getD_some, hword]
    exact ⟨rfl, fun j hj => elemAt_codeLane e code i ls hj⟩
  · rw [hcount] at hi
    rw [hlane i hi, hraw i hi, hls]
    exact ⟨rfl, rfl⟩
  · rw [hcount]
    exact codeLanes_poison e vs

variable {e}

/-- The element that a node of stage 5 alone reads (R60). -/
theorem column_lanes_zero (hk : e.kon = none) (ls : List Nat) {j : Nat} (hj : j < e.fmt.perLane) (hf : e.fmtA = e.fmt) :
    nth 0 (column (e.lanes 0 ls) j) 0 = (Claims.elemAt e.fmt (ls.getD 0 0) j).toNat := by
  rw [toNat_elemAt]
  cases ls with
  | nil => simp [column, FloatEnv.lanes, nth, bits]
  | cons l ls => simp [column, FloatEnv.lanes, FloatEnv.elems, FloatEnv.elemAt, FloatEnv.fmtOf, nth, hj, hk, hf]

/-- Stage 5 on one element, in the words of R60. -/
theorem fuseElem_of_stageFive {i j v : Nat} {c : Nat × Bool} (h : stageFive e e.fmt i j v = some c) :
    e.fuseElem i j v = .ok c := by
  unfold stageFive at h
  unfold FloatEnv.fuseElem
  simp only at h ⊢
  split at h
  · next hc =>
    rw [if_pos hc, FloatEnv.place]
    unfold rounded at h
    revert h
    cases convertTo e.dest e.rnd e.sat (if (e.nneg && (decodeElem e.fmt v).neg) = true then Exact.rat false 0 1
      else decodeElem e.fmt v) (e.u i j) <;> simp
  · next hc => rw [if_neg hc]; exact congrArg _ (Option.some.inj h)

/-- Stage 5 on a formed value finishes where every element can be converted (R60). -/
theorem fuse_fused {v : Value} (h : fusable e e.fmt v) : ∃ w psn, Fused e e.fmt v w psn ∧ e.fuse v = .ok ⟨w, true, psn⟩ := by
  unfold Fused
  cases hon : e.cve || e.nneg with
  | false =>
    refine ⟨v, false, by simp, ?_⟩
    rw [FloatEnv.fuse, if_pos (by simpa using hon)]
  | true =>
    have hc := h hon
    have hoff : ¬ ((!e.cve && !e.nneg) = true) := by revert hon; cases e.cve <;> cases e.nneg <;> decide
    refine ⟨_, _, codeWise_codeLanes { e with fmtA := e.fmt, kon := none } [v], ?_⟩
    rw [FloatEnv.fuse, if_neg hoff]
    refine placeLanes_ok { e with fmtA := e.fmt, kon := none } [v] (fun i j ls c hj hcode => ?_) hc
    have hcol := column_lanes_zero (e := { e with fmtA := e.fmt, kon := none }) rfl ls hj rfl
    rw [hcol]
    exact fuseElem_of_stageFive hcode

end Sys2Proof.Proofs
end

section

/-!
The lane moves (R58, R248, R303, R309, R321, R335): each forms its value lane by lane and finishes with it.
-/

namespace Sys2Proof.Proofs

open Sys2Proof Sys2Proof.Machine Sys2Proof.Claims

variable {s : State} {op : Issued} {n : Niw}

/-- A finished operation emits its result. -/
theorem finish_ok (s : State) (op : Issued) (n : Niw) (v : Value) (pred psn : Bool) :
    s.finish op n (.ok ⟨v, pred, psn⟩) = s.emit op n ⟨op.tag, v, pred, op.poisoned || psn, false⟩ := rfl

/-- An operation that finishes with a value of its own and no poison emits it. -/
theorem emits_of_fire {i : Instr} {v : Value} {pred : Bool} {r : Issued → State → Except Bad Result} (h : Issues s op n)
    (hi : exec i s = fire s n fun op s => s.finish op n (r op s)) (hr : r op (after s op) = .ok ⟨v, pred, false⟩) :
    Emits i s op n v pred := by
  rw [Emits, hi, fire_of_issues h, hr, finish_ok, Bool.or_false]

/-- An operation that passes the value it has formed through stage 5 (R60). -/
theorem emitsFused_of_fire {i : Instr} {v : Value} (h : Issues s op n) (f : Issued → Value) (hf : f op = v)
    (hi : exec i s = fire s n fun op s => s.finish op n ((s.floatEnv op n n.fmt false).fuse (f op))) :
    EmitsFused i s op n v := by
  intro hv
  obtain ⟨w, psn, hw, he⟩ := fuse_fused (e := (after s op).floatEnv op n n.fmt false) hv
  exact ⟨w, psn, hw, by rw [hi, fire_of_issues h, hf, he, finish_ok]⟩

theorem bits_zero (v k : Nat) : bits v 0 k = v % 2 ^ k := by simp [bits]

theorem bits_low_nibble (v : Nat) : bits v 0 4 = v % 16 := bits_zero v 4

theorem bits_imm_high (b : BitVec 8) : bits b.toNat 4 4 = b.toNat / 16 := by
  have := b.isLt
  unfold bits
  omega

/-- A lane's word is its list entry, whatever the mask. -/
theorem rawLane_vector (ls : List Word) (m : BitVec 16) (i : Nat) : rawLane (.vector ls m) i = nth 0 ls i := rfl

theorem isSome_laneAt_vector (ls : List Word) (m : BitVec 16) (i : Nat) :
    (laneAt (.vector ls m) i).isSome = m.getLsbD i := by
  rw [laneAt_vector]
  cases m.getLsbD i <;> rfl

theorem nth_replicate {α : Type} (d a : α) {k i : Nat} (hi : i < k) : nth d (List.replicate k a) i = a := by
  rw [nth, List.getElem?_replicate, if_pos hi, Option.getD_some]

/-- The mask of a full vector. -/
theorem getLsbD_full {i : Nat} (hi : i < 16) : (0xFFFF#16).getLsbD i = true := by
  have : ∀ k : Fin 16, (0xFFFF#16).getLsbD k.1 = true := by decide
  exact this ⟨i, hi⟩

/-- BCST's value (R248, log 14). -/
theorem bcstVal_lanes (l : Nat) (v : Value) :
    (bcstVal l v).isVec = true ∧ ∀ i, i < 16 →
      if (laneAt v l).isSome
      then rawLane (bcstVal l v) i = rawLane v l ∧ (laneAt (bcstVal l v) i).isSome = (laneAt v i).isSome
      else laneAt (bcstVal l v) i = none ∧ rawLane (bcstVal l v) i = 0 := by
  cases v with
  | scalar w =>
    refine ⟨rfl, fun i hi => ?_⟩
    have hb : bcstVal l (.scalar w) = .vector (List.replicate 16 w) 0xFFFF := rfl
    rw [if_pos (show (laneAt (.scalar w) l).isSome = true from rfl), hb, rawLane_vector, isSome_laneAt_vector]
    exact ⟨nth_replicate _ _ hi, getLsbD_full hi⟩
  | vector ls m =>
    rw [isSome_laneAt_vector]
    cases hm : m.getLsbD l with
    | true =>
      have hb : bcstVal l (.vector ls m) = .vector (List.replicate 16 (nth 0 ls l)) m := if_pos hm
      refine ⟨by rw [hb]; rfl, fun i hi => ?_⟩
      rw [if_pos rfl, hb, isSome_laneAt_vector, isSome_laneAt_vector, rawLane_vector, rawLane_vector]
      exact ⟨nth_replicate _ _ hi, rfl⟩
    | false =>
      have hb : bcstVal l (.vector ls m) = .vector (List.replicate 16 0) 0 := if_neg (by simp [hm])
      refine ⟨by rw [hb]; rfl, fun i hi => ?_⟩
      rw [if_neg (by simp), hb, laneAt_vector, rawLane_vector]
      exact ⟨by simp, nth_replicate _ _ hi⟩

/-- A vector whose masked lanes are cleared keeps the lanes that take part. -/
theorem cleanLanes_lanes (ls : List Word) (m : BitVec 16) {i : Nat} (hi : i < 16) :
    laneAt (cleanLanes (.vector ls m)) i = laneAt (.vector ls m) i ∧
    (m.getLsbD i = false → rawLane (cleanLanes (.vector ls m)) i = 0) := by
  have hr : rawLane (cleanLanes (.vector ls m)) i = if m.getLsbD i then nth 0 ls i else 0 := rawLane_vector_range _ m hi
  have hl : laneAt (cleanLanes (.vector ls m)) i =
      if m.getLsbD i then some (rawLane (cleanLanes (.vector ls m)) i).toNat else none := laneAt_vector ..
  refine ⟨?_, fun h => by rw [hr, if_neg (by simp [h])]⟩
  rw [hl, hr, laneAt_vector, rawLane_vector]
  cases m.getLsbD i <;> rfl

/-- A vector that takes lane `i` from lane `src i` of another where `on i` lets it, with the other lanes cleared. -/
theorem taken_lanes (ls : List Word) (m : BitVec 16) (src : Nat → Nat) (on : Nat → Bool) {i : Nat} (hi : i < 16) :
    let v := cleanLanes (.vector ((List.range 16).map fun k => nth 0 ls (src k)) (maskOf fun k => on k && m.getLsbD (src k)))
    (laneAt v i = if on i then laneAt (.vector ls m) (src i) else none) ∧ (laneAt v i = none → rawLane v i = 0) := by
  intro v
  obtain ⟨hl, hz⟩ := cleanLanes_lanes ((List.range 16).map fun k => nth 0 ls (src k))
    (maskOf fun k => on k && m.getLsbD (src k)) hi
  rw [laneAt_vector, rawLane_vector_range _ _ hi, maskOf_getLsbD _ i hi] at hl
  rw [maskOf_getLsbD _ i hi] at hz
  refine ⟨hl.trans ?_, fun h => hz ?_⟩
  · rw [laneAt_vector, rawLane_vector]
    cases on i <;> rfl
  · rw [show laneAt v i = _ from hl] at h
    revert h
    cases on i && m.getLsbD (src i) <;> simp

theorem swizzleLane_eq_sourceLane (mode arg k : Nat) : swizzleLane mode arg k = sourceLane mode arg k := by
  unfold swizzleLane sourceLane
  split <;> simp_all
  omega

/-- SHUF by a mode (R58). -/
theorem swizzle_lanes (mode arg : Nat) {v : Value} (hv : v.isVec = true) :
    (cleanLanes (swizzle mode arg v)).isVec = true ∧ ∀ i, i < 16 →
      laneAt (cleanLanes (swizzle mode arg v)) i = laneAt v (sourceLane mode arg i) ∧
      (laneAt v (sourceLane mode arg i) = none → rawLane (cleanLanes (swizzle mode arg v)) i = 0) := by
  cases v with
  | scalar w => cases hv
  | vector ls m =>
    refine ⟨rfl, fun i hi => ?_⟩
    obtain ⟨hl, hz⟩ := taken_lanes ls m (swizzleLane mode arg) (fun _ => true) hi
    simp only [Bool.true_and, if_true] at hl hz
    rw [← swizzleLane_eq_sourceLane]
    exact ⟨hl, fun h => hz (hl.trans h)⟩

theorem indexLanes_lanes (v : Value) {i : Nat} (hi : i < 16) :
    nth 0 (indexLanes v).1 i = rawLane v i ∧ (indexLanes v).2.getLsbD i = (laneAt v i).isSome := by
  cases v with
  | scalar w => exact ⟨nth_replicate _ _ hi, getLsbD_full hi⟩
  | vector js mb => exact ⟨rfl, (isSome_laneAt_vector ..).symm⟩

/-- SHUF by indices (R321). -/
theorem shufIndex_lanes (ls : List Word) (m : BitVec 16) (w : Value) {i : Nat} (hi : i < 16) :
    let v := shufIndex ls m (indexLanes w).1 (indexLanes w).2
    if (laneAt w i).isSome then laneAt v i = laneAt (.vector ls m) ((rawLane w i).toNat % 16)
    else laneAt v i = none ∧ rawLane v i = 0 := by
  intro v
  obtain ⟨hj, hm⟩ := indexLanes_lanes w hi
  obtain ⟨hl, hz⟩ := taken_lanes ls m (fun k => bits (nth 0 (indexLanes w).1 k).toNat 0 4)
    (fun k => (indexLanes w).2.getLsbD k) hi
  have hj : bits (nth 0 (indexLanes w).1 i).toNat 0 4 = (rawLane w i).toNat % 16 := by
    rw [hj]; exact bits_low_nibble _
  simp only [hm, hj] at hl
  split
  · next h => rw [if_pos h] at hl; exact hl
  · next h => rw [if_neg h] at hl; exact ⟨hl, hz hl⟩

/-- A value in another's layout and mask, each lane made from the lane there and its number. -/
def relaid (v : Value) (f : Nat → Nat → Nat) : Value :=
  ofLanes v.isVec ((lanesOf v).zipIdx.map fun l => l.1.map fun x => f x l.2)

theorem isVec_relaid (v : Value) (f : Nat → Nat → Nat) : (relaid v f).isVec = v.isVec := isVec_ofLanes ..

theorem laneAt_scalar_isSome {v : Value} (h : v.isVec = false) (i : Nat) : (laneAt v i).isSome = true := by
  cases v with
  | scalar w => rfl
  | vector ls m => cases h

theorem relaid_lanes (v : Value) (f : Nat → Nat → Nat) {i : Nat} (hi : i < laneCount v) :
    laneAt (relaid v f) i = (laneAt v i).map (fun x => f x i % 2 ^ 64) ∧
    rawLane (relaid v f) i = word (((laneAt v i).map fun x => f x i).getD 0) := by
  have hget : ∀ k, k < laneCount v →
      ((((lanesOf v).zipIdx.map fun l => l.1.map fun x => f x l.2)[k]?).getD none) = (laneAt v k).map fun x => f x k := by
    intro k hk
    simp [lanesOf_eq_map, hk]
  constructor
  · rw [relaid, laneAt_ofLanes _ _ hi, hget i hi, Option.map_map]
    · rfl
    · intro h
      rw [hget 0 (laneCount_pos v), Option.isSome_map]
      exact laneAt_scalar_isSome h 0
  · rw [relaid, rawLane_ofLanes _ _ hi, hget i hi]

/-- The counter words of RNG: the operation's draw key, or slot a's value in a block (R309). -/
def rngCounter (s : State) (op : Issued) : Nat × Nat :=
  if siteIsBlock op.site then (op.ta.word.toNat % 2 ^ 32, op.ta.word.toNat / 2 ^ 32) else (s.drawKey op).2

theorem tok_isVec (t : Tok) : t.isVec = t.val.isVec := by
  unfold Tok.isVec
  cases t.val <;> rfl

/-- RNG's value (R309). -/
theorem rngVal_eq (s : State) (n : Niw) (op : Issued) : rngVal s n op = relaid op.ta.val fun _ i =>
    rngLane (s.drawKey op).1 (rngCounter s op).1 (rngCounter s op).2 (2 ^ 31 + 256 * op.draw + n.imm.toNat) i := by
  have hw : bits op.ta.word.toNat 32 32 = op.ta.word.toNat / 2 ^ 32 := by
    have := op.ta.word.isLt
    unfold bits
    omega
  unfold rngVal rngCounter relaid
  simp only [bits_zero, hw, tok_isVec]

theorem rngVal_lanes (s : State) (n : Niw) (op : Issued) {i : Nat} (hi : i < laneCount (rngVal s n op)) :
    let r := philox (s.drawKey op).1 (rngCounter s op).1 (rngCounter s op).2 (2 ^ 31 + 256 * op.draw + n.imm.toNat) i
    if (laneAt op.ta.val i).isSome
    then rawLane (rngVal s n op) i = word (r.1 + 2 ^ 32 * r.2.1) ∧ (laneAt (rngVal s n op) i).isSome
    else laneAt (rngVal s n op) i = none ∧ rawLane (rngVal s n op) i = 0 := by
  rw [rngVal_eq] at hi ⊢
  obtain ⟨hl, hr⟩ := relaid_lanes op.ta.val _ (by rwa [laneCount, isVec_relaid] at hi)
  rw [hl, hr]
  cases laneAt op.ta.val i with
  | none => exact ⟨rfl, rfl⟩
  | some x => exact ⟨rfl, rfl⟩

/-- What PACK keeps of a lane, in the words of R303. -/
def packCut (n : Niw) (l : Nat) : BitVec n.fmt.width :=
  if n.imm.getLsbD 0 then limited n.fmt (if n.fmt.signed then (BitVec.ofNat 64 l).toInt else (l : Int))
  else BitVec.ofNat n.fmt.width l

theorem width_pos (f : Fmt) : 0 < f.width := by cases f <;> decide

theorem perLane_pos (f : Fmt) : 0 < f.perLane := by cases f <;> decide

/-- A two's complement number from its bits. -/
theorem signedOf_eq_toInt {w : Nat} (hw : 0 < w) (v : Nat) : signedOf w v = (BitVec.ofNat w v).toInt := by
  obtain ⟨k, rfl⟩ : ∃ k, w = k + 1 := ⟨w - 1, by omega⟩
  have hp : 2 ^ (k + 1) = 2 * 2 ^ k := by rw [Nat.pow_succ, Nat.mul_comm]
  unfold signedOf
  rw [BitVec.toInt_eq_toNat_cond, BitVec.toNat_ofNat, Nat.add_sub_cancel]
  simp only [hp]
  generalize v % (2 * 2 ^ k) = u
  split <;> split <;> omega

/-- An integer wrapped to a width is the bit vector's value. -/
theorem wrapInt_eq_toNat (w : Nat) (v : Int) : wrapInt w v = (BitVec.ofInt w v).toNat := by
  unfold wrapInt
  rw [BitVec.toNat_ofInt]

/-- The clamp of a format as a bit vector (R86). -/
theorem limited_eq (f : Fmt) (v : Int) : limited f v = BitVec.ofInt f.width (clampInt f v) := by
  unfold limited clampInt intMin intMax
  cases f.signed <;> simp

theorem packElem_eq (n : Niw) (l : Nat) : packElem n l = (packCut n l).toNat := by
  unfold packElem packCut
  split
  · rw [wrapInt_eq_toNat, limited_eq]
    cases n.fmt.signed with
    | true => simp only [if_true]; rw [signedOf_eq_toInt (by decide)]
    | false => rfl
  · rw [BitVec.toNat_ofNat]

/-- Some entry of a list is there. -/
theorem any_isSome_iff (l : List (Option Nat)) : (l.any (·.isSome)) = true ↔ ∃ j : Nat, ((l[j]?).getD none).isSome = true := by
  rw [List.any_eq_true]
  constructor
  · rintro ⟨x, hx, hs⟩
    obtain ⟨j, hj⟩ := List.getElem?_of_mem hx
    exact ⟨j, by rw [hj]; exact hs⟩
  · rintro ⟨j, hj⟩
    cases h : l[j]? with
    | none => simp [h] at hj
    | some x => exact ⟨x, List.mem_of_getElem? h, by simpa [h] using hj⟩

theorem chunk_get (es : List (Option Nat)) (k i j : Nat) :
    ((es.drop (k * i)).take k)[j]? = if j < k then es[k * i + j]? else none := by
  rw [List.getElem?_take, List.getElem?_drop]

/-- The lanes of PACK's result (R303). -/
theorem packLanes_lanes (f : Fmt) (es : List (Option Nat)) {i : Nat} (hi : i < 16) :
    ((laneAt (packLanes f es) i).isSome = true ↔ ∃ p, p / f.perLane = i ∧ ((es[p]?).getD none).isSome = true) ∧
    ∀ j, j < f.perLane → (elemAt f (rawLane (packLanes f es) i).toNat j).toNat =
      ((es[f.perLane * i + j]?).getD none).getD 0 % 2 ^ f.width := by
  have hk := perLane_pos f
  have hraw : (rawLane (packLanes f es) i).toNat =
      packLane f (((es.drop (f.perLane * i)).take f.perLane).map (·.getD 0)) := by
    rw [packLanes, rawLane_vector_range _ _ hi, toNat_word]
    refine Nat.mod_eq_of_lt (Nat.lt_of_lt_of_le (packLane_lt _ _) (Nat.pow_le_pow_right (by decide) ?_))
    refine Nat.le_trans (Nat.mul_le_mul_left _ ?_) (width_perLane_le f)
    rw [List.length_map]
    exact List.length_take_le ..
  constructor
  · rw [packLanes, isSome_laneAt_vector, maskOf_getLsbD _ i hi, any_isSome_iff]
    simp only [chunk_get]
    constructor
    · rintro ⟨j, hj⟩
      split at hj
      · next h => exact ⟨_, by rw [Nat.mul_add_div hk, Nat.div_eq_of_lt h, Nat.add_zero], hj⟩
      · cases hj
    · rintro ⟨p, rfl, hp⟩
      exact ⟨p % f.perLane, by rw [if_pos (Nat.mod_lt _ hk), Nat.div_add_mod]; exact hp⟩
  · intro j hj
    rw [toNat_elemAt, hraw, bits_packLane, List.getD, List.getElem?_map, chunk_get, if_pos hj]
    cases es[f.perLane * i + j]? <;> rfl

/-- PACK's value (R303). -/
theorem packVal_lanes (n : Niw) {v : Value} (hv : v.isVec = true) {i : Nat} (hi : i < 16) :
    ((laneAt (packVal n v) i).isSome = true ↔ ∃ p, p < 16 ∧ p / n.fmt.perLane = i ∧ (laneAt v p).isSome = true) ∧
    ∀ j, j < n.fmt.perLane → elemAt n.fmt (rawLane (packVal n v) i).toNat j =
      if n.fmt.perLane * i + j < 16 then ((laneAt v (n.fmt.perLane * i + j)).map (packCut n)).getD 0 else 0 := by
  obtain ⟨ls, m, rfl⟩ : ∃ ls m, v = .vector ls m := by
    cases v with
    | scalar w => cases hv
    | vector ls m => exact ⟨ls, m, rfl⟩
  have hget (p : Nat) : ((((lanesOf (.vector ls m)).map fun l => l.map (packElem n))[p]?).getD none) =
      if p < 16 then (laneAt (.vector ls m) p).map (packElem n) else none := by
    have h16 : laneCount (.vector ls m) = 16 := rfl
    rw [lanesOf_eq_map, h16, List.map_map, List.getElem?_map]
    split
    · next h => rw [List.getElem?_range h]; rfl
    · next h => rw [List.getElem?_eq_none (by simpa using h)]; rfl
  obtain ⟨hsome, helem⟩ := packLanes_lanes n.fmt ((lanesOf (.vector ls m)).map fun l => l.map (packElem n)) hi
  refine ⟨hsome.trans (exists_congr fun p => ?_), fun j hj => BitVec.eq_of_toNat_eq ((helem j hj).trans ?_)⟩
  · rw [hget]
    split
    · next h => simp [h]
    · next h => simp [h]
  · rw [hget]
    split
    · cases laneAt (.vector ls m) (n.fmt.perLane * i + j) with
      | none => simp
      | some l => exact (congrArg (· % _) (packElem_eq n l)).trans (Nat.mod_eq_of_lt (packCut n l).isLt)
    · simp

/-- Entry `p` of chunks of one length laid one after another. -/
theorem flatMap_get {α β : Type} (f : α → List β) {k : Nat} (hk : 0 < k) (l : List α) (h : ∀ x, (f x).length = k) (p : Nat) :
    (l.flatMap f)[p]? = (l[p / k]?).bind fun x => (f x)[p % k]? := by
  induction l generalizing p with
  | nil => rfl
  | cons a l ih =>
    rw [List.flatMap_cons, List.getElem?_append, h]
    split
    · next hp => rw [Nat.div_eq_of_lt hp, Nat.mod_eq_of_lt hp]; rfl
    · next hp =>
      have hle : k ≤ p := Nat.le_of_not_lt hp
      rw [ih, Nat.div_eq_sub_div hk hle, Nat.mod_eq_sub_mod hle]
      rfl

/-- The positions of a token, in the words of R315. -/
theorem positions_get (f : Fmt) (v : Value) (p : Nat) : ((positions f v)[p]?).getD none = position f v p := by
  have hk := perLane_pos f
  unfold positions position
  rw [flatMap_get _ hk _ (fun x => by cases x <;> simp [elems]), lanesOf_eq_map, List.getElem?_map]
  have hj := Nat.mod_lt p hk
  split
  · next h =>
    rw [List.getElem?_range ((Nat.div_lt_iff_lt_mul hk).2 h)]
    simp only [Option.map_some, Option.bind_some]
    cases laneAt v (p / f.perLane) with
    | none => simp [hj]
    | some l => simp [elems, hj, toNat_elemAt]
  · next h =>
    rw [List.getElem?_eq_none (by simpa using (Nat.le_div_iff_mul_le hk).2 (Nat.le_of_not_lt h))]
    rfl

/-- UNPK's value (R335). -/
theorem unpkVal_lanes (n : Niw) (v : Value) {p : Nat} (hp : p < 16) :
    laneAt (unpkVal n v) p = (position n.fmt v p).map (fun e =>
      (if n.fmt.signed then (BitVec.ofNat n.fmt.width e).signExtend 64 else BitVec.ofNat 64 e).toNat) ∧
    (position n.fmt v p = none → rawLane (unpkVal n v) p = 0) := by
  have hget : ((((List.range 16).map fun p => (((positions n.fmt v)[p]?).getD none).map fun e =>
      if n.fmt.signed then wrapInt 64 (signedOf n.fmt.width e) else e)[p]?).getD none) =
      (position n.fmt v p).map fun e => if n.fmt.signed then wrapInt 64 (signedOf n.fmt.width e) else e := by
    rw [List.getElem?_map, List.getElem?_range hp, Option.map_some, Option.getD_some, positions_get]
  constructor
  · rw [unpkVal, laneAt_ofLanes true _ hp (by simp), hget, Option.map_map]
    congr 1
    funext e
    rw [Function.comp_apply]
    cases n.fmt.signed with
    | true =>
      simp only [if_true, wrapInt_eq_toNat, signedOf_eq_toInt (width_pos _)]
      exact Nat.mod_eq_of_lt (BitVec.isLt _)
    | false => simp
  · intro h
    rw [unpkVal, rawLane_ofLanes true _ hp, hget, h]
    rfl

/-- The mode of an instruction by its number of token slots. -/
theorem ari_toNat {k : Nat} (hk : k < 4) (h : n.ari = BitVec.ofNat 2 k) : n.ari.toNat = k := by
  rw [h, BitVec.toNat_ofNat]
  exact Nat.mod_eq_of_lt hk

theorem val_of_scalar {t : Tok} (h : t.isVec = false) : t.val = .scalar t.word := by
  unfold Tok.isVec at h
  unfold Tok.word
  cases hv : t.val with
  | scalar w => rfl
  | vector ls m => simp [hv] at h

theorem val_of_vector {t : Tok} (h : t.isVec = true) : ∃ ls m, t.val = .vector ls m := by
  unfold Tok.isVec at h
  cases hv : t.val with
  | scalar w => simp [hv] at h
  | vector ls m => exact ⟨ls, m, rfl⟩

/-- SHUF by a mode forms the swizzled value (R58). -/
theorem shufResult_mode (h : n.ari = 1) : shufResult n op =
    .ok ⟨cleanLanes (swizzle (n.imm.toNat / 16) (n.imm.toNat % 16) op.ta.val), true, false⟩ := by
  rw [shufResult, if_pos (ari_toNat (by decide) h), bits_low_nibble, bits_imm_high]

/-- SHUF by indices passes a scalar, and takes no vector of indices for it (R321). -/
theorem shufResult_scalar (h : n.ari = 2) (ha : op.ta.isVec = false) : shufResult n op =
    if op.tb.isVec then .error (0x042, 0) else .ok ⟨op.ta.val, true, false⟩ := by
  rw [shufResult, if_neg (by rw [ari_toNat (k := 2) (by decide) h]; decide), val_of_scalar ha]

/-- SHUF by indices of a vector (R321). -/
theorem shufResult_vector (h : n.ari = 2) {ls : List Word} {m : BitVec 16} (ha : op.ta.val = .vector ls m) : shufResult n op =
    .ok ⟨shufIndex ls m (indexLanes op.tb.val).1 (indexLanes op.tb.val).2, true, false⟩ := by
  rw [shufResult, if_neg (by rw [ari_toNat (k := 2) (by decide) h]; decide), ha]

/-- An operation that finishes with a fault of its own takes it. -/
theorem fault_of_fire {i : Instr} {r : Issued → State → Except Bad Result} {c : Nat} (h : Issues s op n)
    (hi : exec i s = fire s n fun op s => s.finish op n (r op s)) (hr : r op (after s op) = .error (c, 0)) :
    exec i s = .next ((after s op).opFault op c 0 0) := by
  rw [hi, fire_of_issues h, hr]
  rfl

/-- Settles O15: each lane move forms the lanes of its rule, and PACK and UNPK pass them through stage 5. -/
theorem laneMoves : Obligations.LaneMoves := by
  unfold Obligations.LaneMoves
  intro s op n h
  refine ⟨?_, fun h1 hs => ?_, fun h1 hv => ?_, fun h2 ha hb => ?_, fun h2 ha hb => ?_, fun h2 hv => ?_, fun _ => ?_, ?_, ?_⟩
  · refine ⟨bcstVal (n.imm.toNat % 16) op.ta.val, emits_of_fire (r := fun op _ => .ok ⟨bcstVal (bits n.imm.toNat 0 4) op.ta.val,
      true, false⟩) h rfl (by rw [bits_low_nibble]), (bcstVal_lanes _ _).1, fun i hi => ?_⟩
    have := (bcstVal_lanes (n.imm.toNat % 16) op.ta.val).2 i hi
    cases hta : op.ta.isVec with
    | true => exact this
    | false => rw [val_of_scalar hta] at this ⊢; exact this
  · refine emits_of_fire (r := fun op _ => shufResult n op) h rfl ((shufResult_mode h1).trans ?_)
    rw [val_of_scalar hs]
    rfl
  · obtain ⟨hvec, hlanes⟩ := swizzle_lanes (n.imm.toNat / 16) (n.imm.toNat % 16) (by rwa [← tok_isVec])
    exact ⟨_, emits_of_fire (r := fun op _ => shufResult n op) h rfl (shufResult_mode h1), hvec, fun i hi _ => hlanes i hi⟩
  · exact emits_of_fire (r := fun op _ => shufResult n op) h rfl ((shufResult_scalar h2 ha).trans (if_neg (by simp [hb])))
  · exact fault_of_fire (r := fun op _ => shufResult n op) h rfl ((shufResult_scalar h2 ha).trans (if_pos hb))
  · obtain ⟨ls, m, ha⟩ := val_of_vector hv
    refine ⟨_, emits_of_fire (r := fun op _ => shufResult n op) h rfl (shufResult_vector h2 ha), rfl, fun i hi => ?_⟩
    rw [ha]
    exact shufIndex_lanes ls m op.tb.val hi
  · refine ⟨packVal n op.ta.val, emitsFused_of_fire h (fun op => packVal n op.ta.val) rfl rfl, ?_, fun hs => ?_,
      fun hv i hi => packVal_lanes n (by rwa [← tok_isVec]) hi⟩
    · rw [tok_isVec]
      cases op.ta.val <;> rfl
    · rw [val_of_scalar hs]
      exact congrArg (fun x => Value.scalar (word x)) (packElem_eq n _)
  · refine ⟨unpkVal n op.ta.val, emitsFused_of_fire h (fun op => unpkVal n op.ta.val) rfl rfl, rfl, fun p hp => unpkVal_lanes n op.ta.val hp⟩
  · refine ⟨rngVal (after s op) n op, emits_of_fire (r := fun op s => .ok ⟨rngVal s n op, true, false⟩) h rfl rfl, ?_, fun i hi => ?_⟩
    · rw [rngVal_eq, isVec_relaid, tok_isVec]
    · have := rngVal_lanes (after s op) n op hi
      unfold rngCounter at this
      cases hb : siteIsBlock op.site <;> simp only [hb] at this ⊢ <;> exact this

end Sys2Proof.Proofs
end

section

/-!
The frame of the instructions that take tokens and give tokens (R23, R34, R239): every operation on the state that they use
leaves memory, the tiles' contents, the accumulators, the block registers and the system registers as they were.
-/

namespace Sys2Proof.Claims

open Sys2Proof.Machine

variable {s t u : State}

theorem Kept.refl (s : State) : Kept s s := ⟨⟨rfl, rfl, rfl⟩, fun _ => ⟨rfl, rfl, rfl, rfl, rfl, rfl⟩, fun _ => ⟨rfl, rfl⟩,
  fun _ _ => ⟨rfl, rfl⟩, rfl, rfl, rfl, rfl, rfl⟩

theorem Kept.trans (h : Kept s t) (h' : Kept t u) : Kept s u where
  main := ⟨h'.main.1.trans h.main.1, h'.main.2.1.trans h.main.2.1, h'.main.2.2.trans h.main.2.2⟩
  tiles x := by
    obtain ⟨a1, a2, a3, a4, a5, a6⟩ := h.tiles x
    obtain ⟨b1, b2, b3, b4, b5, b6⟩ := h'.tiles x
    exact ⟨b1.trans a1, b2.trans a2, b3.trans a3, b4.trans a4, b5.trans a5, b6.trans a6⟩
  units x := ⟨(h'.units x).1.trans (h.units x).1, (h'.units x).2.trans (h.units x).2⟩
  registers r bc := ⟨(h'.registers r bc).1.trans (h.registers r bc).1, (h'.registers r bc).2.trans (h.registers r bc).2⟩
  system := by
    obtain ⟨a1, a2, a3, a4, a5⟩ := h.system
    obtain ⟨b1, b2, b3, b4, b5⟩ := h'.system
    exact ⟨b1.trans a1, b2.trans a2, b3.trans a3, b4.trans a4, b5.trans a5⟩

end Sys2Proof.Claims

namespace Sys2Proof.Proofs

open Sys2Proof Sys2Proof.Machine Sys2Proof.Claims

variable {s t u : State} {op : Issued} {n : Niw}

/-- A memory tile that holds what another does. -/
def SameTile (m m' : MTile) : Prop :=
  m'.banks = m.banks ∧ m'.fifo = m.fifo ∧ m'.lines = m.lines ∧ m'.rows = m.rows ∧ m'.wstate = m.wstate ∧ m'.full = m.full

/-- A compute tile that holds the accumulators and verdict slots of another. -/
def SameUnits (c c' : CTile) : Prop := c'.q = c.q ∧ c'.verdicts = c.verdicts

/-- A block context with the registers and the call stack of another. -/
def SameRegisters (x x' : BlockCtx) : Prop := x'.g = x.g ∧ x'.stack = x.stack

/- Changes of one part of the state. -/

theorem kept_setCtile {x : TileId} {c : CTile} (h : SameUnits (s.ctile x) c) : Kept s (s.setCtile x c) where
  main := ⟨rfl, rfl, rfl⟩
  tiles _ := ⟨rfl, rfl, rfl, rfl, rfl, rfl⟩
  units y := by
    rw [State.ctile_setCtile]
    split
    · subst y; exact h
    · exact ⟨rfl, rfl⟩
  registers _ _ := ⟨rfl, rfl⟩
  system := ⟨rfl, rfl, rfl, rfl, rfl⟩

theorem kept_setMtile {x : TileId} {m : MTile} (h : SameTile (s.mtile x) m) : Kept s (s.setMtile x m) where
  main := ⟨rfl, rfl, rfl⟩
  tiles y := by
    rw [State.mtile_setMtile]
    split
    · subst y; exact h
    · exact ⟨rfl, rfl, rfl, rfl, rfl, rfl⟩
  units _ := ⟨rfl, rfl⟩
  registers _ _ := ⟨rfl, rfl⟩
  system := ⟨rfl, rfl, rfl, rfl, rfl⟩

theorem kept_setRegion {r : Nat} {g : Region} (h : g.bcs = (s.region r).bcs) : Kept s (s.setRegion r g) where
  main := ⟨rfl, rfl, rfl⟩
  tiles _ := ⟨rfl, rfl, rfl, rfl, rfl, rfl⟩
  units _ := ⟨rfl, rfl⟩
  registers k bc := by
    unfold State.bctx
    rw [State.region_setRegion]
    split
    · subst k; rw [h]; exact ⟨rfl, rfl⟩
    · exact ⟨rfl, rfl⟩
  system := ⟨rfl, rfl, rfl, rfl, rfl⟩

theorem kept_setBctx {r bc : Nat} {x : BlockCtx} (h : SameRegisters (s.bctx r bc) x) : Kept s (s.setBctx r bc x) where
  main := ⟨rfl, rfl, rfl⟩
  tiles _ := ⟨rfl, rfl, rfl, rfl, rfl, rfl⟩
  units _ := ⟨rfl, rfl⟩
  registers k b := by
    unfold State.bctx State.setBctx
    rw [State.region_setRegion]
    split
    · subst k
      simp only [nth_setNth]
      split
      · next hb => rw [hb.1]; exact h
      · exact ⟨rfl, rfl⟩
    · exact ⟨rfl, rfl⟩
  system := ⟨rfl, rfl, rfl, rfl, rfl⟩

theorem kept_mapCtx {k : Nat} {f : Ctx → Ctx} (h : ∀ c, (f c).mode = c.mode) : Kept s (s.mapCtx k f) where
  main := ⟨rfl, rfl, rfl⟩
  tiles _ := ⟨rfl, rfl, rfl, rfl, rfl, rfl⟩
  units _ := ⟨rfl, rfl⟩
  registers _ _ := ⟨rfl, rfl⟩
  system := by
    refine ⟨rfl, rfl, rfl, rfl, ?_⟩
    rw [State.mapCtx_ctxs, List.map_map]
    refine List.map_congr_left fun c _ => ?_
    rw [Function.comp_apply]
    split
    · exact h c
    · rfl

theorem kept_of_onlyMessages (h : OnlyMessages s t) : Kept s t := by
  obtain ⟨_, _, _, rfl⟩ := h
  exact ⟨⟨rfl, rfl, rfl⟩, fun _ => ⟨rfl, rfl, rfl, rfl, rfl, rfl⟩, fun _ => ⟨rfl, rfl⟩, fun _ _ => ⟨rfl, rfl⟩, rfl, rfl, rfl, rfl, rfl⟩

/-- Taking the issued word. -/
theorem kept_taken (s : State) : Kept s { s with issue := none } :=
  ⟨⟨rfl, rfl, rfl⟩, fun _ => ⟨rfl, rfl, rfl, rfl, rfl, rfl⟩, fun _ => ⟨rfl, rfl⟩, fun _ _ => ⟨rfl, rfl⟩, rfl, rfl, rfl, rfl, rfl⟩

/-- An operation that waits. -/
theorem kept_hold (s : State) (op : Issued) (w : Wait) : Kept s (s.hold op w) :=
  ⟨⟨rfl, rfl, rfl⟩, fun _ => ⟨rfl, rfl, rfl, rfl, rfl, rfl⟩, fun _ => ⟨rfl, rfl⟩, fun _ _ => ⟨rfl, rfl⟩, rfl, rfl, rfl, rfl, rfl⟩

/- Faults. -/

theorem kept_stopCtx (s : State) (k : Nat) : Kept s (s.stopCtx k) := by
  unfold State.stopCtx
  split
  · split
    · exact kept_mapCtx fun _ => rfl
    · exact kept_mapCtx fun _ => rfl
    · exact kept_mapCtx fun _ => rfl
    · exact kept_mapCtx fun _ => rfl
    · exact .refl s
  · exact .refl s

theorem kept_postRecord (s : State) (r : Nat) (x : Record) (o : Option Issued) : Kept s (s.postRecord r x o) :=
  kept_setRegion rfl

theorem kept_takeFault (s : State) (f : Flt) : Kept s (s.takeFault f) := by
  obtain ⟨v, hv, he⟩ := recordFault_recorded s f (s.ctx? f.ctx)
  have hs : Kept s v := (kept_postRecord ..).trans (kept_of_onlyMessages hv)
  rw [State.takeFault, he]
  split
  · exact hs.trans (kept_stopCtx v f.ctx)
  · exact hs

theorem kept_dropBlockOps (s : State) (r bc : Nat) (keep : Bool) : Kept s (s.dropBlockOps r bc keep) where
  main := ⟨rfl, rfl, rfl⟩
  tiles x := by
    have h := lookD_map_view (fun m : MTile => (m.banks, m.fifo, m.lines, m.rows, m.wstate, m.full))
      (fun m : MTile => { m with waiting := m.waiting.filter (!opOfBlock r bc ·) }) (fun _ => rfl) MTile.reset x s.mtiles
    simp only [Prod.mk.injEq] at h
    exact h
  units _ := ⟨rfl, rfl⟩
  registers k b := by
    have h := congrArg Prod.snd (recordsAndBlocks_dropBlockOps s r bc keep k)
    unfold State.bctx
    rw [show ((s.dropBlockOps r bc keep).region k).bcs = (s.region k).bcs from h]
    exact ⟨rfl, rfl⟩
  system := by
    refine ⟨rfl, rfl, rfl, rfl, ?_⟩
    rw [dropBlockOps_ctxs, List.map_map]
    exact List.map_congr_left fun c _ => dropRequest_mode ..

theorem kept_stopBlock (s : State) (r bc : Nat) : Kept s (s.stopBlock r bc) :=
  (kept_dropBlockOps s r bc false).trans (kept_setBctx ⟨rfl, rfl⟩)

theorem kept_opFault (s : State) (op : Issued) (cause : Nat) (addr detail : Word) : Kept s (s.opFault op cause addr detail) := by
  unfold State.opFault State.faultAt
  split
  · exact kept_takeFault ..
  · exact (kept_takeFault ..).trans (kept_stopBlock ..)

/- Tokens on their way. -/

theorem kept_inject (s : State) (x y : TileId) (typ : Nat) (cargo : Cargo) (ws : List Word) :
    Kept s (s.inject x y typ cargo ws) := kept_setCtile ⟨rfl, rfl⟩

theorem kept_sendRemote (s : State) (op : Issued) (rank : Nat) (p : Parcel) : Kept s (s.sendRemote op rank p) := by
  unfold State.sendRemote
  extract_lets gang
  split
  · exact kept_takeFault ..
  · split
    · exact kept_takeFault ..
    · split
      · exact kept_takeFault ..
      · split
        · exact .refl s
        · exact Kept.trans (by exact kept_setCtile ⟨rfl, rfl⟩) (kept_of_onlyMessages (sendLink_onlyMessages ..))

theorem kept_toMemTile (s : State) (op : Issued) (m : TileId) (ch : Nat) (tok : Tok) : Kept s (s.toMemTile op m ch tok) := by
  unfold State.toMemTile
  simp only
  split
  · exact kept_setMtile ⟨rfl, rfl, rfl, rfl, rfl, rfl⟩
  · exact kept_setMtile ⟨rfl, rfl, rfl, rfl, rfl, rfl⟩

theorem kept_capture (s : State) (x : TileId) (q : Parcel) : Kept s (s.capture x q) := by
  unfold State.capture
  split
  · exact kept_setMtile ⟨rfl, rfl, rfl, rfl, rfl, rfl⟩
  · exact kept_setCtile ⟨rfl, rfl⟩

theorem kept_sends (s : State) (x y : TileId) (tok : Tok) : Kept s (s.sends x y tok) := kept_setCtile ⟨rfl, rfl⟩

theorem kept_receives (s : State) (x y : TileId) (tok : Tok) : Kept s (s.receives x y tok) := kept_setCtile ⟨rfl, rfl⟩

theorem kept_leaveTile (s : State) (x : TileId) (q : Parcel) {go : State → State} (h : ∀ v, Kept v (go v)) :
    Kept s (s.leaveTile x q go) := by
  unfold State.leaveTile
  split
  · exact kept_capture ..
  · exact (kept_sends ..).trans (h _)

theorem kept_route (s : State) (op : Issued) (x : TileId) (idx : Nat) (slot : Slot) (tok : Tok) :
    Kept s (s.route op x idx slot tok) := by
  unfold State.route
  split
  · exact .refl s
  · split
    · exact .refl s
    · simp only
      split
      · exact kept_setCtile ⟨rfl, rfl⟩
      · split
        · exact .refl s
        · split
          · exact kept_leaveTile _ _ _ fun v => (kept_receives ..).trans (kept_setCtile ⟨rfl, rfl⟩)
          · exact kept_toMemTile ..
      · split
        · exact kept_sendRemote ..
        · exact kept_leaveTile _ _ _ fun v => kept_inject ..
      · exact .refl s

theorem kept_mapBlock (s : State) (r bc : Nat) (f : Block → Block) : Kept s (s.mapBlock r bc f) := by
  unfold State.mapBlock
  simp only
  split
  · exact kept_setBctx ⟨rfl, rfl⟩
  · exact .refl s

theorem kept_blockPut (s : State) (op : Issued) (r bc idx : Nat) (slot : Slot) (tok : Tok) :
    Kept s (s.blockPut op r bc idx slot tok) := by
  unfold State.blockPut
  split
  · exact .refl s
  · split
    · exact kept_opFault ..
    · split
      · exact kept_opFault ..
      · exact kept_mapBlock ..

theorem kept_send1 (s : State) (op : Issued) (x : Option Target) (tok : Tok) : Kept s (s.send1 op x tok) := by
  unfold State.send1
  split
  · exact .refl s
  · split
    · exact kept_route ..
    · exact kept_blockPut ..

theorem kept_sendTo (s : State) (op : Issued) (ts : List (Option Target)) (tok : Tok) : Kept s (s.sendTo op ts tok) := by
  induction ts generalizing s with
  | nil => exact .refl s
  | cons x ts ih => exact (kept_send1 ..).trans (ih _)

theorem kept_emitTo (s : State) (op : Issued) (ts : List (Option Target)) (tok : Tok) : Kept s (s.emitTo op ts tok) := by
  induction ts generalizing s with
  | nil => exact .refl s
  | cons x ts ih => exact (kept_send1 ..).trans (ih _)

/-- Emitting a token. -/
theorem kept_emit (s : State) (op : Issued) (n : Niw) (tok : Tok) : Kept s (s.emit op n tok) := by
  unfold State.emit State.hand
  split
  · exact kept_inject ..
  · exact kept_emitTo ..

theorem kept_touch (s : State) (op : Issued) : Kept s (s.touch op) := by
  unfold State.touch
  split
  · exact .refl s
  · exact kept_setBctx ⟨rfl, rfl⟩

theorem kept_scalars {ts : List Tok} {k : State → State} (h : ∀ v, Kept v (k v)) (s : State) : Kept s (s.scalars op ts k) := by
  unfold State.scalars
  split
  · exact kept_opFault ..
  · exact h s

theorem kept_finish (s : State) (op : Issued) (n : Niw) (r : Except Bad Result) : Kept s (s.finish op n r) := by
  unfold State.finish
  split
  · exact kept_emit ..
  · exact kept_opFault ..

/- Firing. -/

/-- An instruction keeps these parts of the state where its body does. -/
theorem kept_of_fire {body : Issued → State → State} (h : ∀ op v, Kept v (body op v)) (ht : fire s n body = .next t) :
    Kept s t := by
  unfold fire at ht
  split at ht
  · cases ht; exact .refl s
  · refine (kept_taken s).trans ?_
    simp only at ht
    split at ht
    · cases ht; exact .refl _
    · cases ht; exact (kept_touch ..).trans (kept_emit ..)
    · cases ht; exact (kept_touch ..).trans (kept_sendTo ..)
    · cases ht; exact (kept_touch ..).trans (h ..)

theorem kept_of_fireRaw {body : Issued → State → State} (h : ∀ op v, Kept v (body op v)) (ht : fireRaw s body = .next t) :
    Kept s t := by
  unfold fireRaw at ht
  split at ht
  · cases ht; exact .refl s
  · cases ht; exact (kept_taken s).trans (h ..)

/-- An instruction that finishes with a result or a fault. -/
theorem kept_of_finish {r : Issued → State → Except Bad Result}
    (ht : fire s n (fun op s => s.finish op n (r op s)) = .next t) : Kept s t :=
  kept_of_fire (fun op v => kept_finish v op n (r op v)) ht

/-- An instruction that emits one token. -/
theorem kept_of_emit {m : Niw} {tok : Issued → State → Tok}
    (ht : fire s m (fun op s => s.emit op n (tok op s)) = .next t) : Kept s t :=
  kept_of_fire (fun op v => kept_emit v op n (tok op v)) ht

end Sys2Proof.Proofs
end

section

/-!
The instructions that take tokens and give tokens leave everything else alone: those that gather and those that read
accumulators among them.
-/

namespace Sys2Proof.Proofs

open Sys2Proof Sys2Proof.Machine Sys2Proof.Claims

variable {s t u : State} {op : Issued} {n : Niw}

/- Entries. -/

theorem kept_spill (s : State) (x : TileId) (c : Ctx) (e : Entry) : Kept s (s.spill x c e) := by
  unfold State.spill
  split
  · exact kept_mapCtx fun _ => rfl
  · exact kept_takeFault ..

theorem kept_insert (s : State) (x : TileId) (e : Entry) : Kept s (s.setCtile x ((s.ctile x).insert e)) :=
  kept_setCtile ⟨rfl, rfl⟩

theorem kept_allocate (s : State) (x : TileId) (c : Ctx) (p : CPlane) (e : Entry) : Kept s (s.allocate x c p e) := by
  unfold State.allocate
  simp only
  split
  · exact kept_insert ..
  · split
    · exact kept_spill ..
    · split
      · exact kept_insert ..
      · exact kept_spill ..

theorem kept_settle (s : State) (x : TileId) (c : Ctx) (p : CPlane) (e : Entry) (ready : Bool) :
    Kept s (s.settle x c p e ready) := by
  unfold State.settle
  split
  · exact kept_insert ..
  · split
    · simp only
      split
      · exact kept_insert ..
      · exact kept_spill ..
    · exact kept_allocate ..

theorem kept_takeAgg (s : State) (x : TileId) (c : Ctx) (tag : Word) (node : Nat) : Kept s (s.takeAgg x c tag node).2 := by
  unfold State.takeAgg
  simp only
  split
  · exact kept_setCtile ⟨rfl, rfl⟩
  · split
    · exact kept_mapCtx fun _ => rfl
    · exact .refl s

theorem kept_putAgg (s : State) (x : TileId) (k : Nat) (e : Entry) : Kept s (s.putAgg x k e) := by
  unfold State.putAgg
  split
  · exact kept_settle ..
  · exact .refl s

theorem kept_emitTree (s : State) (op : Issued) (n : Niw) (e : FloatEnv) (tag : Word) (vector : Bool)
    (x : Option (List (Option Nat))) (psn : Bool) : Kept s (s.emitTree op n e tag vector x psn) := by
  unfold State.emitTree
  split
  split
  · exact kept_opFault ..
  · exact kept_emit ..

theorem kept_tredInput (s : State) (op : Issued) (n : Niw) (x : TileId) (c : Ctx) (cw : Word) :
    Kept s (s.tredInput op n x c cw) := by
  unfold State.tredInput
  extract_lets +onlyGivenNames ws e
  split
  · exact kept_opFault ..
  · split
    · exact kept_opFault ..
    · split
      · exact kept_opFault ..
      · next g _ =>
        extract_lets +onlyGivenNames j old
        split
        split
        · exact kept_opFault ..
        · extract_lets +onlyGivenNames x
          split
          · exact kept_opFault ..
          · extract_lets +onlyGivenNames top leaf leaves' seen' s1 q full all s2
            have h1 : Kept s s1 := kept_takeAgg ..
            have h2 : Kept s s2 := by
              unfold s2
              split
              · exact h1
              · exact h1.trans (kept_putAgg ..)
            refine h2.trans ?_
            split
            · exact .refl s2
            · extract_lets +onlyGivenNames v mine vec psn
              split
              · exact kept_emitTree ..
              · split
                · exact kept_opFault ..
                · exact kept_emitTree ..

theorem kept_joinLeaf (s : State) (op : Issued) (n : Niw) (x : TileId) (c : Ctx) : Kept s (s.joinLeaf op n x c) := by
  unfold State.joinLeaf
  extract_lets +onlyGivenNames ws count
  split
  · exact kept_opFault ..
  · extract_lets +onlyGivenNames i old
    split
    split
    · exact kept_opFault ..
    · extract_lets +onlyGivenNames leaves psn
      have h1 : Kept s old.2 := kept_takeAgg ..
      split
      · exact h1.trans (kept_putAgg ..)
      · exact h1.trans (kept_emit ..)

/- Accumulator rows and the corner-turn buffer. -/

theorem kept_emitRows (s : State) (op : Issued) (n : Niw) (ws : List Nat) (l : List (Nat × Result)) :
    Kept s (s.emitRows op n ws l) := by
  induction l generalizing s with
  | nil => exact .refl s
  | cons x l ih =>
    unfold State.emitRows
    split
    · exact .refl s
    · exact (kept_emit ..).trans (ih _)

theorem kept_emitColumns (s : State) (op : Issued) (n : Niw) (ws : List Nat) (agg : Word) (k : Corner) (l : List Nat) :
    Kept s (s.emitColumns op n ws agg k l) := by
  induction l generalizing s with
  | nil => exact .refl s
  | cons x l ih =>
    unfold State.emitColumns
    split
    · exact kept_opFault ..
    · split
      · exact kept_opFault ..
      · exact (kept_emit ..).trans (ih _)

theorem kept_setCorner (s : State) (x : TileId) (k : Option Corner) :
    Kept s (s.setCtile x { s.ctile x with corner := k }) := kept_setCtile ⟨rfl, rfl⟩

theorem kept_cornerInput (s : State) (op : Issued) (n : Niw) (x : TileId) (agg : Word) (k : Corner) :
    Kept s (s.cornerInput op n x agg k) := by
  unfold State.cornerInput
  extract_lets +onlyGivenNames c ws r
  split
  · exact (kept_setCorner s x none).trans (kept_opFault ..)
  · extract_lets +onlyGivenNames k'
    split
    · exact kept_setCorner s x (some k')
    · exact (kept_setCorner s x none).trans (kept_emitColumns ..)

/- The instructions. -/

theorem kept_execSteer (h : execSteer n s = .next t) : Kept s t := by
  refine kept_of_fireRaw (fun op v => (kept_touch v op).trans ?_) h
  split
  · exact kept_emitTo ..
  · exact kept_send1 ..

theorem kept_execGrd (h : execGrd n s = .next t) : Kept s t := by
  refine kept_of_fire (fun op v => ?_) h
  split
  · exact .refl v
  · exact kept_emit ..

theorem kept_pushTag (s : State) (op : Issued) (n : Niw) (k : Nat) : Kept s (s.pushTag op n k) := by
  unfold State.pushTag
  split
  · exact kept_opFault ..
  · exact kept_emit ..

theorem kept_execPushf (h : execPushf n s = .next t) : Kept s t := by
  refine kept_of_fire (fun op v => ?_) h
  split
  · exact kept_scalars (fun w => kept_pushTag ..) v
  · exact kept_pushTag ..

theorem kept_execPopf (h : execPopf n s = .next t) : Kept s t := by
  refine kept_of_fire (fun op v => ?_) h
  split
  · exact kept_opFault ..
  · exact kept_emit ..

theorem kept_execTagrd (h : execTagrd n s = .next t) : Kept s t := by
  refine kept_of_fire (fun op v => ?_) h
  split
  · exact kept_opFault ..
  · exact kept_emit ..

theorem kept_execTagwr (h : execTagwr n s = .next t) : Kept s t := by
  refine kept_of_fire (fun op v => kept_scalars (fun w => ?_) v) h
  split
  · exact kept_opFault ..
  · exact kept_emit ..

theorem kept_execRet (h : execRet n s = .next t) : Kept s t := by
  refine kept_of_fire (fun op v => ?_) h
  extract_lets +onlyGivenNames ws
  split
  · exact kept_opFault ..
  · extract_lets +onlyGivenNames k
    split
    · exact kept_opFault ..
    · exact kept_route ..
  · exact .refl v

theorem kept_execTred (h : execTred n s = .next t) : Kept s t := by
  refine kept_of_fire (fun op v => ?_) h
  split
  · split
    · exact kept_scalars (fun w => kept_tredInput ..) v
    · exact kept_tredInput ..
  · exact .refl v

theorem kept_execJoinCount (h : execJoinCount n s = .next t) : Kept s t := by
  refine kept_of_fire (fun op v => ?_) h
  split
  · exact kept_joinLeaf ..
  · exact .refl v

theorem kept_execAcrd (h : execAcrd n s = .next t) : Kept s t := by
  refine kept_of_fire (fun op v => ?_) h
  split
  · exact .refl v
  · extract_lets +onlyGivenNames c q ws e
    split
    · exact kept_opFault ..
    · split
      · exact kept_opFault ..
      · split
        · exact kept_opFault ..
        · exact kept_emitRows ..

theorem kept_execCtrn (h : execCtrn n s = .next t) : Kept s t := by
  refine kept_of_fire (fun op v => ?_) h
  split
  · exact .refl v
  · split
    · exact kept_opFault ..
    · split
      · exact kept_opFault ..
      · split
        · exact kept_cornerInput ..
        · split
          · exact kept_cornerInput ..
          · exact kept_hold ..

theorem kept_execInteger {g : List Nat → Except Bad Nat} (h : execInteger n s g = .next t) : Kept s t := kept_of_finish h

theorem kept_execFloat {g : FloatEnv → Nat → Nat → List Exact → Exact} (h : execFloat n s g = .next t) : Kept s t :=
  kept_of_finish (r := fun op s => (s.floatEnv op n n.fmt false).apply op n (g (s.floatEnv op n n.fmt false))) h

/-- An instruction keeps the parts named on the path from `s` to `t`. -/
def Frames (s t : State) (n : Niw) (mk : Niw → Instr) : Prop := exec (mk n) s = .next t → Kept s t

/-- The moves and the steering of tokens. -/
theorem kept_moves : ∀ mk ∈ ([.nop, .mov, .gate, .const, .nullTok, .steer, .pchk, .grd, .join] : List (Niw → Instr)),
    Frames s t n mk := by
  simp only [List.forall_mem_cons, Frames, exec, execNop, execMov, execGate, execConst, execNullTok, execPchk, execJoin,
    State.emitVal, State.emitWord, State.nulls]
  exact ⟨kept_of_fire fun _ v => .refl v, kept_of_emit, kept_of_emit, kept_of_emit, kept_of_emit, kept_execSteer,
    kept_of_emit, kept_execGrd, kept_of_emit, by simp⟩

/-- The integer class. -/
theorem kept_integers : ∀ mk ∈ ([.add, .sub, .mul, .mulh, .mad, .div, .min, .max, .andI, .orI, .xorI, .andn, .shl, .shr, .sar,
    .clz, .popc, .sel, .cmp, .ext, .lea] : List (Niw → Instr)), Frames s t n mk := by
  simp only [List.forall_mem_cons, Frames, exec, execAdd, execSub, execMul, execMulh, execMad, execDiv, execMin, execMax, execAndI,
    execOrI, execXorI, execAndn, execShl, execShr, execSar, execClz, execPopc, execSel, execCmp, execExt, execLea]
  exact ⟨kept_execInteger, kept_execInteger, kept_execInteger, kept_execInteger, kept_execInteger, kept_execInteger,
    kept_execInteger, kept_execInteger, kept_execInteger, kept_execInteger, kept_execInteger, kept_execInteger,
    kept_execInteger, kept_execInteger, kept_execInteger, kept_execInteger, kept_execInteger, kept_execInteger,
    kept_of_finish, kept_of_finish, kept_of_finish, by simp⟩

/-- The float class. -/
theorem kept_floats : ∀ mk ∈ ([.fadd, .fsub, .fmul, .ffma, .fdiv, .fsqrt, .frcp, .frsq, .fmin, .fmax, .frnd, .fscl, .fsgn, .fcmp,
    .fcls, .fcvt] : List (Niw → Instr)), Frames s t n mk := by
  simp only [List.forall_mem_cons, Frames, exec, execFadd, execFsub, execFmul, execFfma, execFdiv, execFsqrt, execFrcp, execFrsq,
    execFmin, execFmax, execFrnd, execFscl, execFsgn, execFcmp, execFcls, execFcvt]
  exact ⟨kept_execFloat, kept_execFloat, kept_execFloat, kept_execFloat, kept_execFloat, kept_execFloat, kept_execFloat,
    kept_execFloat, kept_execFloat, kept_execFloat, kept_execFloat, kept_of_finish, kept_of_finish, kept_of_finish,
    kept_of_finish, kept_of_finish, by simp⟩

/-- The lane moves and reductions of one token. -/
theorem kept_lanes : ∀ mk ∈ ([.bcst, .shuf, .pack, .unpk, .vred, .scan, .rng] : List (Niw → Instr)),
    Frames s t n mk := by
  simp only [List.forall_mem_cons, Frames, exec, execBcst, execShuf, execPack, execUnpk, execVred, execScan, execRng]
  exact ⟨kept_of_finish, kept_of_finish, kept_of_finish, kept_of_finish, kept_of_finish, kept_of_finish, kept_of_finish,
    by simp⟩

/-- The instructions on tags, those that gather, and the reads of accumulators and system registers. -/
theorem kept_others : ∀ mk ∈ ([.joinCount, .tred, .ctrn, .acrd, .pushf, .popf, .tagrd, .tagwr, .ret, .sysrd] :
    List (Niw → Instr)), Frames s t n mk := by
  simp only [List.forall_mem_cons, Frames, exec, execSysrd, State.emitWord]
  exact ⟨kept_execJoinCount, kept_execTred, kept_execCtrn, kept_execAcrd, kept_execPushf, kept_execPopf, kept_execTagrd,
    kept_execTagwr, kept_execRet, kept_of_emit, by simp⟩

/-- Settles O57: every operation on the state that these instructions use keeps the parts named. -/
theorem tokenFrames : Obligations.TokenFrames := by
  unfold Obligations.TokenFrames
  intro s t n
  suffices h : ∀ mk ∈ tokenOps, Frames s t n mk from h
  have hm := kept_moves (s := s) (t := t) (n := n)
  have hi := kept_integers (s := s) (t := t) (n := n)
  have hf := kept_floats (s := s) (t := t) (n := n)
  have hl := kept_lanes (s := s) (t := t) (n := n)
  have ho := kept_others (s := s) (t := t) (n := n)
  simp only [tokenOps, List.forall_mem_cons] at hm hi hf hl ho ⊢
  simp only [hm, hi, hf, hl, ho, true_and]
  exact fun mk hmk => absurd hmk List.not_mem_nil

end Sys2Proof.Proofs
end

section

/-!
A commit whose store crosses the bridge on a failed lane. `Obligations.BlockEvents` says that the store reaches memory and
names no lane; by R180 and R184 (log 75) the bridge loses such a request, and memory stays as it was.
-/

namespace Sys2Proof.Proofs

open Sys2Proof Sys2Proof.Machine Sys2Proof.Claims

/-- The fields of the store: 32 bits under LSID 4. -/
def lostFields : Niw := ⟨.s32, .rne, .always, 2, false, 4, none, none, none⟩

/-- The released store of 5 at 4096, of block context 0 of region 0. -/
def lostStore : Issued :=
  let tok (w : Word) : Tok := ⟨0, .scalar w, true, false, false⟩
  { site := .block 0 0 0, word := (encode (.st lostFields)).getD 0, ctx := 1, tag := 0, node := 0, draw := 0,
    a := some (tok 4096), b := some (tok 5), c := none, p := none, konst := none, mode := ⟨.rne, false, false⟩,
    released := true, walk := none }

/-- The block: everything is counted, and the store is held. -/
def lostBlock : Block :=
  { addr := 0, ins := [], cons := [], sm := 16, wm := 0, mode := ⟨.rne, false, false⟩, toks := [], fired := [], doneS := 16,
    doneW := 0, exit := some .halt, stores := [⟨4, lostStore⟩], writes := [], hin := [], fixed := false }

/-- The leaf of the page at 4096: its frame is at 0x3000, which a channel of die E holds. -/
def lostLeaf : Word := 0x3043

/-- The machine: a page table at address 0 whose entry 0 leads to the table itself and whose entry 1 is the leaf, and a
failed lane of the bridge toward die E. -/
def lostState : State :=
  { State.reset with
    ctxs := [wideCtx], failed := [(.e, 792)], main := ⟨[(0, 1), (8, 0x43), (9, 0x30)], [], [], []⟩
    regions := [(0, { Region.reset with bcs := [{ BlockCtx.reset with st := .run lostBlock, ctx := 1 }] })] }

theorem lostState_memoryInv : MemoryInv lostState := ⟨by decide, fun _ => rfl⟩

/-- After the commit the word at 0x3000 is still zero. -/
theorem lostBytes : (nextView State.main (exec (.blockCommit 0 0) lostState)).map (fun m =>
    (List.range 4).map fun i => cellGet m.cells (0x3000 + i)) = some [0, 0, 0, 0] := by
  decide

/-- Refutes O47: the store of a block that commits is lost on a failed lane of the bridge. -/
theorem not_blockEvents : ¬ Obligations.BlockEvents := by
  unfold Obligations.BlockEvents
  intro h
  obtain ⟨-, -, -, hstore, -⟩ := h lostState 0 0 lostState_memoryInv (by decide)
  obtain ⟨u, hexec, hval, -⟩ := hstore lostBlock .halt lostStore lostFields 4 wideCtx 0x3000 lostLeaf rfl rfl rfl rfl rfl
    (by decide) rfl rfl rfl (by decide) rfl (by decide) rfl rfl rfl (by decide) (by decide) (.inl (by decide)) rfl rfl rfl
  have hcell := lostBytes
  rw [hexec, nextView_next] at hcell
  have hbytes : u.byteAt 0x3000 = 0 ∧ u.byteAt 0x3001 = 0 ∧ u.byteAt 0x3002 = 0 ∧ u.byteAt 0x3003 = 0 := by
    simpa [List.range_succ, State.byteAt] using hcell
  obtain ⟨h0, h1, h2, h3⟩ := hbytes
  have hsum : numberAt u 0x3000 (lostFields.fmt.width / 8) = 0 := by
    show numberAt u 0x3000 4 = _
    simp [numberAt, Finset.sum_range_succ, h0, h1, h2, h3]
  rw [hsum] at hval
  exact absurd hval (by decide)

end Sys2Proof.Proofs
end

section

/-!
A vector token that fits neither the vector operand buffer nor the Skein table. `Claims.Matching` counts only the spilled
entries of the table and lets such an entry spill; by R31 and R140 the loops of a splicing predecessor take room in the
table too, and a context may still have them while `splice` is none. Without room the token is dropped with 0x083.
-/

namespace Sys2Proof.Proofs

open Sys2Proof Sys2Proof.Machine Sys2Proof.Claims

/-- The node: an addition of two operands. -/
def crowdedFields : Niw := ⟨.s8, .rne, .always, 2, false, 0, some ⟨.a, 0⟩, none, none⟩

/-- The plane with that node in a template of one. -/
def crowdedPlane : CPlane := { widePlane with ins := [(encode (.add crowdedFields)).getD 0], tpls := [(0, 1)], widths := [] }

/-- The context: a Skein table of one entry, which a loop of a former configuration takes. -/
def crowdedCtx : Ctx := { wideCtx with skl := 0, former := [LoopRec.new 0] }

/-- The vector token for slot b. -/
def crowdedToken : Parcel := ⟨wideTile, 0, .b, ⟨tagOf 1 0 0, .vector [] 1, true, false, false⟩, false⟩

/-- The entry that the token meets. -/
def crowdedEntry : Entry := { Entry.new (tagOf 1 0 0) 0 with way := true }

/-- An entry of another node that holds the whole vector operand buffer. -/
def fullEntry : Entry := { Entry.new (tagOf 1 0 0) 5 with vslots := List.range 128 }

def crowdedState : State :=
  { State.reset with
    ctxs := [crowdedCtx]
    ctiles := [(wideTile, { CTile.reset with
      active := some crowdedPlane, map := [(1, 0)], own := [crowdedToken], entries := [crowdedEntry, fullEntry] })] }

theorem crowdedState_arrives : Arrives crowdedState wideTile crowdedToken := ⟨rfl, ⟨rfl, rfl, rfl⟩, rfl⟩

theorem crowdedState_nodeAt : NodeAt crowdedState wideTile crowdedCtx crowdedPlane 0 0x20 crowdedFields where
  plane := ⟨rfl, rfl⟩
  ctx := ⟨⟨rfl, rfl⟩, by decide, rfl, rfl⟩
  base := ⟨0, rfl, by decide⟩
  word := ⟨by decide, _, _, rfl, rfl, rfl⟩
  template := ⟨(0, 1), by decide, by decide, by decide⟩

/-- No slot of the vector operand buffer is free. -/
theorem not_freeSlot (e : Entry) (k : Nat) : ¬ FreeSlot ([] ++ [fullEntry]) e k := fun ⟨hk, _, hd⟩ =>
  hd fullEntry (by simp) (List.mem_range.2 hk)

/-- Nothing is spilled. -/
theorem crowdedSkein : nextView (fun u => (u.launched? 1).map (·.skein)) (exec (.tokenMatch wideTile) crowdedState) =
    some (some []) := by
  decide

/-- Refutes O46: the entry of the vector token finds no room in the Skein table. -/
theorem not_matchingAndFiring : ¬ Obligations.MatchingAndFiring := by
  unfold Obligations.MatchingAndFiring Claims.Matching
  rintro ⟨⟨hmatch, -⟩, -⟩
  obtain ⟨htaken, -⟩ := hmatch crowdedState wideTile crowdedToken crowdedCtx crowdedPlane 0x20 crowdedFields
    crowdedState_arrives crowdedState_nodeAt (by decide) rfl
  obtain ⟨hmeets, -⟩ := htaken (.inr (.inl ⟨rfl, by decide⟩))
  obtain ⟨hempty, -⟩ := hmeets crowdedEntry [] [fullEntry] rfl (by simp) ⟨rfl, rfl⟩ rfl rfl
  obtain ⟨u, hexec, -, -, -, -, hspill⟩ := hempty rfl rfl rfl rfl
  have hwaits : ¬ ∀ k, takesSlot crowdedFields k → k = crowdedToken.slot ∨ (slotOf crowdedEntry k).isSome = true := by
    intro hf
    have := hf .a (.inl ⟨rfl, by decide⟩)
    revert this
    decide
  obtain ⟨y, hy, hskein, -⟩ := hspill rfl (not_freeSlot _) hwaits rfl
  have hnone := crowdedSkein
  rw [hexec, nextView_next, show u.launched? 1 = some y from hy, Option.map_some, hskein] at hnone
  simp at hnone

end Sys2Proof.Proofs
end

section
/-!
O30: the matrix class (R42, R59, R102, R103, R172, R173, R296, R297).
-/
namespace Sys2Proof.Proofs
open Sys2Proof Sys2Proof.Machine Sys2Proof.Claims

/-! The canonical tree (R103): the model pairs neighbours level by level, the statement halves from the top. -/

section Tree
variable {f : Fmt} {rnd : Rnd} {o : Nat}

theorem treeLevel_take {α : Type} (c : α → α → α) : ∀ (k : Nat) (l : List α),
    treeLevel c (l.take (2 * k)) = (treeLevel c l).take k
  | 0, l => by simp [treeLevel]
  | k + 1, [] => by simp [treeLevel]
  | k + 1, [_] => by simp [treeLevel, Nat.mul_add]
  | k + 1, _ :: _ :: l => by simp [treeLevel, Nat.mul_add, treeLevel_take c k l]

theorem treeLevel_drop {α : Type} (c : α → α → α) : ∀ (k : Nat) (l : List α),
    treeLevel c (l.drop (2 * k)) = (treeLevel c l).drop k
  | 0, l => by simp
  | k + 1, [] => by simp [treeLevel]
  | k + 1, [_] => by simp [treeLevel, Nat.mul_add]
  | k + 1, _ :: _ :: l => by simp [treeLevel, Nat.mul_add, treeLevel_drop c k l]

/-- A tree of height h + 1 is the tree of height h over the pairs. -/
theorem canonical_treeLevel : ∀ (h : Nat) (l : List Nat),
    canonical f rnd o (h + 1) (l.map some) = canonical f rnd o h ((treeLevel (merged f rnd o) l).map some)
  | 0, [] => rfl
  | 0, [_] => rfl
  | 0, _ :: _ :: _ => rfl
  | h + 1, l => by
    have hp : 2 ^ (h + 1) = 2 * 2 ^ h := by rw [Nat.pow_succ, Nat.mul_comm]
    calc canonical f rnd o (h + 2) (l.map some)
        = merged? f rnd o (canonical f rnd o (h + 1) ((l.take (2 ^ (h + 1))).map some))
            (canonical f rnd o (h + 1) ((l.drop (2 ^ (h + 1))).map some)) := by rw [canonical, List.map_take, List.map_drop]
      _ = canonical f rnd o (h + 1) ((treeLevel (merged f rnd o) l).map some) := by
          rw [canonical_treeLevel h, canonical_treeLevel h, hp, treeLevel_take, treeLevel_drop, List.map_take, List.map_drop,
            ← canonical]

theorem head_tree_eq_canonical : ∀ (h : Nat) (l : List Nat),
    (tree (merged f rnd o) h l).head? = canonical f rnd o h (l.map some)
  | 0, [] => rfl
  | 0, _ :: _ => rfl
  | h + 1, l => by rw [tree, head_tree_eq_canonical h, canonical_treeLevel]

end Tree

/-! Fields of byte strings. -/

theorem ofBytes_drop : ∀ (k : Nat) (l : List Byte), ofBytes (l.drop k) = ofBytes l / 2 ^ (8 * k)
  | 0, l => by simp
  | k + 1, [] => by simp [ofBytes]
  | k + 1, b :: l => by
    have hb := b.isLt
    rw [List.drop_succ_cons, ofBytes_drop k l, ofBytes, Nat.mul_add, Nat.add_comm (8 * k), Nat.pow_add, ← Nat.div_div_eq_div_mul]
    congr 1
    omega

theorem ofBytes_take : ∀ (k : Nat) (l : List Byte), ofBytes (l.take k) = ofBytes l % 2 ^ (8 * k)
  | 0, l => by simp [ofBytes, Nat.mod_one]
  | k + 1, [] => by simp [ofBytes]
  | k + 1, b :: l => by
    have hb := b.isLt
    rw [List.take_succ_cons, ofBytes, ofBytes, ofBytes_take k l, Nat.mul_add, Nat.add_comm (8 * k), Nat.pow_add, Nat.mod_mul]
    have hq : (b.toNat + 256 * ofBytes l) / 2 ^ (8 * 1) = ofBytes l := by omega
    rw [hq]
    omega

theorem bits_mod_pow {v k lo len : Nat} (h : lo + len ≤ k) : bits (v % 2 ^ k) lo len = bits v lo len := by
  simp only [bits]
  apply Nat.eq_of_testBit_eq
  intro i
  simp only [Nat.testBit_mod_two_pow, Nat.testBit_div_two_pow]
  by_cases hi : i < len
  · simp [hi]; omega
  · simp [hi]

theorem bits_div_pow (v k lo len : Nat) : bits (v / 2 ^ k) lo len = bits v (k + lo) len := by
  simp only [bits, Nat.div_div_eq_div_mul, Nat.pow_add]

/-- A field of a piece of a byte string is a field of the string. -/
theorem bits_piece {l : List Byte} {a n lo len : Nat} (h : lo + len ≤ 8 * n) :
    bits (ofBytes ((l.drop a).take n)) lo len = bits (ofBytes l) (8 * a + lo) len := by
  rw [ofBytes_take, bits_mod_pow h, ofBytes_drop, bits_div_pow]

/-! The fields that a word decodes to. -/

theorem build_parts {fabric : Bool} {opc : Nat} {n : Niw} {i : Instr} (h : build fabric opc n = some i) :
    i.parts = some (opc, n) := by
  unfold build at h
  split at h
  all_goals simp only [Option.some.injEq, reduceCtorEq] at h
  all_goals subst h; repeat' split
  all_goals rfl

theorem decodeWord_parts {fabric : Bool} {w : Word} {i : Instr} (h : decodeWord fabric w = .ok i) :
    ∃ n, i.parts = some (bits w.toNat 56 8, n) := by
  unfold decodeWord at h
  split at h
  · cases h
  · split at h
    · cases h
    · rename_i n _
      split at h
      · cases h
      · split at h
        · rename_i hb
          cases h
          exact ⟨n, build_parts hb⟩
        · cases h

/-- A compute tile's operation has the fields of its word. -/
theorem niw_of_decode {op : Issued} {t : TileId} {i : Instr} {n : Niw} {opc : Nat} (hs : op.site = .tile t)
    (hd : decodeWord true op.word = .ok i) (hi : i.parts = some (opc, n)) : op.niw = n ∧ bits op.word.toNat 56 8 = opc := by
  obtain ⟨m, hm⟩ := decodeWord_parts hd
  obtain ⟨ho, hn⟩ : bits op.word.toNat 56 8 = opc ∧ m = n := by simpa using hm.symm.trans hi
  exact ⟨by simp [Issued.niw, siteIsBlock, hs, hd, hi], ho⟩

/-! The elements, the scales and the block sums of an operand (R69, R102, R172). -/

theorem dotExact_cons (x y : Exact) (xs ys : List Exact) : dotExact (x :: xs) (y :: ys) =
    some (((dotExact xs ys).map ((x.mul y).add false)).getD (x.mul y)) := by
  rw [dotExact]
  cases dotExact xs ys <;> rfl

theorem dotExact_eq_exactDot : ∀ ps : List (Exact × Exact), ps ≠ [] →
    dotExact (ps.map (·.1)) (ps.map (·.2)) = some (exactDot ps)
  | [], h => absurd rfl h
  | [_], _ => rfl
  | p :: q :: l, _ => by
    have ih := dotExact_eq_exactDot (q :: l) (by simp)
    exact (dotExact_cons p.1 p.2 _ _).trans (by rw [ih]; rfl)

section Operands
variable {f : Fmt}

/-- The formats of a matrix operand (R42). -/
def MatrixFormat (f : Fmt) : Prop := (f.width = 16 ∨ f.width = 8 ∨ f = .t6) ∧ f.isFloat = true

theorem matrixFormat_cases (h : MatrixFormat f) : f ∈ ([.t6, .t8, .e4m3, .e5m2, .bf16, .f16] : List Fmt) := by
  obtain ⟨hw, hf⟩ := h
  revert hw hf
  cases f <;> decide

/-- What the layout of an operand says of a matrix format (R69, R172). -/
theorem rowShape_layout (h : MatrixFormat f) : (rowShape f).2.1 = blockCount f ∧ 8 * (rowShape f).1 = 32 * f.width ∧
    (rowShape f).1 * blockCount f ≤ 256 ∧ 4096 ≤ (rowShape f).2.2 ∧ (rowShape f).2.2 ≤ 4256 ∧
    hasScales f = decide (f.width ≠ 16) ∧ (f.width ≠ 16 → 4096 + 16 * blockCount f ≤ (rowShape f).2.2) ∧
    0 < blockCount f ∧ blockCount f ≤ 10 := by
  have hc := matrixFormat_cases h
  simp only [List.mem_cons, List.not_mem_nil, or_false] at hc
  rcases hc with rfl | rfl | rfl | rfl | rfl | rfl <;> decide

/-- An element of a block, read from any prefix of the buffer that holds the rows. -/
theorem operandBlock_eq_bufferElem (h : MatrixFormat f) {buf : List Byte} {k r b : Nat} (hk : 4096 ≤ k) (hr : r < 16)
    (hb : b < blockCount f) :
    operandBlock f (buf.take k) r b = (List.range 32).map fun t => bufferElem f buf r (32 * b + t) := by
  obtain ⟨-, hlen, hrow, -⟩ := rowShape_layout h
  have hlast : (rowShape f).1 * (b + 1) ≤ 256 := (Nat.mul_le_mul_left _ hb).trans hrow
  refine List.map_congr_left fun t ht => ?_
  have ht : t < 32 := List.mem_range.1 ht
  have hin : f.width * t + f.width ≤ 8 * (rowShape f).1 := by
    have := Nat.mul_le_mul_left f.width (show t + 1 ≤ 32 from ht)
    rw [Nat.mul_add] at this
    omega
  have hpos : f.width * (32 * b + t) = 8 * ((rowShape f).1 * b) + f.width * t := by
    rw [Nat.mul_add, ← Nat.mul_assoc, ← Nat.mul_assoc, hlen, Nat.mul_comm f.width 32]
  have hrowEnd : 8 * ((rowShape f).1 * b) + (f.width * t + f.width) ≤ 8 * 256 := by
    rw [Nat.mul_add] at hlast
    omega
  calc bits (ofBytes (((buf.take k).drop (256 * r + (rowShape f).1 * b)).take (rowShape f).1)) (f.width * t) f.width
      = bits (ofBytes buf) (8 * (256 * r + (rowShape f).1 * b) + f.width * t) f.width := by
        rw [bits_piece hin, ofBytes_take, bits_mod_pow (by omega)]
    _ = bits (ofBytes ((buf.drop (256 * r)).take 256)) (f.width * (32 * b + t)) f.width := by
        rw [bits_piece (by omega), hpos]
        congr 1
        omega

/-- The scale token that the memory tile forms is the one that the multiplier expects. -/
theorem latchScale_scaleToken (h : MatrixFormat f) (buf : List Byte) {r b : Nat} (hr : r < 16) (hb : b < blockCount f) :
    latchScale f r b (scaleToken f (buf.take (rowShape f).2.2) r b) = some (bufferScale f buf r b) := by
  obtain ⟨hnb, -, -, -, -, hsc, hend, -, hten⟩ := rowShape_layout h
  by_cases hw : f.width = 16
  · simp [latchScale, scaleToken, bufferScale, hsc, hw]
  · have hrb : blockCount f * r + b < 16 * blockCount f := by
      have := Nat.mul_le_mul_left (blockCount f) (show r + 1 ≤ 16 from hr)
      rw [Nat.mul_add] at this
      omega
    have hin : 4096 + blockCount f * r + b < (rowShape f).2.2 := by have := hend hw; omega
    have hget : nth 0 (buf.take (rowShape f).2.2) (4096 + blockCount f * r + b) = buf.getD (4096 + blockCount f * r + b) 0 := by
      simp [nth, List.getElem?_take_of_lt hin]
    have hx := (buf.getD (4096 + blockCount f * r + b) 0).isLt
    simp only [latchScale, scaleToken, bufferScale, hsc, hw, hnb, hget, toNat_word, ne_eq, not_false_eq_true, decide_true, if_true,
      if_false, Bool.true_and, bits]
    generalize (buf.getD (4096 + blockCount f * r + b) 0).toNat = x at hx
    have hxs : (x + b * 2 ^ 16 + r * 2 ^ 32) % 2 ^ 64 = x + b * 2 ^ 16 + r * 2 ^ 32 := Nat.mod_eq_of_lt (by omega)
    rw [hxs, if_pos]
    · congr 1
      omega
    · simp only [Bool.and_eq_true, decide_eq_true_eq]
      omega

theorem scalesBad_eq_false (h : MatrixFormat f) (buf : List Byte) : scalesBad f (buf.take (rowShape f).2.2) = false := by
  obtain ⟨hnb, -⟩ := rowShape_layout h
  simp only [scalesBad, hnb, List.any_eq_false, List.mem_range]
  intro r hr hany
  obtain ⟨b, hb, hnone⟩ := List.any_eq_true.1 hany
  rw [latchScale_scaleToken h buf hr (List.mem_range.1 hb)] at hnone
  cases hnone

theorem appliedScale_eq (h : MatrixFormat f) (bsa : Bool) (buf : List Byte) {r b : Nat} (hr : r < 16) (hb : b < blockCount f) :
    appliedScale bsa f (buf.take (rowShape f).2.2) r b = if bsa then bufferScale f buf r b else 127 := by
  simp [appliedScale, operandScale, latchScale_scaleToken h buf hr hb]

/-- A block of a decoded operand, as the statement reads it. -/
def blockOf (bsa : Bool) (f : Fmt) (buf : List Byte) (r b : Nat) : List Exact × Nat :=
  ((List.range 32).map fun t => decodeElem f (bufferElem f buf r (32 * b + t)), if bsa then bufferScale f buf r b else 127)

theorem operandRows_get (h : MatrixFormat f) (bsa : Bool) (buf : List Byte) {r : Nat} (hr : r < 16) :
    nth [] (operandRows bsa f (buf.take (rowShape f).2.2)) r = (List.range (blockCount f)).map (blockOf bsa f buf r) := by
  obtain ⟨hnb, -, -, hk, -⟩ := rowShape_layout h
  simp only [operandRows, hnb, nth, List.getElem?_map, List.getElem?_range hr, Option.map_some, Option.getD_some]
  refine List.map_congr_left fun b hb => ?_
  have hb := List.mem_range.1 hb
  rw [operandBlock_eq_bufferElem h hk hr hb, appliedScale_eq h bsa buf hr hb, blockOf, List.map_map]
  rfl

theorem blockSum_eq_blockTerm (bsa : Bool) (ba bb : List Byte) (i j b : Nat) :
    blockSum (blockOf bsa f ba i b).1 (blockOf bsa f bb j b).1 (blockOf bsa f ba i b).2 (blockOf bsa f bb j b).2 =
      blockTerm bsa f ba bb i j b := by
  have hdot := dotExact_eq_exactDot ((List.range 32).map fun t =>
    (decodeElem f (bufferElem f ba i (32 * b + t)), decodeElem f (bufferElem f bb j (32 * b + t)))) (by simp)
  simp only [List.map_map, Function.comp_def] at hdot
  simp only [blockSum, blockTerm, blockOf, hdot]
  rfl

/-- One element of the accumulator tile after an MMA. -/
theorem mmaElem_eq_merged (h : MatrixFormat f) (bsa : Bool) (c : BitVec 32) (ba bb : List Byte) {i j : Nat} (hi : i < 16) (hj : j < 16)
    {r : Nat} (hr : canonical .f32 .rne 0 (clog2 (blockCount f))
      ((List.range (blockCount f)).map fun k => some (blockTerm bsa f ba bb i j k)) = some r) :
    mmaElem c (nth [] (operandRows bsa f (ba.take (rowShape f).2.2)) i) (nth [] (operandRows bsa f (bb.take (rowShape f).2.2)) j) =
      BitVec.ofNat 32 (merged .f32 .rne 0 c.toNat r) := by
  have hblks : ((((List.range (blockCount f)).map (blockOf bsa f ba i)).zip ((List.range (blockCount f)).map (blockOf bsa f bb j))).map
      fun p => blockSum p.1.1 p.2.1 p.1.2 p.2.2) = (List.range (blockCount f)).map (blockTerm bsa f ba bb i j) := by
    rw [List.zip_map', List.map_map]
    exact List.map_congr_left fun b _ => blockSum_eq_blockTerm bsa ba bb i j b
  have htree : (tree (merged .f32 .rne 0) (clog2 (blockCount f)) ((List.range (blockCount f)).map (blockTerm bsa f ba bb i j))).head? =
      some r := by
    rw [head_tree_eq_canonical, List.map_map]
    exact hr
  obtain ⟨l, hl⟩ := List.head?_eq_some_iff.1 htree
  simp only [mmaElem, operandRows_get h bsa ba hi, operandRows_get h bsa bb hj, hblks, List.length_map, List.length_range]
  have : tree (fun x y => combine .f32 .rne 0 x y) (clog2 (blockCount f))
      ((List.range (blockCount f)).map (blockTerm bsa f ba bb i j)) = r :: l := hl
  rw [this]
  rfl

end Operands

end Sys2Proof.Proofs
end

section
/-!
O30, continued: the matrix queue and what a finished operation does to the rings (R108, R296, R297).
-/
namespace Sys2Proof.Proofs
open Sys2Proof Sys2Proof.Machine Sys2Proof.Claims

variable {s u : State} {op : Issued} {n : Niw} {t : TileId} {a b : TileId × Nat}

/-- Two states agree on what finds the buffers of queued operations. -/
structure SameRings (s u : State) : Prop where
  ctile : ∀ x, (u.ctile x).active = (s.ctile x).active
  mtile : ∀ x, (u.mtile x).active = (s.mtile x).active

theorem SameRings.operandTile (h : SameRings s u) : u.operandTile = s.operandTile := by
  funext x w
  simp [State.operandTile, State.sameConfig, MTile.mode?, MTile.buffers, MTile.word, h.ctile, h.mtile]

theorem SameRings.depth (h : SameRings s u) (x : TileId) : (u.mtile x).depth = (s.mtile x).depth := by
  simp [MTile.depth, MTile.word, h.mtile]

theorem SameRings.hasReader (h : SameRings s u) (hc : u.ctiles = s.ctiles) : u.hasReader = s.hasReader := by
  funext x
  simp [State.hasReader, State.reads, h.operandTile, hc]

/-- The queue alone does not move a ring. -/
theorem sameRings_setMma (s : State) (t : TileId) (q : List Issued) : SameRings s (s.setCtile t { s.ctile t with mma := q }) where
  ctile x := by
    rw [State.ctile_setCtile]
    split
    · next h => rw [h]
    · rfl
  mtile _ := rfl

theorem bufferEmpty_isFull (s : State) (x y : TileId × Nat) :
    ((s.bufferEmpty x.1 x.2).mtile y.1).isFull y.2 = ((s.mtile y.1).isFull y.2 && decide (y ≠ x)) := by
  obtain ⟨xt, xk⟩ := x
  obtain ⟨yt, yk⟩ := y
  simp only [State.bufferEmpty, State.mtile_setMtile]
  by_cases ht : yt = xt
  · subst ht
    simp only [if_true, MTile.isFull, List.any_filter]
    rw [Bool.eq_iff_iff]
    simp only [List.any_eq_true, Bool.and_eq_true, decide_eq_true_eq, ne_eq, Prod.mk.injEq, true_and]
    constructor
    · rintro ⟨p, hp, hne, hk⟩
      exact ⟨⟨p, hp, hk⟩, fun h => hne (hk.trans h)⟩
    · rintro ⟨⟨p, hp, hk⟩, hne⟩
      exact ⟨p, hp, fun h => hne (hk.symm.trans h), hk⟩
  · simp [ht]

theorem sameRings_doneReading (s : State) (x : TileId × Nat) : SameRings s (s.doneReading x) := by
  unfold State.doneReading
  split
  · exact ⟨fun _ => rfl, fun _ => rfl⟩
  · refine ⟨fun _ => rfl, fun y => ?_⟩
    simp only [State.bufferEmpty, State.mtile_setMtile]
    split
    · next h => rw [h]
    · rfl

theorem doneReading_ctiles (s : State) (x : TileId × Nat) : (s.doneReading x).ctiles = s.ctiles := by
  unfold State.doneReading
  split <;> rfl

theorem doneReading_ctile (s : State) (x : TileId × Nat) (y : TileId) : (s.doneReading x).ctile y = s.ctile y := by
  simp only [State.ctile, doneReading_ctiles]

theorem hasReader_doneReading (s : State) (x : TileId × Nat) : (s.doneReading x).hasReader = s.hasReader :=
  (sameRings_doneReading s x).hasReader (doneReading_ctiles s x)

/-- A buffer stays full exactly where a queued operation still reads it (R108). -/
theorem doneReading_isFull (s : State) (x y : TileId × Nat) :
    ((s.doneReading x).mtile y.1).isFull y.2 = ((s.mtile y.1).isFull y.2 && (s.hasReader x || decide (y ≠ x))) := by
  unfold State.doneReading
  split
  · next h => simp [h]
  · next h => simp [bufferEmpty_isFull, h]

/-- The state of both rings after an operation has read its two buffers. -/
def readBoth (s : State) (a b : TileId × Nat) : State := (s.doneReading a).doneReading b

theorem readBoth_ctile (s : State) (y : TileId) : (readBoth s a b).ctile y = s.ctile y := by
  rw [readBoth, doneReading_ctile, doneReading_ctile]

theorem readBoth_isFull (s : State) (y : TileId × Nat) (hy : y = a ∨ y = b) (hf : (s.mtile y.1).isFull y.2 = true) :
    ((readBoth s a b).mtile y.1).isFull y.2 = s.hasReader y := by
  rw [readBoth, doneReading_isFull, hasReader_doneReading, doneReading_isFull, hf]
  by_cases hab : a = b
  · have : y = a := hy.elim id fun h => h.trans hab.symm
    simp [this, hab]
  · rcases hy with rfl | rfl
    · simp [hab]
    · simp [Ne.symm hab]

/-- The operation at the head of a queue runs once its buffers are full and its turn has come (R297, log 56). -/
theorem nextMma_head {rest : List Issued} (hq : (s.ctile t).mma = op :: rest) (ha : s.operandTile t op.ta.word = some a)
    (hb : s.operandTile t op.tb.word = some b) (hfa : (s.mtile a.1).isFull a.2 = true) (hfb : (s.mtile b.1).isFull b.2 = true)
    (ht : s.inTurn t op = true) : s.nextMma t = some (op, rest) := by
  have hfilled : s.filled t op = true := by
    simp [State.filled, State.reads, ha, hb, hfa, hfb]
  simp [State.nextMma, hq, takeFirst, hfilled, ht]

/-- A buffer of an operand, whole and as far as its format reads it. -/
theorem readBank_take (s : State) (x : TileId) (p : Nat) {k : Nat} (hk : k ≤ 4256) :
    s.readBank x p k = (s.readBank x p 4256).take k := by
  simp only [State.readBank, cellsGet, ← List.map_take, List.take_range, Nat.min_eq_left hk]

/-- MMA and MMAZ queue when nothing of the queue names their accumulator tile (R173, R297). -/
theorem queueMma_busy (hs : op.site = .tile t) (ha : s.operandTile t op.ta.word = some a) (hb : s.operandTile t op.tb.word = some b)
    (zero : Bool) (h : (s.ctile t).qBusy (qOf n) = true) : s.queueMma op n zero = s.opFault op 0x1C2 0 0 := by
  simp [State.queueMma, hs, ha, hb, h]

theorem queueMma_idle (hs : op.site = .tile t) (ha : s.operandTile t op.ta.word = some a) (hb : s.operandTile t op.tb.word = some b)
    (hda : (rowShape n.fmt).2.2 ≤ (s.mtile a.1).depth) (hdb : (rowShape n.fmt).2.2 ≤ (s.mtile b.1).depth)
    {zero : Bool} (h : (s.ctile t).qBusy (qOf n) = false) (hf : zero = true ∨ ∀ f ∈ ((s.ctile t).acc (qOf n)).fmt, f = n.fmt) :
    s.queueMma op n zero = s.setCtile t { s.ctile t with mma := (s.ctile t).mma ++ [op] } := by
  have hfmt : (!zero && ((s.ctile t).acc (qOf n)).fmt.any fun f => decide (f ≠ n.fmt)) = false := by
    rcases hf with rfl | hf
    · rfl
    · cases hx : ((s.ctile t).acc (qOf n)).fmt with
      | none => simp
      | some f => simp [hf f (by simp [hx])]
  simp only [State.queueMma, hs, ha, hb, h, hfmt]
  simp [Nat.not_lt.2 hda, Nat.not_lt.2 hdb]

theorem queueMma_format (hs : op.site = .tile t) (ha : s.operandTile t op.ta.word = some a) (hb : s.operandTile t op.tb.word = some b)
    (h : (s.ctile t).qBusy (qOf n) = false) {f : Fmt} (hf : ((s.ctile t).acc (qOf n)).fmt = some f) (hne : f ≠ n.fmt) :
    s.queueMma op n false = s.opFault op 0x1C1 0 0 := by
  simp [State.queueMma, hs, ha, hb, h, hf, hne]

theorem qOf_eq_mod (n : Niw) : qOf n = n.imm.toNat % 8 := bits_zero _ 3

theorem qBusy_iff (c : CTile) (k : Nat) : c.qBusy k = true ↔ ∃ o ∈ c.mma, o.niw.imm.toNat % 8 = k := by
  simp [CTile.qBusy, qOf_eq_mod]

theorem exec_mma (h : Issues s op n) (ha : op.ta.isVec = false) (hb : op.tb.isVec = false) :
    exec (.mma n) s = .next ((after s op).queueMma op n false) := by
  have hsc : ∀ t ∈ [op.ta, op.tb], t.isVec = false := by simp [ha, hb]
  simp only [exec, execMma, fire_of_issues h, scalars_of_all hsc]

theorem exec_mmaz (h : Issues s op n) (ha : op.ta.isVec = false) (hb : op.tb.isVec = false) :
    exec (.mmaz n) s = .next ((after s op).queueMma op n true) := by
  have hsc : ∀ t ∈ [op.ta, op.tb], t.isVec = false := by simp [ha, hb]
  simp only [exec, execMmaz, fire_of_issues h, scalars_of_all hsc]

/-- The queueing half of O30. -/
theorem mma_queues (h : Issues s op n) (hs : op.site = .tile t) (hva : op.ta.isVec = false) (hvb : op.tb.isVec = false)
    (ha : (after s op).operandTile t op.ta.word = some a) (hb : (after s op).operandTile t op.tb.word = some b) :
    let c := (after s op).ctile t
    ((∃ o ∈ c.mma, o.niw.imm.toNat % 8 = n.imm.toNat % 8) → Faults (.mma n) s op 0x1C2 ∧ Faults (.mmaz n) s op 0x1C2) ∧
    ((∀ o ∈ c.mma, o.niw.imm.toNat % 8 ≠ n.imm.toNat % 8) → (rowShape n.fmt).2.2 ≤ ((after s op).mtile a.1).depth →
      (rowShape n.fmt).2.2 ≤ ((after s op).mtile b.1).depth →
      exec (.mmaz n) s = .next ((after s op).setCtile t { c with mma := c.mma ++ [op] }) ∧
      ((∀ f ∈ (c.acc (n.imm.toNat % 8)).fmt, f = n.fmt) →
        exec (.mma n) s = .next ((after s op).setCtile t { c with mma := c.mma ++ [op] })) ∧
      ((∃ f, (c.acc (n.imm.toNat % 8)).fmt = some f ∧ f ≠ n.fmt) → Faults (.mma n) s op 0x1C1)) := by
  intro c
  rw [← qOf_eq_mod]
  constructor
  · intro hbusy
    have hbusy : c.qBusy (qOf n) = true := (qBusy_iff ..).2 hbusy
    exact ⟨by rw [Faults, exec_mma h hva hvb, queueMma_busy hs ha hb _ hbusy],
      by rw [Faults, exec_mmaz h hva hvb, queueMma_busy hs ha hb _ hbusy]⟩
  · intro hidle hda hdb
    have hidle : c.qBusy (qOf n) = false := Bool.eq_false_iff.2 fun hbusy => by
      obtain ⟨o, ho, hq⟩ := (qBusy_iff ..).1 hbusy
      exact hidle o ho hq
    refine ⟨by rw [exec_mmaz h hva hvb, queueMma_idle hs ha hb hda hdb hidle (.inl rfl)],
      fun hf => by rw [exec_mma h hva hvb, queueMma_idle hs ha hb hda hdb hidle (.inr hf)], ?_⟩
    rintro ⟨f, hf, hne⟩
    rw [Faults, exec_mma h hva hvb, queueMma_format hs ha hb hidle hf hne]

/-- The accumulator tile that an operation leaves, from the whole buffers. -/
def mmaAcc (s : State) (t : TileId) (op : Issued) (n : Niw) (zero : Bool) (a b : TileId × Nat) : Acc :=
  let read (x : TileId × Nat) : List Byte := s.readBank x.1 (x.2 * (s.mtile x.1).depth) (rowShape n.fmt).2.2
  mmaResult (s.ctile t).bsa op n zero ((s.ctile t).acc (qOf n)) (read a) (read b)

/-- The state once an operation has left the queue and read its buffers. -/
def afterReading (s : State) (t : TileId) (rest : List Issued) (a b : TileId × Nat) : State :=
  readBoth (s.setCtile t { s.ctile t with mma := rest }) a b

theorem afterReading_ctile (s : State) (t : TileId) (rest : List Issued) (a b : TileId × Nat) :
    (afterReading s t rest a b).ctile t = { s.ctile t with mma := rest } := by
  rw [afterReading, readBoth_ctile, State.ctile_setCtile_same]

/-- MMA_EXECUTE on the head of a queue whose operands are in place (R297). -/
theorem exec_mmaExecute {rest : List Issued} (hm : MatrixFormat n.fmt) (zero : Bool) (hnext : s.nextMma t = some (op, rest))
    (hn : op.niw = n) (hz : bits op.word.toNat 56 8 = if zero then 0x91 else 0x90) (hr : op.mode.ntrp = false)
    (ha : s.operandTile t op.ta.word = some a) (hb : s.operandTile t op.tb.word = some b) :
    let u := afterReading s t rest a b
    exec (.mmaExecute t) s = .next (
      if zero = false ∧ ((s.ctile t).acc (qOf n)).abandoned = true then u.opFault op 0x0C0 0 0
      else (u.setCtile t { u.ctile t with q := setNth (u.ctile t).q (qOf n) (mmaAcc s t op n zero a b) }).emit op n
        ⟨op.tag, .scalar 1, true, op.poisoned, false⟩) := by
  intro u
  have hrings := sameRings_setMma s t rest
  have hk : (rowShape n.fmt).2.2 ≤ 4256 := (rowShape_layout hm).2.2.2.2.1
  have hscales (x : TileId) (p : Nat) : scalesBad n.fmt (s.readBank x p (rowShape n.fmt).2.2) = false := by
    rw [readBank_take s x p hk, scalesBad_eq_false hm]
  have hzero : decide (bits op.word.toNat 56 8 = 0x91) = zero := by
    rw [hz]
    cases zero <;> rfl
  have hread (x : TileId) (p k : Nat) : (s.setCtile t { s.ctile t with mma := rest }).readBank x p k = s.readBank x p k := rfl
  have hacc (q : List Issued) : ({ s.ctile t with mma := q } : CTile).acc = (s.ctile t).acc := rfl
  have hbsa (q : List Issued) : ({ s.ctile t with mma := q } : CTile).bsa = (s.ctile t).bsa := rfl
  simp only [exec, execMmaExecute, hnext, hn, hrings.operandTile, ha, hb, hrings.depth, hread, hscales, hzero, hr,
    doneReading_ctile, State.ctile_setCtile_same, hacc, hbsa, u, afterReading, readBoth, Bool.or_false, Bool.false_and,
    Bool.false_eq_true, if_false]
  by_cases hab : zero = false ∧ ((s.ctile t).acc (qOf n)).abandoned = true
  · obtain ⟨rfl, hab⟩ := hab
    simp only [hab, Bool.not_false, Bool.and_self, and_self, if_true]
  · have hgo : (!zero && ((s.ctile t).acc (qOf n)).abandoned) = false := by
      cases zero
      · simpa using hab
      · rfl
    simp only [hgo, hab, Bool.false_eq_true, if_false]
    rfl

theorem accAt_mmaResult (bsa : Bool) (op : Issued) (n : Niw) (zero : Bool) (old : Acc) (ba bb : List Byte) {i j : Nat}
    (hi : i < 16) (hj : j < 16) : accAt (mmaResult bsa op n zero old ba bb) i j =
      mmaElem (accAt (if zero then Acc.zero else old) i j) (nth [] (operandRows bsa n.fmt ba) i)
        (nth [] (operandRows bsa n.fmt bb) j) := by
  simp [accAt, mmaResult, nth, hi, hj]

theorem accAt_zero (i j : Nat) : accAt Acc.zero i j = 0 := by
  simp only [accAt, Acc.zero, List.getD_eq_getElem?_getD, List.getElem?_replicate]
  split
  · simp only [Option.getD_some, List.getElem?_replicate]
    split <;> rfl
  · rfl

/-- The element of the accumulator tile that an operation leaves (R102, R297). -/
theorem accAt_mmaAcc (hm : MatrixFormat n.fmt) (zero : Bool) {i j : Nat} (hi : i < 16) (hj : j < 16) {r : Nat}
    (hr : let buf (x : TileId × Nat) : List Byte := s.readBank x.1 (x.2 * (s.mtile x.1).depth) 4256
      canonical .f32 .rne 0 (clog2 (blockCount n.fmt)) ((List.range (blockCount n.fmt)).map fun k =>
        some (blockTerm (s.ctile t).bsa n.fmt (buf a) (buf b) i j k)) = some r) :
    accAt (mmaAcc s t op n zero a b) i j =
      BitVec.ofNat 32 (merged .f32 .rne 0 (if zero then 0 else (accAt ((s.ctile t).acc (qOf n)) i j).toNat) r) := by
  have hk : (rowShape n.fmt).2.2 ≤ 4256 := (rowShape_layout hm).2.2.2.2.1
  rw [mmaAcc, accAt_mmaResult _ _ _ _ _ _ _ hi hj]
  beta_reduce
  rw [readBank_take s a.1 _ hk, readBank_take s b.1 _ hk,
    mmaElem_eq_merged hm _ _ _ _ hi hj hr]
  cases zero
  · rfl
  · simp [accAt_zero]

/-- Settles O30: the queue, and an operation of its head as a sum of the block sums by the canonical tree. -/
theorem matrixMultiply : Obligations.MatrixMultiply := by
  unfold Obligations.MatrixMultiply
  intro s t q
  constructor
  · intro op n a b h hs hva hvb s1 c ha hb
    exact mma_queues h hs hva hvb ha hb
  · intro op rest n zero a b hq hd hs hf hfl hr ha hb hlen hfa hfb hturn others buf old
    have hm : MatrixFormat n.fmt := ⟨hf, hfl⟩
    obtain ⟨hn, hz⟩ : op.niw = n ∧ bits op.word.toNat 56 8 = if zero then 0x91 else 0x90 :=
      niw_of_decode hs hd (by cases zero <;> rfl)
    have hexec := exec_mmaExecute hm zero (nextMma_head hq ha hb hfa hfb hturn) hn hz hr ha hb
    dsimp only at hexec
    have hqn : q n = qOf n := (qOf_eq_mod n).symm
    have hset : qOf n < (s.ctile t).q.length := by
      rw [hlen, qOf_eq_mod]
      omega
    rw [hqn]
    constructor
    · intro hzero hab
      rw [if_pos ⟨hzero, hab⟩] at hexec
      exact ⟨_, hexec, afterReading_ctile s t rest a b⟩
    · intro hgo
      rw [if_neg (by rintro ⟨hzero, hab⟩; rcases hgo with h | h <;> simp_all)] at hexec
      refine ⟨_, hexec, ?_⟩
      simp only [State.setCtile_mtile, State.ctile_setCtile_same, afterReading_ctile, CTile.acc, nth_setNth, hset, and_true, if_true]
      refine ⟨trivial, rfl, readBoth_isFull _ _ (.inl rfl) hfa, readBoth_isFull _ _ (.inr rfl) hfb, fun k hk => by simp [hk], ?_⟩
      intro i j hi hj r hcan
      rw [accAt_mmaAcc hm zero hi hj hcan, ← hqn]

end Sys2Proof.Proofs
end

section
/-!
O41: launches, seeds, the grant and the injection of seeds (R49, R216, R218, R286, R287, R319).
-/
namespace Sys2Proof.Proofs
open Sys2Proof Sys2Proof.Machine Sys2Proof.Claims

variable {s u : State} {op : Issued} {n : Niw} {c x : Ctx} {ws : List Word}

/-! Words as bytes and back. -/

theorem ofBytes_bytesOf : ∀ (k v : Nat), ofBytes (bytesOf k v) = v % 2 ^ (8 * k)
  | 0, v => by simp [bytesOf, ofBytes, Nat.mod_one]
  | k + 1, v => by
    rw [bytesOf, ofBytes, ofBytes_bytesOf k, Nat.mul_add, Nat.add_comm (8 * k), Nat.pow_add, Nat.mod_mul, BitVec.toNat_ofNat]

theorem length_bytesOf : ∀ (k v : Nat), (bytesOf k v).length = k
  | 0, _ => rfl
  | k + 1, v => by rw [bytesOf, List.length_cons, length_bytesOf k]

theorem wordsOf_wordBytes : ∀ ws : List Word, wordsOf ws.length (wordBytes ws) = ws
  | [] => rfl
  | w :: ws => by
    have hw : (bytesOf 8 w.toNat).length = 8 := length_bytesOf ..
    have hb : wordBytes (w :: ws) = bytesOf 8 w.toNat ++ wordBytes ws := rfl
    rw [List.length_cons, wordsOf, hb, List.take_left' hw, List.drop_left' hw, wordsOf_wordBytes ws, ofBytes_bytesOf,
      Nat.mod_eq_of_lt (show w.toNat < 2 ^ (8 * 8) from w.isLt)]
    exact congrArg (· :: ws) (BitVec.ofNat_toNat ..)

/-- A read of virtual memory succeeds through its translated pieces. -/
theorem readVirt_ok {va k align : Nat} {bs : List Byte} (h : s.readVirt op va k align = .ok bs) :
    ∃ ps, s.range op .read va k align = .ok ps ∧ s.readPieces ps = bs := by
  unfold State.readVirt at h
  cases hr : s.range op .read va k align with
  | ok ps => exact ⟨ps, rfl, by simpa [hr, Res.bind] using h⟩
  | fault => simp [hr, Res.bind] at h
  | miss => simp [hr, Res.bind] at h

/-! LAUNCH. -/

/-- The count in which a LAUNCH keeps its mode (R99). -/
def keptCount (s : State) (op : Issued) : Nat :=
  if op.count ≠ 0 then op.count else 1 + ((s.ctx? op.ctx).elim 0 (·.mode)).toNat

theorem keepMode_eq (s : State) (op : Issued) : op.keepMode s = { op with count := keptCount s op } := by
  unfold Issued.keepMode keptCount
  split <;> rfl

theorem opFault_count (s : State) (op : Issued) (k cause : Nat) (a d : Word) :
    s.opFault { op with count := k } cause a d = s.opFault op cause a d := rfl

theorem xlateAll_count (s : State) (op : Issued) (k : Nat) (need : Need) : ∀ l : List (Nat × Nat),
    s.xlateAll { op with count := k } need l = s.xlateAll op need l
  | [] => rfl
  | (va, m) :: l => by
    rw [State.xlateAll, State.xlateAll, xlateAll_count s op k need l]
    rfl

theorem range_count (s : State) (op : Issued) (k : Nat) (need : Need) (va m align : Nat) :
    s.range { op with count := k } need va m align = s.range op need va m align := by
  simp only [State.range, xlateAll_count]

section Launch
variable (h : Issues s op n) (ha : op.ta.isVec = false) (hb : op.tb.isVec = false)
include h ha hb

theorem launch_operands_bad (hbad : 2 ^ 42 ≤ op.tb.word.toNat ∨ op.tb.word.toNat = 0 ∨ op.ta.word.toNat % 64 ≠ 0) :
    Faults (.launch n) s op 0x041 := by
  have hsc : ∀ t ∈ [op.ta, op.tb], t.isVec = false := by simp [ha, hb]
  simp only [Faults, exec, execLaunch, fire_of_issues h, scalars_of_all hsc, keepMode_eq, opFault_count]
  exact congrArg _ (if_pos hbad)

variable {ps : List (Nat × Nat)} (hgood : ¬ (2 ^ 42 ≤ op.tb.word.toNat ∨ op.tb.word.toNat = 0 ∨ op.ta.word.toNat % 64 ≠ 0))
  (hps : (after s op).range op .read op.ta.word.toNat 64 64 = .ok ps)
include hgood hps

theorem launch_descriptor_bad (hd : descOf (wordsOf 8 ((after s op).readPieces ps)) = none) : Faults (.launch n) s op 0x041 := by
  have hsc : ∀ t ∈ [op.ta, op.tb], t.isVec = false := by simp [ha, hb]
  simp only [Faults, exec, execLaunch, fire_of_issues h, scalars_of_all hsc, keepMode_eq, opFault_count]
  refine congrArg _ ((if_neg hgood).trans ?_)
  have hps' := (range_count (after s op) op (keptCount (after s op) op) .read op.ta.word.toNat 64 64).trans hps
  change State.withPieces _ _ _ (State.range _ _ .read op.ta.word.toNat 64 64) _ = _
  rw [hps', State.withPieces, State.withParts, hd]

theorem launch_accepts (hc : (after s op).ctx? op.ctx = some c) {d : Desc}
    (hd : descOf (wordsOf 8 ((after s op).readPieces ps)) = some d) (hg : c.gang = 0 ∨ (after s op).hasFeature 1 = true)
    (hw : (after s op).waiting < 256) :
    exec (.launch n) s = .next ((after s op).accept
      { (d.ctx op.ta.word op.tb.word.toNat (siteRegion op.site) n.imm.toNat).launchedBy c (op.keepMode (after s op)) with
        mode := word (keptCount (after s op) op - 1) }) := by
  have hsc : ∀ t ∈ [op.ta, op.tb], t.isVec = false := by simp [ha, hb]
  have hgang : (c.gang ≠ 0 && !(after s op).hasFeature 1) = false := by rcases hg with hg | hg <;> simp [hg]
  have hps' := (range_count (after s op) op (keptCount (after s op) op) .read op.ta.word.toNat 64 64).trans hps
  simp only [exec, execLaunch, fire_of_issues h, scalars_of_all hsc, keepMode_eq]
  refine congrArg _ ((if_neg hgood).trans ?_)
  change State.withPieces _ _ _ (State.range _ _ .read op.ta.word.toNat 64 64) _ = _
  rw [hps', State.withPieces, State.withParts, hd, hc]
  simp only [hgang, Bool.false_eq_true, if_false, Nat.not_le.2 hw]
  rfl

end Launch

theorem nth_eq_getD (l : List Word) (i : Nat) : nth 0 l i = l.getD i 0 := rfl

theorem bits_high (w : Word) (lo : Nat) (h : lo ≤ 64) : bits w.toNat lo (64 - lo) = w.toNat / 2 ^ lo := by
  refine Nat.mod_eq_of_lt ?_
  rw [Nat.div_lt_iff_lt_mul (by positivity), ← Nat.pow_add, Nat.sub_add_cancel h]
  exact w.isLt

/-- The descriptor of words that keep their limits. -/
def descriptor (ws : List Word) : Desc :=
  let w (k : Nat) : Nat := (ws.getD k 0).toNat
  ⟨ws.getD 0 0, ws.getD 1 0, w 2 % 2 ^ 12, w 2 / 2 ^ 16 % 2 ^ 5, w 2 / 2 ^ 21 % 2 ^ 3, w 3 % 2 ^ 16, w 3 / 2 ^ 16 % 2 ^ 16,
    w 4 / 2 ^ 12 % 2 ^ 40 * 4096⟩

/-- A descriptor is one of eight words within their limits (R216). -/
theorem descOf_eq (h8 : ws.length = 8) [Decidable (GoodDescriptor ws)] :
    descOf ws = if GoodDescriptor ws then some (descriptor ws) else none := by
  have h2 := bits_high (nth 0 ws 2) 24 (by decide)
  have h3 := bits_high (nth 0 ws 3) 32 (by decide)
  have h4 := bits_high (nth 0 ws 4) 52 (by decide)
  have hword (w : Word) : w.toNat = 0 ↔ w = 0 := by rw [← BitVec.toNat_inj]; rfl
  by_cases g : GoodDescriptor ws
  · rw [if_pos g]
    obtain ⟨-, himg, ⟨hp, hp'⟩, ⟨hk, hk'⟩, ⟨hz, hz'⟩, hz3, ⟨hr, hr'⟩, h5, h6, h7⟩ := g
    rw [← hword] at h5 h6 h7
    simp only [← nth_eq_getD] at himg hp hp' hk hk' hz hz' hz3 hr hr' h5 h6 h7
    refine (if_neg fun hbad => ?_).trans ?_
    · simp only [h2, h3, h4, Bool.or_eq_true, decide_eq_true_eq] at hbad
      simp only [bits] at hbad
      omega
    · simp only [bits_zero]
      rfl
  · rw [if_neg g]
    refine if_pos (by_contra fun hok => g ?_)
    simp only [Bool.or_eq_true, decide_eq_true_eq, not_or, ne_eq, not_not, Nat.not_lt, hword] at hok
    obtain ⟨⟨⟨⟨⟨⟨⟨⟨⟨⟨⟨⟨himg, hp⟩, hp'⟩, hz⟩, hk⟩, hk'⟩, hz'⟩, hz3⟩, hr⟩, hr'⟩, h5⟩, h6⟩, h7⟩ := hok
    rw [bits_zero] at hp hp' hr
    exact ⟨h8, himg, ⟨hp, hp'⟩, ⟨hk, hk'⟩, ⟨hz, h2.symm.trans hz'⟩, h3.symm.trans hz3, ⟨hr, h4.symm.trans hr'⟩, h5, h6, h7⟩

/-- A context as the arbiter holds it (R218, R287). -/
def arrived (s : State) (x : Ctx) : Ctx := { x with launch := s.nextLaunch, arrival := s.cycle }

theorem accept_eq_accepted (s : State) (x : Ctx) : s.accept x = accepted s (arrived s x) := rfl

theorem launched_arrived (d : Desc) (hd : d = descriptor ws) (hnd : Word) (rset home k : Nat) (c : Ctx) (o : Issued) (m : Word) :
    Launched s ws (arrived s { (d.ctx hnd rset home k).launchedBy c o with mode := m }) := by
  subst hd
  exact ⟨⟨rfl, rfl, rfl⟩, rfl, rfl, rfl, rfl, rfl⟩

theorem keptMode_eq (hc : s.ctx? op.ctx = some c) :
    word (keptCount s op - 1) = if op.count = 0 then c.mode else word (op.count - 1) := by
  unfold keptCount
  by_cases h : op.count = 0
  · simp [h, hc, word]
  · simp [h]

/-- The first clause of O41: LAUNCH. -/
theorem launch_reaches_arbiter (h : Issues s op n) (ha : op.ta.isVec = false) (hb : op.tb.isVec = false)
    (hc : (after s op).ctx? op.ctx = some c) (h0 : 0 < op.tb.word.toNat) (h42 : op.tb.word.toNat < 2 ^ 42)
    (h64 : op.ta.word.toNat % 64 = 0) (hread : (after s op).readVirt op op.ta.word.toNat 64 64 = .ok (wordBytes ws))
    (h8 : ws.length = 8) :
    (¬ GoodDescriptor ws → Faults (.launch n) s op 0x041) ∧
    (GoodDescriptor ws → c.gang = 0 ∨ (after s op).hasFeature 1 = true → (after s op).waiting < 256 → ∃ x : Ctx,
      exec (.launch n) s = .next (accepted (after s op) x) ∧ Launched (after s op) ws x ∧ x.rset = op.tb.word.toNat ∧
      x.home = siteRegion op.site ∧ x.k = n.imm.toNat ∧ x.parent = some c.launch ∧ x.gang = c.gang ∧ x.ten = c.ten ∧
      x.root = c.root ∧ x.mode = (if op.count = 0 then c.mode else word (op.count - 1)) ∧
      (∃ k, x.req = some { op with count := k }) ∧ x.host = none ∧ x.program = false) := by
  classical
  have hgood : ¬ (2 ^ 42 ≤ op.tb.word.toNat ∨ op.tb.word.toNat = 0 ∨ op.ta.word.toNat % 64 ≠ 0) := by omega
  obtain ⟨ps, hps, hbytes⟩ := readVirt_ok hread
  have hdesc : descOf (wordsOf 8 ((after s op).readPieces ps)) = if GoodDescriptor ws then some (descriptor ws) else none := by
    rw [hbytes, ← h8, wordsOf_wordBytes, descOf_eq h8]
  constructor
  · intro hg
    exact launch_descriptor_bad h ha hb hgood hps (hdesc.trans (if_neg hg))
  · intro hg hgang hw
    refine ⟨_, (launch_accepts h ha hb hgood hps hc (hdesc.trans (if_pos hg)) hgang hw).trans
      (congrArg _ (accept_eq_accepted ..)), launched_arrived _ rfl .., rfl, rfl, rfl, rfl, rfl, rfl, rfl, keptMode_eq hc,
      ⟨keptCount (after s op) op, congrArg some (keepMode_eq ..)⟩, rfl, rfl⟩

/-! SEED. -/

theorem seedToken_eq_parcel (r : SeedRec) (num : Nat) : seedToken r num = r.parcel num := by
  have htag : tagOf num (depthOf r.tag) (areaOf r.tag) = mkTag num (tagDepth r.tag) (tagArea r.tag) := by
    have hd : depthOf r.tag < 16 := Nat.mod_lt _ (by decide)
    have ha : areaOf r.tag < 2 ^ 48 := Nat.mod_lt _ (by decide)
    refine BitVec.eq_of_toNat_eq ?_
    simp only [tagOf, mkTag, word, tagArea, bits_zero, BitVec.toNat_ofNat]
    change (num * 2 ^ 52 + depthOf r.tag * 2 ^ 48 + areaOf r.tag) % 2 ^ 64 =
      (num % 4096 * 2 ^ 52 + depthOf r.tag % 16 * 2 ^ 48 + areaOf r.tag % 2 ^ 48) % 2 ^ 64
    generalize depthOf r.tag = d at hd
    generalize areaOf r.tag = a at ha
    omega
  simp only [seedToken, SeedRec.parcel, htag]

theorem parcel_tile (r : SeedRec) (num : Nat) : (r.parcel num).tile = (parcelOf r.ctl r.tag [r.val]).tile := by
  unfold SeedRec.parcel
  rfl

theorem seedBad_eq_false (r : SeedRec) (h35 : r.ctl.toNat % 2 ^ 35 = 0) (h38 : r.ctl.getLsbD 38 = false)
    (h39 : r.ctl.toNat / 2 ^ 39 % 8 = 0) (ht : r.tag.toNat / 2 ^ 52 = 0) : seedBad r = false := by
  have h39 : bits r.ctl.toNat 39 3 = 0 := h39
  have ht : bits r.tag.toNat 52 12 = 0 := by rw [bits, ht, Nat.zero_mod]
  simp only [seedBad, bits_zero, h35, h38, h39, ht, ne_eq, not_true, decide_false, Bool.or_false]

theorem mayCommand_iff (s : State) (op : Issued) (x : Ctx) : s.mayCommand op x = true ↔ Commands s op x := by
  unfold State.mayCommand Commands
  cases s.ctx? op.ctx <;> simp

theorem alive_of_namesLive {w : Word} (h : NamesLive s w x) : s.alive? w = some x := by
  simp [State.alive?, h.1, h.2]

theorem seedMisfits_eq_false {r : SeedRec} (hst : x.st = .running ∨ x.st = .freezing ∨ x.st = .frozen)
    (hfit : ∀ p, look (parcelOf r.ctl r.tag [r.val]).tile (s.planesOf x.num) = some p →
      seedFits (s.planesOf x.num) x.rset p.widths r = true)
    (hp : (look (parcelOf r.ctl r.tag [r.val]).tile (s.planesOf x.num)).isSome = true) : s.seedMisfits x r = false := by
  obtain ⟨p, hp⟩ := Option.isSome_iff_exists.1 hp
  have hplanes : s.seedPlanes x = some (s.planesOf x.num) := by rcases hst with h | h | h <;> simp [State.seedPlanes, h]
  simp [State.seedMisfits, hplanes, hp, hfit p hp]

/-- SEED on a context that it may command, with its record read (R319). -/
theorem exec_seed {ctl tag val : Word} (h : Issues s op n) (ha : op.ta.isVec = false) (hb : op.tb.isVec = false)
    (hx : NamesLive (after s op) op.ta.word x) (hmay : Commands (after s op) op x) (hst : x.st ≠ .stopped)
    (hread : op.record = [] → (after s op).readVirt op op.tb.word.toNat 24 8 = .ok (wordBytes [ctl, tag, val]))
    (hrec : op.record ≠ [] → op.record = [ctl, tag, val]) :
    exec (.seed n) s = .next ((after s op).seed { op with record := [ctl, tag, val] } n x) := by
  have hsc : ∀ t ∈ [op.ta, op.tb], t.isVec = false := by simp [ha, hb]
  simp only [exec, execSeed, fire_of_issues h, scalars_of_all hsc, alive_of_namesLive hx, (mayCommand_iff ..).2 hmay, Bool.not_true,
    Bool.false_eq_true, if_false, hst]
  by_cases hr : op.record = []
  · obtain ⟨ps, hps, hbytes⟩ := readVirt_ok (hread hr)
    have hwords : wordsOf 3 (wordBytes [ctl, tag, val]) = [ctl, tag, val] := wordsOf_wordBytes [ctl, tag, val]
    rw [if_neg (not_not.2 hr), hps, State.withPieces, State.withParts, hbytes, hwords]
  · rw [if_pos hr, ← hrec hr]

/-! Seeds on their way (R30, R49). -/

/-- The context whose template is entered keeps all but the list of the entered ones. -/
def Enters (f : Ctx → Ctx) : Prop := ∀ c, ∃ l, f c = { c with entered := l }

/-- What entering a template leaves unchanged: everything but the entries of one tile and the entered templates. -/
structure EnterFrame (s u : State) : Prop where
  stream : ∀ v, (u.ctile v).stream = (s.ctile v).stream
  mtiles : u.mtiles = s.mtiles
  main : u.main = s.main
  ctxs : ∃ f, Enters f ∧ u.ctxs = s.ctxs.map f

theorem EnterFrame.refl (s : State) : EnterFrame s s :=
  ⟨fun _ => rfl, rfl, rfl, id, fun c => ⟨c.entered, rfl⟩, (List.map_id _).symm⟩

/-- The context after a template of it has been entered. -/
def entering (ln : Nat) (e : TileId × Nat × Word) (c : Ctx) : Ctx :=
  if c.launch = ln then { c with entered := e :: c.entered } else c

theorem enters_entering (ln : Nat) (e : TileId × Nat × Word) : Enters (entering ln e) := by
  intro c
  unfold entering
  split
  · exact ⟨_, rfl⟩
  · exact ⟨c.entered, rfl⟩

theorem enter_frame (s : State) (ln : Nat) (t : TileId) (node : Nat) (tag : Word) :
    EnterFrame s (s.enter ln t node tag) ∧ ∀ v, v ≠ t → (s.enter ln t node tag).ctile v = s.ctile v := by
  unfold State.enter
  split
  · split
    · exact ⟨.refl s, fun _ _ => rfl⟩
    · split
      · exact ⟨.refl s, fun _ _ => rfl⟩
      · refine ⟨⟨fun v => ?_, rfl, rfl, entering ln _, enters_entering _ _, rfl⟩, fun v hv => ?_⟩
        · rw [State.ctile_setCtile]
          split
          · next h => rw [h]; rfl
          · rfl
        · rw [State.ctile_setCtile, if_neg hv]
          rfl
  · exact ⟨.refl s, fun _ _ => rfl⟩

theorem injectSeed_stream (s : State) (ln k : Nat) (r : SeedRec) (t : TileId) :
    ((s.injectSeed ln k r).ctile t).stream = (s.ctile t).stream ++ if (r.parcel k).tile = t then [r.parcel k] else [] := by
  have hf := (enter_frame s ln (r.parcel k).tile (r.parcel k).node (r.parcel k).tok.tag).1.stream
  simp only [State.injectSeed, State.deliver, State.ctile_setCtile]
  by_cases h : t = (r.parcel k).tile
  · subst h
    simp [hf]
  · simp [h, Ne.symm h, hf]

theorem injectSeed_ctile_of_ne (s : State) (ln k : Nat) (r : SeedRec) {t : TileId} (h : t ≠ (r.parcel k).tile) :
    (s.injectSeed ln k r).ctile t = s.ctile t := by
  rw [State.injectSeed, State.deliver, State.ctile_setCtile, if_neg h]
  exact (enter_frame ..).2 t h

theorem injectSeed_rest (s : State) (ln k : Nat) (r : SeedRec) : (s.injectSeed ln k r).mtiles = s.mtiles ∧
    (s.injectSeed ln k r).main = s.main ∧ ∃ f, Enters f ∧ (s.injectSeed ln k r).ctxs = s.ctxs.map f := by
  obtain ⟨-, hm, hmain, hctxs⟩ := (enter_frame s ln (r.parcel k).tile (r.parcel k).node (r.parcel k).tok.tag).1
  exact ⟨hm, hmain, hctxs⟩

theorem mapBlock_frame (s : State) (r bc : Nat) (f : Block → Block) : (s.mapBlock r bc f).ctiles = s.ctiles ∧
    (s.mapBlock r bc f).mtiles = s.mtiles ∧ (s.mapBlock r bc f).main = s.main := by
  simp only [State.mapBlock]
  split <;> exact ⟨rfl, rfl, rfl⟩

theorem fix_frame (s : State) (op : Issued) : (s.fix op).ctiles = s.ctiles ∧ (s.fix op).mtiles = s.mtiles ∧
    (s.fix op).main = s.main := by
  unfold State.fix
  split
  · exact ⟨rfl, rfl, rfl⟩
  · exact mapBlock_frame ..

/-- What SEED does with a record that fits (R319). -/
theorem seed_of_fits {r : SeedRec} (hrec : op.record = [r.ctl, r.tag, r.val]) (hbad : seedBad r = false)
    (hmis : s.seedMisfits x r = false) :
    (x.st = .running → s.seed op n x = emitsWord ((s.fix op).injectSeed x.launch x.num r) op n op.ta.word true) ∧
    (x.st = .freezing ∨ x.st = .frozen → s.seed op n x = s.hold op (.running x.launch)) := by
  have hr : (⟨nth 0 op.record 0, nth 0 op.record 1, nth 0 op.record 2⟩ : SeedRec) = r := by rw [hrec]; rfl
  constructor
  · intro hst
    simp only [State.seed, hr, hbad, hmis, hst, Bool.false_eq_true, if_false]
    rfl
  · rintro (hst | hst)
    · simp only [State.seed, hr, hbad, hmis, hst, Bool.false_eq_true, if_false]
    · simp only [State.seed, hr, hbad, hmis, hst, Bool.false_eq_true, if_false]

/-- The second clause of O41: SEED of a fitting record. -/
theorem seed_waits_or_sends {ctl tag val : Word} (h : Issues s op n) (ha : op.ta.isVec = false) (hb : op.tb.isVec = false)
    (hx : NamesLive (after s op) op.ta.word x) (hmay : Commands (after s op) op x)
    (hst : x.st = .running ∨ x.st = .freezing ∨ x.st = .frozen)
    (hread : op.record = [] → (after s op).readVirt op op.tb.word.toNat 24 8 = .ok (wordBytes [ctl, tag, val]))
    (hrec : op.record ≠ [] → op.record = [ctl, tag, val])
    (h35 : ctl.toNat % 2 ^ 35 = 0) (h38 : ctl.getLsbD 38 = false) (h39 : ctl.toNat / 2 ^ 39 % 8 = 0) (ht : tag.toNat / 2 ^ 52 = 0)
    (hfit : ∀ p, look (parcelOf ctl tag [val]).tile ((after s op).planesOf x.num) = some p →
      seedFits ((after s op).planesOf x.num) x.rset p.widths ⟨ctl, tag, val⟩ = true)
    (hp : (look (parcelOf ctl tag [val]).tile ((after s op).planesOf x.num)).isSome = true) :
    let o : Issued := { op with record := [ctl, tag, val] }
    let q := parcelOf ctl tag [val]
    (x.st ≠ .running → exec (.seed n) s = .next ((after s op).hold o (.running x.launch))) ∧
    (x.st = .running → ∃ v : State, exec (.seed n) s = .next (emitsWord v o n op.ta.word true) ∧ v.mtiles = (after s op).mtiles ∧
      v.main = (after s op).main ∧
      (v.ctile q.tile).stream = ((after s op).ctile q.tile).stream ++ [seedToken ⟨ctl, tag, val⟩ x.num] ∧
      ∀ t, t ≠ q.tile → v.ctile t = (after s op).ctile t) := by
  intro o q
  have hstop : x.st ≠ .stopped := by rcases hst with h | h | h <;> simp [h]
  have hexec := exec_seed h ha hb hx hmay hstop hread hrec
  have hbad := seedBad_eq_false ⟨ctl, tag, val⟩ h35 h38 h39 ht
  have hmis := seedMisfits_eq_false (r := ⟨ctl, tag, val⟩) hst hfit hp
  obtain ⟨hruns, hheld⟩ := seed_of_fits (op := o) (n := n) rfl hbad hmis
  constructor
  · intro hrun
    rw [hexec, hheld (hst.resolve_left hrun)]
  · intro hrun
    have htile : ((⟨ctl, tag, val⟩ : SeedRec).parcel x.num).tile = q.tile := parcel_tile ..
    obtain ⟨hct, hmt, hmain⟩ := fix_frame (after s op) o
    obtain ⟨hm, hmain', -⟩ := injectSeed_rest ((after s op).fix o) x.launch x.num ⟨ctl, tag, val⟩
    have hctile (t : TileId) : ((after s op).fix o).ctile t = (after s op).ctile t := by simp only [State.ctile, hct]
    refine ⟨((after s op).fix o).injectSeed x.launch x.num ⟨ctl, tag, val⟩, ?_, hm.trans hmt, hmain'.trans hmain, ?_,
      fun t hne => ?_⟩
    · have hta : o.ta.word = op.ta.word := rfl
      rw [hexec, hruns hrun, hta]
    · rw [injectSeed_stream, hctile, seedToken_eq_parcel, if_pos htile]
    · rw [← htile] at hne
      rw [injectSeed_ctile_of_ne _ _ _ _ hne, hctile]

/-! SEED_INJECTION. -/

theorem Enters.comp {f g : Ctx → Ctx} (hf : Enters f) (hg : Enters g) : Enters (g ∘ f) := by
  intro c
  obtain ⟨l, hl⟩ := hf c
  obtain ⟨m, hm⟩ := hg (f c)
  exact ⟨m, by rw [Function.comp_apply, hm, hl]⟩

theorem injectSeeds_stream (ln k : Nat) (t : TileId) : ∀ (l : List SeedRec) (s : State),
    ((s.injectSeeds ln k l).ctile t).stream =
      (s.ctile t).stream ++ (l.filter fun r => (r.parcel k).tile = t).map fun r => r.parcel k
  | [], s => by simp [State.injectSeeds]
  | r :: l, s => by
    have ih := injectSeeds_stream ln k t l (s.injectSeed ln k r)
    rw [injectSeed_stream] at ih
    refine ih.trans ?_
    by_cases h : (r.parcel k).tile = t <;> simp [h]

theorem injectSeeds_rest (ln k : Nat) : ∀ (l : List SeedRec) (s : State), (s.injectSeeds ln k l).mtiles = s.mtiles ∧
    (s.injectSeeds ln k l).main = s.main ∧ ∃ f, Enters f ∧ (s.injectSeeds ln k l).ctxs = s.ctxs.map f
  | [], s => ⟨rfl, rfl, id, fun c => ⟨c.entered, rfl⟩, (List.map_id _).symm⟩
  | r :: l, s => by
    obtain ⟨hm, hmain, f, hf, hc⟩ := injectSeed_rest s ln k r
    obtain ⟨hm', hmain', g, hg, hc'⟩ := injectSeeds_rest ln k l (s.injectSeed ln k r)
    exact ⟨hm'.trans hm, hmain'.trans hmain, g ∘ f, hf.comp hg, by rw [← List.map_map, ← hc]; exact hc'⟩

/-- A context that was launched stays so when templates are entered. -/
theorem launched_of_enters {f : Ctx → Ctx} (hf : Enters f) (hc : u.ctxs = s.ctxs.map f) (k : Nat) :
    u.launched? k = (s.launched? k).map f := by
  unfold State.launched?
  rw [hc, List.find?_map]
  congr 2
  funext c
  obtain ⟨l, hl⟩ := hf c
  simp [hl]

theorem mem_regionsOf {rset r : Nat} : r ∈ regionsOf rset ↔ r < 42 ∧ rset.testBit r = true := by
  simp [regionsOf, setBits]

/-- A context runs, its request being answered. -/
def nowRunning (s : State) (launch : Nat) : State := s.mapCtx launch fun c => { c with st := .running }

/-- A context's request has been answered. -/
def answered (s : State) (launch : Nat) : State := s.mapCtx launch fun c => { c with req := none }

/-- A context without a host starts: only its launcher hears of it (R49). -/
theorem started_eq {launch : Nat} (hc : s.launched? launch = some c) (hl : c.launch = launch) (hh : c.host = none) :
    (c.req = none → s.started launch = nowRunning s launch) ∧
    (∀ op, c.req = some op →
      s.started launch = emitsWord (answered (nowRunning s launch) launch) op op.niw (word launch) true) := by
  have hd : (nowRunning s launch).launched? launch = some { c with st := .running } := by
    rw [nowRunning, launched_mapCtx s launch launch (fun c => { c with st := .running }) fun _ => rfl, hc, Option.map_some, if_pos hl]
  have hstart : s.started launch = match ({ c with st := .running } : Ctx).req with
      | none => nowRunning s launch
      | some op => (answered (nowRunning s launch) launch).emitWord op op.niw (word launch) true := by
    unfold nowRunning at hd
    simp only [State.started, hd, hh]
    rfl
  constructor
  · intro hr
    rw [hstart, hr]
  · intro op hr
    rw [hstart, hr]
    rfl

/-- A context of which the regions run its configuration gets its seeds (R49). -/
theorem exec_seedInjection (hn : s.ctx? c.num = some c) (hst : c.st = .loading) (hp : c.program = false) (hi : c.image = none)
    (ha : ∀ r, r < 42 → c.rset.testBit r = true → (s.region r).activeCtx = some c.num) :
    exec (.seedInjection c.num) s = .next ((s.injectSeeds c.launch c.num c.seeds).started c.launch) := by
  have hconf : s.configured c = true := by
    simp only [State.configured, hst, hp, Bool.not_false, decide_true, Bool.true_and, List.all_eq_true, decide_eq_true_eq]
    intro r hr
    obtain ⟨h42, hbit⟩ := mem_regionsOf.1 hr
    exact ha r h42 hbit
  simp only [exec, execSeedInjection, hn, hconf, hi, Bool.not_true, Bool.false_eq_true, if_false]

/-- The fourth clause of O41. -/
theorem seedInjection_starts (hn : s.ctx? c.num = some c) (hl : s.launched? c.launch = some c) (hst : c.st = .loading)
    (hp : c.program = false) (hi : c.image = none) (hh : c.host = none)
    (ha : ∀ r, r < 42 → c.rset.testBit r = true → (s.region r).activeCtx = some c.num) :
    ∃ v : State, (∀ t, (v.ctile t).stream = (s.ctile t).stream ++
        (c.seeds.filter fun x => (seedToken x c.num).tile = t).map fun x => seedToken x c.num) ∧
      v.mtiles = s.mtiles ∧ v.main = s.main ∧ (∃ d, v.launched? c.launch = some d ∧ d.st = .running ∧ d.num = c.num) ∧
      (c.req = none → exec (.seedInjection c.num) s = .next v) ∧
      (∀ op, c.req = some op → exec (.seedInjection c.num) s = .next (emitsWord v op op.niw (word c.launch) true)) := by
  have hexec := exec_seedInjection hn hst hp hi ha
  have hstream (t : TileId) := injectSeeds_stream c.launch c.num t c.seeds s
  obtain ⟨hm, hmain, f, hf, hctxs⟩ := injectSeeds_rest c.launch c.num c.seeds s
  simp only [seedToken_eq_parcel]
  generalize s.injectSeeds c.launch c.num c.seeds = u at *
  obtain ⟨l, hfc⟩ := hf c
  have hu : u.launched? c.launch = some { c with entered := l } := by rw [launched_of_enters hf hctxs, hl, Option.map_some, hfc]
  obtain ⟨hnone, hsome⟩ := started_eq hu rfl hh
  have hrun : (nowRunning u c.launch).launched? c.launch = some { c with entered := l, st := .running } := by
    rw [nowRunning, launched_mapCtx u c.launch c.launch (fun c => { c with st := .running }) fun _ => rfl, hu, Option.map_some,
      if_pos rfl]
  cases hr : c.req with
  | none =>
    exact ⟨nowRunning u c.launch, hstream, hm, hmain, ⟨_, hrun, rfl, rfl⟩, fun _ => by rw [hexec, hnone hr], fun _ h => by cases h⟩
  | some op =>
    have hans : (answered (nowRunning u c.launch) c.launch).launched? c.launch =
        some { c with entered := l, st := .running, req := none } := by
      rw [answered, launched_mapCtx (nowRunning u c.launch) c.launch c.launch (fun c => { c with req := none }) fun _ => rfl, hrun,
        Option.map_some, if_pos rfl]
    refine ⟨answered (nowRunning u c.launch) c.launch, hstream, hm, hmain, ⟨_, hans, rfl, rfl⟩, fun h => (by cases h),
      fun o ho => ?_⟩
    rw [hexec, hsome o (hr.trans ho)]

/-! ARBITER_GRANT. -/

theorem lowestFrom_eq {used : List Nat} {num : Nat} (hnum : num ∉ used) : ∀ (fuel k : Nat), k ≤ num → num ≤ k + fuel →
    (∀ j, k ≤ j → j < num → j ∈ used) → lowestFrom used fuel k = num
  | 0, k, hk, hf, _ => by rw [lowestFrom]; omega
  | fuel + 1, k, hk, hf, hused => by
    rw [lowestFrom]
    by_cases hmem : k ∈ used
    · have hne : k ≠ num := fun h => hnum (h ▸ hmem)
      rw [if_pos (List.contains_iff_mem.2 hmem)]
      exact lowestFrom_eq hnum fuel (k + 1) (by omega) (by omega) fun j hj => hused j (by omega)
    · rw [if_neg fun h => hmem (List.contains_iff_mem.1 h)]
      by_contra hne
      exact hmem (hused k le_rfl (by omega))

/-- As many numbers are in use as stand below the lowest free one. -/
theorem below_le_length {used : List Nat} {num : Nat} (h : ∀ j, 1 ≤ j → j < num → j ∈ used) : num ≤ used.length + 1 := by
  have hsub : Finset.Ico 1 num ⊆ used.toFinset := fun j hj => by
    obtain ⟨h1, h2⟩ := Finset.mem_Ico.1 hj
    exact List.mem_toFinset.2 (h j h1 h2)
  have hcard := (Finset.card_le_card hsub).trans (List.toFinset_card_le used)
  rw [Nat.card_Ico] at hcard
  omega

theorem freeNum_eq {num : Nat} (h1 : 1 ≤ num) (h4096 : num < 4096)
    (hfree : ∀ d ∈ s.ctxs, d.st ≠ .waiting → d.st ≠ .ended → d.num ≠ num)
    (hused : ∀ k, 1 ≤ k → k < num → ∃ d ∈ s.ctxs, d.st ≠ .waiting ∧ d.st ≠ .ended ∧ d.num = k) : s.freeNum = some num := by
  have hmem (k : Nat) : k ∈ (s.ctxs.filter fun c => c.st != .waiting && c.st != .ended).map (·.num) ↔
      ∃ d ∈ s.ctxs, d.st ≠ .waiting ∧ d.st ≠ .ended ∧ d.num = k := by
    simp [and_assoc]
  have hnum : num ∉ (s.ctxs.filter fun c => c.st != .waiting && c.st != .ended).map (·.num) := fun h => by
    obtain ⟨d, hd, hw, he, hk⟩ := (hmem num).1 h
    exact hfree d hd hw he hk
  have hbelow : ∀ j, 1 ≤ j → j < num → j ∈ (s.ctxs.filter fun c => c.st != .waiting && c.st != .ended).map (·.num) :=
    fun j hj hlt => (hmem j).2 (hused j hj hlt)
  have hlowest := lowestFrom_eq hnum _ 1 h1 ((below_le_length hbelow).trans (Nat.le_add_left _ 1)) hbelow
  simp only [State.freeNum, hlowest, h4096, if_true]

theorem filter_eq_singleton {α : Type} {l : List α} {p : α → Bool} {a : α} (hn : l.Nodup) (ha : a ∈ l) (hp : p a = true)
    (hu : ∀ b ∈ l, p b = true → b = a) : l.filter p = [a] := by
  have hall : ∀ b ∈ l.filter p, b = a := fun b hb => hu b (List.mem_filter.1 hb).1 (List.mem_filter.1 hb).2
  have hmem : a ∈ l.filter p := List.mem_filter.2 ⟨ha, hp⟩
  rw [List.eq_replicate_of_mem hall] at hmem ⊢
  have hle : (l.filter p).length ≤ 1 := by
    have hnd := hn.filter p
    rw [List.eq_replicate_of_mem hall] at hnd
    exact List.nodup_replicate.1 hnd
  have hpos : (l.filter p).length ≠ 0 := (List.mem_replicate.1 hmem).1
  rw [show (l.filter p).length = 1 by omega]
  rfl

theorem nodup_ctxs (h : (s.ctxs.map (·.launch)).Nodup) : s.ctxs.Nodup := h.of_map _

theorem mem_of_launched {k : Nat} (h : s.launched? k = some c) : c ∈ s.ctxs := List.mem_of_find?_eq_some h

theorem arbiterOrder_single (hn : (s.ctxs.map (·.launch)).Nodup) (hl : s.launched? c.launch = some c) (hw : c.st = .waiting)
    (hs : c.stopAfter = false) (hu : ∀ d ∈ s.ctxs, d.st = .waiting → d = c) : s.arbiterOrder = [c] := by
  have hfilter : (s.ctxs.filter fun c => c.st = .waiting && !c.stopAfter) = [c] := by
    refine filter_eq_singleton (nodup_ctxs hn) (mem_of_launched hl) (by simp [hw, hs]) fun d hd hp => hu d hd ?_
    simp only [Bool.and_eq_true, decide_eq_true_eq] at hp
    exact hp.1
  rw [State.arbiterOrder, hfilter]
  rfl

/-- Regions of a set reserved for a context. -/
def reserve (num : Nat) (s : State) (r : Nat) : State := s.setRegion r { s.region r with reserved := some num }

theorem region_reserve (num : Nat) (s : State) (r k : Nat) :
    (reserve num s r).region k = if k = r then { s.region k with reserved := some num } else s.region k := by
  rw [reserve, State.region_setRegion]
  by_cases h : k = r <;> simp [h]

theorem region_foldl_reserve (num k : Nat) : ∀ (l : List Nat) (s : State),
    (l.foldl (reserve num) s).region k = if k ∈ l then { s.region k with reserved := some num } else s.region k
  | [], s => by simp
  | r :: l, s => by
    rw [List.foldl_cons, region_foldl_reserve num k l, region_reserve]
    by_cases hk : k = r <;> by_cases hl : k ∈ l <;> simp [hk, hl]

/-- Reserving touches regions alone. -/
theorem foldl_reserve_rest (num : Nat) (l : List Nat) (s : State) : (l.foldl (reserve num) s).ctxs = s.ctxs ∧
    (l.foldl (reserve num) s).ctiles = s.ctiles ∧ (l.foldl (reserve num) s).mtiles = s.mtiles ∧
    (l.foldl (reserve num) s).main = s.main :=
  ⟨foldl_view State.ctxs (reserve num) (fun _ _ => rfl) l s, foldl_view State.ctiles (reserve num) (fun _ _ => rfl) l s,
    foldl_view State.mtiles (reserve num) (fun _ _ => rfl) l s, foldl_view State.main (reserve num) (fun _ _ => rfl) l s⟩

/-- A context with its number and loading (R218). -/
def granted (num : Nat) (c : Ctx) : Ctx := { c with num := num, st := .loading }

/-- The state in which a launch has been granted a number. -/
def grantState (s : State) (c : Ctx) (num : Nat) : State :=
  (regionsOf c.rset).foldl (reserve num) (s.mapCtx c.launch (granted num))

theorem grant_eq {num : Nat} (hf : s.freeNum = some num) (hp : c.program = false) : s.grant c = grantState s c num := by
  simp only [State.grant, hf, hp, Bool.false_eq_true, if_false]
  rfl

theorem ctxs_grantState (s : State) (c : Ctx) (num : Nat) :
    (grantState s c num).ctxs = s.ctxs.map fun d => if d.launch = c.launch then granted num d else d :=
  (foldl_reserve_rest num _ _).1

theorem launched_grantState (hl : s.launched? c.launch = some c) (num : Nat) :
    (grantState s c num).launched? c.launch = some (granted num c) := by
  have h := launched_mapCtx s c.launch c.launch (granted num) fun _ => rfl
  rw [hl, Option.map_some, if_pos rfl] at h
  unfold State.launched? at h ⊢
  rw [ctxs_grantState]
  exact h

/-- The granted launch is the one that loads. -/
theorem unloaded_grantState {num : Nat} (hn : (s.ctxs.map (·.launch)).Nodup) (hl : s.launched? c.launch = some c)
    (hload : ∀ d ∈ s.ctxs, d.st ≠ .loading)
    (hfree : ∀ r, r < 42 → (s.region r).activeCtx ≠ some num ∧ ∀ l, (s.region r).shadow = some l → l.ctx ≠ num) :
    (grantState s c num).ctxs.filter (grantState s c num).unloaded = [granted num c] := by
  have hregion (k : Nat) : ((grantState s c num).region k).activeCtx = (s.region k).activeCtx ∧
      ((grantState s c num).region k).shadow = (s.region k).shadow := by
    rw [grantState, region_foldl_reserve]
    split <;> exact ⟨rfl, rfl⟩
  have hlaunches : (grantState s c num).ctxs.map (·.launch) = s.ctxs.map (·.launch) := by
    rw [ctxs_grantState, List.map_map]
    refine List.map_congr_left fun d _ => ?_
    simp only [Function.comp_apply]
    split <;> rfl
  refine filter_eq_singleton (nodup_ctxs (hlaunches ▸ hn)) (mem_of_launched (launched_grantState hl num)) ?_ fun d hd hp => ?_
  · have hnone : ((regionsOf c.rset).any fun r => ((grantState s c num).region r).activeCtx = some num ||
        ((grantState s c num).region r).shadow.any (·.ctx = num)) = false := by
      refine List.any_eq_false.2 fun r hr h => ?_
      obtain ⟨ha, hs⟩ := hfree r (mem_regionsOf.1 hr).1
      rw [(hregion r).1, (hregion r).2, Bool.or_eq_true, decide_eq_true_eq] at h
      cases hsh : (s.region r).shadow with
      | none => simp [hsh, ha] at h
      | some l => simp [hsh, ha, hs l hsh] at h
    exact congrArg (fun b => decide ((granted num c).st = .loading) && !b) hnone
  · rw [ctxs_grantState] at hd
    obtain ⟨e, he, rfl⟩ := List.mem_map.1 hd
    by_cases hle : e.launch = c.launch
    · have hec : e = c := by
        have := launched_of_mem hn he
        rw [hle, hl] at this
        exact (Option.some.inj this).symm
      rw [hec, if_pos rfl]
    · rw [if_neg hle] at hp
      simp [State.unloaded, hload e he] at hp

theorem nextGrant_eq {num : Nat} (ho : s.arbiterOrder = [c]) (hf : s.freeNum = some num)
    (hr : ∀ r, r < 42 → c.rset.testBit r = true → (s.region r).shadow = none ∧ (s.region r).reserved = none ∧
      s.loadingSet.testBit r = false) : s.nextGrant = some c := by
  have hall : ((regionsOf c.rset).all fun r =>
      (s.region r).shadow.isNone && (s.region r).reserved.isNone && !s.loadingSet.testBit r) = true := by
    refine List.all_eq_true.2 fun r hmem => ?_
    obtain ⟨h42, hbit⟩ := mem_regionsOf.1 hmem
    obtain ⟨hs, hres, hload⟩ := hr r h42 hbit
    simp [hs, hres, hload]
  have hgrant : s.grantable c = true := by
    rw [State.grantable, hf, hall, Bool.or_true]
    rfl
  simp only [State.nextGrant, ho, hgrant, if_true]

/-- Settles O41: a launch from its descriptor to its seeds. -/
theorem launchesAndSeeds : Obligations.LaunchesAndSeeds := by
  unfold Obligations.LaunchesAndSeeds
  refine ⟨?_, ?_, ?_⟩
  · intro s op n c h ha hb hc s1 hnd rs
    refine ⟨fun hbad => launch_operands_bad h ha hb (by tauto), fun ws h0 h42 h64 hread h8 => ?_, ?_⟩
    · exact launch_reaches_arbiter h ha hb hc h0 h42 h64 hread h8
    · intro x ctl tag val hx hmay hst hread hrec r o q h35 h38 h39 ht hfit hp
      exact seed_waits_or_sends h ha hb hx hmay hst hread hrec h35 h38 h39 ht hfit hp
  · intro s c num hl hn hw hprog hs hu hload hr _ hfree h1 h4096 hnum hused d
    have hfreeNum := freeNum_eq h1 h4096 hnum hused
    have hnext := nextGrant_eq (arbiterOrder_single hn hl hw hs hu) hfreeNum hr
    have hunl := unloaded_grantState hn hl (fun d hd => (hload d hd).1) hfree
    obtain ⟨-, hct, hmt, hmain⟩ := foldl_reserve_rest num (regionsOf c.rset) (s.mapCtx c.launch (granted num))
    refine ⟨grantState s c num, ?_, launched_grantState hl num, fun r h42 => ?_, hct, hmt, hmain⟩
    · simp only [exec, execArbiterGrant, hnext, grant_eq hfreeNum hprog, hunl]
      rfl
    · rw [grantState, region_foldl_reserve]
      by_cases hbit : c.rset.testBit r = true
      · rw [if_pos (mem_regionsOf.2 ⟨h42, hbit⟩), if_pos hbit]
      · rw [if_neg fun hmem => hbit (mem_regionsOf.1 hmem).2, if_neg hbit]
        rfl
  · intro s c hn hl hst hp hi hh ha
    exact seedInjection_starts hn hl hst hp hi hh ha

end Sys2Proof.Proofs
end

section
/-!
O40: CFGLD, CFGSW, block DRAIN and SPLICE on the planes of their regions (R47, R48, R174, R251, R253, R323).
-/
namespace Sys2Proof.Proofs
open Sys2Proof Sys2Proof.Machine Sys2Proof.Claims

variable {s u : State} {op : Issued} {n : Niw} {c x : Ctx}

/-! Region sets as numbers. -/

theorem testBit_foldl_pow (r : Nat) : ∀ (l : List Nat) (m : Nat), l.Pairwise (· < ·) → (∀ k ∈ l, m < 2 ^ k) →
    (l.foldl (fun m k => m + 2 ^ k) m).testBit r = (m.testBit r || decide (r ∈ l))
  | [], m, _, _ => by simp
  | k :: l, m, hs, hm => by
    obtain ⟨hk, hl⟩ := List.pairwise_cons.1 hs
    have hor : m + 2 ^ k = 2 ^ k ||| m := by
      simpa [Nat.add_comm] using Nat.two_pow_add_eq_or_of_lt (hm k (by simp)) 1
    have hlt : ∀ j ∈ l, m + 2 ^ k < 2 ^ j := fun j hj => by
      have hmk := hm k (by simp)
      have hpow : 2 ^ (k + 1) ≤ 2 ^ j := Nat.pow_le_pow_right (by decide) (hk j hj)
      rw [Nat.pow_succ] at hpow
      omega
    rw [List.foldl_cons, testBit_foldl_pow r l _ hl hlt, hor, Nat.testBit_or, Nat.testBit_two_pow]
    by_cases hrk : r = k
    · simp [hrk]
    · simp [hrk, Ne.symm hrk]

/-- A region set from the regions that pass a test. -/
theorem setOf_filter_eq {rs todo : Nat} {p : Nat → Bool}
    (h : ∀ r, todo.testBit r = true ↔ r ∈ regionsOf rs ∧ p r = true) :
    ((regionsOf rs).filter p).foldl (fun m k => m + 2 ^ k) 0 = todo := by
  refine Nat.eq_of_testBit_eq fun r => ?_
  have hsorted : ((regionsOf rs).filter p).Pairwise (· < ·) := (List.pairwise_lt_range.filter _).filter _
  rw [testBit_foldl_pow r _ 0 hsorted fun k _ => Nat.two_pow_pos k, Nat.zero_testBit, Bool.false_or, Bool.eq_iff_iff, h,
    decide_eq_true_eq, List.mem_filter]

theorem lt_of_testBit {rs r k : Nat} (h : rs < 2 ^ k) (hr : rs.testBit r = true) : r < k := by
  by_contra hge
  have : rs.testBit r = false := Nat.testBit_eq_false_of_lt (h.trans_le (Nat.pow_le_pow_right (by decide) (by omega)))
  rw [this] at hr
  cases hr

theorem mem_regionsOf_of_lt {rs r : Nat} (h : rs < 2 ^ 42) : r ∈ regionsOf rs ↔ rs.testBit r = true :=
  mem_regionsOf.trans ⟨And.right, fun hr => ⟨lt_of_testBit h hr, hr⟩⟩

/-! CFGLD. -/

theorem writePieces_regions : ∀ (ps : List (Nat × Nat)) (bs : List Byte) (s : State), (s.writePieces ps bs).regions = s.regions
  | [], _, _ => rfl
  | p :: ps, bs, s => writePieces_regions ps (bs.drop p.2) (s.writeMain p.1 (bs.take p.2))

theorem writeWords_regions {program : Bool} {root : Nat} {system head : Bool} {a : Nat} {ws : List Word}
    (h : s.writeWords program root system head a ws = .ok u) : u.regions = s.regions := by
  unfold State.writeWords at h
  cases hp : s.sourcePieces (.virt root system) .loader a (8 * ws.length) 8 with
  | fault => simp [hp, Res.bind] at h
  | miss => simp [hp, Res.bind] at h
  | ok ps =>
    simp only [hp, Res.bind, Res.ok.injEq] at h
    rw [← h]
    split <;> exact writePieces_regions ..

theorem writeData_regions {program : Bool} {root : Nat} {system : Bool} : ∀ (l : List (Nat × List Word × Word)) {s : State},
    s.writeData program root system l = .ok u → u.regions = s.regions
  | [], s, h => by cases h; rfl
  | (a, ws, _) :: l, s, h => by
    rw [State.writeData] at h
    cases hw : s.writeWords program root system false a ws with
    | fault => simp [hw, Res.bind] at h
    | miss => simp [hw, Res.bind] at h
    | ok v =>
      rw [hw] at h
      exact (writeData_regions l h).trans (writeWords_regions hw)

theorem writeBlocks_regions {program : Bool} {root : Nat} {system : Bool} : ∀ (l : List BlockSec) {s : State},
    s.writeBlocks program root system l = .ok u → u.regions = s.regions
  | [], s, h => by cases h; rfl
  | b :: l, s, h => by
    rw [State.writeBlocks] at h
    split at h
    · exact (writeBlocks_regions l h).trans rfl
    · cases hw : s.writeWords program root system true b.addr b.words with
      | fault => simp [hw, Res.bind] at h
      | miss => simp [hw, Res.bind] at h
      | ok v =>
        rw [hw] at h
        exact (writeBlocks_regions l h).trans (writeWords_regions hw)

theorem writeSections_regions {img : Image} {program : Bool} (h : s.writeSections c img program = .ok u) :
    u.regions = s.regions := by
  unfold State.writeSections at h
  simp only [] at h
  cases hw : s.writeData program c.root c.sys (img.toWrite program (s.placed c)).data with
  | fault => simp [hw, Res.bind] at h
  | miss => simp [hw, Res.bind] at h
  | ok v =>
    rw [hw] at h
    exact (writeBlocks_regions _ h).trans (writeData_regions _ hw)

theorem putShadows_regions (s : State) (k : Nat) (cs : List (TileId × CPlane)) (ms : List (TileId × MPlane)) :
    (s.putShadows k cs ms).regions = s.regions := by
  unfold State.putShadows
  refine (foldl_view State.regions _ ?_ ms _).trans (foldl_view State.regions _ ?_ cs s)
  · intro v m
    simp only []
    split <;> rfl
  · intro v m
    rfl

theorem region_markLoaded (l : Loaded) (k : Nat) : ∀ (rs : List Nat) (s : State),
    ((rs.foldl (fun s r => s.setRegion r { s.region r with shadow := some l }) s).region k) =
      if k ∈ rs then { s.region k with shadow := some l } else s.region k
  | [], s => by simp
  | r :: rs, s => by
    rw [List.foldl_cons, region_markLoaded l k rs, State.region_setRegion]
    by_cases hk : k = r <;> by_cases hl : k ∈ rs <;> simp [hk, hl]

/-- A load puts the image's planes into the shadow planes of its set and leaves the others (R251). -/
theorem loadFabric_shadow {img : Image} {rset : Nat} {byCfgld : Bool} (h : s.loadFabric c img rset byCfgld = .ok u) (r : Nat) :
    (u.region r).shadow = if r ∈ regionsOf rset then some ⟨c.num, img.check, img.rset, img.len, byCfgld, img.seeds⟩
      else (s.region r).shadow := by
  unfold State.loadFabric at h
  cases hp : s.patchPlanes c.root c.sys img.mtiles with
  | fault => simp [hp, Res.bind] at h
  | miss => simp [hp, Res.bind] at h
  | ok ms =>
    cases hw : s.writeSections c img false with
    | fault => simp [hp, hw, Res.bind] at h
    | miss => simp [hp, hw, Res.bind] at h
    | ok v =>
      simp only [hp, hw, Res.bind, Res.ok.injEq] at h
      rw [← h, State.markLoaded, region_markLoaded]
      have hreg (k : Nat) (cs : List (TileId × CPlane)) (ms : List (TileId × MPlane)) :
          (v.putShadows c.num cs ms).region k = s.region k := by
        simp only [State.region, putShadows_regions, writeSections_regions hw]
      split
      · rfl
      · rw [hreg]

section Cfgld
variable (h : Issues s op n) (ha : op.ta.isVec = false) (hb : op.tb.isVec = false) (hc : (after s op).ctx? op.ctx = some c)
include h ha hb hc

theorem cfgld_fault_own {cause : Nat} (hf : (after s op).cfgld c (.virt c.root c.sys) op.ta.word.toNat op.tb.word.toNat = .fault cause 0 0)
    (hown : cause = 0x301 ∨ cause = 0x041 ∧ (2 ^ 42 ≤ op.tb.word.toNat ∨ op.tb.word = 0)) : Faults (.cfgld n) s op cause := by
  have hsc : ∀ t ∈ [op.ta, op.tb], t.isVec = false := by simp [ha, hb]
  simp only [Faults, exec, execCfgld, fire_of_issues h, scalars_of_all hsc, hc, hf]
  exact congrArg _ (if_pos hown)

theorem cfgld_ok {len : Nat} (hok : (after s op).cfgld c (.virt c.root c.sys) op.ta.word.toNat op.tb.word.toNat = .ok (len, u)) :
    exec (.cfgld n) s = .next (emitsWord u op n (word len) true) := by
  have hsc : ∀ t ∈ [op.ta, op.tb], t.isVec = false := by simp [ha, hb]
  simp only [exec, execCfgld, fire_of_issues h, scalars_of_all hsc, hc, hok]
  rfl

theorem cfgld_set_bad (hbad : op.tb.word.toNat = 0 ∨ 2 ^ 42 ≤ op.tb.word.toNat) : Faults (.cfgld n) s op 0x041 := by
  refine cfgld_fault_own h ha hb hc (if_pos hbad.symm) (.inr ⟨rfl, hbad.symm.imp id fun h0 => ?_⟩)
  exact BitVec.eq_of_toNat_eq h0

theorem cfgld_busy (h0 : 0 < op.tb.word.toNat) (h42 : op.tb.word.toNat < 2 ^ 42)
    (hbusy : ∃ r, op.tb.word.toNat.testBit r = true ∧ (c.rset.testBit r = false ∨ ((after s op).region r).reserved.isSome = true)) :
    Faults (.cfgld n) s op 0x301 := by
  obtain ⟨r, hr, hwhy⟩ := hbusy
  refine cfgld_fault_own h ha hb hc ?_ (.inl rfl)
  have hany : (regionsOf op.tb.word.toNat).any ((after s op).cfgldBusy c
      ((after s op).readImage (.virt c.root c.sys) false op.ta.word.toNat)) = true := by
    refine List.any_eq_true.2 ⟨r, (mem_regionsOf_of_lt h42).2 hr, ?_⟩
    rcases hwhy with hw | hw <;> simp [State.cfgldBusy, hw]
  rw [State.cfgld, if_neg (by omega)]
  exact if_pos hany

end Cfgld

/-- Where nothing of the set is busy, CFGLD loads the regions that do not hold the image yet (R251). -/
theorem cfgld_eq {set rs todo : Nat} {img : Image} (h0 : 0 < rs) (h42 : rs < 2 ^ 42)
    (hread : s.readImage (.virt c.root c.sys) false set = .ok img) (himg : img.rset = rs)
    (hfree : ∀ r, rs.testBit r = true → c.rset.testBit r = true ∧ (s.region r).reserved = none ∧ s.loadingSet.testBit r = false ∧
      ∀ l, (s.region r).shadow = some l → l.byCfgld = true ∧ l.ctx = c.num ∧ l.img = img.check)
    (htodo : ∀ r, todo.testBit r = true ↔ rs.testBit r = true ∧ (s.region r).shadow = none) :
    s.cfgld c (.virt c.root c.sys) set rs =
      if todo = 0 then .ok (img.len, s) else (s.loadFabric c img todo true).bind fun s => .ok (img.len, s) := by
  have hsame (r : Nat) (hr : r ∈ regionsOf rs) : Same (s.region r) c.num (.ok img) = (s.region r).shadow.isSome := by
    obtain ⟨-, -, -, hl⟩ := hfree r ((mem_regionsOf_of_lt h42).1 hr)
    cases hs : (s.region r).shadow with
    | none => simp [Same, hs]
    | some l =>
      obtain ⟨h1, h2, h3⟩ := hl l hs
      simp [Same, hs, h1, h2, h3]
  have hbusy : (regionsOf rs).any (s.cfgldBusy c (.ok img)) = false := by
    refine List.any_eq_false.2 fun r hr => ?_
    obtain ⟨h1, h2, h3, -⟩ := hfree r ((mem_regionsOf_of_lt h42).1 hr)
    cases hs : (s.region r).shadow <;> simp [State.cfgldBusy, h1, h2, h3, hsame r hr, hs]
  have hset : ((regionsOf rs).filter fun k => !Same (s.region k) c.num (.ok img)).foldl (fun m k => m + 2 ^ k) 0 = todo := by
    refine setOf_filter_eq fun r => (htodo r).trans ?_
    rw [mem_regionsOf_of_lt h42]
    refine and_congr_right fun hr => ?_
    rw [hsame r ((mem_regionsOf_of_lt h42).2 hr), Bool.not_eq_true', Option.isSome_eq_false_iff, Option.isNone_iff_eq_none]
  simp only [State.cfgld, hread, hbusy, hset, Bool.false_eq_true, if_false, Res.bind, himg, ne_eq, not_true]
  rw [if_neg (by omega)]

/-- CFGLD of an image that is read, and the shadow planes that it leaves. -/
theorem cfgld_loads {todo : Nat} {img : Image} (h : Issues s op n) (ha : op.ta.isVec = false) (hb : op.tb.isVec = false)
    (hc : (after s op).ctx? op.ctx = some c) (h0 : 0 < op.tb.word.toNat) (h42 : op.tb.word.toNat < 2 ^ 42)
    (hread : (after s op).readImage (.virt c.root c.sys) false op.ta.word.toNat = .ok img) (himg : img.rset = op.tb.word.toNat)
    (hfree : ∀ r, op.tb.word.toNat.testBit r = true → c.rset.testBit r = true ∧ ((after s op).region r).reserved = none ∧
      (after s op).loadingSet.testBit r = false ∧
      ∀ l, ((after s op).region r).shadow = some l → l.byCfgld = true ∧ l.ctx = c.num ∧ l.img = img.check)
    (htodo : ∀ r, Nat.testBit todo r = true ↔ op.tb.word.toNat.testBit r = true ∧ ((after s op).region r).shadow = none) :
    (todo = 0 → exec (.cfgld n) s = .next (emitsWord (after s op) op n (word img.len) true)) ∧
    (∀ u, todo ≠ 0 → (after s op).loadFabric c img todo true = .ok u →
      exec (.cfgld n) s = .next (emitsWord u op n (word img.len) true) ∧
      ∀ r, op.tb.word.toNat.testBit r = true → ∃ l, (u.region r).shadow = some l ∧ l.byCfgld = true ∧ l.ctx = c.num ∧
        l.img = img.check) := by
  have hload := cfgld_eq h0 h42 hread himg hfree htodo
  constructor
  · intro hz
    exact cfgld_ok h ha hb hc (hload.trans (if_pos hz))
  · intro u hz hu
    refine ⟨cfgld_ok h ha hb hc (hload.trans ((if_neg hz).trans (by rw [hu]; rfl))), fun r hr => ?_⟩
    rw [loadFabric_shadow hu]
    by_cases hs : ((after s op).region r).shadow = none
    · have hmem : r ∈ regionsOf todo :=
        mem_regionsOf.2 ⟨lt_of_testBit h42 hr, (htodo r).2 ⟨hr, hs⟩⟩
      exact ⟨_, if_pos hmem, rfl, rfl, rfl⟩
    · obtain ⟨l, hl⟩ := Option.ne_none_iff_exists'.1 hs
      have hmem : r ∉ regionsOf todo := fun hm => hs ((htodo r).1 (mem_regionsOf.1 hm).2).2
      obtain ⟨-, -, -, hkeep⟩ := hfree r hr
      exact ⟨l, (if_neg hmem).trans hl, hkeep l hl⟩

/-! CFGSW. -/

/-- A swap does not look at what waits. -/
theorem swapRegion_held (s : State) (l : List Held) (r : Nat) :
    ({ s with held := l } : State).swapRegion r = { s.swapRegion r with held := l } := by
  have hfold : ∀ (ts : List TileId) (s : State),
      ts.foldl State.switchTile { s with held := l } = { ts.foldl State.switchTile s with held := l } := by
    intro ts
    induction ts with
    | nil => exact fun _ => rfl
    | cons t ts ih =>
      intro s
      have hstep : ({ s with held := l } : State).switchTile t = { s.switchTile t with held := l } := by
        unfold State.switchTile
        split <;> rfl
      rw [List.foldl_cons, List.foldl_cons, hstep, ih]
  unfold State.swapRegion
  rw [hfold]
  rfl

theorem swapRegion_keeps_held (s : State) (r : Nat) : (s.swapRegion r).held = s.held := by
  have h : s.swapRegion r = { s.swapRegion r with held := s.held } := swapRegion_held s s.held r
  rw [h]

/-- Nothing else waits: the CFGSW of the swapped region emits. -/
theorem swap_releases {r : Nat} (hn : op.niw = n) (hheld : s.held = []) :
    ((s.hold op (.swap (2 ^ r))).swapRegion r).tellSwap r none = emitsWord ((s.swapRegion r).fix op) op n op.ta.word true := by
  have hstate : (s.hold op (.swap (2 ^ r))).swapRegion r = { s.swapRegion r with held := [⟨op, .swap (2 ^ r)⟩] } := by
    rw [State.hold, swapRegion_held, hheld]
    rfl
  have hempty : ({ s.swapRegion r with held := [] } : State) = s.swapRegion r := by
    rw [← hheld, ← swapRegion_keeps_held s r]
  have hwhy (f : Nat → Bool) : Wait.swapped r f (.swap (2 ^ r)) = .swap 0 := by
    simp [Wait.swapped, Nat.testBit_two_pow_self]
  rw [hstate]
  simp only [State.tellSwap, List.map_cons, List.map_nil, hwhy, List.filter_cons, List.filter_nil, Wait.allSwapped, if_true,
    Bool.not_true, Bool.false_eq_true, if_false, hempty, List.foldl_cons, List.foldl_nil, hn]
  rfl

section Cfgsw
variable (h : Issues s op n) (ha : op.ta.isVec = false) (hc : (after s op).ctx? op.ctx = some c)
include h ha hc

/-- CFGSW by its checks, in order (R253). -/
theorem exec_cfgsw : exec (.cfgsw n) s = .next (
    let s1 := after s op
    let rs := op.ta.word.toNat
    if 2 ^ 42 ≤ rs then s1.opFault op 0x041 0 0
    else if (regionsOf rs).any fun r => !c.rset.testBit r then s1.opFault op 0x301 0 0
    else if rs = 0 then emitsWord s1 op n op.ta.word true
    else ((regionsOf rs).filter fun r => (s1.region r).activeCtx.isNone).foldl (fun s r => (s.swapRegion r).tellSwap r none)
      (s1.hold op (.swap rs))) := by
  have hsc : ∀ t ∈ [op.ta], t.isVec = false := by simp [ha]
  simp only [exec, execCfgsw, fire_of_issues h, scalars_of_all hsc, hc]
  rfl

theorem cfgsw_outside (h42 : op.ta.word.toNat < 2 ^ 42)
    (hout : ∃ r, op.ta.word.toNat.testBit r = true ∧ c.rset.testBit r = false) : Faults (.cfgsw n) s op 0x301 := by
  obtain ⟨r, hr, hrc⟩ := hout
  have hany : ((regionsOf op.ta.word.toNat).any fun r => !c.rset.testBit r) = true :=
    List.any_eq_true.2 ⟨r, (mem_regionsOf_of_lt h42).2 hr, by simp [hrc]⟩
  exact (exec_cfgsw h ha hc).trans (congrArg _ ((if_neg (Nat.not_le.2 h42)).trans (if_pos hany)))

theorem cfgsw_inside (h42 : op.ta.word.toNat < 2 ^ 42)
    (hin : ∀ r, op.ta.word.toNat.testBit r = true → c.rset.testBit r = true) : exec (.cfgsw n) s = .next (
    if op.ta.word.toNat = 0 then emitsWord (after s op) op n op.ta.word true
    else ((regionsOf op.ta.word.toNat).filter fun r => ((after s op).region r).activeCtx.isNone).foldl
      (fun s r => (s.swapRegion r).tellSwap r none) ((after s op).hold op (.swap op.ta.word.toNat))) := by
  have hany : ¬ ((regionsOf op.ta.word.toNat).any fun r => !c.rset.testBit r) = true := fun hany => by
    obtain ⟨r, hr, hrc⟩ := List.any_eq_true.1 hany
    rw [hin r ((mem_regionsOf_of_lt h42).1 hr)] at hrc
    cases hrc
  exact (exec_cfgsw h ha hc).trans (congrArg _ ((if_neg (Nat.not_le.2 h42)).trans (if_neg hany)))

theorem cfgsw_empty (h0 : op.ta.word.toNat = 0) : exec (.cfgsw n) s = .next (emitsWord (after s op) op n op.ta.word true) := by
  have hin : ∀ r, op.ta.word.toNat.testBit r = true → c.rset.testBit r = true := by simp [h0]
  rw [cfgsw_inside h ha hc (by omega) hin, if_pos h0]

theorem cfgsw_waits (h0 : 0 < op.ta.word.toNat) (h42 : op.ta.word.toNat < 2 ^ 42)
    (hin : ∀ r, op.ta.word.toNat.testBit r = true → c.rset.testBit r = true)
    (hact : ∀ r, op.ta.word.toNat.testBit r = true → ((after s op).region r).activeCtx.isSome = true) :
    exec (.cfgsw n) s = .next ((after s op).hold op (.swap op.ta.word.toNat)) := by
  have hidle : ((regionsOf op.ta.word.toNat).filter fun r => ((after s op).region r).activeCtx.isNone) = [] := by
    refine List.filter_eq_nil_iff.2 fun r hr => ?_
    have := hact r ((mem_regionsOf_of_lt h42).1 hr)
    simp [Option.isSome_iff_ne_none.1 this]
  rw [cfgsw_inside h ha hc h42 hin, if_neg (by omega), hidle, List.foldl_nil]

theorem cfgsw_idle_region {r : Nat} (hn : op.niw = n) (h42 : r < 42) (hset : op.ta.word.toNat = 2 ^ r) (hrc : c.rset.testBit r = true)
    (hact : ((after s op).region r).activeCtx = none) (hheld : (after s op).held = []) :
    exec (.cfgsw n) s = .next (emitsWord (((after s op).swapRegion r).fix op) op n op.ta.word true) := by
  have hone (k : Nat) : op.ta.word.toNat.testBit k = true ↔ k = r := by
    rw [hset, Nat.testBit_two_pow, decide_eq_true_eq, eq_comm]
  have hlt : op.ta.word.toNat < 2 ^ 42 := by
    rw [hset]
    exact Nat.pow_lt_pow_right (by decide) h42
  have hidle : ((regionsOf op.ta.word.toNat).filter fun r => ((after s op).region r).activeCtx.isNone) = [r] := by
    refine filter_eq_singleton (List.nodup_range.filter _) ((mem_regionsOf_of_lt hlt).2 ((hone r).2 rfl)) (by simp [hact])
      fun k hk _ => (hone k).1 ((mem_regionsOf_of_lt hlt).1 hk)
  have hne : op.ta.word.toNat ≠ 0 := by
    rw [hset]
    exact (Nat.two_pow_pos r).ne'
  have hin : ∀ k, op.ta.word.toNat.testBit k = true → c.rset.testBit k = true := fun k hk => (hone k).1 hk ▸ hrc
  rw [cfgsw_inside h ha hc hlt hin, if_neg hne, hidle, List.foldl_cons, List.foldl_nil,
    hset, swap_releases hn hheld]

end Cfgsw

/-! DRAIN (R174). -/

/-- The slot that a seed targets. -/
def seedSlot (r : SeedRec) : TileId × Nat × Slot :=
  let q := parcelOf r.ctl r.tag [r.val]
  (q.tile, q.node, q.slot)

theorem mem_seedSlots (y : TileId × Nat × Slot) : ∀ l : List SeedRec, y ∈ seedSlots l ↔ ∃ r ∈ l, y = seedSlot r
  | [] => by simp [seedSlots]
  | r :: l => by
    have ih := mem_seedSlots y l
    rw [List.exists_mem_cons_iff]
    simp only [seedSlots]
    split
    · next hmem =>
      rw [ih]
      refine ⟨Or.inr, fun h => h.elim (fun hy => ?_) id⟩
      rw [hy]
      exact (mem_seedSlots _ l).1 (List.contains_iff_mem.1 hmem)
    · rw [List.mem_cons, ih]
      rfl

theorem nodup_seedSlots : ∀ l : List SeedRec, (seedSlots l).Nodup
  | [] => List.nodup_nil
  | r :: l => by
    simp only [seedSlots]
    split
    · exact nodup_seedSlots l
    · next hmem => exact List.nodup_cons.2 ⟨fun h => hmem (List.contains_iff_mem.2 h), nodup_seedSlots l⟩

/-- The drain for a slot of a context. -/
def slotDrain (k : Nat) (y : TileId × Nat × Slot) : Parcel := ⟨y.1, y.2.1, y.2.2, drainTok (ctxTag k), false⟩

theorem ctxTag_eq_tagOf (k : Nat) : ctxTag k = tagOf k 0 0 := by
  refine BitVec.eq_of_toNat_eq ?_
  simp only [ctxTag, mkTag, tagOf, word, BitVec.toNat_ofNat]
  omega

theorem slotDrain_seedSlot (k : Nat) (r : SeedRec) : slotDrain k (seedSlot r) = drainParcel (parcelOf r.ctl r.tag [r.val]) k := by
  unfold slotDrain drainParcel seedSlot drainTok
  rw [ctxTag_eq_tagOf]

theorem slotDrain_injective (k : Nat) : Function.Injective (slotDrain k) := by
  rintro ⟨t, i, s⟩ ⟨t', i', s'⟩ h
  simp only [slotDrain, Parcel.mk.injEq] at h
  obtain ⟨rfl, rfl, rfl, -, -⟩ := h
  rfl

theorem foldl_deliver_stream (t : TileId) : ∀ (l : List Parcel) (s : State),
    ((l.foldl State.deliver s).ctile t).stream = (s.ctile t).stream ++ l.filter (·.tile = t)
  | [], s => by simp
  | q :: l, s => by
    rw [List.foldl_cons, foldl_deliver_stream t l, State.deliver, State.ctile_setCtile]
    by_cases h : t = q.tile
    · subst h
      simp
    · simp [h, Ne.symm h]

/-- The drains are tokens put on their tiles' streams. -/
theorem sendDrains_eq (s : State) (x : Ctx) : s.sendDrains x = ((seedSlots x.seeds).map (slotDrain x.num)).foldl State.deliver s := by
  rw [List.foldl_map]
  rfl

theorem drainsSent_sendDrains (s : State) (x : Ctx) : DrainsSent s (s.sendDrains x) x := by
  intro t
  refine ⟨((seedSlots x.seeds).map (slotDrain x.num)).filter (·.tile = t),
    ((nodup_seedSlots _).map (slotDrain_injective _)).filter _, ?_, fun q => ?_⟩
  · rw [sendDrains_eq, foldl_deliver_stream]
  · simp only [List.mem_filter, List.mem_map, mem_seedSlots, decide_eq_true_eq]
    constructor
    · rintro ⟨⟨y, ⟨r, hr, rfl⟩, rfl⟩, ht⟩
      exact ⟨ht, r, hr, slotDrain_seedSlot ..⟩
    · rintro ⟨ht, r, hr, rfl⟩
      exact ⟨⟨seedSlot r, ⟨r, hr, rfl⟩, slotDrain_seedSlot ..⟩, ht⟩

/-- Tokens on the streams are all that drains change. -/
structure StreamFrame (s u : State) : Prop where
  held : u.held = s.held
  mtiles : u.mtiles = s.mtiles
  main : u.main = s.main
  ctxs : u.ctxs = s.ctxs
  regions : u.regions = s.regions
  planes : ∀ t, (u.ctile t).active = (s.ctile t).active ∧ (u.ctile t).shadow = (s.ctile t).shadow

theorem deliver_frame (s : State) (q : Parcel) : StreamFrame s (s.deliver q) where
  held := rfl
  mtiles := rfl
  main := rfl
  ctxs := rfl
  regions := rfl
  planes t := by
    rw [State.deliver, State.ctile_setCtile]
    split
    · next h => rw [h]; exact ⟨rfl, rfl⟩
    · exact ⟨rfl, rfl⟩

theorem StreamFrame.trans {v : State} (h : StreamFrame s u) (h' : StreamFrame u v) : StreamFrame s v where
  held := h'.held.trans h.held
  mtiles := h'.mtiles.trans h.mtiles
  main := h'.main.trans h.main
  ctxs := h'.ctxs.trans h.ctxs
  regions := h'.regions.trans h.regions
  planes t := ⟨(h'.planes t).1.trans (h.planes t).1, (h'.planes t).2.trans (h.planes t).2⟩

theorem sendDrains_frame (s : State) (x : Ctx) : StreamFrame s (s.sendDrains x) := by
  rw [sendDrains_eq]
  exact foldl_keeps (StreamFrame s) State.deliver _ s ⟨rfl, rfl, rfl, rfl, rfl, fun _ => ⟨rfl, rfl⟩⟩
    fun v q hv => hv.trans (deliver_frame v q)

section Drain
variable (h : Issues s op n) (ha : op.ta.isVec = false)
include h ha

theorem exec_drainBlock (hl : (after s op).launched? op.ta.word.toNat = some x) (hh : x.home = siteRegion op.site) :
    exec (.drainBlock n) s = .next (if x.st = .ended then emitsWord (after s op) op n op.ta.word true
      else ((after s op).sendDrains x).hold op (.drain x.launch x.rset)) := by
  have hsc : ∀ t ∈ [op.ta], t.isVec = false := by simp [ha]
  simp only [exec, execDrainBlock, fire_of_issues h, scalars_of_all hsc, hl, hh, ne_eq, not_true, if_false]
  rfl

theorem drainBlock_outside (hl : ∀ x, (after s op).launched? op.ta.word.toNat = some x → x.home ≠ siteRegion op.site) :
    Faults (.drainBlock n) s op 0x041 := by
  have hsc : ∀ t ∈ [op.ta], t.isVec = false := by simp [ha]
  simp only [Faults, exec, execDrainBlock, fire_of_issues h, scalars_of_all hsc]
  cases hx : (after s op).launched? op.ta.word.toNat with
  | none => rfl
  | some x => exact congrArg _ (if_pos (hl x hx))

end Drain

end Sys2Proof.Proofs
end

section
/-!
O40, continued: SPLICE (R48, R323).
-/
namespace Sys2Proof.Proofs
open Sys2Proof Sys2Proof.Machine Sys2Proof.Claims

variable {s u : State} {op : Issued} {n : Niw} {c x : Ctx}

/-! The shadow planes of a set pass to a context. -/

/-- A plane under another context. -/
def planeFor (num : Nat) (p : CPlane) : CPlane := { p with ctx := num }

/-- A configuration under another context. -/
def loadedFor (num : Nat) (l : Loaded) : Loaded := { l with ctx := num }

/-- The shadow plane of one tile passes to a context. -/
def adoptTile (num : Nat) (s : State) (t : TileId) : State :=
  if isCompute t then s.setCtile t { s.ctile t with shadow := (s.ctile t).shadow.map (planeFor num) }
  else s.setMtile t { s.mtile t with shadow := (s.mtile t).shadow.map fun p => { p with ctx := num } }

/-- The shadow planes of one region pass to a context. -/
def adoptRegion (num : Nat) (s : State) (r : Nat) : State :=
  let s := (tilesOf r).foldl (adoptTile num) s
  s.setRegion r { s.region r with shadow := (s.region r).shadow.map (loadedFor num) }

theorem adopt_eq (s : State) (rset num : Nat) : s.adopt rset num = (regionsOf rset).foldl (adoptRegion num) s := rfl

/-- What passing shadow planes on leaves unchanged. -/
structure ShadowFrame (s u : State) : Prop where
  held : u.held = s.held
  ctxs : u.ctxs = s.ctxs
  tiles : ∀ t, (u.ctile t).active = (s.ctile t).active ∧ (u.ctile t).stream = (s.ctile t).stream

theorem ShadowFrame.refl (s : State) : ShadowFrame s s := ⟨rfl, rfl, fun _ => ⟨rfl, rfl⟩⟩

theorem ShadowFrame.trans {v : State} (h : ShadowFrame s u) (h' : ShadowFrame u v) : ShadowFrame s v where
  held := h'.held.trans h.held
  ctxs := h'.ctxs.trans h.ctxs
  tiles t := ⟨(h'.tiles t).1.trans (h.tiles t).1, (h'.tiles t).2.trans (h.tiles t).2⟩

theorem adoptTile_frame (num : Nat) (s : State) (t : TileId) : ShadowFrame s (adoptTile num s t) := by
  unfold adoptTile
  split
  · refine ⟨rfl, rfl, fun v => ?_⟩
    rw [State.ctile_setCtile]
    split
    · next h => rw [h]; exact ⟨rfl, rfl⟩
    · exact ⟨rfl, rfl⟩
  · exact ⟨rfl, rfl, fun _ => ⟨rfl, rfl⟩⟩

theorem adoptTiles_frame (num : Nat) (ts : List TileId) (s : State) : ShadowFrame s (ts.foldl (adoptTile num) s) :=
  foldl_keeps (ShadowFrame s) _ ts s (.refl s) fun u t h => h.trans (adoptTile_frame num u t)

theorem adopt_frame (s : State) (rset num : Nat) : ShadowFrame s (s.adopt rset num) := by
  rw [adopt_eq]
  refine foldl_keeps (ShadowFrame s) _ _ s (.refl s) fun u r h => h.trans ?_
  obtain ⟨hheld, hctxs, htiles⟩ := adoptTiles_frame num (tilesOf r) u
  exact ⟨hheld, hctxs, htiles⟩

/-- A change that is made under one condition and again under another is made where either holds. -/
theorem map_twice {α : Type} {f : α → α} (hf : ∀ a, f (f a) = f a) (p q : Prop) [Decidable p] [Decidable q] (o : Option α) :
    (if p then (if q then o.map f else o).map f else if q then o.map f else o) = if q ∨ p then o.map f else o := by
  have hff : (o.map f).map f = o.map f := by
    cases o with
    | none => rfl
    | some a => exact congrArg some (hf a)
  by_cases hp : p <;> by_cases hq : q <;> simp only [hp, hq, hff, if_true, if_false, or_true, or_false, or_self]

theorem adoptTile_shadow (num : Nat) (s : State) (t v : TileId) : ((adoptTile num s t).ctile v).shadow =
    if v = t ∧ isCompute v = true then (s.ctile v).shadow.map (planeFor num) else (s.ctile v).shadow := by
  unfold adoptTile
  by_cases hv : v = t
  · subst hv
    by_cases hc : isCompute v = true <;> simp [hc]
  · have hno : ¬ (v = t ∧ isCompute v = true) := fun h => hv h.1
    rw [if_neg hno]
    by_cases hc : isCompute t = true
    · rw [if_pos hc, State.ctile_setCtile, if_neg hv]
    · rw [if_neg hc]
      rfl

theorem adoptTiles_shadow (num : Nat) (v : TileId) : ∀ (ts : List TileId) (s : State),
    ((ts.foldl (adoptTile num) s).ctile v).shadow =
      if v ∈ ts ∧ isCompute v = true then (s.ctile v).shadow.map (planeFor num) else (s.ctile v).shadow
  | [], s => by simp
  | t :: ts, s => by
    rw [List.foldl_cons, adoptTiles_shadow num v ts, adoptTile_shadow, map_twice (f := planeFor num) fun _ => rfl]
    refine if_congr ?_ rfl rfl
    rw [List.mem_cons, or_and_right]

theorem adoptRegions_shadow (num : Nat) (v : TileId) : ∀ (rs : List Nat) (s : State),
    ((rs.foldl (adoptRegion num) s).ctile v).shadow =
      if (∃ r ∈ rs, v ∈ tilesOf r) ∧ isCompute v = true then (s.ctile v).shadow.map (planeFor num) else (s.ctile v).shadow
  | [], s => by simp
  | r :: rs, s => by
    have hone : ((adoptRegion num s r).ctile v).shadow = (((tilesOf r).foldl (adoptTile num) s).ctile v).shadow := rfl
    rw [List.foldl_cons, adoptRegions_shadow num v rs, hone, adoptTiles_shadow, map_twice (f := planeFor num) fun _ => rfl]
    refine if_congr ?_ rfl rfl
    rw [List.exists_mem_cons_iff, or_and_right]

theorem adoptTiles_regions (num : Nat) (ts : List TileId) (s : State) : (ts.foldl (adoptTile num) s).regions = s.regions := by
  refine foldl_view State.regions (adoptTile num) (fun v t => ?_) ts s
  unfold adoptTile
  split <;> rfl

theorem adoptRegion_shadow (num : Nat) (s : State) (r k : Nat) : ((adoptRegion num s r).region k).shadow =
    if k = r then (s.region k).shadow.map (loadedFor num) else (s.region k).shadow := by
  have hreg (j : Nat) : ((tilesOf r).foldl (adoptTile num) s).region j = s.region j := by
    simp only [State.region, adoptTiles_regions]
  simp only [adoptRegion, State.region_setRegion, hreg]
  by_cases hk : k = r <;> simp [hk]

theorem adopt_region_shadow (num k : Nat) : ∀ (rs : List Nat) (s : State), ((rs.foldl (adoptRegion num) s).region k).shadow =
    if k ∈ rs then (s.region k).shadow.map (loadedFor num) else (s.region k).shadow
  | [], s => by simp
  | r :: rs, s => by
    rw [List.foldl_cons, adopt_region_shadow num k rs, adoptRegion_shadow, map_twice (f := loadedFor num) fun _ => rfl]
    exact if_congr List.mem_cons.symm rfl rfl

/-! SPLICE. -/

section Splice
variable (h : Issues s op n) (ha : op.ta.isVec = false) (hb : op.tb.isVec = false) (hc : (after s op).ctx? op.ctx = some c)
  (hx : NamesLive (after s op) op.ta.word x)
include h ha hb hc hx

theorem splice_not_running (hst : x.st ≠ .running) : Faults (.splice n) s op 0x084 := by
  have hsc : ∀ t ∈ [op.ta, op.tb], t.isVec = false := by simp [ha, hb]
  simp only [Faults, exec, execSplice, fire_of_issues h, scalars_of_all hsc, alive_of_namesLive hx, hc]
  exact congrArg _ (if_pos (by simpa using hst))

variable (hst : x.st = .running)
include hst

theorem splice_forbidden (hmay : ¬ Commands (after s op) op x) : Faults (.splice n) s op 0x103 := by
  have hsc : ∀ t ∈ [op.ta, op.tb], t.isVec = false := by simp [ha, hb]
  have hno : (after s op).mayCommand op x = false := Bool.eq_false_iff.2 fun h => hmay ((mayCommand_iff ..).1 h)
  simp only [Faults, exec, execSplice, fire_of_issues h, scalars_of_all hsc, alive_of_namesLive hx, hc, hst, hno]
  rfl

/-- The state once SPLICE has handed the shadow planes over, sent its drains and waits (R323). -/
def spliced (s : State) (op : Issued) (x : Ctx) (l : Loaded) : State :=
  let s := (s.fix op).adopt op.tb.word.toNat x.num
  let s := s.mapCtx x.launch fun x => { x with splice := some l, switched := [], former := x.loops, loops := [] }
  (s.sendDrains x).hold op (.splice x.launch)

variable (hmay : Commands (after s op) op x)
include hmay

theorem exec_splice : exec (.splice n) s = .next (
    let s1 := after s op
    let rs := op.tb.word.toNat
    let ls := (regionsOf rs).map fun r => (s1.region r).successor? c.num rs
    match ls with
    | some l :: _ =>
      if rs ≠ x.rset ∨ ls.any (·.isNone) ∨ x.splice.isSome then s1.opFault op 0x302 0 0
      else if (spliced s1 op x l).spliceTiles x = [] then (spliced s1 op x l).spliceDone x l else spliced s1 op x l
    | _ => s1.opFault op 0x302 0 0) := by
  have hsc : ∀ t ∈ [op.ta, op.tb], t.isVec = false := by simp [ha, hb]
  simp only [exec, execSplice, fire_of_issues h, scalars_of_all hsc, alive_of_namesLive hx, hc, hst, (mayCommand_iff ..).2 hmay]
  rfl

theorem splice_misfits (hno : op.tb.word.toNat ≠ x.rset ∨ x.splice.isSome = true) : Faults (.splice n) s op 0x302 := by
  rw [Faults, exec_splice h ha hb hc hx hst hmay]
  simp only []
  split
  · exact congrArg _ (if_pos (hno.imp id .inr))
  · rfl

end Splice

/-- Fixing a block touches nothing that SPLICE reads. -/
theorem fix_shadows (s : State) (op : Issued) : (s.fix op).held = s.held ∧ (s.fix op).ctxs = s.ctxs ∧
    ∀ r, ((s.fix op).region r).shadow = (s.region r).shadow := by
  unfold State.fix
  split
  · exact ⟨rfl, rfl, fun _ => rfl⟩
  · simp only [State.mapBlock]
    split
    · refine ⟨rfl, rfl, fun r => ?_⟩
      rw [State.setBctx, State.region_setRegion]
      split
      · next h => rw [h]
      · rfl
    · exact ⟨rfl, rfl, fun _ => rfl⟩

/-- The context whose planes are being replaced (R323). -/
def splicing (l : Loaded) (x : Ctx) : Ctx := { x with splice := some l, switched := [], former := x.loops, loops := [] }

/-- What stands after the handover, read through the state before it. -/
structure Handover (s u : State) (op : Issued) (x : Ctx) (l : Loaded) : Prop where
  drains : DrainsSent s u x
  held : u.held = s.held ++ [⟨op, .splice x.launch⟩]
  ctx : u.launched? x.launch = some (splicing l x)
  active : ∀ t, (u.ctile t).active = (s.ctile t).active
  region : ∀ r, (u.region r).shadow =
    if r ∈ regionsOf op.tb.word.toNat then (s.region r).shadow.map (loadedFor x.num) else (s.region r).shadow
  tile : ∀ t, (u.ctile t).shadow = if (∃ r ∈ regionsOf op.tb.word.toNat, t ∈ tilesOf r) ∧ isCompute t = true
    then (s.ctile t).shadow.map (planeFor x.num) else (s.ctile t).shadow

theorem handover_spliced (s : State) (op : Issued) (l : Loaded) (hl : s.launched? x.launch = some x) :
    Handover s (spliced s op x l) op x l := by
  obtain ⟨hct, -, -⟩ := fix_frame s op
  obtain ⟨hheld, hctxs, hregion⟩ := fix_shadows s op
  have hctile (t : TileId) : (s.fix op).ctile t = s.ctile t := by simp only [State.ctile, hct]
  obtain ⟨haheld, hactxs, hatiles⟩ := adopt_frame (s.fix op) op.tb.word.toNat x.num
  have hashadow (t : TileId) := adoptRegions_shadow x.num t (regionsOf op.tb.word.toNat) (s.fix op)
  have haregion (r : Nat) := adopt_region_shadow x.num r (regionsOf op.tb.word.toNat) (s.fix op)
  simp only [← adopt_eq] at hashadow haregion
  have hspliced : spliced s op x l = ((((s.fix op).adopt op.tb.word.toNat x.num).mapCtx x.launch (splicing l)).sendDrains x).hold op
      (.splice x.launch) := rfl
  generalize (s.fix op).adopt op.tb.word.toNat x.num = v at *
  have hframe := sendDrains_frame (v.mapCtx x.launch (splicing l)) x
  have hsent := drainsSent_sendDrains (v.mapCtx x.launch (splicing l)) x
  have hlaunched : (v.mapCtx x.launch (splicing l)).launched? x.launch = some (splicing l x) := by
    have hv : v.launched? x.launch = some x := by
      rw [State.launched?, hactxs, hctxs]
      exact hl
    rw [launched_mapCtx v x.launch x.launch (splicing l) fun _ => rfl, hv, Option.map_some, if_pos rfl]
  rw [hspliced]
  generalize hw : (v.mapCtx x.launch (splicing l)).sendDrains x = w at *
  refine ⟨fun t => ?_, ?_, ?_, fun t => ?_, fun r => ?_, fun t => ?_⟩
  · obtain ⟨q, hnd, hq, hmem⟩ := hsent t
    refine ⟨q, hnd, hq.trans ?_, hmem⟩
    rw [← hctile t, ← (hatiles t).2]
    rfl
  · exact congrArg (· ++ [_]) (hframe.held.trans (haheld.trans hheld))
  · rw [← hlaunched]
    exact congrArg (List.find? _) hframe.ctxs
  · exact (hframe.planes t).1.trans ((hatiles t).1.trans (congrArg CTile.active (hctile t)))
  · rw [← hregion r, ← haregion r]
    exact congrArg (fun m => (lookD Region.reset r m).shadow) hframe.regions
  · rw [← hctile t, ← hashadow t]
    exact (hframe.planes t).2

/-- A SPLICE that fits hands its shadow planes over (R323). -/
theorem splice_starts (h : Issues s op n) (ha : op.ta.isVec = false) (hb : op.tb.isVec = false)
    (hc : (after s op).ctx? op.ctx = some c) (hx : NamesLive (after s op) op.ta.word x) (hst : x.st = .running)
    (hmay : Commands (after s op) op x) (h0 : 0 < op.tb.word.toNat) (h42 : op.tb.word.toNat < 2 ^ 42)
    (hset : op.tb.word.toNat = x.rset) (hno : x.splice = none)
    (hshadow : ∀ r, op.tb.word.toNat.testBit r = true → ∃ l, ((after s op).region r).shadow = some l ∧ l.byCfgld = true ∧
      l.ctx = c.num ∧ l.rset = op.tb.word.toNat) :
    ∃ l, exec (.splice n) s = .next (if (spliced (after s op) op x l).spliceTiles x = []
      then (spliced (after s op) op x l).spliceDone x l else spliced (after s op) op x l) := by
  have hsucc (r : Nat) (hr : r ∈ regionsOf op.tb.word.toNat) :
      (((after s op).region r).successor? c.num op.tb.word.toNat).isSome = true := by
    obtain ⟨l, hl, h1, h2, h3⟩ := hshadow r ((mem_regionsOf_of_lt h42).1 hr)
    simp [Region.successor?, hl, h1, h2, h3]
  have hexec := exec_splice h ha hb hc hx hst hmay
  have hnone : (((regionsOf op.tb.word.toNat).map fun r =>
      ((after s op).region r).successor? c.num op.tb.word.toNat).any (·.isNone)) = false := by
    refine List.any_eq_false.2 fun o ho => ?_
    obtain ⟨r, hr, rfl⟩ := List.mem_map.1 ho
    simpa [Option.isSome_iff_ne_none] using hsucc r hr
  obtain ⟨r, hr⟩ := Nat.exists_testBit_of_ne_zero h0.ne'
  cases hrs : regionsOf op.tb.word.toNat with
  | nil =>
    have hmem := (mem_regionsOf_of_lt h42).2 hr
    rw [hrs] at hmem
    cases hmem
  | cons k ks =>
    obtain ⟨l, hl⟩ := Option.isSome_iff_exists.1 (hsucc k (by simp [hrs]))
    refine ⟨l, hexec.trans ?_⟩
    simp only [hrs, List.map_cons, hl] at hnone ⊢
    refine congrArg _ (if_neg ?_)
    rintro (hne | hbad | hs)
    · exact hne hset
    · rw [hnone] at hbad
      cases hbad
    · rw [hno] at hs
      cases hs

/-- Settles O40: what each instruction does with the planes of its regions. -/
theorem configurationsAndSwaps : Obligations.ConfigurationsAndSwaps := by
  unfold Obligations.ConfigurationsAndSwaps
  intro s op n c h hn ha hc s1 rs set
  refine ⟨fun hb => ⟨cfgld_set_bad h ha hb hc, cfgld_busy h ha hb hc, ?_⟩, ⟨?_, ?_, ?_, ?_, ?_⟩, ⟨?_, ?_⟩, ?_⟩
  · intro img todo h0 h42 hread himg hfree htodo
    exact cfgld_loads h ha hb hc h0 h42 hread himg hfree htodo
  · intro hbad
    exact (exec_cfgsw h ha hc).trans (congrArg _ (if_pos hbad))
  · exact cfgsw_outside h ha hc
  · exact cfgsw_empty h ha hc
  · exact cfgsw_waits h ha hc
  · intro r h42 hset hrc hact hheld
    exact cfgsw_idle_region h ha hc hn h42 hset hrc hact hheld
  · intro x hl hh
    have hexec := exec_drainBlock h ha hl hh
    refine ⟨fun hend => hexec.trans (congrArg _ (if_pos hend)), fun hend => ?_⟩
    have hframe := sendDrains_frame s1 x
    exact ⟨_, hexec.trans (congrArg _ (if_neg hend)), drainsSent_sendDrains s1 x, congrArg (· ++ [_]) hframe.held, hframe.mtiles,
      hframe.main⟩
  · exact drainBlock_outside h ha
  · intro x hx hb
    refine ⟨splice_not_running h ha hb hc hx, splice_forbidden h ha hb hc hx,
      fun hst hmay => splice_misfits h ha hb hc hx hst hmay, ?_⟩
    intro hst hmay h0 h42 hset hno hshadow htile
    obtain ⟨l, hexec⟩ := splice_starts h ha hb hc hx hst hmay h0 h42 hset hno hshadow
    have hl : s1.launched? x.launch = some x := by
      have hlaunch : x.launch = op.ta.word.toNat := by simpa using List.find?_some hx.1
      rw [hlaunch]
      exact hx.1
    have hand := handover_spliced s1 op l hl
    have htiles : (spliced s1 op x l).spliceTiles x ≠ [] := by
      obtain ⟨t, p, hbit, ht42, hmem, hcomp, hact, hctx⟩ := htile
      have ht : t ∈ (spliced s1 op x l).spliceTiles x := by
        refine List.mem_filter.2 ⟨List.mem_flatMap.2 ⟨regionOf t, ?_, hmem⟩, ?_⟩
        · rw [← hset]
          exact (mem_regionsOf_of_lt h42).2 hbit
        · simp [hcomp, hand.active, hact, hctx]
      exact List.ne_nil_of_mem ht
    rw [if_neg htiles] at hexec
    refine ⟨_, _, hexec, hand.drains, hand.held, hand.ctx, rfl, rfl, hst, fun r hr => ?_, fun t p hbit hmem hcomp hp => ?_⟩
    · obtain ⟨k, hk, -⟩ := hshadow r hr
      exact ⟨loadedFor x.num k, by rw [hand.region, if_pos ((mem_regionsOf_of_lt h42).2 hr), hk]; rfl, rfl⟩
    · have hin : (∃ r ∈ regionsOf op.tb.word.toNat, t ∈ tilesOf r) ∧ isCompute t = true :=
        ⟨⟨regionOf t, (mem_regionsOf_of_lt h42).2 hbit, hmem⟩, hcomp⟩
      exact ⟨planeFor x.num p, by rw [hand.tile, if_pos hin, hp]; rfl, rfl⟩

end Sys2Proof.Proofs
end

section

/-!
The encoding both ways: the codes of the fields, where a word's fields stand, the word that fields make, and what the decoder
answers (R51, R53, R76, R79).
-/

namespace Sys2Proof.Proofs

open Sys2Proof Sys2Proof.Machine Sys2Proof.Claims

/-! Codes and what they stand for. -/

@[simp] theorem fmt_ofCode_code (f : Fmt) : Fmt.ofCode f.code = f := by cases f <;> rfl

theorem fmt_code_lt (f : Fmt) : f.code < 16 := by cases f <;> decide

theorem fmt_code_ofCode {k : Nat} (h : k < 16) : (Fmt.ofCode k).code = k := by
  have : ∀ k < 16, (Fmt.ofCode k).code = k := by decide
  exact this k h

@[simp] theorem rnd_ofCode_code (r : Rnd) : Rnd.ofCode r.code = some r := by cases r <;> rfl

theorem rnd_code_lt (r : Rnd) : r.code < 7 := by cases r <;> decide

theorem rnd_code_of_ofCode {k : Nat} (h : k < 8) {r : Rnd} (hr : Rnd.ofCode k = some r) : r.code = k := by
  have : ∀ k < 8, ∀ r ∈ Rnd.ofCode k, r.code = k := by decide
  exact this k h r hr

/-- RND 111 alone is no rounding mode (R76). -/
theorem rnd_ofCode_ne_none {k : Nat} (h : k < 7) : Rnd.ofCode k ≠ none := by
  have : ∀ k < 7, Rnd.ofCode k ≠ none := by decide
  exact this k h

@[simp] theorem prd_ofCode_code (p : Prd) : Prd.ofCode p.code = p := by cases p <;> rfl

theorem prd_code_lt (p : Prd) : p.code < 4 := by cases p <;> decide

theorem prd_code_ofCode {k : Nat} (h : k < 4) : (Prd.ofCode k).code = k := by
  have : ∀ k < 4, (Prd.ofCode k).code = k := by decide
  exact this k h

theorem slot_code_lt (s : Slot) : s.code < 4 := by cases s <;> decide

theorem slot_ofCode_mod (k : Nat) : Slot.ofCode (k % 4) = Slot.ofCode k := by simp [Slot.ofCode]

@[simp] theorem slot_ofCode_code (s : Slot) : Slot.ofCode s.code = s := by cases s <;> rfl

theorem slot_code_ofCode (k : Nat) : (Slot.ofCode k).code = k % 4 := by
  have : ∀ k < 4, (Slot.ofCode k).code = k := by decide
  rw [← slot_ofCode_mod, this _ (Nat.mod_lt _ (by decide))]

/-! Targets (R53). -/

theorem targetBits_lt (t : Option Target) : targetBits t < 4096 := by
  cases t with
  | none => decide
  | some t =>
    have hs := slot_code_lt t.slot
    have hd := t.dest.isLt
    simp only [targetBits]
    omega

theorem targetOf_targetBits (t : Option Target) : targetOf (targetBits t) = .ok t := by
  cases t with
  | none => rfl
  | some t =>
    have hs := slot_code_lt t.slot
    have hd := t.dest.isLt
    have hv : (2048 + 512 * t.slot.code + t.dest.toNat) / 2048 % 2 = 1 := by omega
    have hslot : Slot.ofCode ((2048 + 512 * t.slot.code + t.dest.toNat) / 512) = t.slot := by
      rw [← slot_ofCode_mod, show (2048 + 512 * t.slot.code + t.dest.toNat) / 512 % 4 = t.slot.code by omega, slot_ofCode_code]
    have hdest : BitVec.ofNat 9 (2048 + 512 * t.slot.code + t.dest.toNat) = t.dest := by
      apply BitVec.eq_of_toNat_eq
      rw [BitVec.toNat_ofNat]
      omega
    rw [targetOf, targetBits, if_pos hv, hslot, hdest]

theorem targetBits_of_targetOf {v : Nat} (h : v < 4096) {t : Option Target} (ht : targetOf v = .ok t) : targetBits t = v := by
  unfold targetOf at ht
  split at ht
  · obtain rfl := Except.ok.inj ht
    simp only [targetBits, slot_code_ofCode, BitVec.toNat_ofNat]
    omega
  · split at ht
    · obtain rfl := Except.ok.inj ht
      simp only [targetBits]
      omega
    · cases ht

/-- V = 0 with another bit set is no target. -/
theorem targetOf_invalid {v : Nat} (hv : v / 2048 % 2 = 0) (h : v % 2048 ≠ 0) : targetOf v = .error 0x041 := by
  simp [targetOf, hv, h]

/-! Fields of a word. -/

theorem fieldOf_lt (w : BitVec 64) (lo len : Nat) : fieldOf w lo len < 2 ^ len := Nat.mod_lt _ (Nat.two_pow_pos _)

/-- What the decoder of the fields answers, field by field. -/
theorem fieldsOf_ok_iff (w : BitVec 64) (n : Niw) : fieldsOf w = .ok n ↔
    Rnd.ofCode (fieldOf w 49 3) = some n.rnd ∧ targetOf (fieldOf w 24 12) = .ok n.t0 ∧ targetOf (fieldOf w 12 12) = .ok n.t1 ∧
      targetOf (fieldOf w 0 12) = .ok n.t2 ∧ n.fmt = Fmt.ofCode (fieldOf w 52 4) ∧ n.prd = Prd.ofCode (fieldOf w 47 2) ∧
      n.ari = BitVec.ofNat 2 (fieldOf w 45 2) ∧ n.xw = decide (fieldOf w 44 1 = 1) ∧
      n.imm = BitVec.ofNat 8 (fieldOf w 36 8) := by
  obtain ⟨fmt, rnd, prd, ari, xw, imm, t0, t1, t2⟩ := n
  unfold fieldsOf
  cases Rnd.ofCode (fieldOf w 49 3) with
  | none => simp [bind, Except.bind]
  | some r =>
    cases targetOf (fieldOf w 24 12) with
    | error c => simp [bind, Except.bind]
    | ok a =>
      cases targetOf (fieldOf w 12 12) with
      | error c => simp [bind, Except.bind]
      | ok b =>
        cases targetOf (fieldOf w 0 12) with
        | error c => simp [bind, Except.bind]
        | ok c =>
          simp only [bind, Except.bind, pure, Except.pure, Except.ok.injEq, Niw.mk.injEq, Option.some.injEq]
          constructor
          · rintro ⟨rfl, rfl, rfl, rfl, rfl, rfl, rfl, rfl, rfl⟩
            simp
          · rintro ⟨rfl, rfl, rfl, rfl, rfl, rfl, rfl, rfl, rfl⟩
            simp

/-- Each field's code fits the bits that the word has for it. -/
theorem fields_lt (n : Niw) : n.fmt.code < 16 ∧ n.rnd.code < 7 ∧ n.prd.code < 4 ∧ n.ari.toNat < 4 ∧ n.xw.toNat < 2 ∧
    n.imm.toNat < 256 ∧ targetBits n.t0 < 4096 ∧ targetBits n.t1 < 4096 ∧ targetBits n.t2 < 4096 :=
  ⟨fmt_code_lt _, rnd_code_lt _, prd_code_lt _, n.ari.isLt, n.xw.toNat_lt, n.imm.isLt, targetBits_lt _, targetBits_lt _,
    targetBits_lt _⟩

/-- The word of an opcode and its fields, as a number. -/
theorem toNat_niwBits {opc : Nat} (h : opc < 256) (n : Niw) : (niwBits opc n).toNat =
    2 ^ 56 * opc + 2 ^ 52 * n.fmt.code + 2 ^ 49 * n.rnd.code + 2 ^ 47 * n.prd.code + 2 ^ 45 * n.ari.toNat + 2 ^ 44 * n.xw.toNat
      + 2 ^ 36 * n.imm.toNat + 2 ^ 24 * targetBits n.t0 + 2 ^ 12 * targetBits n.t1 + targetBits n.t2 := by
  obtain ⟨hfmt, hrnd, hprd, hari, hxw, himm, h0, h1, h2⟩ := fields_lt n
  rw [niwBits, BitVec.toNat_ofNat]
  apply Nat.mod_eq_of_lt
  omega

/-- The opcode of a word of fields. -/
theorem opcode_niwBits {opc : Nat} (h : opc < 256) (n : Niw) : fieldOf (niwBits opc n) 56 8 = opc := by
  obtain ⟨hfmt, hrnd, hprd, hari, hxw, himm, h0, h1, h2⟩ := fields_lt n
  rw [fieldOf, toNat_niwBits h]
  omega

/-- The fields of a word of fields (R51). -/
theorem fieldsOf_niwBits {opc : Nat} (h : opc < 256) (n : Niw) : fieldsOf (niwBits opc n) = .ok n := by
  obtain ⟨hfmt, hrnd, hprd, hari, hxw, himm, h0, h1, h2⟩ := fields_lt n
  have field (lo len v : Nat) (hv : (niwBits opc n).toNat / 2 ^ lo % 2 ^ len = v) : fieldOf (niwBits opc n) lo len = v := hv
  rw [toNat_niwBits h] at field
  rw [fieldsOf_ok_iff, field 49 3 n.rnd.code (by omega), field 24 12 (targetBits n.t0) (by omega),
    field 12 12 (targetBits n.t1) (by omega), field 0 12 (targetBits n.t2) (by omega), field 52 4 n.fmt.code (by omega),
    field 47 2 n.prd.code (by omega), field 45 2 n.ari.toNat (by omega), field 44 1 n.xw.toNat (by omega),
    field 36 8 n.imm.toNat (by omega)]
  refine ⟨rnd_ofCode_code _, targetOf_targetBits _, targetOf_targetBits _, targetOf_targetBits _, (fmt_ofCode_code _).symm,
    (prd_ofCode_code _).symm, ?_, ?_, ?_⟩
  · simp
  · cases n.xw <;> rfl
  · simp

/-- A word from bit `lo` upward is its field there and what lies above the field. -/
theorem shifted_eq_field (w : BitVec 64) (lo len : Nat) :
    w.toNat / 2 ^ lo = 2 ^ len * (w.toNat / 2 ^ (lo + len)) + fieldOf w lo len := by
  rw [fieldOf, Nat.pow_add, ← Nat.div_div_eq_div_mul, Nat.div_add_mod]

/-- A word is the sum of its fields, each at its place. -/
theorem toNat_eq_fields (w : BitVec 64) : w.toNat =
    2 ^ 56 * fieldOf w 56 8 + 2 ^ 52 * fieldOf w 52 4 + 2 ^ 49 * fieldOf w 49 3 + 2 ^ 47 * fieldOf w 47 2 + 2 ^ 45 * fieldOf w 45 2
      + 2 ^ 44 * fieldOf w 44 1 + 2 ^ 36 * fieldOf w 36 8 + 2 ^ 24 * fieldOf w 24 12 + 2 ^ 12 * fieldOf w 12 12
      + fieldOf w 0 12 := by
  have htop : w.toNat / 2 ^ 64 = 0 := Nat.div_eq_of_lt w.isLt
  calc w.toNat = w.toNat / 2 ^ 0 := (Nat.div_one _).symm
    _ = _ := by
      rw [shifted_eq_field w 0 12, shifted_eq_field w (0 + 12) 12, shifted_eq_field w (0 + 12 + 12) 12,
        shifted_eq_field w (0 + 12 + 12 + 12) 8, shifted_eq_field w (0 + 12 + 12 + 12 + 8) 1,
        shifted_eq_field w (0 + 12 + 12 + 12 + 8 + 1) 2, shifted_eq_field w (0 + 12 + 12 + 12 + 8 + 1 + 2) 2,
        shifted_eq_field w (0 + 12 + 12 + 12 + 8 + 1 + 2 + 2) 3, shifted_eq_field w (0 + 12 + 12 + 12 + 8 + 1 + 2 + 2 + 3) 4,
        shifted_eq_field w (0 + 12 + 12 + 12 + 8 + 1 + 2 + 2 + 3 + 4) 8]
      simp only [Nat.zero_add, Nat.reduceAdd, htop]
      ring

/-- No bit of a word lies outside its fields. -/
theorem niwBits_of_fieldsOf {w : BitVec 64} {n : Niw} (h : fieldsOf w = .ok n) : niwBits (fieldOf w 56 8) n = w := by
  obtain ⟨hrnd, ht0, ht1, ht2, hfmt, hprd, hari, hxw, himm⟩ := (fieldsOf_ok_iff w n).1 h
  have hw := w.isLt
  have hrnd := rnd_code_of_ofCode (fieldOf_lt w 49 3) hrnd
  have ht0 := targetBits_of_targetOf (fieldOf_lt w 24 12) ht0
  have ht1 := targetBits_of_targetOf (fieldOf_lt w 12 12) ht1
  have ht2 := targetBits_of_targetOf (fieldOf_lt w 0 12) ht2
  have hfmt : n.fmt.code = _ := hfmt ▸ fmt_code_ofCode (fieldOf_lt w 52 4)
  have hprd : n.prd.code = _ := hprd ▸ prd_code_ofCode (fieldOf_lt w 47 2)
  have hari : n.ari.toNat = fieldOf w 45 2 := by rw [hari]; exact Nat.mod_eq_of_lt (fieldOf_lt w 45 2)
  have himm : n.imm.toNat = fieldOf w 36 8 := by rw [himm]; exact Nat.mod_eq_of_lt (fieldOf_lt w 36 8)
  have hxw : n.xw.toNat = fieldOf w 44 1 := by
    have hlt := fieldOf_lt w 44 1
    rw [hxw]
    by_cases h1 : fieldOf w 44 1 = 1
    · simp [h1]
    · simp only [h1, decide_false, Bool.toNat_false]
      omega
  apply BitVec.eq_of_toNat_eq
  rw [toNat_niwBits (fieldOf_lt w 56 8), hrnd, ht0, ht1, ht2, hfmt, hprd, hari, himm, hxw]
  exact (toNat_eq_fields w).symm

/-! The decoder. -/

/-- What the decoder accepts, check by check. -/
theorem decodeWord_ok_iff (fabric : Bool) (w : BitVec 64) (i : Instr) : decodeWord fabric w = .ok i ↔
    headCause fabric w = none ∧ ∃ n, fieldsOf w = .ok n ∧ fieldCause fabric (fieldOf w 56 8) n = none ∧
      build fabric (fieldOf w 56 8) n = some i := by
  unfold decodeWord
  cases headCause fabric w with
  | some c => simp
  | none =>
    cases fieldsOf w with
    | error c => simp
    | ok n =>
      cases hf : fieldCause fabric (fieldOf w 56 8) n with
      | some c => simp [hf]
      | none => cases hb : build fabric (fieldOf w 56 8) n <;> simp [hf, hb]

/-- A word is refused for its opcode, mode or format only where its fields are too. -/
theorem headCause_of_fieldCause {fabric : Bool} {w : BitVec 64} {n : Niw} (h : fieldsOf w = .ok n)
    (hf : fieldCause fabric (fieldOf w 56 8) n = none) : headCause fabric w = none := by
  obtain ⟨-, -, -, -, hfmt, -⟩ := (fieldsOf_ok_iff w n).1 h
  have hcode : n.fmt.code = fieldOf w 52 4 := hfmt ▸ fmt_code_ofCode (fieldOf_lt w 52 4)
  unfold fieldCause at hf
  unfold headCause
  cases hr : rule (fieldOf w 56 8) with
  | none => simp [hr] at hf
  | some r =>
    simp only [hr] at hf ⊢
    rw [hcode] at hf
    by_cases hmode : (!if fabric then r.fab else r.blk) = true
    · rw [if_pos hmode] at hf
      cases hf
    · rw [if_neg hmode] at hf ⊢
      by_cases hfm : (!r.fmts.testBit (fieldOf w 52 4)) = true
      · rw [if_pos hfm] at hf
        cases hf
      · rw [if_neg hfm]

/-- An opcode that names an instruction has 8 bits. -/
theorem opcode_lt_of_build {fabric : Bool} {opc : Nat} {n : Niw} {i : Instr} (h : build fabric opc n = some i) : opc < 256 := by
  unfold build at h
  split at h
  all_goals cases h
  all_goals decide

theorem wellFormed_iff (fabric : Bool) (i : Instr) : i.wellFormed fabric = true ↔
    ∃ opc n, i.parts = some (opc, n) ∧ fieldCause fabric opc n = none ∧ build fabric opc n = some i := by
  unfold Instr.wellFormed
  cases i.parts with
  | none => simp
  | some p =>
    obtain ⟨opc, n⟩ := p
    simp

/-- Settles O1: the fields of the word of fields are those fields, and the checks of the fields include those of the head. -/
theorem decodeOfEncode : Obligations.DecodeOfEncode := by
  intro fabric i h
  obtain ⟨opc, n, hparts, hfields, hbuild⟩ := (wellFormed_iff fabric i).1 h
  have hopc := opcode_lt_of_build hbuild
  have hn := fieldsOf_niwBits hopc n
  refine ⟨niwBits opc n, by rw [encode, hparts]; rfl, (decodeWord_ok_iff ..).2 ?_⟩
  have hf : fieldCause fabric (fieldOf (niwBits opc n) 56 8) n = none := by rwa [opcode_niwBits hopc]
  exact ⟨headCause_of_fieldCause hn hf, n, hn, hf, by rwa [opcode_niwBits hopc]⟩

/-- Settles O2: an accepted word is the word of its fields, and its opcode and fields are the parts of its instruction. -/
theorem decodedIsEncoded : Obligations.DecodedIsEncoded := by
  intro fabric w i h
  obtain ⟨-, n, hn, hf, hb⟩ := (decodeWord_ok_iff ..).1 h
  have hparts := build_parts hb
  exact ⟨(wellFormed_iff ..).2 ⟨_, n, hparts, hf, hb⟩, by rw [encode, hparts]; exact congrArg some (niwBits_of_fieldsOf hn)⟩

/-- Bits set below the lowest bit of a number add to it. -/
theorem toNat_or_of_below {x y : BitVec 64} {a b : Nat} (k : Nat) (hx : x.toNat = a) (hy : y.toNat = b) (ha : a % 2 ^ k = 0)
    (hb : b < 2 ^ k) : (x ||| y).toNat = a + b := by
  obtain ⟨c, rfl⟩ := Nat.dvd_of_mod_eq_zero ha
  rw [BitVec.toNat_or, hx, hy, Nat.two_pow_add_eq_or_of_lt hb]

/-- A value put in its place in a word. -/
theorem toNat_place {x : BitVec 64} {a : Nat} (k : Nat) (hx : x.toNat = a) (h : 2 ^ k * a < 2 ^ 64) :
    (x <<< k).toNat = 2 ^ k * a := by
  rw [BitVec.toNat_shiftLeft, Nat.shiftLeft_eq, hx, Nat.mul_comm, Nat.mod_eq_of_lt h]

/-- The bits of a valid target at its place. -/
theorem toNat_target {v x y : BitVec 64} {lo : Nat} (s : Slot) (d : BitVec 9) (hv : v.toNat = 2 ^ (lo + 11))
    (hx : x.toNat = 2 ^ (lo + 9) * s.code) (hy : y.toNat = 2 ^ lo * d.toNat) :
    (v ||| x ||| y).toNat = 2 ^ lo * targetBits (some ⟨s, d⟩) := by
  have hs := slot_code_lt s
  have hd := d.isLt
  have hp := Nat.two_pow_pos lo
  rw [toNat_or_of_below (lo + 9) (toNat_or_of_below (lo + 11) hv hx ?_ ?_) hy ?_ ?_, targetBits, Nat.pow_add, Nat.pow_add]
  · ring
  · exact Nat.mod_self _
  · rw [Nat.pow_add, Nat.pow_add, Nat.mul_assoc]
    exact Nat.mul_lt_mul_of_pos_left (by omega) hp
  · rw [Nat.pow_add, Nat.pow_add, show 2 ^ lo * 2 ^ 11 + 2 ^ lo * 2 ^ 9 * s.code = 2 ^ lo * 2 ^ 9 * (4 + s.code) by ring]
    exact Nat.mul_mod_right _ _
  · rw [Nat.pow_add]
    exact Nat.mul_lt_mul_of_pos_left (by omega) hp

theorem toNat_ofNat_of_lt {a : Nat} (h : a < 2 ^ 64) : (BitVec.ofNat 64 a).toNat = a :=
  (BitVec.toNat_ofNat ..).trans (Nat.mod_eq_of_lt h)

/-- Settles O3: the fields, each shifted to its place, add up to the word of the fields. -/
theorem fieldsOfWord : Obligations.FieldsOfWord := by
  intro opc fmt rnd prd ari xw imm s0 s1 s2 d0 d1 d2
  have hfmt := fmt_code_lt fmt
  have hrnd := rnd_code_lt rnd
  have hprd := prd_code_lt prd
  have hari := ari.isLt
  have hxw := xw.toNat_lt
  have himm := imm.isLt
  have hs0 := slot_code_lt s0
  have hs1 := slot_code_lt s1
  have hs2 := slot_code_lt s2
  have hd0 := d0.isLt
  have hd1 := d1.isLt
  have hd2 := d2.isLt
  have hopc := opc.isLt
  refine Eq.trans (congrArg fieldsOf (BitVec.eq_of_toNat_eq ?_)) (fieldsOf_niwBits hopc _)
  rw [toNat_niwBits hopc]
  dsimp only
  have h0 := toNat_target (lo := 24) s0 d0 (v := 1#64 <<< 35) (by decide)
    (toNat_place 33 (toNat_ofNat_of_lt (by omega)) (by omega)) (toNat_place 24 (BitVec.toNat_setWidth_of_le (by decide)) (by omega))
  have h1 := toNat_target (lo := 12) s1 d1 (v := 1#64 <<< 23) (by decide)
    (toNat_place 21 (toNat_ofNat_of_lt (by omega)) (by omega)) (toNat_place 12 (BitVec.toNat_setWidth_of_le (by decide)) (by omega))
  have h2 := toNat_target (lo := 0) s2 d2 (v := 1#64 <<< 11) (by decide)
    (toNat_place 9 (toNat_ofNat_of_lt (by omega)) (by omega))
    ((BitVec.toNat_setWidth_of_le (by decide)).trans (Nat.one_mul _).symm)
  rw [Nat.pow_zero, Nat.one_mul] at h2
  have hb0 := targetBits_lt (some ⟨s0, d0⟩)
  have hb1 := targetBits_lt (some ⟨s1, d1⟩)
  have hb2 := targetBits_lt (some ⟨s2, d2⟩)
  have hplace (k : Nat) {m : Nat} (x : BitVec m) (h : m ≤ 64) (hlt : 2 ^ k * x.toNat < 2 ^ 64) :=
    toNat_place k (BitVec.toNat_setWidth_of_le h) hlt
  refine toNat_or_of_below 12 (toNat_or_of_below 24 (toNat_or_of_below 36 (toNat_or_of_below 44 (toNat_or_of_below 45
    (toNat_or_of_below 47 (toNat_or_of_below 49 (toNat_or_of_below 52 (toNat_or_of_below 56
      (hplace 56 opc (by decide) (by omega))
      (toNat_place 52 (toNat_ofNat_of_lt (by omega)) (by omega)) ?_ ?_)
      (toNat_place 49 (toNat_ofNat_of_lt (by omega)) (by omega)) ?_ ?_)
      (toNat_place 47 (toNat_ofNat_of_lt (by omega)) (by omega)) ?_ ?_)
      (hplace 45 ari (by decide) (by omega)) ?_ ?_)
      (toNat_place 44 ((BitVec.toNat_setWidth_of_le (by decide)).trans (BitVec.toNat_ofBool xw)) (by omega)) ?_ ?_)
      (hplace 36 imm (by decide) (by omega)) ?_ ?_) h0 ?_ ?_) h1 ?_ ?_) h2 ?_ ?_
  all_goals omega

/-! The refusals, in the order of the decoder's checks (log 53). -/

theorem decodeWord_of_headCause {fabric : Bool} {w : BitVec 64} {c : Nat} (h : headCause fabric w = some c) :
    decodeWord fabric w = .error c := by
  unfold decodeWord
  rw [h]

theorem decodeWord_of_fieldsOf {fabric : Bool} {w : BitVec 64} {c : Nat} (h : headCause fabric w = none)
    (hf : fieldsOf w = .error c) : decodeWord fabric w = .error c := by
  unfold decodeWord
  rw [h, hf]

/-- The opcode is the word from bit 56 upward. -/
theorem opcode_eq (w : BitVec 64) : fieldOf w 56 8 = w.toNat / 2 ^ 56 := by
  have hw := w.isLt
  exact Nat.mod_eq_of_lt (by omega)

theorem headCause_reserved (fabric : Bool) {w : BitVec 64} (h : rule (w.toNat / 2 ^ 56) = none) :
    headCause fabric w = some 0x040 := by
  unfold headCause
  rw [opcode_eq, h]

theorem headCause_mode {fabric : Bool} {w : BitVec 64} {r : Rule} (h : rule (w.toNat / 2 ^ 56) = some r)
    (hm : (if fabric then r.fab else r.blk) = false) : headCause fabric w = some 0x044 := by
  unfold headCause
  simp only [opcode_eq, h, hm, Bool.not_false, if_true]

theorem headCause_format {fabric : Bool} {w : BitVec 64} {r : Rule} (h : rule (w.toNat / 2 ^ 56) = some r)
    (hm : (if fabric then r.fab else r.blk) = true) (hf : r.fmts.testBit (w.toNat / 2 ^ 52 % 16) = false) :
    headCause fabric w = some 0x042 := by
  have hf' : r.fmts.testBit (fieldOf w 52 4) = false := hf
  unfold headCause
  simp only [opcode_eq, h, hm, hf', Bool.not_true, Bool.not_false, Bool.false_eq_true, if_false, if_true]

theorem fieldsOf_reservedRnd {w : BitVec 64} (h : fieldOf w 49 3 = 7) : fieldsOf w = .error 0x043 := by
  unfold fieldsOf
  rw [h]
  rfl

theorem fieldsOf_invalidTarget {w : BitVec 64} (hr : fieldOf w 49 3 ≠ 7) {c : Nat} (h : targetOf (fieldOf w 24 12) = .error c) :
    fieldsOf w = .error c := by
  have hlt : fieldOf w 49 3 < 8 := fieldOf_lt w 49 3
  obtain ⟨r, hr⟩ := Option.ne_none_iff_exists'.1 (rnd_ofCode_ne_none (k := fieldOf w 49 3) (by omega))
  unfold fieldsOf
  rw [hr, h]
  rfl

/-- Settles O4: each check of the decoder in turn. -/
theorem refusedWords : Obligations.RefusedWords := by
  refine ⟨fun fabric w h => decodeWord_of_headCause (headCause_reserved fabric h),
    fun w r h hm => decodeWord_of_headCause (headCause_mode h hm),
    fun w r h hm => decodeWord_of_headCause (headCause_mode h hm),
    fun fabric w r h hm hf => decodeWord_of_headCause (headCause_format h hm hf),
    fun fabric w h hr => decodeWord_of_fieldsOf h (fieldsOf_reservedRnd hr), fun fabric w h hr hv ht => ?_⟩
  refine decodeWord_of_fieldsOf h (fieldsOf_invalidTarget hr (targetOf_invalid ?_ ?_))
  · rw [fieldOf]
    omega
  · rw [fieldOf]
    omega

/-- Settles O5: each sample word, decoded. -/
theorem decodeSamples : Obligations.DecodeSamples := by
  unfold Obligations.DecodeSamples
  decide

/-! One step (logs 1 and 2). -/

variable {s : State}

theorem step_of_decode {op : Issued} {i : Instr} (h : s.issue = some op)
    (hd : decodeWord (!siteIsBlock op.site) op.word = .ok i) : step s = exec i s := by
  simp only [step, h, hd]

theorem step_of_agenda {m : Move} {rest : List Move} (h : s.issue = none) (ha : s.agenda = m :: rest) :
    step s = perform m { s with agenda := rest } := by
  simp only [step, h, ha]

/-- No router waits where no flit is on its way and none is to be injected (R177, R178). -/
theorem meshWaits_of_idle (hf : s.flits = []) (hi : ∀ t, (s.ctile t).inject = []) : s.meshWaits = false := by
  simp [State.meshWaits, State.offers, hf, hi]

/-- In an idle mesh cycles pass at once. -/
theorem passCycles_of_idle (hf : s.flits = []) (hn : s.next = []) (hl : s.late = []) (hi : ∀ t, (s.ctile t).inject = [])
    (k : Nat) : s.passCycles k = { s with cycle := s.cycle + k } := by
  cases k with
  | zero => rfl
  | succ k =>
    rw [State.passCycles, meshWaits_of_idle hf hi, if_neg Bool.false_ne_true, if_pos ⟨hn, hl⟩]

/-- A cycle waits until every flit at a router has been arbitrated (R178). -/
theorem passCycles_of_flits (hf : s.flits ≠ []) (k : Nat) : s.passCycles k = s := by
  cases k with
  | zero => rfl
  | succ k => rw [State.passCycles, if_pos (by simp [State.meshWaits, hf])]

/-- The word placed as the next instruction decodes in the mode of the element that it is placed at. -/
theorem decodeWord_fetchedOp {nbits w : Nat} {i : Instr} (h : decodeTableWord nbits w = some i) :
    decodeWord (!siteIsBlock (fetchedOp (BitVec.ofNat 64 (w % 2 ^ nbits))).site) (fetchedOp (BitVec.ofNat 64 (w % 2 ^ nbits))).word
      = .ok i := by
  simp only [decodeTableWord] at h
  simp only [fetchedOp]
  generalize BitVec.ofNat 64 (w % 2 ^ nbits) = word at h ⊢
  cases ht : decodeWord true word with
  | ok k =>
    obtain rfl : k = i := by simpa [ht] using h
    exact ht
  | error c =>
    cases hb : decodeWord false word with
    | ok k =>
      obtain rfl : k = i := by simpa [ht, hb] using h
      exact hb
    | error c => simp [ht, hb] at h

/-- Settles O59: the issued word first, then the agenda's first entry. -/
theorem stepRunsDecoded : Obligations.StepRunsDecoded := by
  refine ⟨fun s op i h hd => step_of_decode h hd, fun s i rest h ha => step_of_agenda h ha, fun s k rest h ha => ⟨?_, ?_⟩,
    fun s nbits w i h => step_of_decode rfl (decodeWord_fetchedOp h)⟩
  · intro hf hn hl hi
    rw [step_of_agenda h ha, perform, passCycles_of_idle (s := { s with agenda := rest }) hf hn hl hi]
    exact ⟨_, rfl, rfl, rfl, rfl, rfl⟩
  · intro hf
    rw [step_of_agenda h ha, perform, passCycles_of_flits (s := { s with agenda := rest }) hf]

end Sys2Proof.Proofs
end

section

/-!
The arithmetic float instructions: what a float node reads of its operands, and the one rounding of its exact result (R94 to
R101, R264 to R266, R270 to R272).
-/

namespace Sys2Proof.Proofs

open Sys2Proof Sys2Proof.Machine Sys2Proof.Claims

variable {s : State} {op : Issued} {n : Niw} {e : FloatEnv}

theorem arg_eq_getD : ∀ (xs : List Exact) (k : Nat), arg xs k = xs.getD k .nan
  | [], _ => rfl
  | _ :: _, 0 => rfl
  | _ :: xs, k + 1 => arg_eq_getD xs k

/-- The element of operand `k` at a position (R59, R264). -/
theorem elemAt_eq_floatOperand (e : FloatEnv) (ls : List Nat) (k j : Nat) : e.elemAt k (ls.getD k 0) j = floatOperand e ls k j := by
  simp [FloatEnv.elemAt, floatOperand, toNat_elemAt]

/-- A readable element decodes to its exact value (R265). -/
theorem read_of_readable {f : Fmt} {v : Nat} (h : (!abandonedElem f v && !(e.ntrp && isNaR f v)) = true) :
    e.read f v = .ok (decodeElem f v) := by
  simp only [Bool.and_eq_true, Bool.not_eq_true'] at h
  obtain ⟨ha, hn⟩ := h
  simp [FloatEnv.read, ha, hn]

/-- Where every operand at a position is readable, all of them decode, the operands numbered from `k` (R265). -/
theorem readAll_lanes {j : Nat} (hj : j < e.fmt.perLane) : ∀ (ls : List Nat) (k : Nat),
    (∀ m < ls.length, (!abandonedElem (e.fmtOf (k + m)) (e.elemAt (k + m) (ls.getD m 0) j)
      && !(e.ntrp && isNaR (e.fmtOf (k + m)) (e.elemAt (k + m) (ls.getD m 0) j))) = true) →
    e.readAll k (column (e.lanes k ls) j) =
      .ok ((List.range ls.length).map fun m => decodeElem (e.fmtOf (k + m)) (e.elemAt (k + m) (ls.getD m 0) j))
  | [], _, _ => rfl
  | l :: ls, k, h => by
    have helem : nth 0 (e.elems k l) j = e.elemAt k l j := by
      simp [FloatEnv.elems, nth, hj]
    have hhead := read_of_readable (e := e) (h 0 (Nat.succ_pos _))
    have htail := readAll_lanes hj ls (k + 1) fun m hm => by
      have hm := h (m + 1) (Nat.succ_lt_succ hm)
      rwa [← Nat.add_assoc, Nat.add_right_comm] at hm
    simp only [Nat.add_zero, List.getD_cons_zero] at hhead
    rw [FloatEnv.lanes, column, List.map_cons, helem, FloatEnv.readAll, hhead]
    simp only [bind, Except.bind, pure, Except.pure]
    rw [column] at htail
    rw [htail]
    simp [List.range_succ_eq_map, Nat.add_assoc, Nat.add_comm 1]

/-- The exact operands of a position whose operands are readable. -/
theorem readAll_of_readable {ls : List Nat} {j : Nat} (hj : j < e.fmt.perLane) (h : readable e ls j = true) :
    e.readAll 0 (column (e.lanes 0 ls) j) = .ok (exacts e ls j) := by
  rw [readAll_lanes hj ls 0 fun m hm => ?_]
  · simp only [exacts, elemAt_eq_floatOperand, Nat.zero_add]
  · simpa only [elemAt_eq_floatOperand, Nat.zero_add] using List.all_eq_true.1 h m (List.mem_range.2 hm)

/-- Stage 5 on an exact result that its destination can take. -/
theorem place_of_rounded {i j : Nat} {finite : Bool} {x : Exact} {c : Nat × Bool} (h : rounded e i j finite x = some c) :
    e.place i j finite x = .ok c := by
  obtain ⟨v, hv, rfl⟩ := Option.map_eq_some_iff.1 h
  simp only [FloatEnv.place, hv]

/-- A float node whose element `j` of lane `i` is `g i j` of the exact operands (R264, R265). -/
theorem givesCodes_of_execFloat {i : Instr} {g : FloatEnv → Nat → Nat → List Exact → Exact} (h : Issues s op n)
    (hi : exec i s = execFloat n s g) : let e := (after s op).floatEnv op n n.fmt false
    GivesCodes i s op n e.dest n.fmt.perLane (operandVals op n id) fun i j ls => floatCode e (g e i j) i j ls := by
  intro e hall
  refine ⟨_, _, ?_, codeWise_codeLanes e (operandVals op n id)⟩
  rw [hi, execFloat, fire_of_issues h, ← finish_ok]
  refine congrArg (fun r => Host.Outcome.next (State.finish _ op n r)) (placeLanes_ok e _ (fun i j ls c hj hc => ?_) hall)
  unfold floatCode at hc
  split at hc
  · next hr =>
    rw [readAll_of_readable hj hr]
    exact place_of_rounded hc
  · cases hc

/-- Settles O10: each instruction is a float node with its own exact result. -/
theorem floatArithmetic : Obligations.FloatArithmetic := by
  intro s op n h _ e gives x down
  have hx : x = arg := funext₂ fun xs k => (arg_eq_getD xs k).symm
  rw [hx]
  exact ⟨(givesCodes_of_execFloat (i := .fadd n) h (rfl : _ = execFadd n s) :),
    (givesCodes_of_execFloat (i := .fsub n) h (rfl : _ = execFsub n s) :),
    (givesCodes_of_execFloat (i := .fmul n) h (rfl : _ = execFmul n s) :),
    (givesCodes_of_execFloat (i := .ffma n) h (rfl : _ = execFfma n s) :),
    (givesCodes_of_execFloat (i := .fdiv n) h (rfl : _ = execFdiv n s) :),
    (givesCodes_of_execFloat (i := .fsqrt n) h (rfl : _ = execFsqrt n s) :),
    (givesCodes_of_execFloat (i := .frcp n) h (rfl : _ = execFrcp n s) :),
    (givesCodes_of_execFloat (i := .frsq n) h (rfl : _ = execFrsq n s) :),
    (givesCodes_of_execFloat (i := .fmin n) h (rfl : _ = execFmin n s) :),
    (givesCodes_of_execFloat (i := .fmax n) h (rfl : _ = execFmax n s) :),
    (givesCodes_of_execFloat (i := .frnd n) h (rfl : _ = execFrnd n s) :)⟩

end Sys2Proof.Proofs
end

section

/-!
A token of a spliced context's predecessor. Until its tile has switched, a token stands under the predecessor's loops
(R48, R249), which `Ctx.seen` reads in `former`. `Claims.Uncut` asks only for `loops` to be empty, so that a kill mark of the
predecessor still cuts the token at its route (R38).
-/

namespace Sys2Proof.Proofs

open Sys2Proof Sys2Proof.Machine Sys2Proof.Claims

/-- The context under a splice, whose predecessor has a loop that ends at iteration 0. -/
def splicedCtx : Ctx :=
  { wideCtx with splice := some ⟨1, 0, 1, 0, true, []⟩, former := [{ LoopRec.new (tagOf 1 0 0) with kill := some 0 }] }

/-- A token of iteration 15 of the loop. -/
def lateToken : Tok := ⟨tagOf 1 1 (2 ^ 48 - 1), .scalar 0, true, false, false⟩

/-- The tile, which has not switched, runs a plane with one route, to node 0 of the tile itself. -/
def splicedState : State :=
  { State.reset with
    ctxs := [splicedCtx], ctiles := [(wideTile, { CTile.reset with active := some { widePlane with widths := [] } })] }

theorem splicedState_uncut : Uncut splicedState lateToken.tag := by
  intro c hc
  obtain rfl : splicedCtx = c := Option.some.inj hc
  rfl

/-- The kill mark of the predecessor's loop cuts the token. -/
theorem lateToken_cut : ((splicedState.emit1 wideOp (some ⟨.a, 0⟩) lateToken).ctile wideTile).own = [] := by decide

/-- Refutes O50: the token of the predecessor does not enter the tile's own matching store. -/
theorem not_routes : ¬ Obligations.Routes := by
  unfold Obligations.Routes
  rintro ⟨-, h⟩
  obtain ⟨hown, -⟩ := h splicedState wideOp wideTile { widePlane with widths := [] } ⟨.a, 0⟩ 0 lateToken rfl rfl rfl
    splicedState_uncut (fun ls m hv => by cases hv)
  have hcut := lateToken_cut
  rw [hown (by decide)] at hcut
  simp at hcut

end Sys2Proof.Proofs
end

section

/-!
A reply that waits whole in a reassembly slot, as a full ingress queue leaves it (R179). The next flit of a longer packet that
is ejected at the tile, here one of a token, lets every whole packet leave its slot: the reply goes through stage 6 to the
memory tile that its target names. `Claims.RouterCycle` lets a flit that is no reply change no memory tile.
-/

namespace Sys2Proof.Proofs

open Sys2Proof Sys2Proof.Machine Sys2Proof.Claims

/-- A plane whose one route leads to channel 0 of the memory tile at the tile's port 1. -/
def replyPlane : CPlane := { widePlane with routes := [2 ^ 30 + 2 ^ 20], widths := [] }

/-- The operation that has been answered, with the route as its only target. -/
def repliedOp : Issued := { wideOp with word := (encode (.add crowdedFields)).getD 0 }

/-- The packet of the reply, both flits of it. -/
def waitingReply : Reasm :=
  ⟨1, 1, [(0, 0), (1, 0)], 2, 0, .reply repliedOp ⟨tagOf 1 0 0, .scalar 0, true, false, false⟩⟩

/-- The first of two flits of a token for the tile. -/
def tokenFlit : Flit := ⟨flitCtl wideTile 0 0 1 0, 0, .bits⟩

def replyState : State :=
  { State.reset with
    ctxs := [wideCtx], flits := [(wideTile, 0, tokenFlit)]
    ctiles := [(wideTile, { CTile.reset with active := some replyPlane, reasm := [waitingReply] })] }

theorem replyState_alone : Alone replyState wideTile 0 tokenFlit := ⟨rfl, rfl, by decide, ⟨by decide, by decide⟩, rfl⟩

/-- The reply reaches a memory tile. -/
theorem replyState_mtiles : nextView (fun u => u.mtiles.length) (exec (.routerArbitrate wideTile) replyState) = some 1 := by
  decide

/-- Refutes O51: the ejection of a token's flit changes a memory tile. -/
theorem not_routers : ¬ Obligations.Routers := by
  unfold Obligations.Routers Claims.RouterCycle
  rintro ⟨⟨h, -⟩, -⟩
  obtain ⟨u, hexec, -, hframe, -⟩ := h replyState wideTile 0 tokenFlit replyState_alone (by decide)
  obtain ⟨-, -, hmtiles⟩ := hframe (by decide)
  have hone := replyState_mtiles
  rw [hexec, nextView_next, hmtiles] at hone
  exact absurd hone (by decide)

end Sys2Proof.Proofs
end

section

/-!
The events of memory tiles: generators, waiting requests and COMMIT (R106 to R109, R117, R118, R127, R128).
-/

namespace Sys2Proof.Proofs

open Sys2Proof Sys2Proof.Machine Sys2Proof.Claims

variable {s : State} {t : TileId} {op : Issued}

/-- The first element that meets the test, behind elements that do not. -/
theorem takeFirst_append {α : Type} {p : α → Bool} {l r : List α} {a : α} (hl : ∀ x ∈ l, p x = false) (ha : p a = true) :
    takeFirst p (l ++ a :: r) = some (a, l ++ r) := by
  induction l with
  | nil => simp [takeFirst, ha]
  | cons x l ih =>
    have hx := hl x (by simp)
    have ih := ih fun y hy => hl y (by simp [hy])
    simp [takeFirst, hx, ih]

/-- A second write of an entry alone counts. -/
theorem put_put {κ α : Type} [DecidableEq κ] (k : κ) (a b : α) : ∀ l : List (κ × α), put k b (put k a l) = put k b l
  | [] => by simp [put]
  | x :: l => by
    by_cases h : x.1 = k
    · simp [put, h]
    · simp [put, h, put_put k a b l]

theorem setMtile_setMtile (s : State) (t : TileId) (m m' : MTile) : (s.setMtile t m).setMtile t m' = s.setMtile t m' := by
  simp only [State.setMtile, put_put]

/-! Generators. -/

theorem genScope_eq (d : List Word) : genScope d = if descSpace d = 2 then .region
    else if descSpace d = 1 ∧ descOut d = true then .whole else .tile := by
  unfold genScope
  split
  · next h => rw [if_pos h]
  · next h => cases ho : descOut d <;> simp [h]
  · next h2 h1 => rw [if_neg h2, if_neg fun h => h1 h.1]

/-- The storage of an SACC, CODE or SINK tile is closed to generators (R107, R158). -/
theorem genClosed_of_mode (d : List Word) (h : (s.mtile t).mode? = some 4 ∨ (s.mtile t).mode? = some 5 ∨ (s.mtile t).mode? = some 6) :
    s.genClosed t d = true := by
  have hclosed : (s.mtile t).closed = true := by
    rcases h with h | h | h <;> simp [MTile.closed, h]
  simp [State.genClosed, hclosed]

section Start
variable {g : Nat} {rest : List Issued} (hrun : ((s.mtile t).gen g).run = none) (hwait : ((s.mtile t).gen g).waiting = op :: rest)
include hrun hwait

theorem generatorStart_runs (hen : descEn ((s.mtile t).desc g) = true) (hopen : s.genClosed t ((s.mtile t).desc g) = false)
    (hpages : descSpace ((s.mtile t).desc g) ≠ 1 ∨ ((s.mtile t).gen g).frames ≠ []) : exec (.generatorStart t g) s =
      .next (s.setMtile t ((s.mtile t).setGen g { (s.mtile t).gen g with waiting := rest, run := some op, moved := 0 })) := by
  have hplaced : (descSpace ((s.mtile t).desc g) = 1 && ((s.mtile t).gen g).frames = []) = false := by
    rcases hpages with h | h <;> simp [h]
  show execGeneratorStart t g s = _
  simp [execGeneratorStart, hrun, hwait, hen, hopen, hplaced]

theorem generatorStart_refused {cause : Nat} (hc : (descEn ((s.mtile t).desc g) = false ∧ cause = 0x107) ∨
    (descEn ((s.mtile t).desc g) = true ∧ s.genClosed t ((s.mtile t).desc g) = true ∧ cause = 0x103)) :
    exec (.generatorStart t g) s = .next ((s.setMtile t ((s.mtile t).setGen g { (s.mtile t).gen g with
      waiting := rest })).partFault op op.niw 0 (.tile t) (genScope ((s.mtile t).desc g)) cause 0 0) := by
  show execGeneratorStart t g s = _
  rcases hc with ⟨hen, rfl⟩ | ⟨hen, hclosed, rfl⟩
  · simp [execGeneratorStart, hrun, hwait, hen]
  · simp [execGeneratorStart, hrun, hwait, hen, hclosed]

end Start

/-- A generator that does not run to a circuit fills no other tile's buffer, nor its own outside OPSTORE mode. -/
theorem stopFill_eq {d : List Word} (hd : descSpace d ≠ 2) (hm : (s.mtile t).mode? ≠ some 0) (x : Gen) (tag : Word) :
    s.stopFill d t x tag = s := by
  unfold State.stopFill fillsTile
  cases descOut d <;> simp [hd, hm]

theorem stopPeer_eq {d : List Word} (hd : descSpace d ≠ 2) : s.stopPeer d t = s := by simp [State.stopPeer, hd]

theorem generatorStop_completes {g : Nat} (hrun : ((s.mtile t).gen g).run = some op) (hpos : ((s.mtile t).gen g).pos = [])
    (hchan : ((s.mtile t).gen g).chan = []) (hwalk : op.walk = none) (hm : (s.mtile t).mode? ≠ some 0)
    (hd : descSpace ((s.mtile t).desc g) ≠ 2) : exec (.generatorStop t g) s = .next ((s.setMtile t ((s.mtile t).setGen g
      { (s.mtile t).gen g with run := none, pos := [0, 0, 0, 0], moved := 0, paused := false })).reply op op.niw
        (.scalar (word (((s.mtile t).gen g).moved % 2 ^ 32 +
          (if descSpace ((s.mtile t).desc g) = 1 ∧ descOut ((s.mtile t).desc g) = true then 3 else 0) * 2 ^ 32))) op.poisoned) := by
  have hcode : (genScope ((s.mtile t).desc g)).code =
      if descSpace ((s.mtile t).desc g) = 1 ∧ descOut ((s.mtile t).desc g) = true then 3 else 0 := by
    rw [genScope_eq, if_neg hd]
    split <;> rfl
  have hmode : ∀ x, ((s.setMtile t ((s.mtile t).setGen g x)).mtile t).mode? ≠ some 0 := fun x => by
    rw [State.mtile_setMtile_same]
    exact hm
  show execGeneratorStop t g s = _
  simp only [execGeneratorStop, hrun, hpos, hchan, hwalk]
  rw [stopFill_eq hd (hmode _), stopPeer_eq hd]
  simp [State.complete, completion, hcode]

/-! Waiting requests. -/

/-- A fold whose steps change nothing. -/
theorem foldl_eq_self {σ α : Type} {f : σ → α → σ} {a : σ} : ∀ {l : List α}, (∀ x ∈ l, f a x = a) → l.foldl f a = a
  | [], _ => rfl
  | x :: l, h => by
    rw [List.foldl_cons, h x (by simp)]
    exact foldl_eq_self fun y hy => h y (by simp [hy])

/-- No array with records for the tile's FIFO waits. -/
theorem flushFifos_eq (h : ∀ a, a < 8 → ∀ bs k, (s.array a).out ≠ .fifo t bs :: k) : s.flushFifos t = s := by
  refine foldl_eq_self fun a ha => ?_
  split
  · next u bs k hout =>
    split
    · next hu => exact absurd (hu ▸ hout) (h a (List.mem_range.1 ha) bs k)
    · rfl
  · rfl

theorem heldWriteResume_serves {l l' : List Issued} (hi : s.issue = none)
    (hf : ∀ a, a < 8 → ∀ bs k, (s.array a).out ≠ .fifo t bs :: k) (hw : (s.mtile t).waiting = l ++ op :: l')
    (hl : ∀ o ∈ l, (s.mtile t).serves o = false) (hnode : op.node < 1024) (hs : (s.mtile t).serves op = true) :
    exec (.heldWriteResume t) s =
      .next { s.setMtile t { s.mtile t with waiting := l ++ l' } with issue := some op } := by
  have hplain : plainToken op = false := by simp [plainToken, hnode]
  show execHeldWriteResume t s = _
  simp [execHeldWriteResume, hi, flushFifos_eq hf, hw, takeFirst_append hl hs, hplain]

/-- What a tile that is awake can serve (R108). -/
theorem serves_of_mode {m : MTile} (hnode : op.node < 1024) (hm : m.asleep = false)
    (h : (m.mode? = some 0 ∧ m.full.any (fun f => decide (f.1 = m.fill)) = false) ∨
      (m.mode? = some 1 ∧ isStoreOpc op.opc = true ∧ (m.fifo.length + 1) * m.elemBytes ≤ m.depth) ∨
      (m.mode? = some 1 ∧ isStoreOpc op.opc = false ∧ m.fifo ≠ [])) : m.serves op = true := by
  have hplain : plainToken op = false := by simp [plainToken, hnode]
  have hlow : decide (1024 ≤ op.node) = false := by simp [hnode]
  rcases h with ⟨hmode, hfull⟩ | ⟨hmode, hst, hroom⟩ | ⟨hmode, hst, hfifo⟩
  · simp [MTile.serves, hm, hlow, hplain, hmode, MTile.isFull, hfull]
  · simp [MTile.serves, hm, hlow, hplain, hmode, hst, MTile.fifoRoom, hroom]
  · simp [MTile.serves, hm, hlow, hplain, hmode, hst, hfifo]

/-! COMMIT. -/

/-- At least `k` leading elements meet a test where each of the first `k` positions holds one that does. -/
theorem le_leading_iff {α : Type} (p : α → Bool) : ∀ (l : List α) (k : Nat),
    k ≤ leading p l ↔ ∀ i < k, (l[i]?).any p = true
  | _, 0 => by simp
  | [], k + 1 => by
    simp only [leading, List.takeWhile_nil, List.length_nil]
    exact ⟨fun h => absurd h (by omega), fun h => absurd (h 0 (by omega)) (by simp)⟩
  | a :: l, k + 1 => by
    have ih := le_leading_iff p l k
    unfold leading at ih ⊢
    cases ha : p a with
    | false =>
      rw [List.takeWhile_cons_of_neg (by simp [ha])]
      exact ⟨fun h => absurd h (by simp), fun h => absurd (h 0 (by omega)) (by simp [ha])⟩
    | true =>
      rw [List.takeWhile_cons_of_pos ha, List.length_cons, Nat.add_le_add_iff_right, ih]
      constructor
      · rintro h (_ | i) hi
        · simpa using ha
        · simpa using h i (by omega)
      · intro h i hi
        simpa using h (i + 1) (by omega)

/-- A row that COMMIT may promote (R109, R124). -/
def promotes (x : Line) : Bool := x.written && !x.bad

theorem any_promotes (o : Option Line) : o.any promotes = (o.any (·.written) && o.any (!·.bad)) := by cases o <;> rfl

/-- A row slot that COMMIT frees. -/
def freed (x : Line) : Line := { x with written := false, bad := false }

/-- COMMIT of `c` rows promotes the first rows of the speculative window that may be promoted, and frees as many of the
oldest rows and the rest of the window (R109). -/
theorem commitRows_eq {win spec c k : Nat} {lines : List Line} (hlen : lines.length = win + spec) (hc : c ≤ spec) (hk : k ≤ c)
    (hgood : ∀ i < k, (lines[win + i]?).any promotes = true)
    (hstop : k = c ∨ (lines[win + k]?).any promotes = false) : commitRows win spec lines c =
      (k, (lines.take (win + k)).drop k ++ (lines.take k ++ lines.drop (win + k)).map freed) := by
  have hspecs : (lines.drop win).take spec = lines.drop win := List.take_of_length_le (by simp [hlen])
  have hget (p : Line → Bool) (i : Nat) : (((lines.drop win)[i]?).any p) = (lines[win + i]?).any p := by rw [List.getElem?_drop]
  have hcount : min c (min (leading (·.written) (lines.drop win)) (leading (!·.bad) (lines.drop win))) = k := by
    simp only [any_promotes, Bool.and_eq_true] at hgood
    have hw : k ≤ leading (·.written) (lines.drop win) := (le_leading_iff _ _ _).2 fun i hi => by
      rw [hget]
      exact (hgood i hi).1
    have hu : k ≤ leading (!·.bad) (lines.drop win) := (le_leading_iff _ _ _).2 fun i hi => by
      rw [hget]
      exact (hgood i hi).2
    rcases hstop with rfl | hstop
    · omega
    · have hnot : ¬ (k + 1 ≤ leading (·.written) (lines.drop win) ∧ k + 1 ≤ leading (!·.bad) (lines.drop win)) := by
        rintro ⟨h1, h2⟩
        have h1 := (le_leading_iff _ _ _).1 h1 k (by omega)
        have h2 := (le_leading_iff _ _ _).1 h2 k (by omega)
        rw [hget] at h1 h2
        rw [any_promotes, h1, h2] at hstop
        exact Bool.noConfusion hstop
      omega
  have hkept : lines.take win ++ (lines.drop win).take k = lines.take (win + k) := List.take_add.symm
  simp only [commitRows, hspecs, hcount, hkept]
  rw [List.take_take, Nat.min_eq_left (by omega), List.drop_drop]
  rfl

/-- The row that a tile has at a number within its rows. -/
theorem line_of_lt (m : MTile) {i : Nat} (h : i < m.lines.length) : m.lines[i]? = some (m.line i) := by
  simp [MTile.line, nth, h]

/-- A memory tile after a COMMIT of `k` rows, which took the request from the front of those that wait. -/
def afterCommit (m : MTile) (rest : List Issued) (k : Nat) : MTile :=
  { m with
    waiting := rest
    lines := (m.lines.take (m.win + k)).drop k ++ (m.lines.take k ++ m.lines.drop (m.win + k)).map freed }

section Commit
variable {m : MTile} {c k : Nat} (rest : List Issued) (hlen : m.lines.length = m.win + m.spec) (hc : c ≤ m.spec) (hk : k ≤ c)
include hlen hc hk

/-- The window has moved on by `k` rows. -/
theorem line_afterCommit_window {i : Nat} (hi : i < m.win) : (afterCommit m rest k).line i = m.line (i + k) := by
  have hlt : i < ((m.lines.take (m.win + k)).drop k).length := by simp [hlen]; omega
  have hget := line_of_lt m (i := k + i) (by omega)
  simp only [afterCommit, MTile.line, nth]
  rw [List.getElem?_append_left hlt, List.getElem?_drop, List.getElem?_take_of_lt (by omega), hget, Nat.add_comm]
  rfl

/-- The speculative rows are free. -/
theorem line_afterCommit_free {i : Nat} (hi : i < m.spec) : ((afterCommit m rest k).line (m.win + i)).written = false ∧
    ((afterCommit m rest k).line (m.win + i)).bad = false := by
  have hle : ((m.lines.take (m.win + k)).drop k).length = m.win := by simp [hlen]; omega
  have hlt : i < (m.lines.take k ++ m.lines.drop (m.win + k)).length := by simp [hlen]; omega
  simp only [afterCommit, MTile.line, nth]
  rw [List.getElem?_append_right (by omega), hle, Nat.add_sub_cancel_left, List.getElem?_map, List.getElem?_eq_getElem hlt]
  exact ⟨rfl, rfl⟩

end Commit

theorem lineCommit_commits {rest : List Issued} {k : Nat} (hm : (s.mtile t).asleep = false) (hmode : (s.mtile t).mode? = some 2)
    (hw : (s.mtile t).waiting = op :: rest) (hnode : op.node = 1035) (hnul : op.ta.nul = false) (hv : op.ta.isVec = false)
    (hspec : op.ta.word.toNat ≤ (s.mtile t).spec) (h256 : op.ta.word.toNat < 256)
    (hlen : (s.mtile t).lines.length = (s.mtile t).win + (s.mtile t).spec) (hk : k ≤ op.ta.word.toNat)
    (hgood : ∀ i < k, ((s.mtile t).lines[(s.mtile t).win + i]?).any promotes = true)
    (hstop : k = op.ta.word.toNat ∨ ((s.mtile t).lines[(s.mtile t).win + k]?).any promotes = false) :
    exec (.lineCommit t) s = .next ((s.setMtile t (afterCommit (s.mtile t) rest k)).reply op op.niw (.scalar (word k)) op.poisoned) := by
  have hbits : bits op.ta.word.toNat 0 8 = op.ta.word.toNat := (bits_zero _ 8).trans (Nat.mod_eq_of_lt h256)
  have hbad : commitBad (s.mtile t).spec op.ta.word = false := by
    have hhigh : bits op.ta.word.toNat 8 56 = 0 := by simp [bits, Nat.div_eq_of_lt h256]
    simp [commitBad, hbits, hhigh, hspec]
  have hplain : (plainToken op && op.node = 1035) = true := by simp [plainToken, hnode, hnul]
  have hcode : completion k .tile false 0 = word k := by
    have hlt : k % 2 ^ 32 = k := Nat.mod_eq_of_lt (by omega)
    simp only [completion, Scope.code, hlt]
    rfl
  have hrows := commitRows_eq hlen hspec hk hgood hstop
  show execLineCommit t s = _
  have hfirst : takeFirst (fun op => plainToken op && decide (op.node = 1035)) (s.mtile t).waiting = some (op, rest) := by
    rw [hw, takeFirst, if_pos hplain]
  have hmode' : ¬ ((s.mtile t).asleep || decide ((s.mtile t).mode? ≠ some 2)) = true := by simp [hm, hmode]
  have hok : ¬ (op.ta.isVec || commitBad (s.mtile t).spec op.ta.word) = true := by simp [hv, hbad]
  unfold execLineCommit
  simp only [if_neg hmode', hfirst, if_neg hok, hbits, hrows, State.complete, hcode, State.mtile_setMtile_same, setMtile_setMtile]
  rfl

/-- Each clause of `Claims.MemoryTileEvents` from the lemma of its event. -/
theorem memoryTileEvents : Claims.MemoryTileEvents := by
  intro s t m
  refine ⟨fun h => ?_, rfl, ?_, ?_, ?_, ?_, ?_⟩
  · show execBankWake t s = _
    simp only [execBankWake]
    rw [if_pos h]
  · intro g op rest hrun hwait hen hopen hpages
    exact generatorStart_runs hrun hwait hen hopen hpages
  · intro g op rest hrun hwait
    rw [← genScope_eq]
    exact ⟨fun hen => generatorStart_refused hrun hwait (.inl ⟨hen, rfl⟩),
      fun hen hmode => generatorStart_refused hrun hwait (.inr ⟨hen, genClosed_of_mode _ hmode, rfl⟩)⟩
  · intro g op hrun hpos hchan hwalk hmode hd
    exact generatorStop_completes hrun hpos hchan hwalk hmode hd
  · intro op l l' hi hf hw hl hnode hm h
    exact heldWriteResume_serves hi hf hw hl hnode (serves_of_mode hnode hm h)
  · intro op rest k hm hmode hw hnode hnul hv hspec h256 hlen hgood hstop
    have hk : k ≤ op.ta.word.toNat := by
      rcases hstop with h | h
      · exact h.le
      · exact h.1.le
    have hrow (i : Nat) (hi : i < m.spec) : (m.lines[m.win + i]?).any promotes = promotes (m.line (m.win + i)) := by
      rw [line_of_lt m (by omega)]
      rfl
    refine ⟨s.setMtile t (afterCommit m rest k), lineCommit_commits hm hmode hw hnode hnul hv hspec h256 hlen hk ?_ ?_, ?_, ?_, ?_, ?_, rfl⟩
    · intro i hi
      obtain ⟨hwritten, hbad⟩ := hgood i hi
      rw [hrow i (by omega), promotes, hwritten, hbad]
      rfl
    · refine hstop.imp id fun ⟨hlt, hfail⟩ => ?_
      rw [hrow k (by omega), promotes]
      rcases hfail with h | h <;> simp [h]
    all_goals rw [State.mtile_setMtile_same]
    · rfl
    · rfl
    · exact fun i hi => line_afterCommit_window rest hlen hspec hk hi
    · exact fun i hi => line_afterCommit_free rest hlen hspec hk hi

end Sys2Proof.Proofs
end

section

/-!
Drains, plane swaps and splices (R40, R47, R48, R129, R174, R253, R323).
-/

namespace Sys2Proof.Proofs

open Sys2Proof Sys2Proof.Machine Sys2Proof.Claims

variable {s : State} {t : TileId} {op : Issued}

/-! Drains pass. -/

theorem tagOf_mod (k : Nat) : tagOf (k % 4096) 0 0 = ctxTag k := by
  rw [← ctxTag_eq_tagOf, ctxTag, ctxTag, mkTag, mkTag, Nat.mod_mod]

theorem drainOf_eq (k : Nat) : drainOf k = drainTok (ctxTag k) := by rw [drainOf, tagOf_mod, drainTok]

/-- No member of the node's wave chain waits at the store buffer (R129). -/
theorem gapOps_eq {node : Nat} (h : ∀ o ∈ (s.region (regionOf t)).storeBuf, ¬ (o.site = .tile t ∧ o.node = node)) :
    ∃ g, s.gapOps t node = s.setRegion (regionOf t) g := by
  have hnone : (s.region (regionOf t)).storeBuf.filter (fun o => decide (o.site = .tile t) && decide (o.node = node)) = [] := by
    rw [List.filter_eq_nil_iff]
    intro o ho
    have := h o ho
    simpa using this
  simp only [State.gapOps, hnone, List.foldl_nil]
  exact ⟨_, rfl⟩

theorem node_of_decode {p : CPlane} {node : Nat} {w : Word} {i : Instr} {x : Nat × Niw} (hw : p.ins[node]? = some w)
    (hd : decodeWord true w = .ok i) (hx : i.parts = some x) : p.node? node = some x := by
  simp only [CPlane.node?, hw, hd, hx]

/-- The state in which a node has passed the drain. -/
def passedBy (s : State) (t : TileId) (node : Nat) (g : Region) : State :=
  (s.setRegion (regionOf t) g).setCtile t { s.ctile t with passed := (s.ctile t).passed ++ [node] }

/-- A node passes the drain along the entries of RET, or to its targets (R47). -/
theorem drainPass_node {node : Nat} {p : CPlane} {w : Word} {x : Nat × Niw} (hc : isCompute t = true)
    (hp : (s.ctile t).active = some p) (hw : p.ins[node]? = some w) (hx : p.node? node = some x) (hpass : s.passes t node = true)
    {g : Region} (hg : s.gapOps t node = s.setRegion (regionOf t) g) : exec (.drainPass t node) s = .next (
      if x.1 = 0x0E then (entriesOf p.sites x).foldl
        (fun u k => u.route (drainOp t p node w) t k.1 k.2 (drainOf p.ctx)) (passedBy s t node g)
      else (passedBy s t node g).emitTo (drainOp t p node w) ((passedBy s t node g).drainTargets (drainOp t p node w) x.2)
        (drainOf p.ctx)) := by
  have hop : ({ site := .tile t, word := w, ctx := p.ctx, tag := ctxTag p.ctx, node := node, draw := 0, a := none,
                b := none, c := none, p := none, konst := none, mode := p.mode, released := false, walk := none } : Issued) =
      drainOp t p node w := by
    rw [drainOp, tagOf_mod]
  show execDrainPass t node s = _
  simp only [execDrainPass, hc, hpass, if_true, State.passNode, hp, hw, hx, hg, hop, ← drainOf_eq]
  rfl

theorem drainPass_tile {rest : List Issued} (hc : isCompute t = false) (hw : (s.mtile t).waiting = op :: rest)
    (hlow : 1024 ≤ op.node) (hhigh : op.node < 1036) (hnul : op.ta.nul = true) (hd : s.tileDrained t op = true) :
    exec (.drainPass t 0) s =
      .next ((s.setMtile t { s.mtile t with waiting := rest }).emitTo op [op.niw.t1, op.niw.t2] (drainOf op.ctx)) := by
  have hfirst : takeFirst (fun op => decide (1024 ≤ op.node) && op.ta.nul && s.tileDrained t op) (s.mtile t).waiting =
      some (op, rest) := by
    simp [hw, takeFirst, hlow, hnul, hd]
  have hchan : ¬ 1036 ≤ op.node := by omega
  show execDrainPass t 0 s = _
  simp [execDrainPass, hc, State.passTile, hfirst, hchan, drainOf_eq]

/-! Tiles switch. -/

theorem nodup_tilesOf (r : Nat) : (tilesOf r).Nodup := by
  refine (List.nodup_range).map_on fun p _ q _ h => ?_
  simp only [tileAt, TileId.mk.injEq] at h
  omega

theorem switchTile_ctile (s : State) (t v : TileId) : (s.switchTile t).ctile v =
    if v = t ∧ isCompute v = true then (s.ctile v).switched else s.ctile v := by
  unfold State.switchTile
  by_cases hc : isCompute t = true
  · rw [if_pos hc, State.ctile_setCtile]
    by_cases hv : v = t <;> simp [hv, hc]
  · rw [if_neg hc, State.setMtile_ctile, if_neg]
    rintro ⟨rfl, h⟩
    exact hc h

theorem switchTile_mtile (s : State) (t v : TileId) : (s.switchTile t).mtile v =
    if v = t ∧ isCompute v = false then (s.mtile v).switched else s.mtile v := by
  unfold State.switchTile
  by_cases hc : isCompute t = true
  · rw [if_pos hc, State.setCtile_mtile, if_neg]
    rintro ⟨rfl, h⟩
    simp [hc] at h
  · rw [if_neg hc, State.mtile_setMtile]
    by_cases hv : v = t <;> simp [hv, hc]

/-- Each tile of a list without repetitions switches once. -/
theorem switchTiles_ctile (v : TileId) : ∀ (ts : List TileId) (s : State), ts.Nodup → ((ts.foldl State.switchTile s).ctile v) =
    if v ∈ ts ∧ isCompute v = true then (s.ctile v).switched else s.ctile v
  | [], s, _ => by simp
  | t :: ts, s, h => by
    obtain ⟨ht, hts⟩ := List.nodup_cons.1 h
    rw [List.foldl_cons, switchTiles_ctile v ts _ hts, switchTile_ctile]
    by_cases hv : v = t
    · subst hv
      by_cases hc : isCompute v = true <;> simp [ht, hc]
    · simp [hv]

theorem switchTiles_mtile (v : TileId) : ∀ (ts : List TileId) (s : State), ts.Nodup → ((ts.foldl State.switchTile s).mtile v) =
    if v ∈ ts ∧ isCompute v = false then (s.mtile v).switched else s.mtile v
  | [], s, _ => by simp
  | t :: ts, s, h => by
    obtain ⟨ht, hts⟩ := List.nodup_cons.1 h
    rw [List.foldl_cons, switchTiles_mtile v ts _ hts, switchTile_mtile]
    by_cases hv : v = t
    · subst hv
      by_cases hc : isCompute v = false <;> simp [ht, hc]
    · simp [hv]

theorem switched_compute (c : CTile) : c.switched.active = c.shadow ∧ c.switched.shadow = none := by
  unfold CTile.switched
  cases c.shadow <;> exact ⟨rfl, rfl⟩

theorem switched_memory (m : MTile) : m.switched.active = m.shadow ∧ m.switched.shadow = none := by
  unfold MTile.switched
  cases m.shadow <;> exact ⟨rfl, rfl⟩

/-- What a switch of a tile leaves unchanged. -/
structure SwitchFrame (s u : State) : Prop where
  main : u.main = s.main
  regions : u.regions = s.regions
  held : u.held = s.held
  ctxs : u.ctxs = s.ctxs

theorem switchTile_frame (s : State) (t : TileId) : SwitchFrame s (s.switchTile t) := by
  unfold State.switchTile
  split <;> exact ⟨rfl, rfl, rfl, rfl⟩

theorem switchTiles_frame (ts : List TileId) (s : State) : SwitchFrame s (ts.foldl State.switchTile s) := by
  refine foldl_keeps (SwitchFrame s) _ ts s ⟨rfl, rfl, rfl, rfl⟩ fun u t h => ?_
  obtain ⟨hmain, hregions, hheld, hctxs⟩ := switchTile_frame u t
  exact ⟨hmain.trans h.main, hregions.trans h.regions, hheld.trans h.held, hctxs.trans h.ctxs⟩

/-! A region swaps. -/

/-- Nothing waits for the swap. -/
theorem tellSwap_of_no_held (h : s.held = []) (r : Nat) (old : Option Nat) : s.tellSwap r old = s := by
  simp only [State.tellSwap, h, List.map_nil, List.filter_nil, List.foldl_nil]
  rw [← h]

theorem mem_put_of_ne {κ α : Type} [DecidableEq κ] {k : κ} (a : α) {x : κ × α} (hx : x.1 ≠ k) : ∀ {l : List (κ × α)}, x ∈ l →
    x ∈ put k a l
  | y :: l, h => by
    unfold put
    rcases List.mem_cons.1 h with rfl | h
    · rw [if_neg hx]
      exact List.mem_cons_self
    · split
      · exact List.mem_cons_of_mem _ h
      · exact List.mem_cons_of_mem _ (mem_put_of_ne a hx h)

/-- A context with a plane somewhere does not end (R220). -/
theorem endUnplaced_of_active {n : Nat} {g : Nat × Region} (hg : g ∈ s.regions) (ha : g.2.activeCtx = some n) :
    s.endUnplaced n = s := by
  have hplaced : (s.regions.any fun g => decide (g.2.activeCtx = some n) || g.2.shadow.any (·.ctx = n) ||
      decide (g.2.reserved = some n)) = true := List.any_eq_true.2 ⟨g, hg, by simp [ha]⟩
  unfold State.endUnplaced
  split
  · rfl
  · rw [if_pos]
    simp [hplaced]

/-- A swap of a region whose context has a plane elsewhere is the swap alone. -/
theorem doSwap_eq {r : Nat} (hheld : s.held = []) (helse : ∀ n, (s.region r).activeCtx = some n →
    ∃ g ∈ s.regions, g.1 ≠ r ∧ g.2.activeCtx = some n) : s.doSwap r = s.swapRegion r := by
  unfold State.doSwap
  simp only
  rw [tellSwap_of_no_held ((swapRegion_keeps_held s r).trans hheld)]
  split
  · next n hn =>
    obtain ⟨g, hg, hr, ha⟩ := helse n hn
    refine endUnplaced_of_active (g := g) ?_ ha
    simp only [State.swapRegion, State.setRegion_regions, (switchTiles_frame (tilesOf r) s).regions]
    exact mem_put_of_ne _ hr hg
  · rfl

theorem swapRegion_region (s : State) (r : Nat) : ((s.swapRegion r).region r).activeCtx = (s.region r).shadow.map (·.ctx) ∧
    ((s.swapRegion r).region r).shadow = none := by
  simp [State.swapRegion]

theorem swapRegion_ctile {r : Nat} (ht : t ∈ tilesOf r) (hc : isCompute t = true) :
    (s.swapRegion r).ctile t = (s.ctile t).switched := by
  have h := switchTiles_ctile t (tilesOf r) s (nodup_tilesOf r)
  rw [if_pos ⟨ht, hc⟩] at h
  exact h

theorem swapRegion_mtile {r : Nat} (ht : t ∈ tilesOf r) (hc : isCompute t = false) :
    (s.swapRegion r).mtile t = (s.mtile t).switched := by
  have h := switchTiles_mtile t (tilesOf r) s (nodup_tilesOf r)
  rw [if_pos ⟨ht, hc⟩] at h
  exact h

theorem planeSwap_swaps {r : Nat} (hready : s.swapReady r = true) (hheld : s.held = [])
    (helse : ∀ n, (s.region r).activeCtx = some n → ∃ g ∈ s.regions, g.1 ≠ r ∧ g.2.activeCtx = some n) :
    exec (.planeSwap r) s = .next (s.swapRegion r) := by
  show execPlaneSwap r s = _
  rw [execPlaneSwap, if_pos hready, doSwap_eq hheld helse]

/-! A tile under a splice switches. -/

/-- What the injection of seeds leaves unchanged beside the parts of `EnterFrame`: the planes, and what waits. -/
structure SeedFrame (s u : State) : Prop where
  held : u.held = s.held
  planes : ∀ v, (u.ctile v).active = (s.ctile v).active ∧ (u.ctile v).shadow = (s.ctile v).shadow

/-- A write of a tile that keeps its planes. -/
theorem SeedFrame.setCtile {u : State} (h : SeedFrame s u) {c : CTile} (hc : c.active = (u.ctile t).active ∧ c.shadow = (u.ctile t).shadow) :
    SeedFrame s (u.setCtile t c) where
  held := h.held
  planes v := by
    obtain ⟨hactive, hshadow⟩ := hc
    rw [State.ctile_setCtile]
    split
    · next hv =>
      rw [hv, hactive, hshadow]
      exact h.planes t
    · exact h.planes v

theorem enter_seedFrame (s : State) (ln : Nat) (t : TileId) (node : Nat) (tag : Word) : SeedFrame s (s.enter ln t node tag) := by
  have hrefl : SeedFrame s s := ⟨rfl, fun _ => ⟨rfl, rfl⟩⟩
  unfold State.enter
  split
  · split
    · exact hrefl
    · split
      · exact hrefl
      · refine ⟨rfl, fun v => ?_⟩
        rw [State.ctile_setCtile]
        split
        · next hv => rw [hv]; exact ⟨rfl, rfl⟩
        · exact ⟨rfl, rfl⟩
  · exact hrefl

theorem injectSeeds_seedFrame (s : State) (ln k : Nat) (l : List SeedRec) : SeedFrame s (s.injectSeeds ln k l) := by
  refine foldl_keeps (SeedFrame s) _ l s ⟨rfl, fun _ => ⟨rfl, rfl⟩⟩ fun u r h => ?_
  have he := enter_seedFrame u ln (r.parcel k).tile (r.parcel k).node (r.parcel k).tok.tag
  have hu : SeedFrame s (u.enter ln (r.parcel k).tile (r.parcel k).node (r.parcel k).tok.tag) :=
    ⟨he.held.trans h.held, fun v => ⟨(he.planes v).1.trans (h.planes v).1, (he.planes v).2.trans (h.planes v).2⟩⟩
  exact hu.setCtile ⟨rfl, rfl⟩

/-- The context with one tile more that has switched. -/
def withSwitched (t : TileId) (c : Ctx) : Ctx :=
  { c with switched := c.switched ++ [t], entered := c.entered.filter (·.1 ≠ t) }

/-- The state after one tile has switched, before its seeds are injected. -/
def beforeSeeds (s : State) (c : Ctx) (t : TileId) : State :=
  let s := s.switchTile t
  let g := s.region (regionOf t)
  (s.setRegion (regionOf t) { g with done := g.done.filter (·.1.1 ≠ t) }).mapCtx c.launch (withSwitched t)

/-- The state after one tile has switched and its seeds are on their way (R48, R49). -/
def tileSwitched (s : State) (c : Ctx) (l : Loaded) (t : TileId) : State :=
  (beforeSeeds s c t).injectSeeds c.launch c.num (l.seeds.filter fun x => (x.parcel c.num).tile = t)

/-- The context once the tile has switched, whatever templates have been entered since. -/
structure Switched (c y : Ctx) (t : TileId) : Prop where
  switched : y.switched = c.switched ++ [t]
  launch : y.launch = c.launch
  num : y.num = c.num
  rset : y.rset = c.rset

variable {c : Ctx} {l : Loaded} {p : CPlane}

theorem tileSwitched_ctx (hl : s.launched? c.launch = some c) :
    ∃ y, (tileSwitched s c l t).launched? c.launch = some y ∧ Switched c y t := by
  obtain ⟨-, -, f, hf, hctxs⟩ := injectSeeds_rest c.launch c.num (l.seeds.filter fun x => (x.parcel c.num).tile = t)
    (beforeSeeds s c t)
  have hbefore : (beforeSeeds s c t).launched? c.launch = some (withSwitched t c) := by
    rw [beforeSeeds, launched_mapCtx _ _ _ (withSwitched t) fun _ => rfl, State.setRegion_launched_opt, State.launched?,
      (switchTile_frame s t).ctxs, ← State.launched?, hl, Option.map_some, if_pos rfl]
  obtain ⟨e, he⟩ := hf (withSwitched t c)
  refine ⟨{ withSwitched t c with entered := e }, ?_, rfl, rfl, rfl, rfl⟩
  rw [← he, tileSwitched, launched_of_enters hf hctxs, hbefore, Option.map_some]

theorem tileSwitched_planes (v : TileId) : ((tileSwitched s c l t).ctile v).active = ((s.switchTile t).ctile v).active ∧
    ((tileSwitched s c l t).ctile v).shadow = ((s.switchTile t).ctile v).shadow :=
  (injectSeeds_seedFrame _ _ _ _).planes v

theorem tileSwitched_rest (hc : isCompute t = true) : (tileSwitched s c l t).main = s.main ∧
    (tileSwitched s c l t).mtiles = s.mtiles ∧ (tileSwitched s c l t).held = s.held := by
  obtain ⟨hm, hmain, -⟩ := injectSeeds_rest c.launch c.num (l.seeds.filter fun x => (x.parcel c.num).tile = t)
    (beforeSeeds s c t)
  have hmtiles : (s.switchTile t).mtiles = s.mtiles := by simp [State.switchTile, hc]
  exact ⟨hmain.trans (switchTile_frame s t).main, hm.trans hmtiles,
    (injectSeeds_seedFrame _ _ _ _).held.trans (switchTile_frame s t).held⟩

/-- A compute tile switches to the plane that stands ready. -/
theorem switchTile_planes (hc : isCompute t = true) (hp : (s.ctile t).shadow = some p) :
    ((s.switchTile t).ctile t).active = some p ∧ ((s.switchTile t).ctile t).shadow = none := by
  obtain ⟨hactive, hshadow⟩ := switched_compute (s.ctile t)
  rw [switchTile_ctile, if_pos ⟨rfl, hc⟩, hactive, hshadow]
  exact ⟨hp, rfl⟩

/-- The tiles of the context's planes are the same after the switch. -/
theorem tileSwitched_spliceTiles {y : Ctx} (hy : Switched c y t) (hc : isCompute t = true) (hp : (s.ctile t).shadow = some p)
    (hn : p.ctx = c.num) : (tileSwitched s c l t).spliceTiles y = s.spliceTiles c := by
  obtain ⟨-, hm, -⟩ := tileSwitched_rest (s := s) (c := c) (l := l) hc
  unfold State.spliceTiles
  rw [hy.num, hy.rset]
  refine List.filter_congr fun v _ => ?_
  obtain ⟨hactive, hshadow⟩ := tileSwitched_planes (s := s) (c := c) (l := l) (t := t) v
  have hmem : (tileSwitched s c l t).mtile v = s.mtile v := by rw [State.mtile, State.mtile, hm]
  rw [hactive, hshadow, hmem]
  by_cases hv : v = t
  · subst hv
    obtain ⟨ha, hs⟩ := switchTile_planes hc hp
    simp [hc, ha, hs, hp, hn]
  · have hother : (s.switchTile t).ctile v = s.ctile v := by rw [switchTile_ctile, if_neg fun h => hv h.1]
    rw [hother]

/-- The one context under a splice is the one that the tile switches for. -/
theorem exec_spliceTileSwitch (hl : s.launched? c.launch = some c) (hst : c.st = .running) (hs : c.splice = some l)
    (huniq : ∀ d ∈ s.ctxs, d.splice.isSome = true → d = c) (hcan : s.canSwitch c t = true) :
    exec (.spliceTileSwitch t) s = .next (s.spliceSwitch c l t) := by
  have hfind : s.ctxs.find? (fun c => c.splice.isSome && decide (c.st = .running) && s.canSwitch c t) = some c := by
    cases hf : s.ctxs.find? (fun c => c.splice.isSome && decide (c.st = .running) && s.canSwitch c t) with
    | none =>
      have := List.find?_eq_none.1 hf c (mem_of_launched hl)
      simp [hs, hst, hcan] at this
    | some d =>
      have hd := List.find?_some hf
      simp only [Bool.and_eq_true] at hd
      obtain ⟨⟨hsplice, -⟩, -⟩ := hd
      rw [huniq d (List.mem_of_find?_eq_some hf) hsplice]
  show execSpliceTileSwitch t s = _
  simp only [execSpliceTileSwitch, hfind, hs]

theorem spliceSwitch_eq {y : Ctx} (hy : (tileSwitched s c l t).launched? c.launch = some y) : s.spliceSwitch c l t =
    if ((tileSwitched s c l t).spliceTiles y).all (y.switched.contains ·) then (tileSwitched s c l t).spliceDone y l
    else tileSwitched s c l t := by
  unfold State.spliceSwitch
  simp only
  split
  · next z hz =>
    obtain rfl : z = y := Option.some.inj (hz.symm.trans hy)
    rfl
  · next hnone => exact absurd (hnone.symm.trans hy) nofun

/-- The context once its successor is its configuration (R323). -/
def succeeded (l : Loaded) (c : Ctx) : Ctx :=
  { c with splice := none, switched := [], former := [], seeds := l.seeds, img := l.img }

/-- A region, its shadow plane empty. -/
def clearShadow (s : State) (r : Nat) : State := s.setRegion r { s.region r with shadow := none }

/-- The regions of a set, their shadow planes empty. -/
def clearShadows (s : State) (rset : Nat) : State := (regionsOf rset).foldl clearShadow s

/-- A part of the state that no region's shadow plane touches. -/
theorem clearShadows_view {α : Type} (v : State → α) (h : ∀ s r, v (clearShadow s r) = v s) (s : State) (rset : Nat) :
    v (clearShadows s rset) = v s := foldl_view v clearShadow h _ s

/-- The state after the last tile has switched, before SPLICE emits (R323). -/
def spliceOver (s : State) (c : Ctx) (l : Loaded) : State :=
  { (clearShadows s c.rset).mapCtx c.launch (succeeded l) with held := [] }

/-- The one operation that waits for the splice emits its operand. -/
theorem spliceDone_emits (h : s.held = [⟨op, .splice c.launch⟩]) :
    s.spliceDone c l = emitsWord (spliceOver s c l) op op.niw op.ta.word true := by
  have hheld : (((clearShadows s c.rset).mapCtx c.launch (succeeded l)).held) = [⟨op, .splice c.launch⟩] :=
    (clearShadows_view State.held (fun _ _ => rfl) s c.rset).trans h
  have hdone : s.spliceDone c l = (((clearShadows s c.rset).mapCtx c.launch (succeeded l)).held.filter
      fun h => decide (h.why = .splice c.launch)).foldl (fun s h => s.emitWord h.op h.op.niw h.op.ta.word true)
        { (clearShadows s c.rset).mapCtx c.launch (succeeded l) with
          held := ((clearShadows s c.rset).mapCtx c.launch (succeeded l)).held.filter
            fun h => !decide (h.why = .splice c.launch) } := rfl
  rw [hdone, hheld]
  simp only [List.filter_cons, List.filter_nil, decide_true, if_true, Bool.not_true, Bool.false_eq_true, if_false,
    List.foldl_cons, List.foldl_nil]
  rfl

theorem spliceOver_ctile (v : TileId) : (spliceOver s c l).ctile v = s.ctile v :=
  clearShadows_view (·.ctile v) (fun _ _ => rfl) s c.rset

theorem spliceOver_ctx (hc : s.launched? c.launch = some c) : (spliceOver s c l).launched? c.launch = some (succeeded l c) := by
  have hfold : (clearShadows s c.rset).launched? c.launch = some c :=
    (clearShadows_view (·.launched? c.launch) (fun _ _ => rfl) s c.rset).trans hc
  have h := launched_mapCtx (clearShadows s c.rset) c.launch c.launch (succeeded l) fun _ => rfl
  rw [hfold, Option.map_some, if_pos rfl] at h
  exact h

/-- Each clause of `Claims.DrainsAndSwitches` from the lemmas of its event. -/
theorem drainsAndSwitches : Claims.DrainsAndSwitches := by
  refine ⟨?_, ?_, ?_, ?_⟩
  · intro s t node p w opc n hc hp hw ⟨i, hd, hi⟩ hpass hstore
    obtain ⟨g, hg⟩ := gapOps_eq hstore
    have hexec := drainPass_node hc hp hw (node_of_decode hw hd hi) hpass hg
    refine ⟨passedBy s t node g, fun ho => hexec.trans (congrArg _ (if_neg ho)), fun k ho hk => ?_, ?_, fun u hu => ?_, rfl, rfl⟩
    · have hentries : entriesOf p.sites (opc, n) = p.sites.map fun v => (k.dest.toNat + v, k.slot) := by
        simp [entriesOf, ho, hk]
      rw [hexec, if_pos ho, hentries, List.foldl_map]
    · rw [passedBy, State.ctile_setCtile_same]
    · rw [passedBy, State.ctile_setCtile, if_neg hu]
      rfl
  · intro s t op rest hc hw hlow hhigh hnul hd
    exact drainPass_tile hc hw hlow hhigh hnul hd
  · intro s r _ hready hheld helse
    obtain ⟨hactive, hshadow⟩ := swapRegion_region s r
    refine ⟨s.swapRegion r, planeSwap_swaps hready hheld helse, hactive, hshadow, fun t ht hc => ?_, fun t ht hc => ?_,
      (switchTiles_frame (tilesOf r) s).main⟩
    · rw [swapRegion_ctile ht hc]
      exact switched_compute _
    · rw [swapRegion_mtile ht hc]
      exact switched_memory _
  · intro s t c l p ⟨_, hl⟩ hst hs huniq hc hcan hp hn _ ts
    have hexec := exec_spliceTileSwitch hl hst hs huniq hcan
    obtain ⟨y, hy, hyt⟩ := tileSwitched_ctx (l := l) (t := t) hl
    obtain ⟨hmain, -, hheld⟩ := tileSwitched_rest (s := s) (c := c) (l := l) hc
    obtain ⟨hactive, hshadow⟩ := switchTile_planes hc hp
    obtain ⟨hactive', hshadow'⟩ := tileSwitched_planes (s := s) (c := c) (l := l) (t := t) t
    have hall : ((tileSwitched s c l t).spliceTiles y).all (y.switched.contains ·) = true ↔ ∀ v ∈ ts, v ∈ c.switched ∨ v = t := by
      rw [tileSwitched_spliceTiles hyt hc hp hn, hyt.switched]
      simp [ts]
    rw [spliceSwitch_eq hy] at hexec
    constructor
    · intro hnot
      rw [if_neg (hall.not.2 hnot)] at hexec
      exact ⟨_, y, hexec, hactive'.trans hactive, hshadow'.trans hshadow, hy, hyt.switched, hmain⟩
    · intro op hlast hop
      rw [if_pos (hall.2 hlast), spliceDone_emits (by rw [hheld, hop, hyt.launch])] at hexec
      have hover := spliceOver_ctx (s := tileSwitched s c l t) (c := y) (l := l) (hyt.launch ▸ hy)
      rw [hyt.launch] at hover
      refine ⟨_, _, hexec, ?_, hover, rfl, rfl, rfl⟩
      rw [spliceOver_ctile, hactive', hactive]

/-- Settles O48: the events of memory tiles, and the drains and switches. -/
theorem tileTurns : Obligations.TileTurns := ⟨memoryTileEvents, drainsAndSwitches⟩

end Sys2Proof.Proofs
end

section

/-!
Integer arithmetic (R86, R240, R245, R293, R295, R299, R326): an integer instruction whose element function never fails gives,
element by element, what that function makes of the operands' elements, and a number of the format stands for its own value.
-/

namespace Sys2Proof.Proofs

open Sys2Proof Sys2Proof.Machine Sys2Proof.Claims

variable {s : State} {op : Issued} {n : Niw} {f : Fmt}

/-- A lane packed from elements, one by one. -/
theorem elemAt_packElems (f : Fmt) (e : Nat → List Nat → Nat) (ls : List Nat) {j : Nat} (hj : j < f.perLane) :
    (Claims.elemAt f (packElems f e ls) j).toNat = e j (column (ls.map (elems f)) j) % 2 ^ f.width := by
  rw [toNat_elemAt, bits_packElems f e ls j hj]

/-- A result whose lanes are packed from elements is one of the elements' function (R23, R240). -/
theorem elementWise_laneResults {vs : List Value} {e : Nat → List Nat → Nat} {g : List Nat → Nat → BitVec f.width}
    (h : ∀ ls j, j < f.perLane → e j (column (ls.map (elems f)) j) % 2 ^ f.width = (g ls j).toNat) :
    ElementWise f vs g (laneResults vs (packElems f e)) := by
  have hvec : (laneResults vs (packElems f e)).isVec = vs.any (·.isVec) := isVec_ofLanes ..
  have hcount : laneCount (laneResults vs (packElems f e)) = widest vs := by rw [laneCount, hvec]; rfl
  have hlane : ∀ i, i < widest vs → laneAt (laneResults vs (packElems f e)) i = (lanesAt vs i).map (packElems f e) :=
    fun i hi => laneAt_laneResults vs _ i hi (packElems_lt f e)
  have hraw : ∀ i, i < widest vs →
      rawLane (laneResults vs (packElems f e)) i = word (((lanesAt vs i).map (packElems f e)).getD 0) := by
    intro i hi
    rw [laneResults, rawLane_ofLanes _ _ hi, List.getElem?_map, alignLanes_eq_some.2 ⟨hi, rfl⟩]
    rfl
  have hword : ∀ ls, (word (packElems f e ls)).toNat = packElems f e ls := fun ls =>
    (toNat_word _).trans (Nat.mod_eq_of_lt (packElems_lt f e ls))
  refine ⟨hvec, fun i hi ls hls => ?_, fun i hi hls => ?_⟩ <;> rw [hcount] at hi <;> rw [hlane i hi, hraw i hi, hls]
  · rw [Option.map_some, Option.getD_some, hword]
    exact ⟨rfl, fun j hj => BitVec.eq_of_toNat_eq ((elemAt_packElems f e ls hj).trans (h ls j hj))⟩
  · exact ⟨rfl, rfl⟩

/-- An element function on operands that are the elements `x`, cut to the width, is the function `g` of them. -/
def Computes (f : Fmt) (e : List Nat → Nat) (g : (Nat → BitVec f.width) → BitVec f.width) : Prop :=
  ∀ (xs : List Nat) (x : Nat → BitVec f.width), (∀ k, el xs k = (x k).toNat) → e xs % 2 ^ f.width = (g x).toNat

/-- An integer instruction completes with what its element function computes (R240). -/
theorem gives_of_execInteger {i : Instr} {e : List Nat → Nat} {g : (Nat → BitVec n.fmt.width) → BitVec n.fmt.width}
    (h : Issues s op n) (hi : exec i s = execInteger n s fun xs => .ok (e xs)) (he : Computes n.fmt e g) :
    Gives i s op n n.fmt (operandVals op n (splat n.fmt)) fun ls j => g fun k => operand n.fmt ls k j := by
  refine ⟨laneResults (operandVals op n (splat n.fmt)) (packElems n.fmt fun _ => e), ?_,
    elementWise_laneResults fun ls j hj => he _ _ fun k => ?_⟩
  · rw [hi, execInteger, fire_of_issues h, integerOp_ok n op fun _ => e, finish_ok, Bool.or_false]
  · rw [el, column_elems n.fmt ls k j hj, operand, toNat_elemAt]

/-- The value of the low bits of a number, as the model reads it. -/
theorem intOf_eq_valueOf (f : Fmt) (v : Nat) : intOf f v = valueOf f (BitVec.ofNat f.width v) := by
  unfold intOf valueOf
  split
  · exact signedOf_eq_toInt (width_pos f) v
  · rw [BitVec.toNat_ofNat]

theorem intOf_toNat (x : BitVec f.width) : intOf f x.toNat = valueOf f x := by
  rw [intOf_eq_valueOf, BitVec.ofNat_toNat, BitVec.setWidth_eq]

/-- A bit vector is that of its own value. -/
@[simp] theorem ofInt_valueOf (x : BitVec f.width) : BitVec.ofInt f.width (valueOf f x) = x := by
  unfold valueOf
  split
  · exact BitVec.ofInt_toInt
  · rw [BitVec.ofInt_natCast, BitVec.ofNat_toNat, BitVec.setWidth_eq]

/-- An element function that wraps an integer computes the bit vector of that integer. -/
theorem computes_of_wrapInt {e : List Nat → Nat} {g : (Nat → BitVec f.width) → BitVec f.width}
    {v : (Nat → BitVec f.width) → Int} (hv : ∀ x, BitVec.ofInt f.width (v x) = g x)
    (he : ∀ xs x, (∀ k, el xs k = (x k).toNat) → e xs = wrapInt f.width (v x)) : Computes f e g := by
  intro xs x hx
  rw [he xs x hx, wrapInt_eq_toNat, hv, Nat.mod_eq_of_lt (BitVec.isLt _)]

/-- A sum or difference narrowed with SAT clear wraps (R245). -/
theorem narrow_wraps (h : n.imm.getLsbD 7 = false) (v : Int) : narrow n v = wrapInt n.fmt.width v := by
  rw [narrow, h, if_neg Bool.false_ne_true]

/-- With SAT set it is clamped (R86, R245). -/
theorem narrow_clamps (h : n.imm.getLsbD 7 = true) (v : Int) : narrow n v = wrapInt n.fmt.width (clampInt n.fmt v) := by
  rw [narrow, if_pos h]

/-- The high half of a product (R299). -/
theorem wrapInt_high (w : Nat) (v : Int) : wrapInt (2 * w) v / 2 ^ w = wrapInt w (v / 2 ^ w) := by
  have hp : (0 : Int) < 2 ^ w := Int.pow_pos (by decide)
  have hpp : ((2 ^ (2 * w) : Nat) : Int) = 2 ^ w * 2 ^ w := by push_cast; rw [Nat.two_mul, pow_add]
  have hmod : v % (2 ^ w * 2 ^ w) / 2 ^ w = v / 2 ^ w % 2 ^ w := by
    rw [Int.emod_def, Int.emod_def, Int.ediv_ediv_of_nonneg hp.le, Int.mul_assoc, Int.sub_mul_ediv_left _ _ hp.ne']
  unfold wrapInt
  rw [hpp]
  zify
  rw [Int.toNat_of_nonneg (Int.emod_nonneg _ (by positivity)), Int.toNat_of_nonneg (Int.emod_nonneg _ hp.ne'), hmod]

/-- A constant word is one element in every position (R240). -/
theorem elemAt_splat (f : Fmt) (w : Word) {j : Nat} (hj : j < f.perLane) :
    Claims.elemAt f (splat f w).toNat j = w.setWidth f.width := by
  have hlt : packLane f (List.replicate f.perLane (w.toNat % 2 ^ f.width)) < 2 ^ 64 :=
    Nat.lt_of_lt_of_le (packLane_lt f _) (Nat.pow_le_pow_right (by decide) (by simpa using width_perLane_le f))
  refine BitVec.eq_of_toNat_eq ?_
  rw [toNat_elemAt, splat, toNat_word, Nat.mod_eq_of_lt hlt, bits_packLane, BitVec.toNat_setWidth]
  simp [List.getD, hj]

/-- Settles O6: each instruction's element function as integer arithmetic, wrapped to the width. -/
theorem integerArithmetic : Obligations.IntegerArithmetic := by
  unfold Obligations.IntegerArithmetic
  intro s op n h _ vs a b c val
  have sum : ∀ x : Nat → BitVec n.fmt.width, BitVec.ofInt n.fmt.width (val (x 0) + val (x 1)) = x 0 + x 1 := fun x => by
    simp [val, BitVec.ofInt_add]
  have difference : ∀ x : Nat → BitVec n.fmt.width, BitVec.ofInt n.fmt.width (val (x 0) - val (x 1)) = x 0 - x 1 := fun x => by
    rw [sub_eq_add_neg, BitVec.ofInt_add, BitVec.ofInt_neg, ofInt_valueOf, ofInt_valueOf, ← BitVec.sub_eq_add_neg]
  have product : ∀ x : Nat → BitVec n.fmt.width, BitVec.ofInt n.fmt.width (val (x 0) * val (x 1)) = x 0 * x 1 := fun x => by
    simp [val, BitVec.ofInt_mul]
  refine ⟨fun hs => ?_, fun hs => ?_, fun hs => ?_, fun hs => ?_, ?_, ?_, ?_, ?_, ?_, fun w j => elemAt_splat n.fmt w⟩
  · exact gives_of_execInteger (i := .add n) (g := fun x => x 0 + x 1) h rfl <| computes_of_wrapInt sum fun xs x hx => by
      rw [elemAdd, narrow_wraps hs, hx, hx, intOf_toNat, intOf_toNat]
  · exact gives_of_execInteger (i := .add n) (g := fun x => limited n.fmt (val (x 0) + val (x 1))) h rfl <|
      computes_of_wrapInt (fun _ => (limited_eq ..).symm) fun xs x hx => by
        rw [elemAdd, narrow_clamps hs, hx, hx, intOf_toNat, intOf_toNat]
  · exact gives_of_execInteger (i := .sub n) (g := fun x => x 0 - x 1) h rfl <| computes_of_wrapInt difference fun xs x hx => by
      rw [elemSub, narrow_wraps hs, hx, hx, intOf_toNat, intOf_toNat]
  · exact gives_of_execInteger (i := .sub n) (g := fun x => limited n.fmt (val (x 0) - val (x 1))) h rfl <|
      computes_of_wrapInt (fun _ => (limited_eq ..).symm) fun xs x hx => by
        rw [elemSub, narrow_clamps hs, hx, hx, intOf_toNat, intOf_toNat]
  · exact gives_of_execInteger (i := .mul n) (g := fun x => x 0 * x 1) h rfl <| computes_of_wrapInt product fun xs x hx => by
      rw [elemMul, hx, hx, intOf_toNat, intOf_toNat]
  · exact gives_of_execInteger (i := .mulh n)
      (g := fun x => BitVec.ofInt n.fmt.width (val (x 0) * val (x 1) / 2 ^ n.fmt.width)) h rfl <|
      computes_of_wrapInt (fun _ => rfl) fun xs x hx => by
        rw [elemMulh, wrapInt_high, hx, hx, intOf_toNat, intOf_toNat]
  · exact gives_of_execInteger (i := .mad n) (g := fun x => x 0 * x 1 + x 2) h rfl <|
      computes_of_wrapInt (v := fun x => val (x 0) * val (x 1) + val (x 2))
        (fun x => by rw [BitVec.ofInt_add, product, ofInt_valueOf]) fun xs x hx => by
        rw [elemMad, hx, hx, hx, intOf_toNat, intOf_toNat, intOf_toNat]
  · exact gives_of_execInteger (i := .min n) (g := fun x => if val (x 0) ≤ val (x 1) then x 0 else x 1) h rfl <|
      computes_of_wrapInt (v := fun x => min (val (x 0)) (val (x 1)))
        (fun x => by rw [min_def, apply_ite (BitVec.ofInt n.fmt.width), ofInt_valueOf, ofInt_valueOf]) fun xs x hx => by
        rw [elemMin, hx, hx, intOf_toNat, intOf_toNat]
  · exact gives_of_execInteger (i := .max n) (g := fun x => if val (x 0) ≤ val (x 1) then x 1 else x 0) h rfl <|
      computes_of_wrapInt (v := fun x => max (val (x 0)) (val (x 1)))
        (fun x => by rw [max_def, apply_ite (BitVec.ofInt n.fmt.width), ofInt_valueOf, ofInt_valueOf]) fun xs x hx => by
        rw [elemMax, hx, hx, intOf_toNat, intOf_toNat]

end Sys2Proof.Proofs
end

section

/-!
An abandoned operand (R93, R265): where every failure of a float node's elements is of one cause, and some element that takes
part fails, the node fails with that cause.
-/

namespace Sys2Proof.Proofs

open Sys2Proof Sys2Proof.Machine Sys2Proof.Claims

variable {s : State} {op : Issued} {n : Niw} {e : FloatEnv} {α β : Type} {c : Bad}

theorem bind_ok {x : Except Bad α} {f : α → Except Bad β} {b : β} (h : x >>= f = .ok b) : ∃ a, x = .ok a ∧ f a = .ok b := by
  cases x with
  | error d => cases h
  | ok a => exact ⟨a, rfl, h⟩

theorem bind_error {x : Except Bad α} {f : α → Except Bad β} {d : Bad} (h : x >>= f = .error d) :
    x = .error d ∨ ∃ a, x = .ok a ∧ f a = .error d := by
  cases x with
  | error d' => cases h; exact .inl rfl
  | ok a => exact .inr ⟨a, rfl, h⟩

/-- A computation that can fail with `c` alone. -/
def OnlyFails (c : Bad) (x : Except Bad α) : Prop := ∀ d, x = .error d → d = c

theorem OnlyFails.ok {a : α} : OnlyFails c (.ok a) := nofun

theorem OnlyFails.bind {x : Except Bad α} {f : α → Except Bad β} (hx : OnlyFails c x) (hf : ∀ a, OnlyFails c (f a)) :
    OnlyFails c (x >>= f) := by
  intro d h
  obtain h | ⟨a, -, h⟩ := bind_error h
  · exact hx d h
  · exact hf a d h

/-- A computation that can fail with `c` alone, and does not answer, fails with `c`. -/
theorem OnlyFails.eq_error {x : Except Bad α} (hx : OnlyFails c x) (h : ∀ a, x ≠ .ok a) : x = .error c := by
  cases x with
  | ok a => exact absurd rfl (h a)
  | error d => rw [hx d rfl]

theorem onlyFails_mapElems {g : Nat → List Nat → Except Bad α} {xs : List (List Nat)}
    (hg : ∀ j v, OnlyFails c (g j v)) : ∀ k, OnlyFails c (mapElems g xs k)
  | 0 => .ok
  | k + 1 => (onlyFails_mapElems hg k).bind fun _ => (hg k _).bind fun _ => .ok

theorem elem_of_mapElems {g : Nat → List Nat → Except Bad α} {xs : List (List Nat)} :
    ∀ {k : Nat} {ys : List α}, mapElems g xs k = .ok ys → ∀ j, j < k → ∃ y, g j (column xs j) = .ok y
  | 0, _, _, _, hj => absurd hj (Nat.not_lt_zero _)
  | k + 1, _, h, j, hj => by
    obtain ⟨r, hr, h⟩ := bind_ok h
    obtain ⟨y, hy, -⟩ := bind_ok h
    obtain rfl | hj := Nat.eq_or_lt_of_le (Nat.le_of_lt_succ hj)
    · exact ⟨y, hy⟩
    · exact elem_of_mapElems hr j hj

theorem onlyFails_mapLanes {g : Nat → List Nat → Except Bad α} (hg : ∀ i l, OnlyFails c (g i l)) :
    ∀ (ls : List (Option (List Nat))) (i : Nat), OnlyFails c (mapLanes g i ls)
  | [], _ => .ok
  | none :: ls, i => (onlyFails_mapLanes hg ls (i + 1)).bind fun _ => .ok
  | some l :: ls, i => (hg i l).bind fun _ => (onlyFails_mapLanes hg ls (i + 1)).bind fun _ => .ok

theorem lane_of_mapLanes {g : Nat → List Nat → Except Bad α} : ∀ {ls : List (Option (List Nat))} {i : Nat}
    {ys : List (Option α)}, mapLanes g i ls = .ok ys → ∀ m l, ls[m]? = some (some l) → ∃ y, g (i + m) l = .ok y
  | [], _, _, _, _, _, hm => nomatch hm
  | none :: ls, i, _, h, m, l, hm => by
    obtain ⟨r, hr, -⟩ := bind_ok h
    cases m with
    | zero => simp at hm
    | succ m => rw [← Nat.succ_add_eq_add_succ]; exact lane_of_mapLanes hr m l (by simpa using hm)
  | some x :: ls, i, _, h, m, l, hm => by
    obtain ⟨y, hy, h⟩ := bind_ok h
    obtain ⟨r, hr, -⟩ := bind_ok h
    cases m with
    | zero => obtain rfl : x = l := by simpa using hm
              exact ⟨y, hy⟩
    | succ m => rw [← Nat.succ_add_eq_add_succ]; exact lane_of_mapLanes hr m l (by simpa using hm)

/-- Outside trap mode an element fails where it is an abandoned value, with 0x0C0 (R93, R265). -/
theorem onlyFails_read (hn : e.ntrp = false) (f : Fmt) (v : Nat) : OnlyFails (0x0C0, 0) (e.read f v) := by
  intro d h
  unfold FloatEnv.read at h
  split at h
  · cases h; rfl
  · simp [hn] at h

theorem onlyFails_readAll (hn : e.ntrp = false) : ∀ (vs : List Nat) (k : Nat), OnlyFails (0x0C0, 0) (e.readAll k vs)
  | [], _ => .ok
  | v :: vs, k => (onlyFails_read hn _ v).bind fun _ => (onlyFails_readAll hn vs (k + 1)).bind fun _ => .ok

/-- Operands that decode are no abandoned values. -/
theorem not_abandoned_of_readAll : ∀ {vs : List Nat} {k : Nat} {xs : List Exact}, e.readAll k vs = .ok xs →
    ∀ m, m < vs.length → abandonedElem (e.fmtOf (k + m)) (vs.getD m 0) = false
  | [], _, _, _, _, hm => absurd hm (Nat.not_lt_zero _)
  | v :: vs, k, _, h, m, hm => by
    obtain ⟨x, hx, h⟩ := bind_ok h
    obtain ⟨r, hr, -⟩ := bind_ok h
    cases m with
    | zero =>
      unfold FloatEnv.read at hx
      split at hx
      · cases hx
      · next ha => exact Bool.eq_false_iff.2 ha
    | succ m => rw [← Nat.succ_add_eq_add_succ]; exact not_abandoned_of_readAll hr m (Nat.lt_of_succ_lt_succ hm)

/-- The operands' elements at one position (R59, R264). -/
theorem column_lanes {j : Nat} (hj : j < e.fmt.perLane) : ∀ (ls : List Nat) (k : Nat),
    column (e.lanes k ls) j = (List.range ls.length).map fun m => e.elemAt (k + m) (ls.getD m 0) j
  | [], _ => rfl
  | l :: ls, k => by
    have helem : nth 0 (e.elems k l) j = e.elemAt k l j := by simp [FloatEnv.elems, nth, hj]
    have ih := column_lanes hj ls (k + 1)
    rw [column] at ih
    rw [FloatEnv.lanes, column, List.map_cons, helem, ih]
    simp [List.range_succ_eq_map, Nat.add_assoc, Nat.add_comm 1]

/-- Exact results have a code in a float or tapered destination (R97, R98). -/
theorem onlyFails_place (hd : e.dest.isFloat = true) (i j : Nat) (finite : Bool) (x : Exact) : OnlyFails c (e.place i j finite x) := by
  simp only [FloatEnv.place, convertTo, hd, if_true]
  exact .ok

/-- Some operand element that takes part is an abandoned value. -/
def SomeAbandoned (e : FloatEnv) (vs : List Value) : Prop :=
  ∃ i ls j k, i < widest vs ∧ lanesAt vs i = some ls ∧ j < e.fmt.perLane ∧ k < ls.length ∧
    abandonedElem (e.fmtOf k) (floatOperand e ls k j) = true

/-- A node that reads every operand at each position fails with 0x0C0 where one of them is an abandoned value (R265). -/
theorem mapLanes_abandoned {vs : List Value} {g : Nat → Nat → List Nat → Except Bad α} {pack : List α → β}
    (hg : ∀ i j v, OnlyFails (0x0C0, 0) (g i j v)) (hread : ∀ i j v y, g i j v = .ok y → ∃ xs, e.readAll 0 v = .ok xs)
    (ha : SomeAbandoned e vs) :
    mapLanes (fun i ls => mapElems (g i) (e.lanes 0 ls) e.fmt.perLane >>= fun es => .ok (pack es)) 0 (alignLanes vs) =
      .error (0x0C0, 0) := by
  refine OnlyFails.eq_error (onlyFails_mapLanes (fun i ls => (onlyFails_mapElems (hg i) _).bind fun _ => .ok) _ _) fun ys hok => ?_
  obtain ⟨i, ls, j, k, hi, hls, hj, hk, hab⟩ := ha
  obtain ⟨y, hy⟩ := lane_of_mapLanes hok i ls (alignLanes_eq_some.2 ⟨hi, hls⟩)
  obtain ⟨es, hes, -⟩ := bind_ok hy
  obtain ⟨y, hy⟩ := elem_of_mapElems hes j hj
  obtain ⟨xs, hxs⟩ := hread _ _ _ _ hy
  rw [column_lanes hj] at hxs
  have hnot := not_abandoned_of_readAll hxs k (by simpa using hk)
  simp only [Nat.zero_add, List.getD, List.getElem?_map, List.getElem?_range hk, Option.map_some, Option.getD_some] at hnot
  rw [← List.getD, elemAt_eq_floatOperand, hab] at hnot
  cases hnot

/-- An element-wise float operation on an abandoned operand (R265). -/
theorem apply_abandoned {g : Nat → Nat → List Exact → Exact} (hn : e.ntrp = false) (hd : e.dest.isFloat = true)
    (ha : SomeAbandoned e (operandVals op n id)) : e.apply op n g = .error (0x0C0, 0) := by
  have hlanes := mapLanes_abandoned (g := fun i j vs => e.readAll 0 vs >>= fun xs => e.place i j (xs.all (·.finite)) (g i j xs))
    (pack := fun es => (packLane e.dest ((es.take e.dest.perLane).map (·.1)), es.any (·.2)))
    (fun i j v => (onlyFails_readAll hn v 0).bind fun _ => onlyFails_place hd i j _ _) (fun _ _ _ _ hy => by
      obtain ⟨xs, hxs, -⟩ := bind_ok hy
      exact ⟨xs, hxs⟩) ha
  exact congrArg (· >>= _) hlanes

/-- The integers of FCMP on an abandoned operand (R265, R268). -/
theorem fcmpLanes_abandoned {vs : List Value} (k : Nat) (f : Fmt) (hn : e.ntrp = false) (ha : SomeAbandoned e vs) :
    mapLanes (fun _ ls => mapElems (fun _ vs => e.readAll 0 vs >>= fun xs => .ok (fcmpHolds k (arg xs 0) (arg xs 1)).toNat)
      (e.lanes 0 ls) e.fmt.perLane >>= fun es => .ok (packLane f es)) 0 (alignLanes vs) = .error (0x0C0, 0) :=
  mapLanes_abandoned (g := fun _ _ vs => e.readAll 0 vs >>= fun xs => .ok (fcmpHolds k (arg xs 0) (arg xs 1)).toNat)
    (fun _ _ v => (onlyFails_readAll hn v 0).bind fun _ => .ok) (fun _ _ _ _ hy => by
      obtain ⟨xs, hxs, -⟩ := bind_ok hy
      exact ⟨xs, hxs⟩) ha

/-- Settles O11: every failure of these instructions is a refused operand, and an abandoned one is refused. -/
theorem abandonedOperand : Obligations.AbandonedOperand := by
  unfold Obligations.AbandonedOperand
  intro s op n h _ e hn hd ha i hi
  have float {g : FloatEnv → Nat → Nat → List Exact → Exact} (hi : exec i s = execFloat n s g) :
      exec i s = .next ((after s op).opFault op 0x0C0 0 0) :=
    fault_of_fire (r := fun op s => (s.floatEnv op n n.fmt false).apply op n (g (s.floatEnv op n n.fmt false))) h hi
      (apply_abandoned hn hd ha)
  simp only [List.mem_cons, List.not_mem_nil, or_false] at hi
  obtain rfl | rfl | rfl | rfl | rfl | rfl | rfl | rfl | rfl | rfl | rfl | rfl := hi
  · exact float (rfl : _ = execFadd n s)
  · exact float (rfl : _ = execFsub n s)
  · exact float (rfl : _ = execFmul n s)
  · exact float (rfl : _ = execFfma n s)
  · exact float (rfl : _ = execFdiv n s)
  · exact float (rfl : _ = execFsqrt n s)
  · exact float (rfl : _ = execFrcp n s)
  · exact float (rfl : _ = execFrsq n s)
  · exact float (rfl : _ = execFmin n s)
  · exact float (rfl : _ = execFmax n s)
  · exact float (rfl : _ = execFrnd n s)
  · show execFcmp n s = _
    rw [execFcmp, fire_of_issues h]
    exact congrArg (fun r => Host.Outcome.next (State.finish (after s op) op n (r >>= _)))
      (fcmpLanes_abandoned (bits n.imm.toNat 3 3) n.fmt hn ha)

end Sys2Proof.Proofs
end

section

/-!
The exact operations (R94, R266, R271): each arm of an operation on rational operands, as arithmetic of rational numbers.
-/

namespace Sys2Proof.Proofs

open Sys2Proof Sys2Proof.Machine Sys2Proof.Claims

/-- The sign of a rational as a factor. -/
def signOf (s : Bool) : ℚ := if s then -1 else 1

theorem ratValue_rat (s : Bool) (n d : Nat) : ratValue (.rat s n d) = signOf s * (n : ℚ) / d := rfl

theorem signOf_xor (s t : Bool) : signOf (s != t) = signOf s * signOf t := by cases s <;> cases t <;> simp [signOf]

theorem signOf_ne_zero (s : Bool) : signOf s ≠ 0 := by cases s <;> simp [signOf]

theorem signOf_of_ne {s t : Bool} (h : s ≠ t) : signOf t = -signOf s := by cases s <;> cases t <;> simp [signOf] at h ⊢

variable {s t : Bool} {n d m e : Nat}

/-- The four arms of a sum of two rationals (R94). -/
theorem add_rat (down : Bool) (s t : Bool) (n d m e : Nat) : (Exact.rat s n d).add down (.rat t m e) =
    if s = t then .rat s (n * e + m * d) (d * e)
    else if m * d < n * e then .rat s (n * e - m * d) (d * e)
    else if n * e < m * d then .rat t (m * d - n * e) (d * e)
    else .rat down 0 1 := rfl

/-- The sum of two rationals, and the sign of one that is zero (R94). -/
theorem add_rat_value (down : Bool) (hd : 0 < d) (he : 0 < e) : let x := Exact.rat s n d
    let y := Exact.rat t m e
    ratValue (x.add down y) = ratValue x + ratValue y ∧ (x.add down y).finite = true ∧
      (s ≠ t → ratValue x + ratValue y = 0 → (x.add down y).neg = down) ∧ (s = t → (x.add down y).neg = s) := by
  have hd' : (d : ℚ) ≠ 0 := by exact_mod_cast hd.ne'
  have he' : (e : ℚ) ≠ 0 := by exact_mod_cast he.ne'
  intro x y
  by_cases hst : s = t
  · subst hst
    have hsum : x.add down y = .rat s (n * e + m * d) (d * e) := if_pos rfl
    refine ⟨?_, by rw [hsum]; rfl, fun h => absurd rfl h, fun _ => by rw [hsum]; rfl⟩
    rw [hsum]
    simp only [x, y, ratValue_rat]
    push_cast
    field_simp
  · have hval : ratValue x + ratValue y = signOf s * ((n * e : ℚ) - m * d) / (d * e) := by
      simp only [x, y, ratValue_rat, signOf_of_ne hst]
      field_simp
      ring
    have hzero : ratValue x + ratValue y = 0 → n * e = m * d := by
      rw [hval, div_eq_zero_iff, mul_eq_zero, sub_eq_zero]
      rintro ((h | h) | h)
      · exact absurd h (signOf_ne_zero s)
      · exact_mod_cast h
      · exact absurd h (mul_ne_zero hd' he')
    have hsum := add_rat down s t n d m e
    rw [if_neg hst] at hsum
    have hcases := Nat.lt_trichotomy (m * d) (n * e)
    obtain hlt | heq | hgt := hcases
    · rw [if_pos hlt] at hsum
      refine ⟨?_, by rw [hsum]; rfl, fun _ h0 => absurd (hzero h0) hlt.ne', fun h => absurd h hst⟩
      rw [hval, hsum, ratValue_rat, Nat.cast_sub hlt.le]
      push_cast
      rfl
    · rw [if_neg heq.not_lt, if_neg heq.not_gt] at hsum
      refine ⟨?_, by rw [hsum]; rfl, fun _ _ => by rw [hsum]; rfl, fun h => absurd h hst⟩
      have hq : (n * e : ℚ) = m * d := by exact_mod_cast heq.symm
      rw [hval, hsum, ratValue_rat, hq]
      simp
    · rw [if_neg hgt.not_gt, if_pos hgt] at hsum
      refine ⟨?_, by rw [hsum]; rfl, fun _ h0 => absurd (hzero h0) hgt.ne, fun h => absurd h hst⟩
      rw [hval, hsum, ratValue_rat, Nat.cast_sub hgt.le, signOf_of_ne hst]
      push_cast
      ring

theorem mul_rat_value (s t : Bool) (n d m e : Nat) : ratValue ((Exact.rat s n d).mul (.rat t m e)) =
    ratValue (.rat s n d) * ratValue (.rat t m e) := by
  simp only [Exact.mul, ratValue_rat, signOf_xor]
  push_cast
  rw [div_mul_div_comm]
  congr 1
  ring

theorem div_rat (hm : 0 < m) : (Exact.rat s n d).div (.rat t m e) = .rat (s != t) (n * e) (d * m) := if_neg hm.ne'

theorem div_rat_value (hm : 0 < m) : ratValue ((Exact.rat s n d).div (.rat t m e)) =
    ratValue (.rat s n d) / ratValue (.rat t m e) := by
  have hsign : signOf s * signOf t = signOf s / signOf t := by cases t <;> simp [signOf, div_neg]
  rw [div_rat hm]
  simp only [ratValue_rat, signOf_xor, hsign]
  push_cast
  rw [div_div_div_eq, div_mul_eq_mul_div, div_div]
  congr 1 <;> ring

theorem sqrt_rat (hn : 0 < n) : (Exact.rat s n d).sqrt = if s then .nan else .root false n d := if_neg hn.ne'

theorem rsqrt_rat (hn : 0 < n) : (Exact.rat s n d).rsqrt = if s then .nan else .root false d n := if_neg hn.ne'

/-- A rational times a power of two (R273). -/
theorem scale_rat_value (s : Bool) (n d : Nat) (k : Int) :
    ratValue ((Exact.rat s n d).scale k) = ratValue (.rat s n d) * (2 : ℚ) ^ k ∧ ((Exact.rat s n d).scale k).neg = s := by
  unfold Exact.scale
  by_cases hk : 0 ≤ k
  · obtain ⟨p, rfl⟩ := Int.eq_ofNat_of_zero_le hk
    simp only [hk, if_true, Int.toNat_natCast, ratValue_rat, zpow_natCast]
    refine ⟨?_, rfl⟩
    push_cast
    ring
  · obtain ⟨p, hp⟩ := Int.eq_ofNat_of_zero_le (a := -k) (by omega)
    obtain rfl : k = -(p : Int) := by omega
    simp only [hk, if_false, neg_neg, Int.toNat_natCast, ratValue_rat, zpow_neg, zpow_natCast]
    refine ⟨?_, rfl⟩
    push_cast
    rw [← div_div, div_eq_mul_inv _ ((2 : ℚ) ^ p)]

/-- Settles O12: the arms of each operation. -/
theorem exactOperations : Obligations.ExactOperations := by
  unfold Obligations.ExactOperations
  refine ⟨fun down s t n d m e hd he => ⟨add_rat_value down hd he, ⟨mul_rat_value .., rfl, rfl⟩, fun hm => ?_,
    fun hn hm => ?_, fun hn hm => ?_, fun hn hs => ?_, fun hn hs => ?_, fun hn => ?_, fun hn hs => ?_, scale_rat_value s n d,
    fun u => ?_⟩, fun down s t => ⟨rfl, rfl, rfl, rfl, rfl, rfl, by simp [Exact.rsqrt, ratValue]⟩, fun down x => ?_⟩
  · exact ⟨div_rat_value hm, by rw [div_rat hm]; rfl, by rw [div_rat hm]; rfl⟩
  · simp [Exact.div, hm, hn.ne']
  · simp [Exact.div, hm, hn]
  · subst hs
    exact ⟨n, d, sqrt_rat hn, by simp [ratValue_rat, signOf]⟩
  · subst hs
    exact ⟨sqrt_rat hn, rsqrt_rat hn⟩
  · subst hn
    exact ⟨rfl, rfl, rfl⟩
  · subst hs
    exact ⟨d, n, rsqrt_rat hn, by simp [ratValue_rat, signOf]⟩
  · refine ⟨rfl, rfl, fun hn => ?_, fun hn => ?_, rfl, rfl, rfl⟩
    · simp [Exact.mul, Exact.isZero, Exact.neg, hn.ne']
    · simp [Exact.mul, Exact.isZero, hn]
  · refine ⟨rfl, ?_, rfl, ?_, rfl, ?_, rfl, rfl⟩ <;> cases x <;> rfl

end Sys2Proof.Proofs
end

section

/-!
System registers (R99, R182, R183, R230, R327 to R329): what each register reads as, what the writes of SYS.MODE and
SYS.THROTWIN leave, and the routers after their windows have been closed.
-/

namespace Sys2Proof.Proofs

open Sys2Proof Sys2Proof.Machine Sys2Proof.Claims

variable {s : State} {op : Issued} {n : Niw} {c : Ctx}

/-- An operation that commit fixes changes its region alone (R224). -/
theorem fix_onlyRegions (s : State) (op : Issued) : ∃ g, s.fix op = { s with regions := g } := by
  unfold State.fix
  split
  · exact ⟨s.regions, rfl⟩
  · next r bc _ =>
    simp only [State.mapBlock]
    split
    · exact ⟨_, rfl⟩
    · exact ⟨s.regions, rfl⟩

/-- The status word of routers as sums (R183). -/
theorem throtWord_map (s : State) (ts : List TileId) : throtWord (ts.map s.router) =
    word (min 65535 (ts.map fun t => (s.router t).last).sum + min 65535 (ts.map fun t => (s.router t).twin).sum * 2 ^ 16 +
      (ts.map fun t => (s.router t).throttled.toNat).sum * 2 ^ 32) := by
  simp only [throtWord, List.map_map, ← List.sum_eq_foldl]
  rfl

theorem featWord_low (f : Option (BitVec 128)) : featWord f false = (f.getD 0).setWidth 64 := by
  refine BitVec.eq_of_toNat_eq ?_
  simp [featWord, word, bits, BitVec.toNat_setWidth]

theorem featWord_high (f : Option (BitVec 128)) : featWord f true = (f.getD 0 >>> 64).setWidth 64 := by
  refine BitVec.eq_of_toNat_eq ?_
  simp [featWord, word, bits, BitVec.toNat_setWidth, BitVec.toNat_ushiftRight, Nat.shiftRight_eq_div_pow]

/-- SYSRD emits the register that IMM8 names (R327). -/
theorem sysrd_emits {k : Nat} (h : Issues s op n) (hk : k < 256) (hi : n.imm = BitVec.ofNat 8 k) {w : Word}
    (hw : (after s op).sysReg op k = w) : exec (.sysrd n) s = .next (emitsWord (after s op) op n w true) := by
  have himm : n.imm.toNat = k := by rw [hi, BitVec.toNat_ofNat, Nat.mod_eq_of_lt hk]
  show execSysrd n s = _
  rw [execSysrd, fire_of_issues h, himm, hw]
  rfl

/-- The windows that have ended, counted by a cycle, leave a router to which that cycle adds nothing, whatever the next
threshold (R182). -/
theorem window_window (r : Router) (now : Nat) (w w' : Word) : (r.window now w).window now w' = r.window now w := by
  by_cases hk : (now - r.start) / 1024 = 0
  · simp [Router.window, hk]
  · have hdone : (now - (r.start + 1024 * ((now - r.start) / 1024))) / 1024 = 0 := by omega
    simp [Router.window, hk, hdone]

/-- Within its first window a router that has been reset is as it was (R182). -/
theorem window_reset {now : Nat} (h : now < 1024) (w : Word) : Router.reset.window now w = Router.reset := by
  have : (now - Router.reset.start) / 1024 = 0 := by simp [Router.reset]; omega
  simp [Router.window, this]

theorem look_append {κ α : Type} [DecidableEq κ] (k : κ) : ∀ l m : List (κ × α), look k (l ++ m) = (look k l).or (look k m)
  | [], _ => rfl
  | (k', a) :: l, m => by
    by_cases h : k' = k
    · simp [look, h]
    · simp [look, h, look_append k l m]

theorem look_const {κ α : Type} [DecidableEq κ] (k : κ) (a : α) : ∀ l : List κ,
    look k (l.map fun x => (x, a)) = if k ∈ l then some a else none
  | [] => rfl
  | k' :: l => by
    by_cases h : k' = k
    · simp [look, h]
    · simp [look, h, Ne.symm h, look_const k a l]

/-- Every tile of the fabric stands in a region (R12, R159). -/
theorem mem_tiles {t : TileId} (hc : t.col < 28) (hr : t.row < 24) : t ∈ (List.range 42).flatMap tilesOf := by
  obtain ⟨d, col, row⟩ := t
  have h : ∀ d ∈ [Die.w, .e], ∀ col < 28, ∀ row < 24,
      tileAt (regionOf ⟨d, col, row⟩) (col % 4 + 4 * (row % 8)) = ⟨d, col, row⟩ := by decide
  have hreg : regionOf ⟨d, col, row⟩ < 42 := by
    have : dieNum d ≤ 1 := by cases d <;> decide
    simp only [regionOf]
    dsimp only at hc hr
    omega
  refine List.mem_flatMap.2 ⟨_, List.mem_range.2 hreg, List.mem_map.2 ⟨col % 4 + 4 * (row % 8), ?_, ?_⟩⟩
  · exact List.mem_range.2 (by omega)
  · exact h d (by cases d <;> decide) col hc row hr

/-- A tile's router once every window that has ended is closed (R182). -/
theorem closeWindows_router {t : TileId} (hc : t.col < 28) (hr : t.row < 24) (w : Word) :
    (s.closeWindows.ctile t).router.window (s.ownCycle t) w = s.router t := by
  have hlook := look_map (fun t (c : CTile) => { c with router := c.router.window (s.ownCycle t) s.throtwin }) t
    (s.ctiles ++ (((List.range 42).flatMap tilesOf).filter fun t => (look t s.ctiles).isNone &&
      decide (1024 ≤ s.ownCycle t)).map fun t => (t, CTile.reset))
  rw [look_append, look_const] at hlook
  have hctile : s.closeWindows.ctile t = (look t s.closeWindows.ctiles).getD CTile.reset := rfl
  have hrouter : s.router t = ((look t s.ctiles).getD CTile.reset).router.window (s.ownCycle t) s.throtwin := rfl
  rw [hctile, hrouter, show look t s.closeWindows.ctiles = _ from hlook]
  cases hl : look t s.ctiles with
  | some x => exact window_window ..
  | none =>
    by_cases hown : 1024 ≤ s.ownCycle t
    · have hmem : t ∈ ((List.range 42).flatMap tilesOf).filter fun t => (look t s.ctiles).isNone &&
          decide (1024 ≤ s.ownCycle t) := List.mem_filter.2 ⟨mem_tiles hc hr, by simp [hl, hown]⟩
      rw [if_pos hmem]
      exact window_window ..
    · have hmem : t ∉ ((List.range 42).flatMap tilesOf).filter fun t => (look t s.ctiles).isNone &&
          decide (1024 ≤ s.ownCycle t) := by simp [hown]
      rw [if_neg hmem]
      have hreset := window_reset (Nat.lt_of_not_le hown)
      exact (hreset w).trans (hreset s.throtwin).symm

/-- A tile's router with TWIN clear. -/
def clearTile (s : State) (t : TileId) : State := s.setCtile t { s.ctile t with router := { s.router t with twin := 0 } }

theorem clearTwin_eq (s : State) (r : Nat) : s.clearTwin r = (tilesOf r).foldl clearTile s := rfl

theorem clearTiles_twin {t : TileId} : ∀ (ts : List TileId) (s : State), t ∈ ts ∨ (s.ctile t).router.twin = 0 →
    ((ts.foldl clearTile s).ctile t).router.twin = 0
  | [], _, h => h.resolve_left List.not_mem_nil
  | u :: ts, s, h => by
    refine clearTiles_twin ts (clearTile s u) ?_
    rw [clearTile, State.ctile_setCtile]
    split
    · exact .inr rfl
    · next hne => exact h.imp_left fun hm => (List.mem_cons.1 hm).resolve_left hne

/-- Every router of the region has TWIN clear (R183). -/
theorem clearTwin_twin {r : Nat} {t : TileId} (ht : t ∈ tilesOf r) : ((s.clearTwin r).ctile t).router.twin = 0 := by
  rw [clearTwin_eq]
  exact clearTiles_twin _ s (.inl ht)

/-- Clearing TWIN changes compute tiles alone. -/
theorem clearTwin_frame (s : State) (r : Nat) : (s.clearTwin r).main = s.main ∧ (s.clearTwin r).mtiles = s.mtiles := by
  rw [clearTwin_eq]
  exact ⟨foldl_view State.main clearTile (fun _ _ => rfl) _ s, foldl_view State.mtiles clearTile (fun _ _ => rfl) _ s⟩

/-- A mode word that SYSWR refuses (R99). -/
theorem modeWordBad_iff (w : Word) : modeWordBad w = true ↔ 6 ≤ w.toNat % 8 ∨ 32 ≤ w.toNat := by
  have := w.isLt
  rw [modeWordBad, Bool.or_eq_true, decide_eq_true_iff, decide_eq_true_iff, bits, bits]
  omega

/-- A window word that SYSWR refuses (R182). -/
theorem windowWordBad_iff (w : Word) : (bits w.toNat 16 48 ≠ 0 ∨ 4096 < bits w.toNat 0 13) ↔
    2 ^ 16 ≤ w.toNat ∨ 4096 < w.toNat % 2 ^ 13 := by
  have := w.isLt
  simp only [bits]
  omega

/-- The context whose mode SYSWR writes (R329). -/
theorem ctx_mapNum {k : Nat} {f : Ctx → Ctx} (h : s.ctx? k = some c) (hf : ∀ c, (f c).num = c.num ∧ (f c).st = c.st) :
    (s.mapNum k f).ctx? k = some (f c) := by
  have hlive : ∀ d, (decide ((if d.launch = c.launch then f d else d).num = k) &&
      (if d.launch = c.launch then f d else d).st != .ended && (if d.launch = c.launch then f d else d).st != .waiting) =
      (decide (d.num = k) && d.st != .ended && d.st != .waiting) := by
    intro d
    obtain ⟨hnum, hst⟩ := hf d
    split <;> simp [hnum, hst]
  simp only [State.mapNum, h]
  simp only [State.ctx?, State.mapCtx_ctxs, List.find?_map, Function.comp_def, hlive]
  rw [← State.ctx?, h]
  simp

/-- SYSWR of SYS.MODE (R99, R329). -/
theorem syswrMode_writes (h : Issues s op n) (ha : op.ta.isVec = false) (hc : (after s op).ctx? op.ctx = some c)
    (hgood : ¬ (6 ≤ op.ta.word.toNat % 8 ∨ 32 ≤ op.ta.word.toNat)) :
    ∃ v : State, exec (.syswrMode n) s = .next (emitsWord v op n c.mode true) ∧
      v.ctx? op.ctx = some { c with mode := op.ta.word } ∧ v.main = (after s op).main ∧ v.ctiles = (after s op).ctiles ∧
      v.mtiles = (after s op).mtiles := by
  have hold : (after s op).sysReg op 0 = c.mode := by simp only [State.sysReg, hc]
  obtain ⟨g, hg⟩ := fix_onlyRegions (after s op) op
  have hc' : ((after s op).fix op).ctx? op.ctx = some c := by rw [hg]; exact hc
  refine ⟨((after s op).fix op).mapNum op.ctx fun c => { c with mode := op.ta.word }, ?_,
    ctx_mapNum hc' fun c => ⟨rfl, rfl⟩, ?_, ?_, ?_⟩
  · show execSyswrMode n s = _
    rw [execSyswrMode, fire_of_issues h, scalars_of_all (by simpa using ha), hold]
    exact congrArg _ (if_neg (mt (modeWordBad_iff _).1 hgood))
  all_goals
    simp only [State.mapNum, hc']
    rw [hg]
    rfl

/-- SYSWR of SYS.THROTWIN (R182, R329). -/
theorem syswrThrotwin_writes (h : Issues s op n) (ha : op.ta.isVec = false) (hs : (after s op).isSystem op.ctx = true)
    (hgood : ¬ (2 ^ 16 ≤ op.ta.word.toNat ∨ 4096 < op.ta.word.toNat % 2 ^ 13)) :
    ∃ v : State, exec (.syswrThrotwin n) s = .next (emitsWord v op n (after s op).throtwin true) ∧ v.throtwin = op.ta.word ∧
      v.cycle = (after s op).cycle ∧ (∀ t : TileId, t.col < 28 → t.row < 24 → v.router t = (after s op).router t) ∧
      v.main = (after s op).main ∧ v.mtiles = (after s op).mtiles := by
  obtain ⟨g, hg⟩ := fix_onlyRegions (after s op) op
  refine ⟨{ ((after s op).fix op).closeWindows with throtwin := op.ta.word }, ?_, rfl, by rw [hg]; rfl,
    fun t hcol hrow => ?_, by rw [hg]; rfl, by rw [hg]; rfl⟩
  · show execSyswrThrotwin n s = _
    rw [execSyswrThrotwin, fire_of_issues h, scalars_of_all (by simpa using ha), hs]
    exact congrArg _ (if_neg (mt (windowWordBad_iff _).1 hgood))
  · rw [hg]
    exact closeWindows_router (s := { after s op with regions := g }) hcol hrow op.ta.word

/-- THROT in block mode (R183). -/
theorem throt_block {q bc k : Nat} (h : Issues s op n) (ha : op.ta.isVec = false) (hb : op.site = .block q bc k) :
    exec (.throt n) s = .next (if 41 < op.ta.word.toNat then (after s op).opFault op 0x041 0 0
      else (if n.imm.getLsbD 0 then ((after s op).clearTwin op.ta.word.toNat).fix op else after s op).emitWord op n
        (throtWord ((after s op).routers op.ta.word.toNat)) true) := by
  show execThrot n s = _
  simp only [execThrot, fire_of_issues h, hb, scalars_of_all (ts := [op.ta]) (by simpa using ha)]

/-- Settles O43: each register, and what the writes leave. -/
theorem systemRegisters : Obligations.SystemRegisters := by
  unfold Obligations.SystemRegisters
  intro s op n c h hc s1 r gives throt
  have hthrot : ∀ ts, throtWord (ts.map s1.router) = throt ts := throtWord_map s1
  refine ⟨fun hi => ?_, fun hi => ?_, fun hi => ?_, fun hi => ?_, fun hi => ?_, fun hi => ?_, fun hi => ?_, ?_, fun t ht => ?_,
    fun ha => ⟨?_, fun hbad => ?_, fun h6 h32 => ?_, fun hs => ?_, fun hs hbad => ?_, fun hs h16 h4096 => ?_,
      fun q bc k hb => ⟨fun hw => ?_, fun hw => ?_⟩⟩⟩
  · exact sysrd_emits (k := 0) h (by decide) hi (by simp only [State.sysReg, hc])
  · exact sysrd_emits (k := 1) h (by decide) hi (featWord_low _)
  · exact sysrd_emits (k := 2) h (by decide) hi (featWord_high _)
  · exact sysrd_emits (k := 3) h (by decide) hi rfl
  · exact sysrd_emits (k := 4) h (by decide) hi (hthrot _)
  · exact sysrd_emits (k := 6) h (by decide) hi rfl
  · exact sysrd_emits (k := 7) h (by decide) hi (by simp only [State.sysReg, hc])
  · show execSysrdFltdrop n s = _
    rw [execSysrdFltdrop, fire_of_issues h]
    rfl
  · show execThrot n s = _
    simp only [execThrot, fire_of_issues h, ht]
    rw [← hthrot [t]]
    rfl
  · show execSyswr n s = _
    rw [execSyswr, fire_of_issues h, scalars_of_all (by simpa using ha)]
  · show execSyswrMode n s = _
    rw [execSyswrMode, fire_of_issues h, scalars_of_all (by simpa using ha)]
    exact congrArg _ (if_pos ((modeWordBad_iff _).2 hbad))
  · exact syswrMode_writes h ha hc (by omega)
  · have hsys : (after s op).isSystem op.ctx = false := by rw [State.isSystem, hc]; exact hs
    show execSyswrThrotwin n s = _
    rw [execSyswrThrotwin, fire_of_issues h, scalars_of_all (by simpa using ha), hsys]
    rfl
  · have hsys : (after s op).isSystem op.ctx = true := by rw [State.isSystem, hc]; exact hs
    show execSyswrThrotwin n s = _
    rw [execSyswrThrotwin, fire_of_issues h, scalars_of_all (by simpa using ha), hsys]
    exact congrArg _ (if_pos ((windowWordBad_iff _).2 hbad))
  · exact syswrThrotwin_writes h ha (by rw [State.isSystem, hc]; exact hs) (by omega)
  · exact (throt_block h ha hb).trans (congrArg _ (if_pos hw))
  · have hexec := throt_block h ha hb
    rw [if_neg (Nat.not_lt.2 (Nat.le_of_lt_succ hw)), State.routers, hthrot] at hexec
    refine ⟨_, hexec, fun h0 => by rw [h0]; rfl, fun h1 t ht => ?_, ?_⟩
    all_goals obtain ⟨hctiles, hmtiles, hmain⟩ := fix_frame (s1.clearTwin op.ta.word.toNat) op
    · rw [h1, if_pos rfl, State.ctile, hctiles, ← State.ctile]
      exact clearTwin_twin ht
    · split
      · rw [hmain, hmtiles]
        exact clearTwin_frame s1 _
      · exact ⟨rfl, rfl⟩

end Sys2Proof.Proofs
end

section

/-!
The canonical tree over positions some of which are absent (R103): the model's combination of two elements is the one of the
statements, and its tree, level by level, is the tree that halves from the top.
-/

namespace Sys2Proof.Proofs

open Sys2Proof Sys2Proof.Machine Sys2Proof.Claims

/-- The model's combination of two elements (R103). -/
theorem combine_eq_merged (f : Fmt) (rnd : Rnd) (o a b : Nat) : combine f rnd o a b = merged f rnd o a b := by
  unfold combine merged
  cases f.isFloat with
  | true => obtain _ | _ | o := o <;> rfl
  | false =>
    simp only [Bool.false_eq_true, if_false, wrapInt_eq_toNat, intOf_eq_valueOf]
    obtain _ | _ | o := o
    · simp [BitVec.ofInt_add]
    · simp [min_def, apply_ite (BitVec.ofInt f.width)]
    · simp [max_def, apply_ite (BitVec.ofInt f.width)]

theorem combine?_eq_merged? (f : Fmt) (rnd : Rnd) (o : Nat) : combine? f rnd o = merged? f rnd o := by
  funext x y
  cases x <;> cases y <;> simp [combine?, merged?, combine_eq_merged]

variable {f : Fmt} {rnd : Rnd} {o : Nat}

/-- A tree of height h + 1 is the tree of height h over the pairs, absent positions among them. -/
theorem canonical_pairs : ∀ (h : Nat) (l : List (Option Nat)),
    canonical f rnd o (h + 1) l = canonical f rnd o h (treeLevel (merged? f rnd o) l)
  | 0, [] => rfl
  | 0, [none] => rfl
  | 0, [some _] => rfl
  | 0, _ :: _ :: _ => rfl
  | h + 1, l => by
    have hp : 2 ^ (h + 1) = 2 * 2 ^ h := by rw [Nat.pow_succ, Nat.mul_comm]
    rw [canonical, canonical_pairs h, canonical_pairs h, hp, treeLevel_take, treeLevel_drop, ← canonical]

theorem head_tree_eq_canonical_options : ∀ (h : Nat) (l : List (Option Nat)),
    (tree (merged? f rnd o) h l).head?.join = canonical f rnd o h l
  | 0, _ => rfl
  | h + 1, l => by rw [tree, head_tree_eq_canonical_options h, canonical_pairs]

/-- The model's root of the tree (R103). -/
theorem treeRoot_eq_canonical (f : Fmt) (rnd : Rnd) (o : Nat) (l : List (Option Nat)) :
    treeRoot f rnd o l = canonical f rnd o (clog2 l.length) l := by
  rw [← head_tree_eq_canonical_options, treeRoot, combine?_eq_merged?]
  cases tree (merged? f rnd o) (clog2 l.length) l <;> rfl

/-- A tree all of whose positions are absent is absent. -/
theorem canonical_of_none : ∀ (h : Nat) (l : List (Option Nat)), (∀ x ∈ l, x = none) → canonical f rnd o h l = none
  | 0, [], _ => rfl
  | 0, x :: _, hl => hl x (List.mem_cons_self ..)
  | h + 1, l, hl => by
    rw [canonical, canonical_of_none h _ fun x hx => hl x (List.mem_of_mem_take hx),
      canonical_of_none h _ fun x hx => hl x (List.mem_of_mem_drop hx)]
    rfl

theorem merged?_isSome (x y : Option Nat) : (merged? f rnd o x y).isSome = (x.isSome || y.isSome) := by
  cases x <;> cases y <;> rfl

/-- A tree over a position that is there is there. -/
theorem canonical_isSome : ∀ (h : Nat) (l : List (Option Nat)) (i : Nat), i < 2 ^ h → ((l[i]?).join).isSome = true →
    (canonical f rnd o h l).isSome = true
  | 0, l, i, hi, hs => by
    obtain rfl : i = 0 := by omega
    rwa [canonical, List.head?_eq_getElem?]
  | h + 1, l, i, hi, hs => by
    rw [canonical, merged?_isSome, Bool.or_eq_true]
    by_cases hlt : i < 2 ^ h
    · exact .inl (canonical_isSome h _ i hlt (by rwa [List.getElem?_take_of_lt hlt]))
    · refine .inr (canonical_isSome h _ (i - 2 ^ h) (by rw [Nat.pow_succ] at hi; omega) ?_)
      rwa [List.getElem?_drop, Nat.add_sub_cancel' (Nat.le_of_not_lt hlt)]

/-- A tree of ⌈log₂ n⌉ levels has room for n leaves. -/
theorem le_two_pow_clog2 (n : Nat) : n ≤ 2 ^ clog2 n := by
  unfold clog2
  split
  · next h => exact h
  · next h => have := Nat.lt_log2_self (n := n - 1); omega

/-- What merging keeps of any two elements, the tree keeps of its leaves. -/
theorem canonical_forall {P : Nat → Prop} (hm : ∀ a b, P (merged f rnd o a b)) : ∀ (h : Nat) (l : List (Option Nat)),
    (∀ a, some a ∈ l → P a) → ∀ r, canonical f rnd o h l = some r → P r
  | 0, l, hl, r, hr => hl r (by
      cases l with
      | nil => cases hr
      | cons x l => exact List.mem_cons.2 (.inl hr.symm))
  | h + 1, l, hl, r, hr => by
    have htake := canonical_forall hm h (l.take (2 ^ h)) fun a ha => hl a (List.mem_of_mem_take ha)
    have hdrop := canonical_forall hm h (l.drop (2 ^ h)) fun a ha => hl a (List.mem_of_mem_drop ha)
    rw [canonical] at hr
    revert hr
    cases hx : canonical f rnd o h (l.take (2 ^ h)) <;> cases hy : canonical f rnd o h (l.drop (2 ^ h)) <;> intro hr
    · cases hr
    · exact hdrop r (hy.trans hr)
    · exact htake r (hx.trans hr)
    · cases hr
      exact hm _ _

end Sys2Proof.Proofs
end

section

/-!
Reductions of one token (R101, R103, R315, R337): positions, what a rounding leaves in its format's width, the running
combinations of SCAN, and stage 5 on what a reduction has formed.
-/

namespace Sys2Proof.Proofs

open Sys2Proof Sys2Proof.Machine Sys2Proof.Claims

variable {s : State} {op : Issued} {n : Niw} {e : FloatEnv}

/-! Codes fit their format. -/

/-- The codes that a rounding can leave, in every float format: magnitudes, with the next one in the binary formats, and
the canonical NaN. -/
theorem code_bounds {f : Fmt} (h : f.isFloat = true) (neg : Bool) : signBit f neg + maxCode f < 2 ^ f.width ∧
    nanCode f < 2 ^ f.width ∧ (tapered f = false → signBit f neg + (maxCode f + 1) < 2 ^ f.width) := by
  revert h
  cases f <;> cases neg <;> decide

theorem taperBelow_le (w : Nat) (x : Exact) : ∀ k, taperBelow w x k ≤ k
  | 0 => Nat.le_refl _
  | k + 1 => by
    unfold taperBelow
    simp only
    split
    · split
      · exact Nat.le_succ_of_le (taperBelow_le w x k)
      · exact Nat.le_refl _
    · exact Nat.zero_le _

theorem toTapered_lt {f : Fmt} (h : f.isFloat = true) (mode : Rnd) (x : Exact) (u : Nat) : toTapered f mode x u < 2 ^ f.width := by
  obtain ⟨hmax, -, -⟩ := code_bounds h x.neg
  have hc := taperBelow_le (f.width - 1) x (maxCode f)
  have hpos : 0 < maxCode f := by revert h; cases f <;> decide
  refine Nat.lt_of_le_of_lt (Nat.add_le_add_left ?_ _) hmax
  simp only
  split
  · exact hpos
  · split
    · exact hc
    · next hne => exact Nat.le_trans (Nat.add_le_add_left (Bool.toNat_le _) _) (Nat.lt_of_le_of_ne hc hne)

theorem overflowCode_lt {f : Fmt} (h : f.isFloat = true) (ht : tapered f = false) (mode : Rnd) (neg sat : Bool) :
    overflowCode f mode neg sat < 2 ^ f.width := by
  obtain ⟨hmax, hnan, hinf⟩ := code_bounds h neg
  have hinf := hinf ht
  unfold overflowCode
  simp only
  split
  · exact hmax
  · split
    · exact hnan
    · cases mode <;> cases neg <;> assumption

theorem roundTo_lt {f : Fmt} (h : f.isFloat = true) (mode : Rnd) (sat : Bool) (x : Exact) (u : Nat) :
    roundTo f mode sat x u < 2 ^ f.width := by
  have hnumber : ∀ x : Exact, (if x.isZero = true then (if tapered f then 0 else signBit f x.neg)
      else if tapered f then toTapered f mode x u else toBinary f mode sat x u) < 2 ^ f.width := by
    intro x
    obtain ⟨hmax, -, -⟩ := code_bounds h x.neg
    split
    · split
      · exact Nat.two_pow_pos _
      · omega
    · split
      · exact toTapered_lt h mode x u
      · next ht =>
        unfold toBinary
        simp only
        split
        · exact overflowCode_lt h (Bool.eq_false_iff.2 ht) _ _ _
        · omega
  cases x with
  | nan => exact (code_bounds h false).2.1
  | inf neg =>
    obtain ⟨hmax, hnan, hinf⟩ := code_bounds h neg
    unfold roundTo
    simp only
    split
    · exact hnan
    · next ht =>
      split
      · split <;> assumption
      · exact hinf (Bool.eq_false_iff.2 ht)
  | rat neg n d => exact hnumber _
  | root neg n d => exact hnumber _

theorem merged_lt (f : Fmt) (rnd : Rnd) (o a b : Nat) : merged f rnd o a b < 2 ^ f.width := by
  unfold merged
  simp only
  split
  · next h => split <;> exact roundTo_lt h ..
  · split
    · exact BitVec.isLt _
    · split <;> exact BitVec.isLt _

/-! Elements cut to their width. -/

/-- An element's value is that of its low bits (R87, R89). -/
theorem decodeElem_mod {f : Fmt} (v : Nat) : decodeElem f (v % 2 ^ f.width) = decodeElem f v := by
  have hw := width_pos f
  have hneg : (v % 2 ^ f.width).testBit (f.width - 1) = v.testBit (f.width - 1) := by
    simp [Nat.testBit_mod_two_pow, Nat.sub_lt hw]
  have hmag : v % 2 ^ f.width % 2 ^ (f.width - 1) = v % 2 ^ (f.width - 1) :=
    Nat.mod_mod_of_dvd _ (Nat.pow_dvd_pow 2 (Nat.sub_le ..))
  simp only [decodeElem, hneg, hmag]

/-- Zero decodes to a zero (R87, R89). -/
theorem decodeElem_zero {f : Fmt} (h : f.isFloat = true) : ∃ d, decodeElem f 0 = .rat false 0 d := by
  have : ∀ e : Int, ∃ d, pow2Rat false 0 e = .rat false 0 d := by
    intro e
    unfold pow2Rat
    split
    · exact ⟨1, by rw [Nat.zero_mul]⟩
    · exact ⟨_, rfl⟩
  cases f with
  | s8 | s16 | s32 | s64 | z8 | z16 | z32 | z64 => cases h
  | t6 | t8 => exact ⟨1, rfl⟩
  | e4m3 | e5m2 | bf16 | f16 | f32 | f64 =>
    simp only [decodeElem, tapered, maxCode, Nat.zero_mod, Nat.zero_div, Nat.zero_testBit, Nat.not_lt_zero, reduceCtorEq, if_false,
      if_true, Bool.false_eq_true, show (0 = 0x7F) = False by decide]
    exact this _

theorem nonFinite_zero {f : Fmt} (h : f.isFloat = true) : nonFinite f 0 = false := by
  obtain ⟨d, hd⟩ := decodeElem_zero h
  simp [nonFinite, hd]

theorem zero_in_range (f : Fmt) : intMin f ≤ 0 ∧ 0 ≤ intMax f := by
  have hpow : ∀ k, (1 : Int) ≤ ((2 ^ k : Nat) : Int) := fun k => by exact_mod_cast Nat.one_le_two_pow
  have hsigned := hpow (f.width - 1)
  have hunsigned := hpow f.width
  unfold intMin intMax
  cases f.signed with
  | true => simp only [if_true]; omega
  | false => simp only [Bool.false_eq_true, if_false]; omega

/-- A zero of either sign converts to an integer zero (R97). -/
theorem convertTo_integer_zero {f : Fmt} (hf : f.isFloat = false) (mode : Rnd) (sat s : Bool) (d u : Nat) :
    convertTo f mode sat (.rat s 0 d) u = some 0 := by
  have hround : roundToInt mode (.rat s 0 d) u = 0 := by
    simp [roundToInt, roundUnits, Exact.floorMag, Exact.cmpMag, takesHi]
  simp only [convertTo, hf, Bool.false_eq_true, if_false, hround, if_pos (zero_in_range f)]
  simp [wrapInt]

/-- A zero converts to every format, and is finite there (R97, R98). -/
theorem convertTo_zero (f : Fmt) (mode : Rnd) (sat : Bool) (d u : Nat) :
    ∃ c, convertTo f mode sat (.rat false 0 d) u = some c ∧ (f.isFloat = true → nonFinite f c = false) := by
  cases hf : f.isFloat with
  | true =>
    refine ⟨0, ?_, fun _ => nonFinite_zero hf⟩
    simp [convertTo, hf, roundTo, Exact.isZero, Exact.neg, signBit]
  | false => exact ⟨0, convertTo_integer_zero hf .., fun h => absurd h Bool.false_ne_true⟩

/-! Stage 5 on what a node has formed. -/

/-- The part of a code that a result keeps. -/
def cutCode (f : Fmt) (c : Nat × Bool) : Nat × Bool := (c.1 % 2 ^ f.width, c.2)

theorem cutCode_code (f : Fmt) (o : Option (Nat × Bool)) :
    ((o.map (cutCode f)).map (·.1)).getD 0 = ((o.map (·.1)).getD 0) % 2 ^ f.width := by
  cases o with
  | none => exact (Nat.zero_mod _).symm
  | some c => rfl

theorem cutCode_poison (f : Fmt) (o : Option (Nat × Bool)) : (o.map (cutCode f)).any (·.2) = o.any (·.2) := by
  cases o <;> rfl

/-- Stage 5 sees the low bits of an element alone (R60). -/
theorem stageFive_mod {f : Fmt} (hd : e.cve = false → e.dest = f) (i j v : Nat) :
    (stageFive e f i j (v % 2 ^ f.width)).map (cutCode e.dest) = (stageFive e f i j v).map (cutCode e.dest) := by
  unfold stageFive
  simp only [decodeElem_mod]
  split
  · rfl
  · next h =>
    rw [hd (Bool.eq_false_iff.2 h)]
    split
    · rfl
    · simp [cutCode]

/-- Stage 5 on a zero never fails, and sets no poison (R60, R101). -/
theorem stageFive_zero {f : Fmt} (hf : f.isFloat = true) (i j : Nat) : ∃ c, stageFive e f i j 0 = some (c, false) := by
  obtain ⟨d, hd⟩ := decodeElem_zero hf
  unfold stageFive
  simp only [hd]
  split
  · obtain ⟨c, hc, hfin⟩ := convertTo_zero e.dest e.rnd e.sat d (e.u i j)
    refine ⟨c, ?_⟩
    simp only [rounded, Exact.neg, Bool.and_false, Bool.false_eq_true, if_false, hc, Option.map_some]
    cases hdf : e.dest.isFloat with
    | true => simp [hfin hdf]
    | false => simp
  · exact ⟨0, by simp [Exact.neg]⟩

/-- Two ways of saying the same elements of the same lanes (R23). -/
theorem codeWise_congr {dest : Fmt} {count : Nat} {vs vs' : List Value} {code code' : Nat → Nat → List Nat → Option (Nat × Bool)}
    {v : Value} {psn : Bool} (h : CodeWise dest count vs code v psn) (hv : vs'.any (·.isVec) = vs.any (·.isVec))
    (hl : ∀ i, i < widest vs → (lanesAt vs' i).isSome = (lanesAt vs i).isSome)
    (hc : ∀ i ls ls' j, i < widest vs → lanesAt vs i = some ls → lanesAt vs' i = some ls' → j < count →
      (code i j ls).map (cutCode dest) = (code' i j ls').map (cutCode dest)) : CodeWise dest count vs' code' v psn := by
  have hcount : laneCount v = widest vs := by rw [laneCount, h.shape]; rfl
  have hcut : ∀ o o' : Option (Nat × Bool), o.map (cutCode dest) = o'.map (cutCode dest) →
      ((o.map (·.1)).getD 0) % 2 ^ dest.width = ((o'.map (·.1)).getD 0) % 2 ^ dest.width ∧ o.any (·.2) = o'.any (·.2) := by
    intro o o' ho
    rw [← cutCode_code dest o, ← cutCode_code dest o', ← cutCode_poison dest o, ← cutCode_poison dest o', ho]
    exact ⟨rfl, rfl⟩
  have hother : ∀ i, i < widest vs → ∀ ls', lanesAt vs' i = some ls' → ∃ ls, lanesAt vs i = some ls := fun i hi ls' hls' =>
    Option.isSome_iff_exists.1 (by rw [← hl i hi, hls']; rfl)
  refine ⟨h.shape.trans hv.symm, fun i hi ls' hls' => ?_, fun i hi hnone => ?_, h.poison.trans ⟨?_, ?_⟩⟩
  · have hi' := hcount ▸ hi
    obtain ⟨ls, hls⟩ := hother i hi' ls' hls'
    obtain ⟨hat, helem⟩ := h.part i hi ls hls
    refine ⟨hat, fun j hj => (helem j hj).trans ?_⟩
    split
    · next hjc => exact (hcut _ _ (hc i ls ls' j hi' hls hls' hjc)).1
    · rfl
  · refine h.masked i hi (Option.isNone_iff_eq_none.1 ?_)
    rw [← Option.not_isSome, ← hl i (hcount ▸ hi), hnone]
    rfl
  · rintro ⟨i, ls, j, hi, hls, hj, hp⟩
    have hi' := hcount ▸ hi
    obtain ⟨ls', hls'⟩ := Option.isSome_iff_exists.1 ((hl i hi').trans (by rw [hls]; rfl))
    exact ⟨i, ls', j, hi, hls', hj, by rw [← (hcut _ _ (hc i ls ls' j hi' hls hls' hj)).2]; exact hp⟩
  · rintro ⟨i, ls', j, hi, hls', hj, hp⟩
    have hi' := hcount ▸ hi
    obtain ⟨ls, hls⟩ := hother i hi' ls' hls'
    exact ⟨i, ls, j, hi, hls, hj, by rw [(hcut _ _ (hc i ls ls' j hi' hls hls' hj)).2]; exact hp⟩

/-- Stage 5 converts, or replaces negative results, of float formats alone, and where it does not convert the destination is
FMT (R60). -/
theorem floatEnv_stage5 (s : State) (op : Issued) (n : Niw) : let e := s.floatEnv op n n.fmt false
    ((e.cve || e.nneg) = true → n.fmt.isFloat = true) ∧ (e.cve = false → e.dest = n.fmt) := by
  simp only [State.floatEnv]
  constructor
  · intro h
    revert h
    cases n.fmt.isFloat <;> simp
  · intro h
    rw [h]
    rfl

/-! Positions. -/

/-- The positions of a token in order (R315). -/
theorem positions_eq (f : Fmt) (v : Value) : positions f v = allPositions f v := by
  have hk := perLane_pos f
  refine List.ext_getElem? fun p => ?_
  have hget := positions_get f v p
  by_cases hp : p < laneCount v * f.perLane
  · have hlen : p < (positions f v).length := by
      by_contra hlen
      have hsome : (positions f v)[p]? ≠ none := by
        unfold positions
        rw [flatMap_get _ hk _ (fun x => by cases x <;> simp [elems]), lanesOf_eq_map, List.getElem?_map,
          List.getElem?_range ((Nat.div_lt_iff_lt_mul hk).2 hp), Option.map_some, Option.bind_some]
        have := Nat.mod_lt p hk
        split <;> simp [elems, this]
      exact hsome (List.getElem?_eq_none (Nat.le_of_not_lt hlen))
    rw [List.getElem?_eq_getElem hlen, Option.getD_some] at hget
    rw [List.getElem?_eq_getElem hlen, hget, allPositions, List.getElem?_map, List.getElem?_range hp, Option.map_some]
  · have hle := Nat.le_of_not_lt hp
    rw [allPositions, List.getElem?_eq_none (l := List.map _ _) (by simpa using hle)]
    unfold positions
    rw [flatMap_get _ hk _ (fun x => by cases x <;> simp [elems]), lanesOf_eq_map, List.getElem?_map,
      List.getElem?_eq_none (by simpa using (Nat.le_div_iff_mul_le hk).2 hle)]
    rfl

/-- Position `p` of a lane that takes part. -/
theorem position_isSome {f : Fmt} {v : Value} {p : Nat} : (position f v p).isSome = true ↔
    p < laneCount v * f.perLane ∧ (laneAt v (p / f.perLane)).isSome = true := by
  unfold position
  split
  · next h => simp [h]
  · next h => simp [h]

theorem position_lt {f : Fmt} {v : Value} {a : Nat} (h : some a ∈ allPositions f v) : a < 2 ^ f.width := by
  obtain ⟨p, -, hp⟩ := List.mem_map.1 h
  unfold position at hp
  split at hp
  · obtain ⟨l, -, rfl⟩ := Option.map_eq_some_iff.1 hp
    exact BitVec.isLt _
  · cases hp

/-- Position `j` of lane `i`. -/
theorem position_index {f : Fmt} {v : Value} {i j : Nat} (hi : i < laneCount v) (hj : j < f.perLane) :
    i * f.perLane + j < laneCount v * f.perLane ∧ (i * f.perLane + j) / f.perLane = i ∧ (i * f.perLane + j) % f.perLane = j := by
  refine ⟨?_, ?_, ?_⟩
  · have := Nat.mul_le_mul_right f.perLane (show i + 1 ≤ laneCount v from hi)
    rw [Nat.add_mul] at this
    omega
  · rw [Nat.mul_comm, Nat.mul_add_div (perLane_pos f), Nat.div_eq_of_lt hj, Nat.add_zero]
  · rw [Nat.mul_comm, Nat.mul_add_mod, Nat.mod_eq_of_lt hj]

/-! VRED. -/

/-- A float add of the mode STO, as the model and the statement put it (R96, log 87). -/
theorem stoBad_eq (op : Issued) (n : Niw) (o : Nat) : stoBad op n (addsFloat n o) =
    (decide (op.mode.resolve n.rnd = .sto) && n.fmt.isFloat && decide (o = 0)) := by
  rw [stoBad, addsFloat, Bool.and_comm, Bool.and_assoc]

theorem anyAbandoned_eq_false {f : Fmt} {l : List (Option Nat)} (h : (l.all fun x => x.all fun v => !abandonedElem f v) = true) :
    anyAbandoned f l = false := by
  rw [anyAbandoned, List.any_eq_false]
  intro x hx
  have hno := List.all_eq_true.1 h x hx
  cases x with
  | none => exact Bool.false_ne_true
  | some a => simpa using hno

section Vred
variable (hd : stoBad op n (addsFloat n (n.imm.toNat % 4)) = false) (ha : anyAbandoned n.fmt (allPositions n.fmt op.ta.val) = false)
include hd ha

theorem vredResult_absent (hr : treeRoot n.fmt e.rnd (n.imm.toNat % 4) (allPositions n.fmt op.ta.val) = none) :
    vredResult e n op = .ok ⟨.scalar 0, false, false⟩ := by
  simp only [vredResult, bits_zero, positions_eq, hd, ha, hr, Nat.reducePow, Bool.false_eq_true, if_false]
  rfl

theorem vredResult_some {r : Nat} {w : Word} {psn : Bool}
    (hr : treeRoot n.fmt e.rnd (n.imm.toNat % 4) (allPositions n.fmt op.ta.val) = some r)
    (hf : e.fuse (.scalar (word r)) = .ok ⟨.scalar w, true, psn⟩) : vredResult e n op =
      .ok ⟨.scalar (word (w.toNat % 2 ^ e.dest.width)), true, psn || reductionPoison e n.fmt (allPositions n.fmt op.ta.val) r⟩ := by
  simp only [vredResult, bits_zero, positions_eq, hd, ha, hr, hf, Nat.reducePow, Bool.false_eq_true, if_false]
  rfl

end Vred

/-- The elements of a word that holds one element at position 0. -/
theorem elemAt_word {f : Fmt} {r : Nat} (hr : r < 2 ^ f.width) (j : Nat) :
    (Claims.elemAt f (word r).toNat j).toNat = if j = 0 then r else 0 := by
  have h64 : r < 2 ^ 64 := Nat.lt_of_lt_of_le hr (Nat.pow_le_pow_right (by decide) (by cases f <;> decide))
  rw [toNat_elemAt, toNat_word, Nat.mod_eq_of_lt h64, bits]
  split
  · next h => simp [h, Nat.mod_eq_of_lt hr]
  · next h =>
    rw [Nat.div_eq_of_lt (Nat.lt_of_lt_of_le hr (Nat.pow_le_pow_right (by decide) (Nat.le_mul_of_pos_right _ (by omega))))]
    exact Nat.zero_mod _

/-- Stage 5 on one element that a node has formed (R60, R337). -/
theorem fuse_element (hfloat : (e.cve || e.nneg) = true → e.fmt.isFloat = true) {r : Nat} (hr : r < 2 ^ e.fmt.width)
    {c : Nat × Bool} (hc : stageFive e e.fmt 0 0 r = some c) :
    ∃ w : Word, e.fuse (.scalar (word r)) = .ok ⟨.scalar w, true, c.2⟩ ∧ w.toNat % 2 ^ e.dest.width = c.1 % 2 ^ e.dest.width := by
  have hlane : ∀ i ls, lanesAt [Value.scalar (word r)] i = some ls → ls = [(word r).toNat] := fun i ls h => (Option.some.inj h).symm
  have hcode : (e.cve || e.nneg) = true → ∀ j, ∃ x, stageFive e e.fmt 0 j (Claims.elemAt e.fmt (word r).toNat j).toNat = some x ∧
      (j = 0 → x = c) ∧ (j ≠ 0 → x.2 = false) := by
    intro hon j
    rw [elemAt_word hr]
    split
    · next h => exact ⟨c, by rw [h]; exact hc, fun _ => rfl, fun h' => absurd h h'⟩
    · next h =>
      obtain ⟨z, hz⟩ := stageFive_zero (e := e) (hfloat hon) 0 j
      exact ⟨_, hz, fun h' => absurd h' h, fun _ => rfl⟩
  obtain ⟨v, psn, hfused, hfuse⟩ := fuse_fused (e := e) (v := .scalar (word r)) fun hon i ls j hi hls _ => by
    obtain rfl : i = 0 := by simpa [Value.isVec] using hi
    obtain ⟨x, hx, -⟩ := hcode hon j
    rw [hlane 0 ls hls]
    exact Option.ne_none_iff_exists'.2 ⟨x, hx⟩
  unfold Fused at hfused
  split at hfused
  · next hon =>
    obtain ⟨w, rfl⟩ : ∃ w, v = .scalar w := by
      cases v with
      | scalar w => exact ⟨w, rfl⟩
      | vector ls m => exact absurd hfused.shape (by simp [Value.isVec])
    have hk := perLane_pos e.fmt
    have hx : stageFive e e.fmt 0 0 (Claims.elemAt e.fmt (word r).toNat 0).toNat = some c := by
      obtain ⟨x, hx, h0, -⟩ := hcode hon 0
      rw [hx, h0 rfl]
    have hpsn : psn = c.2 := by
      refine Bool.eq_iff_iff.2 (hfused.poison.trans ⟨?_, fun hp => ?_⟩)
      · rintro ⟨i, ls, j, hi, hls, hj, hp⟩
        obtain rfl : i = 0 := by simpa [laneCount, Value.isVec] using hi
        obtain ⟨x, hxj, h0, hne⟩ := hcode hon j
        rw [hlane 0 ls hls] at hp
        by_cases hj0 : j = 0
        · rw [← h0 hj0]
          simpa [hxj] using hp
        · simp [hxj, hne hj0] at hp
      · exact ⟨0, _, 0, by simp [laneCount, Value.isVec], rfl, hk, by simpa [hx] using hp⟩
    refine ⟨w, by rw [hfuse, hpsn], ?_⟩
    obtain ⟨-, helem⟩ := hfused.part 0 (by simp [laneCount, Value.isVec]) [(word r).toNat] rfl
    have h0 : (Claims.elemAt e.dest w.toNat 0).toNat =
        ((stageFive e e.fmt 0 0 (Claims.elemAt e.fmt (word r).toNat 0).toNat).map (·.1)).getD 0 % 2 ^ e.dest.width :=
      (helem 0 (perLane_pos _)).trans (if_pos hk)
    rw [hx, toNat_elemAt, Nat.mul_zero, bits_zero] at h0
    exact h0
  · next hoff =>
    obtain ⟨rfl, rfl⟩ := hfused
    simp only [Bool.or_eq_true, not_or, Bool.not_eq_true] at hoff
    obtain ⟨hcve, hnneg⟩ := hoff
    have hkeep : c = (r, false) := by simpa [stageFive, hcve, hnneg] using hc.symm
    subst hkeep
    refine ⟨word r, hfuse, ?_⟩
    have h64 : r < 2 ^ 64 := Nat.lt_of_lt_of_le hr (Nat.pow_le_pow_right (by decide) (by cases e.fmt <;> decide))
    rw [toNat_word, Nat.mod_eq_of_lt h64]

/-! SCAN. -/

/-- One position of a running combination: an absent one passes it on (R315). -/
def scanStep (f : Fmt) (rnd : Rnd) (o acc : Nat) (x : Option Nat) : Nat := (merged? f rnd o (some acc) x).getD acc

/-- What stands at position `p`: up to it, or before it in the exclusive form (R315). -/
def scanUpTo (f : Fmt) (rnd : Rnd) (o : Nat) (excl : Bool) (acc : Nat) (es : List (Option Nat)) (p : Nat) : Nat :=
  (es.take (p + if excl then 0 else 1)).foldl (scanStep f rnd o) acc

theorem scanFrom_get (f : Fmt) (rnd : Rnd) (o : Nat) (excl : Bool) : ∀ (es : List (Option Nat)) (acc p : Nat),
    (scanFrom f rnd o excl acc es)[p]? = (es[p]?).map fun x => if x.isSome then scanUpTo f rnd o excl acc es p else 0
  | [], _, _ => rfl
  | none :: _, _, 0 => rfl
  | some _ :: _, _, 0 => by cases excl <;> simp [scanFrom, scanUpTo, scanStep, merged?, combine_eq_merged]
  | none :: es, acc, p + 1 => by
    rw [scanFrom, List.getElem?_cons_succ, scanFrom_get f rnd o excl es, List.getElem?_cons_succ, scanUpTo, scanUpTo,
      Nat.add_right_comm, List.take_succ_cons]
    rfl
  | some x :: es, acc, p + 1 => by
    simp only [scanFrom, List.getElem?_cons_succ]
    rw [scanFrom_get f rnd o excl es, scanUpTo, scanUpTo, Nat.add_right_comm, List.take_succ_cons, combine_eq_merged]
    rfl

theorem scanIdentity_eq {f : Fmt} {o : Nat} (ho : o < 3) : scanIdentity f o =
    if f.isFloat then (if o = 0 then 0 else signBit f (o = 2) + (maxCode f + 1))
    else if o = 0 then 0 else if o = 1 then (BitVec.ofInt f.width (intMax f)).toNat else (BitVec.ofInt f.width (intMin f)).toNat := by
  unfold scanIdentity
  simp only [wrapInt_eq_toNat]
  obtain rfl | rfl | rfl : o = 0 ∨ o = 1 ∨ o = 2 := by omega
  · simp
  · simp [signBit]
  · simp

theorem scanResult_ok {v : Value} {psn : Bool} {ys : List Nat} (hd : stoBad op n (addsFloat n (n.imm.toNat % 4)) = false)
    (ha : anyAbandoned n.fmt (allPositions n.fmt op.ta.val) = false)
    (hys : scanFrom n.fmt e.rnd (n.imm.toNat % 4) (n.imm.getLsbD 2) (scanIdentity n.fmt (n.imm.toNat % 4))
      (allPositions n.fmt op.ta.val) = ys) (hf : e.fuse (relayout n.fmt op.ta.val ys) = .ok ⟨v, true, psn⟩) :
    scanResult e n op = .ok ⟨v, true, psn || (e.psn && n.fmt.isFloat &&
      ((allPositions n.fmt op.ta.val).all fun x => x.all fun v => !nonFinite n.fmt v) && ys.any (nonFinite n.fmt))⟩ := by
  simp only [scanResult, bits_zero, positions_eq, hd, ha, Nat.reducePow, Bool.false_eq_true, if_false]
  rw [hys]
  simp only [hf]
  rfl

/-- A lane of results, from position `k·i` on. -/
def chunk (f : Fmt) (ys : List Nat) (i : Nat) : List Nat := (ys.drop (f.perLane * i)).take f.perLane

theorem packLane_chunk_lt (f : Fmt) (ys : List Nat) (i : Nat) : packLane f (chunk f ys i) < 2 ^ 64 := by
  refine Nat.lt_of_lt_of_le (packLane_lt _ _) (Nat.pow_le_pow_right (by decide) ?_)
  exact Nat.le_trans (Nat.mul_le_mul_left _ (List.length_take_le ..)) (width_perLane_le f)

/-- Results laid back into the operand's lanes (R315). -/
theorem relayout_lanes (f : Fmt) (v : Value) (ys : List Nat) {i : Nat} (hi : i < laneCount v) :
    laneAt (relayout f v ys) i = (laneAt v i).map (fun _ => packLane f (chunk f ys i)) ∧
    rawLane (relayout f v ys) i = word (((laneAt v i).map fun _ => packLane f (chunk f ys i)).getD 0) := by
  obtain ⟨hlane, hraw⟩ := relaid_lanes v (fun _ i => packLane f (chunk f ys i)) hi
  refine ⟨hlane.trans ?_, hraw⟩
  simp only [Nat.mod_eq_of_lt (packLane_chunk_lt f ys i)]

theorem elemAt_chunk (f : Fmt) (ys : List Nat) (i : Nat) {j : Nat} (hj : j < f.perLane) :
    (Claims.elemAt f (packLane f (chunk f ys i)) j).toNat = ys.getD (i * f.perLane + j) 0 % 2 ^ f.width := by
  rw [toNat_elemAt, bits_packLane, List.getD, List.getD, chunk, List.getElem?_take, if_pos hj, List.getElem?_drop, Nat.mul_comm]

theorem lanesAt_single (v : Value) (i : Nat) : lanesAt [v] i = (laneAt v i).map fun l => [l] := by
  rw [lanesAt, List.mapM_cons]
  cases laneAt v i <;> rfl

/-- A value with zeros in the lanes that its mask leaves out is made of its own elements, and stage 5 made it of them, whether
it converts or not (R60). -/
theorem codeWise_of_fused {f : Fmt} {v w : Value} {psn : Bool} (hd : e.cve = false → e.dest = f)
    (hclean : ∀ i, i < laneCount v → laneAt v i = (if laneAt v i = none then none else some (rawLane v i).toNat) ∧
      (laneAt v i = none → rawLane v i = 0)) (h : Fused e f v w psn) :
    CodeWise e.dest f.perLane [v] (fun i j ls => stageFive e f i j (Claims.elemAt f (ls.getD 0 0) j).toNat) w psn := by
  unfold Fused at h
  split at h
  · exact h
  · next hoff =>
    obtain ⟨rfl, rfl⟩ := h
    simp only [Bool.or_eq_true, not_or, Bool.not_eq_true] at hoff
    obtain ⟨hcve, hnneg⟩ := hoff
    have hkeep : ∀ i j x, stageFive e f i j x = some (x, false) := fun i j x => by simp [stageFive, hcve, hnneg]
    refine ⟨by simp, fun i hi ls hls => ?_, fun i hi hnone => ?_, ?_⟩
    · rw [lanesAt_single] at hls
      obtain ⟨l, hl, rfl⟩ := Option.map_eq_some_iff.1 hls
      obtain ⟨hat, -⟩ := hclean i hi
      rw [hl, if_neg (by simp)] at hat
      obtain rfl := Option.some.inj hat
      refine ⟨hl, fun j hj => ?_⟩
      rw [hd hcve] at hj ⊢
      simp [hj, hkeep, Nat.mod_eq_of_lt (BitVec.isLt _)]
    · rw [lanesAt_single, Option.map_eq_none_iff] at hnone
      exact ⟨hnone, (hclean i hi).2 hnone⟩
    · simp [hkeep]

/-- SCAN's value after stage 5: at each position that takes part what stands there (R60, R315). -/
theorem scan_codeWise {f : Fmt} {v : Value} {ys : List Nat} {at' : Nat → Nat → Nat} (hf : e.fmt = f) (hd : e.cve = false → e.dest = f)
    (hys : ∀ i j, i < laneCount v → j < f.perLane → (laneAt v i).isSome = true → ys.getD (i * f.perLane + j) 0 = at' i j)
    (hall : allGiven f.perLane [v] fun i j _ => stageFive e f i j (at' i j)) :
    ∃ w psn, e.fuse (relayout f v ys) = .ok ⟨w, true, psn⟩ ∧
      CodeWise e.dest f.perLane [v] (fun i j _ => stageFive e f i j (at' i j)) w psn := by
  subst hf
  have hvec : (relayout e.fmt v ys).isVec = v.isVec := isVec_ofLanes ..
  have hwide : widest [relayout e.fmt v ys] = laneCount v := by simp [widest, hvec, laneCount]
  have hsame : ∀ i, i < laneCount v → ∀ ls j, lanesAt [relayout e.fmt v ys] i = some ls → j < e.fmt.perLane →
      (laneAt v i).isSome = true ∧ (stageFive e e.fmt i j (Claims.elemAt e.fmt (ls.getD 0 0) j).toNat).map (cutCode e.dest) =
        (stageFive e e.fmt i j (at' i j)).map (cutCode e.dest) := by
    intro i hi ls j hls hj
    rw [lanesAt_single, (relayout_lanes e.fmt v ys hi).1] at hls
    obtain ⟨l, hl, rfl⟩ := Option.map_eq_some_iff.1 hls
    obtain ⟨x, hx, rfl⟩ := Option.map_eq_some_iff.1 hl
    have hpart : (laneAt v i).isSome = true := by rw [hx]; rfl
    refine ⟨hpart, ?_⟩
    rw [List.getD_cons_zero, elemAt_chunk e.fmt ys i hj, hys i j hi hj hpart]
    exact stageFive_mod hd i j _
  have hlanes : ∀ i, i < laneCount v → (lanesAt [v] i).isSome = (lanesAt [relayout e.fmt v ys] i).isSome := fun i hi => by
    rw [lanesAt_single, lanesAt_single, (relayout_lanes e.fmt v ys hi).1]
    simp
  obtain ⟨w, psn, hfused, hfuse⟩ := fuse_fused (e := e) (v := relayout e.fmt v ys) fun _ i ls j hi hls hj hnone => by
    have hi : i < laneCount v := by rw [← hwide]; exact hi
    obtain ⟨hpart, hcut⟩ := hsame i hi ls j hls hj
    obtain ⟨l, hl⟩ := Option.isSome_iff_exists.1 hpart
    refine hall i [l] j (by simpa [laneCount] using hi) (by rw [lanesAt_single, hl]; rfl) hj ?_
    have hnone : stageFive e e.fmt i j (Claims.elemAt e.fmt (ls.getD 0 0) j).toNat = none := hnone
    show stageFive e e.fmt i j (at' i j) = none
    rw [hnone] at hcut
    exact Option.map_eq_none_iff.1 hcut.symm
  refine ⟨w, psn, hfuse, codeWise_congr (codeWise_of_fused hd (fun i hi => ?_) hfused) (by simp [hvec]) ?_ ?_⟩
  · rw [laneCount, hvec] at hi
    obtain ⟨hlane, hraw⟩ := relayout_lanes e.fmt v ys (i := i) hi
    rw [hlane, hraw]
    cases laneAt v i with
    | none => exact ⟨rfl, fun _ => rfl⟩
    | some l =>
      have hword : (word (packLane e.fmt (chunk e.fmt ys i))).toNat = packLane e.fmt (chunk e.fmt ys i) := by
        rw [toNat_word, Nat.mod_eq_of_lt (packLane_chunk_lt e.fmt ys i)]
      exact ⟨congrArg some hword.symm, nofun⟩
  · rw [hwide]
    exact hlanes
  · rw [hwide]
    exact fun i ls _ j hi hls _ hj => (hsame i hi ls j hls hj).2

theorem allPositions_get (f : Fmt) (v : Value) (p : Nat) :
    (allPositions f v)[p]? = if p < laneCount v * f.perLane then some (position f v p) else none := by
  rw [allPositions, List.getElem?_map]
  split
  · next h => rw [List.getElem?_range h]; rfl
  · next h => rw [List.getElem?_eq_none (by simpa using Nat.le_of_not_lt h)]; rfl

/-- The combinations of a float SCAN that are not finite (R101). -/
theorem any_nonFinite_iff {f : Fmt} {v : Value} {ys : List Nat} {at' : Nat → Nat → Nat} (hf : f.isFloat = true)
    (hys : ∀ p, ys[p]? = ((allPositions f v)[p]?).map fun x => if x.isSome then at' (p / f.perLane) (p % f.perLane) else 0) :
    ys.any (nonFinite f) = true ↔ ∃ i ls j, i < laneCount v ∧ lanesAt [v] i = some ls ∧ j < f.perLane ∧ nonFinite f (at' i j) = true := by
  have hk := perLane_pos f
  rw [List.any_eq_true]
  constructor
  · rintro ⟨y, hy, hnf⟩
    obtain ⟨p, hp⟩ := List.getElem?_of_mem hy
    rw [hys, allPositions_get] at hp
    split at hp
    · next hlt =>
      rw [Option.map_some, Option.some_inj] at hp
      split at hp
      · next hs =>
        obtain ⟨-, hlane⟩ := position_isSome.1 hs
        obtain ⟨l, hl⟩ := Option.isSome_iff_exists.1 hlane
        exact ⟨p / f.perLane, [l], p % f.perLane, (Nat.div_lt_iff_lt_mul hk).2 hlt, by rw [lanesAt_single, hl]; rfl,
          Nat.mod_lt _ hk, by rw [hp]; exact hnf⟩
      · rw [← hp, nonFinite_zero hf] at hnf
        cases hnf
    · cases hp
  · rintro ⟨i, ls, j, hi, hls, hj, hnf⟩
    obtain ⟨hlt, hdiv, hmod⟩ := position_index (v := v) hi hj
    have hlane : (laneAt v i).isSome = true := by
      rw [lanesAt_single] at hls
      cases h : laneAt v i <;> simp [h] at hls ⊢
    have hs : (position f v (i * f.perLane + j)).isSome = true := position_isSome.2 ⟨hlt, by rw [hdiv]; exact hlane⟩
    refine ⟨at' i j, List.mem_of_getElem? (i := i * f.perLane + j) ?_, hnf⟩
    rw [hys, allPositions_get, if_pos hlt, Option.map_some, if_pos hs, hdiv, hmod]

/-- Settles O16: VRED's tree, and SCAN's running combinations, each after stage 5. -/
theorem reductions : Obligations.Reductions := by
  unfold Obligations.Reductions
  intro s op n h e ps o finite five drawn
  have hsto : stoBad op n (addsFloat n o) = drawn := stoBad_eq op n o
  obtain ⟨hfloat, hdest⟩ := floatEnv_stage5 (after s op) op n
  refine ⟨fun hdrawn i hi => ?_, fun hdrawn ho hab => ⟨fun hnone => ?_, fun r hr => ?_, ?_⟩⟩
  · rw [hdrawn] at hsto
    simp only [List.mem_cons, List.not_mem_nil, or_false] at hi
    obtain rfl | rfl := hi
    · refine fault_of_fire (r := fun op s => vredResult (s.floatEnv op n n.fmt false) n op) h rfl ?_
      simp only [vredResult, bits_zero, Nat.reducePow, show stoBad op n (addsFloat n (n.imm.toNat % 4)) = true from hsto, if_true]
      rfl
    · refine fault_of_fire (r := fun op s => scanResult (s.floatEnv op n n.fmt false) n op) h rfl ?_
      simp only [scanResult, bits_zero, Nat.reducePow, show stoBad op n (addsFloat n (n.imm.toNat % 4)) = true from hsto, if_true]
      rfl
  all_goals have hab' : anyAbandoned n.fmt (allPositions n.fmt op.ta.val) = false := anyAbandoned_eq_false hab
  all_goals rw [hdrawn] at hsto
  · refine emits_of_fire (r := fun op s => vredResult (s.floatEnv op n n.fmt false) n op) h rfl ?_
    exact vredResult_absent hsto hab' ((treeRoot_eq_canonical ..).trans (canonical_of_none _ _ hnone))
  · intro bad c hc
    have hlt : r < 2 ^ n.fmt.width :=
      canonical_forall (P := (· < 2 ^ n.fmt.width)) (merged_lt n.fmt e.rnd o) _ ps (fun _ ha => position_lt ha) r hr
    obtain ⟨w, hfuse, hw⟩ := fuse_element (e := e) hfloat hlt hc
    have hres : vredResult e n op = _ := vredResult_some hsto hab' ((treeRoot_eq_canonical ..).trans hr) hfuse
    show execVred n s = _
    rw [execVred, fire_of_issues h]
    show Host.Outcome.next (State.finish (after s op) op n (vredResult e n op)) = _
    rw [hres, hw, finish_ok]
    rfl
  · intro start upTo at' code bad hall
    have hstart : scanIdentity n.fmt o = start := scanIdentity_eq ho
    have hys : ∀ p, (scanFrom n.fmt e.rnd o (n.imm.getLsbD 2) start ps)[p]? = (ps[p]?).map fun x =>
        if x.isSome then at' (p / n.fmt.perLane) (p % n.fmt.perLane) else 0 := by
      intro p
      rw [scanFrom_get]
      have : at' (p / n.fmt.perLane) (p % n.fmt.perLane) = scanUpTo n.fmt e.rnd o (n.imm.getLsbD 2) start ps p := by
        show upTo (p / n.fmt.perLane * n.fmt.perLane + p % n.fmt.perLane + _) = _
        rw [Nat.div_add_mod']
        rfl
      rw [this]
    obtain ⟨v, psn, hfuse, hcode⟩ := scan_codeWise (e := e) (v := op.ta.val) (at' := at') rfl hdest (fun i j hi hj hs => by
      have hj : j < n.fmt.perLane := hj
      obtain ⟨hlt, hdiv, hmod⟩ := position_index (v := op.ta.val) hi hj
      have hpos : ps[i * n.fmt.perLane + j]? = some (position n.fmt op.ta.val (i * n.fmt.perLane + j)) :=
        (allPositions_get ..).trans (if_pos hlt)
      have hsome : (position n.fmt op.ta.val (i * n.fmt.perLane + j)).isSome = true := position_isSome.2 ⟨hlt, by rwa [hdiv]⟩
      show List.getD _ (i * n.fmt.perLane + j) 0 = _
      rw [List.getD, hys, hpos, Option.map_some, if_pos hsome, hdiv, hmod, Option.getD_some]) hall
    have hres : scanResult e n op = _ := scanResult_ok hsto hab' (by rw [show n.imm.toNat % 4 = o from rfl, hstart]) hfuse
    refine ⟨v, psn, psn || (e.psn && n.fmt.isFloat && finite && (scanFrom n.fmt e.rnd o (n.imm.getLsbD 2) start ps).any (nonFinite n.fmt)),
      ?_, hcode, ?_⟩
    · show execScan n s = _
      rw [execScan, fire_of_issues h]
      show Host.Outcome.next (State.finish (after s op) op n (scanResult e n op)) = _
      rw [hres, finish_ok]
    · cases hf : n.fmt.isFloat with
      | false => simp [bad, hf]
      | true =>
        rw [Bool.or_eq_true, Bool.and_eq_true, any_nonFinite_iff hf hys]
        simp only [bad, Bool.and_eq_true, hf, and_true, true_and, and_assoc]

end Sys2Proof.Proofs
end

section

/-!
RED (R103, R134, R307): the way of a leaf to its combine store, one leaf there, and the end of a reduction, whose leaves a
sort puts into index order.
-/

namespace Sys2Proof.Proofs

open Sys2Proof Sys2Proof.Machine Sys2Proof.Claims

variable {s : State} {op : Issued} {n : Niw} {pa : Nat}

/-! Leaves in index order. -/

theorem insertBy_pairwise {α : Type} (key : α → Nat) (a : α) : ∀ l : List α, l.Pairwise (fun x y => key x ≤ key y) →
    (insertBy (fun x y => !decide (key y < key x)) a l).Pairwise fun x y => key x ≤ key y
  | [], _ => List.pairwise_singleton ..
  | b :: l, h => by
    obtain ⟨hb, hl⟩ := List.pairwise_cons.1 h
    rw [insertBy]
    split
    · next hab =>
      have hab : key a ≤ key b := by simpa using hab
      refine List.pairwise_cons.2 ⟨fun x hx => ?_, h⟩
      rcases List.mem_cons.1 hx with rfl | hx
      · exact hab
      · exact Nat.le_trans hab (hb x hx)
    · next hab =>
      have hba : key b ≤ key a := by simp at hab; omega
      refine List.pairwise_cons.2 ⟨fun x hx => ?_, insertBy_pairwise key a l hl⟩
      rcases List.mem_cons.1 ((perm_insertBy _ a l).mem_iff.1 hx) with rfl | hx
      · exact hba
      · exact hb x hx

theorem sortBy_pairwise {α : Type} (key : α → Nat) : ∀ l : List α,
    (sortBy (fun x y => decide (key x < key y)) l).Pairwise fun x y => key x ≤ key y
  | [] => .nil
  | a :: l => insertBy_pairwise key a _ (sortBy_pairwise key l)

/-- Leaves of different indices are found by their indices. -/
theorem find?_index {l : List RedLeaf} {x : RedLeaf} (hnodup : (l.map (·.index)).Nodup) (hx : x ∈ l) :
    l.find? (·.index = x.index) = some x := by
  obtain ⟨y, hy⟩ := Option.isSome_iff_exists.1 (List.find?_isSome.2 ⟨x, hx, decide_eq_true rfl⟩ :
    (l.find? (·.index = x.index)).isSome = true)
  have hyx : y.index = x.index := by simpa using List.find?_some hy
  rw [hy, List.inj_on_of_nodup_map hnodup (List.mem_of_find?_eq_some hy) hx hyx]

/-- The leaf of each index, in index order. -/
def inOrder (c : Nat) (l : List RedLeaf) : List RedLeaf := (List.range c).filterMap fun j => l.find? (·.index = j)

theorem mem_inOrder {c : Nat} {l : List RedLeaf} (hnodup : (l.map (·.index)).Nodup) (hlt : ∀ x ∈ l, x.index < c) (x : RedLeaf) :
    x ∈ inOrder c l ↔ x ∈ l := by
  simp only [inOrder, List.mem_filterMap, List.mem_range]
  constructor
  · rintro ⟨j, -, hj⟩
    exact List.mem_of_find?_eq_some hj
  · intro hx
    exact ⟨x.index, hlt x hx, find?_index hnodup hx⟩

theorem inOrder_pairwise (c : Nat) (l : List RedLeaf) : (inOrder c l).Pairwise fun x y => x.index < y.index := by
  rw [inOrder, List.pairwise_filterMap]
  refine (List.pairwise_lt_range (n := c)).imp fun {i j} hij x hx y hy => ?_
  have hi : x.index = i := by simpa using List.find?_some hx
  have hj : y.index = j := by simpa using List.find?_some hy
  omega

/-- The completions leave in index order (R307). -/
theorem sortBy_leaves {c : Nat} {l : List RedLeaf} (hnodup : (l.map (·.index)).Nodup) (hlt : ∀ x ∈ l, x.index < c) :
    sortBy (fun a b : RedLeaf => decide (a.index < b.index)) l = inOrder c l := by
  have hordered := inOrder_pairwise c l
  have hperm : (sortBy (fun a b : RedLeaf => decide (a.index < b.index)) l).Perm (inOrder c l) := by
    refine (perm_sortBy _ l).trans ((List.perm_ext_iff_of_nodup (hnodup.of_map _) ?_).2 fun x => (mem_inOrder hnodup hlt x).symm)
    exact hordered.imp fun hlt heq => by rw [heq] at hlt; exact Nat.lt_irrefl _ hlt
  refine hperm.eq_of_pairwise (le := fun a b => a.index ≤ b.index) (fun a b ha hb hab hba => ?_) (sortBy_pairwise _ l)
    (hordered.imp Nat.le_of_lt)
  exact List.inj_on_of_nodup_map hnodup ((perm_sortBy _ l).mem_iff.1 ha) ((mem_inOrder hnodup hlt b).1 hb) (Nat.le_antisymm hab hba)

/-- The completions of leaves that nothing has poisoned and no fault has met (R127, R307). -/
theorem redComplete_eq {scope : Scope} : ∀ (l : List RedLeaf) (s : State), (∀ x ∈ l, x.op.niw = n) →
    s.redComplete scope false l = l.foldl
      (fun u x => u.reply x.op n (.scalar (completion 1 scope x.val.isNone x.cause)) x.op.poisoned) s
  | [], _, _ => rfl
  | x :: l, s, h => by
    have hcause : (if x.cause ≠ 0 then x.cause else if false = true then 0x0C1 else 0) = x.cause := by
      by_cases hx : x.cause = 0 <;> simp [hx]
    rw [State.redComplete, redComplete_eq l _ fun y hy => h y (List.mem_cons_of_mem x hy), List.foldl_cons,
      h x List.mem_cons_self, hcause, Bool.false_or]

/-! A leaf's way to main memory. -/

theorem ofBytes_map (f : Nat → Byte) : ∀ k : Nat,
    ofBytes ((List.range k).map f) = ∑ i ∈ Finset.range k, (f i).toNat * 256 ^ i
  | 0 => rfl
  | k + 1 => by
    rw [List.range_succ_eq_map, List.map_cons, List.map_map, ofBytes, ofBytes_map (f ∘ Nat.succ) k, Finset.sum_range_succ',
      Finset.mul_sum, Nat.add_comm]
    congr 1
    · exact Finset.sum_congr rfl fun i _ => by rw [Function.comp, Nat.pow_succ]; ring
    · simp

/-- The number at a physical address (R113). -/
theorem ofBytes_readMain (s : State) (pa k : Nat) : ofBytes (s.readMain pa k) = numberAt s pa k := ofBytes_map ..

/-- No address check stops a legal access (R119, R242, R247). -/
theorem addrCause_legal {system : Bool} {va len : Nat} (hpos : 0 < len) (h : Legal system va len) :
    addrCause system va len len = none := by
  obtain ⟨halign, ⟨hlow, hend, hwindow⟩ | ⟨hhigh, hend, hsystem⟩⟩ := h
  · have htop : bits va 55 9 = 0 := by simp only [bits]; omega
    simp only [addrCause, htop]
    rw [if_neg (by omega), if_neg (by omega), if_neg (by omega), if_neg (by omega), if_neg (by omega)]
  · have htop : bits va 55 9 = 511 := by simp only [bits]; omega
    simp only [addrCause, htop, hsystem]
    rw [if_neg (by omega), if_neg (by omega), if_neg (by omega), if_pos trivial, if_pos trivial]

/-- An aligned element of at most eight bytes is one piece. -/
theorem piecesOf_element {va len : Nat} (hlen : len = 4 ∨ len = 8) (h : va % len = 0) : piecesOf va len = [(va, len)] := by
  obtain rfl | rfl := hlen
  · have hmin : min 4 (8 - va % 8) = 4 := by omega
    simp [piecesOf, pieces, hmin]
  · simp [piecesOf, pieces, h]

/-- The one piece of a translated element (R119, R120, R122). -/
theorem range_translated {need : Need} {va len : Nat} (hlen : len = 4 ∨ len = 8) (h : Translated s op need va len pa) :
    s.range op need va len len = .ok [(pa, len)] := by
  obtain ⟨hlegal, ⟨e, he, hpermits, rfl⟩, hfresh⟩ := h
  have hx : s.xlate op need va = .ok (leafBase e.leaf + (va - e.base)) := by
    simp only [State.xlate, hfresh, he, hpermits, if_true]
  simp only [State.range, addrCause_legal (by omega) hlegal, piecesOf_element hlen hlegal.1, State.xlateAll, hx, Res.bind]

/-- A request that crosses no failed lane is performed (R184). -/
theorem overPort_reached {need : Need} {va len : Nat} (h : Reaches s op need va len pa) (k : Issued → Niw → State → State) :
    s.overPort op n [pa] k = k op n s := by
  simp [State.overPort, h.carried, h.answered]

/-- A fabric store that fires runs its body (R34). -/
theorem fireStore_of_issues {t : TileId} (h : Issues s op n) (hs : op.site = .tile t) (body : Issued → State → State) :
    fireStore n s body = .next (body op (after s op)) := by
  rw [fireStore, fireRaw_of_issued h.issued]
  simp only [hs, h.fires]
  rfl

/-- A fault of a clean access at its own tile (R127). -/
theorem memFault_tile {t : TileId} (hs : op.site = .tile t) (hp : op.poisoned = false) (hh : s.homeTile op n = none) (cause : Nat)
    (addr : Word) : s.memFault op n op.place (s.homeScope op n) cause addr 0 =
      (s.takeFault ⟨cause, op.place, op.ctx, op.tag, addr, 0, false, false⟩).reply op n (.scalar (completion 1 .whole true cause)) false := by
  simp only [State.memFault, State.partFault, hs, State.homeScope, hh, State.complete, hp]

section Way
variable (h : Issues s op n) (hm : AtMain (after s op) op n true)
include h hm

/-- A RED that its tile refuses (R134, R307). -/
theorem red_refused (hp : op.poisoned = false) {cause : Nat} (hcause : (foreignOrder n op = true ∧ cause = 0x181) ∨
      (foreignOrder n op = false ∧ op.ta.isVec = false ∧ op.tb.isVec = false ∧ op.tc.isVec = false ∧ cause = 0x041 ∧
        (leafWordOk op.tc.word = false ∨ stoBad op n (addsFloat n (n.imm.toNat / 32 % 4)) = true))) :
    exec (.red n) s = .next (((after s op).takeFault ⟨cause, op.place, op.ctx, op.tag, op.ta.word, 0, false, false⟩).reply op n
      (.scalar (completion 1 .whole true cause)) false) := by
  obtain ⟨t, hs⟩ := hm.site
  have hstay : (siteIsBlock op.site && op.released) = false := by rw [hs]; rfl
  show execRed n s = _
  rw [execRed, fireStore_of_issues h hs, State.ifHeld, hstay, if_neg Bool.false_ne_true, ← memFault_tile hs hp hm.home]
  rcases hcause with ⟨hf, rfl⟩ | ⟨hf, ha, hb, hc, rfl, hbad⟩
  · rw [if_pos hf]
  · rw [if_neg (by simp [hf]), if_neg (by simp [ha, hb, hc]), if_pos]
    rcases hbad with hbad | hbad
    · simp [hbad]
    · exact Bool.or_eq_true_iff.2 (.inr hbad)

/-- A RED that nothing refuses brings its leaf to the combine store (R307). -/
theorem red_reaches (hf : foreignOrder n op = false) (ha : op.ta.isVec = false) (hb : op.tb.isVec = false) (hc : op.tc.isVec = false)
    (hok : leafWordOk op.tc.word = true) (hsto : stoBad op n (addsFloat n (n.imm.toNat / 32 % 4)) = false)
    (hr : Reaches (after s op) op .both op.ta.word.toNat (redBytes n) pa) :
    exec (.red n) s = .next ((after s op).redLeaf op n op.ta.word pa none op.ta.word) := by
  obtain ⟨t, hs⟩ := hm.site
  have hstay : (siteIsBlock op.site && op.released) = false := by rw [hs]; rfl
  have hlen : redBytes n = 4 ∨ redBytes n = 8 := by rw [redBytes]; split <;> simp
  have hsto : stoBad op n (addsFloat n (bits n.imm.toNat 5 2)) = false := hsto
  show execRed n s = _
  rw [execRed, fireStore_of_issues h hs, State.ifHeld, hstay, if_neg Bool.false_ne_true, if_neg (by simp [hf]),
    if_neg (by simp [ha, hb, hc]), if_neg (by simp [hok, hsto])]
  simp only [hs, State.chained, hm.chain, if_true, State.toHome, hm.home, range_translated hlen hr.toTranslated,
    State.withPieces, State.withParts, overPort_reached hr]

end Way

/-! A leaf at the combine store of main memory. -/

/-- The limits of a leaf word, read as numbers (R307). -/
theorem leafWordOk_iff (w : Word) : leafWordOk w = true ↔ ¬ (w.toNat % 2 ^ 20 = 0 ∨ w.toNat / 2 ^ 20 % 2 ^ 12 ≠ 0 ∨
    w.toNat % 2 ^ 20 ≤ w.toNat / 2 ^ 32 % 2 ^ 20 ∨ w.toNat / 2 ^ 52 ≠ 0) := by
  have h64 := w.isLt
  simp only [leafWordOk, Bool.and_eq_true, decide_eq_true_eq]
  simp only [bits]
  omega

section LeafWord
variable {c i : Nat} (hc : c < 2 ^ 20) (hi : i < c)
include hc hi

theorem leafWord_toNat : (word (c + i * 2 ^ 32)).toNat = c + i * 2 ^ 32 := by
  rw [toNat_word, Nat.mod_eq_of_lt (by omega)]

theorem leafWordOk_word : leafWordOk (word (c + i * 2 ^ 32)) = true := by
  rw [leafWordOk_iff, leafWord_toNat hc hi]
  omega

end LeafWord

/-- The leaf that an operation brings (R307). -/
def leafOf (op : Issued) (n : Niw) (i : Nat) : RedLeaf := ⟨i, some (word (op.tb.word.toNat % 2 ^ n.fmt.width)), op, 0⟩

section Leaf
variable {c i : Nat} {old : Option Reduction} {r : Reduction} (hc : c < 2 ^ 20) (hi : i < c)
  (hw : op.tc.word = word (c + i * 2 ^ 32)) (hclean : Clean op) (ht : tapered n.fmt = false)
  (hab : abandonedElem n.fmt (op.tb.word.toNat % 2 ^ n.fmt.width) = false)
include hc hi hw hclean ht hab

/-- A leaf of the reduction's own kind is counted, and the last one ends the reduction (R307). -/
theorem redLeaf_counts (hold : s.reds.find? (fun r => r.ctx = op.ctx && r.va = op.ta.word) = old)
    (hr : old.getD ⟨op.ctx, op.ta.word, pa, c, redKind n, op.mode.resolve n.rnd, [], false⟩ = r)
    (hroom : s.redRoom op.ctx op.ta.word pa none = true) (hn : r.n = c) (hword : r.word = redKind n)
    (hrnd : r.rnd = op.mode.resolve n.rnd) (hfresh : ∀ l ∈ r.leaves, l.index ≠ i) :
    s.redLeaf op n op.ta.word pa none op.ta.word =
      let r' : Reduction := { r with leaves := leafOf op n i :: r.leaves, pa := pa }
      if r.leaves.length + 1 < c then
        { s with reds := if old.isSome then s.reds.map fun x => if x.ctx = r.ctx && x.va = op.ta.word then r' else x
                         else s.reds ++ [r'] }
      else s.redFinish op n r' none := by
  have hcount : bits op.tc.word.toNat 0 20 = c := by rw [hw, leafWord_toNat hc hi, bits]; omega
  have hindex : bits op.tc.word.toNat 32 20 = i := by rw [hw, leafWord_toNat hc hi, bits]; omega
  have hany : (r.leaves.any fun l => decide (l.index = i)) = false := by simpa using hfresh
  subst hn
  simp [State.redLeaf, hcount, hindex, hold, hr, hroom, hany, hword, hrnd, hab, isNaR, ht, hclean.preds, hclean.noNull,
    hclean.unpoisoned, leafOf]

/-- The first leaf opens its reduction, or ends one of one leaf (R307). -/
theorem redLeaf_first (hreds : s.reds = []) :
    let r : Reduction := ⟨op.ctx, op.ta.word, pa, c, redKind n, op.mode.resolve n.rnd, [leafOf op n i], false⟩
    s.redLeaf op n op.ta.word pa none op.ta.word = if 1 < c then { s with reds := [r] } else s.redFinish op n r none := by
  have hold : s.reds.find? (fun r => r.ctx = op.ctx && r.va = op.ta.word) = none := by rw [hreds]; rfl
  have hroom : s.redRoom op.ctx op.ta.word pa none = true := by simp [State.redRoom, hreds]
  rw [redLeaf_counts hc hi hw hclean ht hab hold rfl hroom rfl rfl rfl fun l hl => absurd hl (List.not_mem_nil)]
  simp [hreds]

/-- The last leaf ends its reduction (R307). -/
theorem redLeaf_last {leaves : List RedLeaf}
    (hreds : s.reds = [⟨op.ctx, op.ta.word, pa, c, redKind n, op.mode.resolve n.rnd, leaves, false⟩])
    (hlen : leaves.length + 1 = c) (hfresh : ∀ l ∈ leaves, l.index ≠ i) :
    s.redLeaf op n op.ta.word pa none op.ta.word = s.redFinish op n
      ⟨op.ctx, op.ta.word, pa, c, redKind n, op.mode.resolve n.rnd, leafOf op n i :: leaves, false⟩ none := by
  have hold : s.reds.find? (fun r => r.ctx = op.ctx && r.va = op.ta.word) =
      some ⟨op.ctx, op.ta.word, pa, c, redKind n, op.mode.resolve n.rnd, leaves, false⟩ := by simp [hreds]
  have hroom : s.redRoom op.ctx op.ta.word pa none = true := by simp [State.redRoom, hreds]
  rw [redLeaf_counts hc hi hw hclean ht hab hold rfl hroom rfl rfl rfl hfresh]
  exact if_neg (by simp only [Option.getD_some]; omega)

end Leaf

/-- The end of a reduction that nothing has poisoned: one write, and every leaf's completion (R307). -/
theorem redFinish_writes {r : Reduction} {x : Nat} (hreds : (s.reds.filter fun y => !(y.ctx = r.ctx && y.va = r.va)) = [])
    (hpsn : r.psn = false) (hne : r.leaves ≠ []) (hniw : ∀ l ∈ r.leaves, l.op.niw = n) (hnodup : (r.leaves.map (·.index)).Nodup)
    (hlt : ∀ l ∈ r.leaves, l.index < r.n)
    (hx : canonical n.fmt r.rnd (n.imm.toNat / 32 % 4) (clog2 r.n)
      ((List.range r.n).map fun j => (r.leaves.find? (·.index = j)).bind fun l => l.val.map (·.toNat)) = some x) :
    s.redFinish op n r none = (inOrder r.n r.leaves).foldl
      (fun u l => u.reply l.op n (.scalar (completion 1 .whole l.val.isNone l.cause)) l.op.poisoned)
      (({ s with reds := [] } : State).writeMain r.pa
        (bytesOf (redBytes n) (merged n.fmt r.rnd (n.imm.toNat / 32 % 4) (numberAt s r.pa (redBytes n)) x))) := by
  have hroot : redRoot n r = some x := by
    rw [redRoot, treeRoot_eq_canonical, List.length_map, List.length_range]
    exact hx
  have hlast := List.getLast?_eq_getLast_of_ne_nil hne
  have hn : (r.leaves.getLast hne).op.niw = n := hniw _ (List.getLast_mem hne)
  rw [State.redFinish]
  simp only [hlast, hn, hroot, hpsn, Bool.false_eq_true, if_false, hreds, State.redOld, State.redWrite, combine_eq_merged, ofBytes_readMain]
  rw [sortBy_leaves hnodup hlt, redComplete_eq _ _ fun l hl => hniw l ((mem_inOrder hnodup hlt l).1 hl)]
  rfl

/-- The order token is of the operation's own context (R134). -/
theorem foreignOrder_eq_false (h : n.prd = .ift → ∀ p ∈ op.p, tagCtx p.tag = tagCtx op.tag) : foreignOrder n op = false := by
  by_cases hprd : n.prd = .ift
  · cases hp : op.p with
    | none => simp [foreignOrder, hp]
    | some p => simp [foreignOrder, hp, h hprd p hp]
  · simp [foreignOrder, hprd]

theorem foreignOrder_eq_true (hprd : n.prd = .ift) (h : ∃ p ∈ op.p, tagCtx p.tag ≠ tagCtx op.tag) : foreignOrder n op = true := by
  obtain ⟨p, hp, hne⟩ := h
  simp [foreignOrder, hprd, Option.mem_def.1 hp, hne]

/-- The leaves of a reduction, by index; the tree has a root, since one leaf has a value. -/
theorem canonical_leaves {f : Fmt} {rnd : Rnd} {o c : Nat} {l : List RedLeaf} {x : RedLeaf} (hx : x ∈ l) (hval : x.val.isSome = true)
    (hnodup : (l.map (·.index)).Nodup) (hlt : x.index < c) :
    ∃ y, canonical f rnd o (clog2 c)
      ((List.range c).map fun j => (l.find? (·.index = j)).bind fun l => l.val.map (·.toNat)) = some y := by
  refine Option.isSome_iff_exists.1 (canonical_isSome _ _ x.index (Nat.lt_of_lt_of_le hlt (le_two_pow_clog2 c)) ?_)
  rw [List.getElem?_map, List.getElem?_range hlt, Option.map_some, find?_index hnodup hx]
  simpa using hval

/-- Settles O27: the refusals, and a leaf that is the one, the first or the last of its reduction. -/
theorem reductionIntoMemory : Obligations.ReductionIntoMemory := by
  unfold Obligations.ReductionIntoMemory
  intro s op n pa h hclean hrel ha hb hc s1 w rnd o v lw drawn refused hm
  refine ⟨fun hprd hp => red_refused h hm hclean.unpoisoned (.inl ⟨foreignOrder_eq_true hprd hp, rfl⟩), fun hown => ?_⟩
  have hown := foreignOrder_eq_false hown
  have hsto : stoBad op n (addsFloat n o) = drawn := stoBad_eq op n o
  refine ⟨fun hbad => red_refused h hm hclean.unpoisoned (.inr ⟨hown, ha, hb, hc, rfl, ?_⟩), fun hdrawn hfmt ho hreach hab hdec => ?_⟩
  · rcases hbad with hbad | hbad | hbad | hbad | hbad
    iterate 4 exact .inl (Bool.eq_false_iff.2 fun hok => (leafWordOk_iff _).1 hok (by tauto))
    exact .inr (hsto.trans hbad)
  have ht : tapered n.fmt = false := by rcases hfmt with hf | hf | hf | hf <;> rw [hf] <;> rfl
  -- a leaf word within its limits brings the leaf to the combine store
  have hway : ∀ c i : Nat, c < 2 ^ 20 → i < c → op.tc.word = word (c + i * 2 ^ 32) →
      exec (.red n) s = .next (s1.redLeaf op n op.ta.word pa none op.ta.word) := fun c i hc' hi hw =>
    red_reaches h hm hown ha hb hc (by rw [hw]; exact leafWordOk_word hc' hi) (hsto.trans hdrawn) hreach
  obtain ⟨t, hs⟩ := hm.site
  have hniw : op.niw = n := (niw_of_decode hs hdec rfl).1
  refine ⟨fun hreds hw => ?_, fun c i hreds h1 hc' hi hw => ?_, fun c i leaves h1 hc' hi hw hreds hlen hnodup hleaves => ?_⟩
  · have hw : op.tc.word = word (1 + 0 * 2 ^ 32) := hw
    have hsame : ({ s1 with reds := [] } : State) = s1 := by rw [← hreds]
    have hv : (word v).toNat = v := by
      have hw64 : 2 ^ n.fmt.width ≤ 2 ^ 64 := Nat.pow_le_pow_right (by decide) (by cases n.fmt <;> decide)
      rw [toNat_word, Nat.mod_eq_of_lt (Nat.lt_of_lt_of_le (Nat.mod_lt _ (Nat.two_pow_pos _)) hw64)]
    have hfinish := redFinish_writes (s := s1) (op := op) (n := n) (x := v)
      (r := ⟨op.ctx, op.ta.word, pa, 1, redKind n, rnd, [leafOf op n 0], false⟩) (by rw [hreds]; rfl) rfl (List.cons_ne_nil _ _)
      (List.forall_mem_singleton.2 hniw) (List.nodup_singleton _) (List.forall_mem_singleton.2 Nat.zero_lt_one) (congrArg some hv)
    rw [hway 1 0 (by decide) (by decide) hw, redLeaf_first (by decide) (by decide) hw hclean ht hab hreds,
      if_neg (Nat.lt_irrefl 1), hfinish, hsame, show inOrder 1 [leafOf op n 0] = [leafOf op n 0] from rfl]
    have hword : completion 1 .whole false 0 = word (1 + 3 * 2 ^ 32) := rfl
    simp only [List.foldl_cons, List.foldl_nil, leafOf, Option.isNone_some, hword]
    rfl
  · rw [hway c i hc' hi hw, redLeaf_first hc' hi hw hclean ht hab hreds, if_pos h1]
    rfl
  · intro all leaf values
    have hnodup' : (all.map (·.index)).Nodup := by
      refine List.nodup_cons.2 ⟨fun hmem => ?_, hnodup⟩
      obtain ⟨l, hl, hli⟩ := List.mem_map.1 hmem
      exact (hleaves l hl).2.1 hli
    have hlt : ∀ l ∈ all, l.index < c := List.forall_mem_cons.2 ⟨hi, fun l hl => (hleaves l hl).1⟩
    obtain ⟨x, hx⟩ := canonical_leaves (f := n.fmt) (rnd := rnd) (o := o) (l := all) (x := leafOf op n i)
      List.mem_cons_self rfl hnodup' hi
    refine ⟨x, hx, ?_⟩
    have hfinish := redFinish_writes (s := s1) (op := op) (n := n) (r := ⟨op.ctx, op.ta.word, pa, c, redKind n, rnd, all, false⟩)
      (by simp [hreds]) rfl (List.cons_ne_nil _ _) (List.forall_mem_cons.2 ⟨hniw, fun l hl => (hleaves l hl).2.2⟩) hnodup' hlt hx
    rw [hway c i hc' hi hw, redLeaf_last hc' hi hw hclean ht hab hreds hlen fun l hl => (hleaves l hl).2.1]
    exact congrArg _ hfinish

end Sys2Proof.Proofs
end

section

/-!
A number's magnitude by what it reaches and exceeds: the model's comparison, scaling, whole part and logarithm, each as a
statement about rational bounds (R94 to R96). A root is compared by its square, so no real number is needed.
-/

namespace Sys2Proof.Proofs

open Sys2Proof Sys2Proof.Machine Sys2Proof.Claims

/-! Integer square roots. -/

theorem isqrtAux_spec : ∀ (k n r : Nat), r * r ≤ n → n < (r + 2 ^ k) * (r + 2 ^ k) →
    isqrtAux k n r * isqrtAux k n r ≤ n ∧ n < (isqrtAux k n r + 1) * (isqrtAux k n r + 1)
  | 0, _, _, hlo, hhi => ⟨hlo, hhi⟩
  | k + 1, n, r, hlo, hhi => by
    rw [isqrtAux]
    split
    · next h => exact isqrtAux_spec k n _ h (by rwa [Nat.add_assoc, ← Nat.two_mul, ← Nat.pow_succ'])
    · next h => exact isqrtAux_spec k n r hlo (Nat.lt_of_not_le h)

theorem isqrt_eq_sqrt (n : Nat) : isqrt n = Nat.sqrt n := by
  have hn : n < (0 + 2 ^ (Nat.log2 n / 2 + 1)) * (0 + 2 ^ (Nat.log2 n / 2 + 1)) := by
    refine Nat.lt_of_lt_of_le (Nat.lt_log2_self (n := n)) ?_
    rw [Nat.zero_add, ← Nat.pow_add]
    exact Nat.pow_le_pow_right (by decide) (by omega)
  obtain ⟨hlo, hhi⟩ := isqrtAux_spec (Nat.log2 n / 2 + 1) n 0 (Nat.zero_le _) hn
  exact Nat.eq_sqrt.2 ⟨hlo, hhi⟩

variable {x : Exact} {r r' : ℚ}

/-! The order. -/

theorem reaches_of_exceeds (h : exceeds x r) : reaches x r := by
  cases x with
  | rat => exact le_of_lt h
  | root => exact le_of_lt (α := ℚ) h
  | _ => exact h

theorem reaches_mono (h0 : 0 ≤ r) (hle : r ≤ r') (h : reaches x r') : reaches x r := by
  cases x with
  | rat => exact le_trans hle h
  | root => exact le_trans (pow_le_pow_left₀ h0 hle 2) h
  | _ => exact h

theorem exceeds_of_lt (h0 : 0 ≤ r) (hlt : r < r') (h : reaches x r') : exceeds x r := by
  cases x with
  | rat => exact lt_of_lt_of_le hlt h
  | root => exact lt_of_lt_of_le (pow_lt_pow_left₀ hlt h0 (by decide)) h
  | _ => exact h

theorem reaches_zero (hx : isNumber x) : reaches x 0 := by
  cases x with
  | rat => exact div_nonneg (Nat.cast_nonneg _) (Nat.cast_nonneg _)
  | root s n d =>
    show (0 : ℚ) ^ 2 ≤ (n : ℚ) / d
    rw [zero_pow (by decide)]
    exact div_nonneg (Nat.cast_nonneg _) (Nat.cast_nonneg _)
  | _ => exact hx

section Number
variable (hx : isNumber x)
include hx

/-! Comparison with a fraction. -/

theorem cmpMag_lt {a b : Nat} (hb : 0 < b) : x.cmpMag a b = .lt ↔ ¬ reaches x ((a : ℚ) / b) := by
  have hb' : (0 : ℚ) < b := Nat.cast_pos.2 hb
  cases x with
  | rat s n d =>
    have hd : (0 : ℚ) < d := Nat.cast_pos.2 hx.2
    rw [Exact.cmpMag, Nat.compare_eq_lt, reaches, not_le, div_lt_div_iff₀ hd hb']
    exact_mod_cast Iff.rfl
  | root s n d =>
    have hd : (0 : ℚ) < d := Nat.cast_pos.2 hx.2
    rw [Exact.cmpMag, Nat.compare_eq_lt, reaches, not_le, div_pow, div_lt_div_iff₀ hd (pow_pos hb' 2), pow_two, pow_two]
    exact_mod_cast Iff.rfl
  | _ => exact hx.elim

theorem cmpMag_gt {a b : Nat} (hb : 0 < b) : x.cmpMag a b = .gt ↔ exceeds x ((a : ℚ) / b) := by
  have hb' : (0 : ℚ) < b := Nat.cast_pos.2 hb
  cases x with
  | rat s n d =>
    have hd : (0 : ℚ) < d := Nat.cast_pos.2 hx.2
    rw [Exact.cmpMag, Nat.compare_eq_gt, exceeds, div_lt_div_iff₀ hb' hd]
    exact_mod_cast Iff.rfl
  | root s n d =>
    have hd : (0 : ℚ) < d := Nat.cast_pos.2 hx.2
    rw [Exact.cmpMag, Nat.compare_eq_gt, exceeds, div_pow, div_lt_div_iff₀ (pow_pos hb' 2) hd, pow_two, pow_two]
    exact_mod_cast Iff.rfl
  | _ => exact hx.elim

theorem cmpMag_eq {a b : Nat} (hb : 0 < b) : x.cmpMag a b = .eq ↔ reaches x ((a : ℚ) / b) ∧ ¬ exceeds x ((a : ℚ) / b) := by
  rw [← cmpMag_gt hx hb, ← not_iff_not, not_and_or, ← cmpMag_lt hx hb]
  cases x.cmpMag a b <;> simp

/-! The whole part. -/

theorem le_floorMag (m : Nat) : m ≤ x.floorMag ↔ reaches x m := by
  cases x with
  | rat s n d =>
    rw [Exact.floorMag, Nat.le_div_iff_mul_le hx.2, reaches, le_div_iff₀ (Nat.cast_pos.2 hx.2)]
    exact_mod_cast Iff.rfl
  | root s n d =>
    rw [Exact.floorMag, isqrt_eq_sqrt, Nat.le_sqrt, Nat.le_div_iff_mul_le hx.2, reaches, le_div_iff₀ (Nat.cast_pos.2 hx.2), pow_two]
    exact_mod_cast Iff.rfl
  | _ => exact hx.elim

end Number

/-! Scaling by a power of two. -/

theorem zpow_of_nonneg {k : Int} (h : 0 ≤ k) : ((2 ^ k.toNat : Nat) : ℚ) = (2 : ℚ) ^ k := by
  conv_rhs => rw [← Int.toNat_of_nonneg h]
  rw [zpow_natCast, Nat.cast_pow, Nat.cast_ofNat]

theorem scale_neg (k : Int) : (x.scale k).neg = x.neg := by
  cases x with
  | rat | root =>
    rw [Exact.scale]
    split <;> rfl
  | _ => rfl

theorem scale_rat (s : Bool) {n d : Nat} (hd : 0 < d) (k : Int) : ∃ n' d' : Nat, (Exact.rat s n d).scale k = .rat s n' d' ∧
    0 < d' ∧ (n' : ℚ) / d' = (n : ℚ) / d * 2 ^ k := by
  rw [Exact.scale]
  split
  · next h => exact ⟨_, _, rfl, hd, by rw [Nat.cast_mul, zpow_of_nonneg h, mul_div_right_comm]⟩
  · next h =>
    refine ⟨_, _, rfl, Nat.mul_pos hd (Nat.two_pow_pos _), ?_⟩
    rw [Nat.cast_mul, zpow_of_nonneg (by omega), ← div_div, zpow_neg, div_inv_eq_mul]

theorem scale_root (s : Bool) {n d : Nat} (hd : 0 < d) (k : Int) : ∃ n' d' : Nat, (Exact.root s n d).scale k = .root s n' d' ∧
    0 < d' ∧ (n' : ℚ) / d' = (n : ℚ) / d * (2 ^ k) ^ 2 := by
  have h4 : ∀ m : Nat, 4 ^ m = (2 ^ m) ^ 2 := fun m => by rw [← Nat.pow_mul, Nat.mul_comm, Nat.pow_mul]
  rw [Exact.scale]
  split
  · next h => exact ⟨_, _, rfl, hd, by rw [h4, Nat.cast_mul, Nat.cast_pow, zpow_of_nonneg h, mul_div_right_comm]⟩
  · next h =>
    refine ⟨_, _, rfl, Nat.mul_pos hd (Nat.pow_pos (by decide)), ?_⟩
    rw [h4, Nat.cast_mul, Nat.cast_pow, zpow_of_nonneg (by omega), ← div_div, zpow_neg, inv_pow, div_inv_eq_mul]

/-- A quotient of natural numbers is positive where both are. -/
theorem num_pos {n d : Nat} (h : (0 : ℚ) < (n : ℚ) / d) : 0 < n :=
  Nat.pos_of_ne_zero fun h0 => by rw [h0, Nat.cast_zero, zero_div] at h; exact lt_irrefl _ h

theorem isNumber_scale (hx : isNumber x) (k : Int) : isNumber (x.scale k) := by
  have hk : (0 : ℚ) < 2 ^ k := zpow_pos two_pos k
  cases x with
  | rat s n d =>
    obtain ⟨n', d', he, hd', hv⟩ := scale_rat s (n := n) hx.2 k
    rw [he]
    refine ⟨num_pos (d := d') ?_, hd'⟩
    rw [hv]
    exact mul_pos (div_pos (Nat.cast_pos.2 hx.1) (Nat.cast_pos.2 hx.2)) hk
  | root s n d =>
    obtain ⟨n', d', he, hd', hv⟩ := scale_root s (n := n) hx.2 k
    rw [he]
    refine ⟨num_pos (d := d') ?_, hd'⟩
    rw [hv]
    exact mul_pos (div_pos (Nat.cast_pos.2 hx.1) (Nat.cast_pos.2 hx.2)) (pow_pos hk 2)
  | _ => exact hx.elim

theorem reaches_scale (hx : isNumber x) (k : Int) : reaches (x.scale k) r ↔ reaches x (r / 2 ^ k) := by
  have hk : (0 : ℚ) < 2 ^ k := zpow_pos two_pos k
  cases x with
  | rat s n d =>
    obtain ⟨n', d', he, -, hv⟩ := scale_rat s (n := n) hx.2 k
    rw [he, reaches, reaches, hv, div_le_iff₀ hk]
  | root s n d =>
    obtain ⟨n', d', he, -, hv⟩ := scale_root s (n := n) hx.2 k
    rw [he, reaches, reaches, hv, div_pow, div_le_iff₀ (pow_pos hk 2)]
  | _ => exact hx.elim

theorem exceeds_scale (hx : isNumber x) (k : Int) : exceeds (x.scale k) r ↔ exceeds x (r / 2 ^ k) := by
  have hk : (0 : ℚ) < 2 ^ k := zpow_pos two_pos k
  cases x with
  | rat s n d =>
    obtain ⟨n', d', he, -, hv⟩ := scale_rat s (n := n) hx.2 k
    rw [he, exceeds, exceeds, hv, div_lt_iff₀ hk]
  | root s n d =>
    obtain ⟨n', d', he, -, hv⟩ := scale_root s (n := n) hx.2 k
    rw [he, exceeds, exceeds, hv, div_pow, div_lt_iff₀ (pow_pos hk 2)]
  | _ => exact hx.elim

/-! The binary logarithm. -/

/-- `log2Rat`'s test compares with the power of two. -/
theorem below_iff {n d : Nat} (hd : 0 < d) (e : Int) :
    (if 0 ≤ e then n < d * 2 ^ e.toNat else n * 2 ^ (-e).toNat < d) ↔ (n : ℚ) / d < 2 ^ e := by
  have hd' : (0 : ℚ) < d := Nat.cast_pos.2 hd
  rw [div_lt_iff₀ hd']
  split
  · next h => rw [← zpow_of_nonneg h, mul_comm]; exact_mod_cast Iff.rfl
  · next h =>
    have hpos : (0 : ℚ) < 2 ^ (-e) := zpow_pos two_pos _
    rw [← neg_neg e, zpow_neg, ← div_eq_inv_mul, lt_div_iff₀ hpos, neg_neg, ← zpow_of_nonneg (by omega)]
    exact_mod_cast Iff.rfl

theorem log2Rat_spec {n d : Nat} (hn : 0 < n) (hd : 0 < d) :
    (2 : ℚ) ^ log2Rat n d ≤ (n : ℚ) / d ∧ (n : ℚ) / d < 2 ^ (log2Rat n d + 1) := by
  have hn' : (0 : ℚ) < n := Nat.cast_pos.2 hn
  have hd' : (0 : ℚ) < d := Nat.cast_pos.2 hd
  have hnlo : (2 : ℚ) ^ (Nat.log2 n : Int) ≤ n := by
    rw [zpow_natCast]; exact_mod_cast Nat.log2_self_le hn.ne'
  have hnhi : (n : ℚ) < 2 ^ ((Nat.log2 n : Int) + 1) := by
    rw [← Nat.cast_succ, zpow_natCast]; exact_mod_cast Nat.lt_log2_self
  have hdlo : (2 : ℚ) ^ (Nat.log2 d : Int) ≤ d := by
    rw [zpow_natCast]; exact_mod_cast Nat.log2_self_le hd.ne'
  have hdhi : (d : ℚ) < 2 ^ ((Nat.log2 d : Int) + 1) := by
    rw [← Nat.cast_succ, zpow_natCast]; exact_mod_cast Nat.lt_log2_self
  have hlo : (2 : ℚ) ^ ((Nat.log2 n : Int) - Nat.log2 d - 1) ≤ (n : ℚ) / d := by
    rw [sub_sub, zpow_sub₀ two_ne_zero]
    exact div_le_div₀ hn'.le hnlo hd' hdhi.le
  have hhi : (n : ℚ) / d < 2 ^ ((Nat.log2 n : Int) - Nat.log2 d + 1) := by
    rw [sub_add_eq_add_sub, zpow_sub₀ two_ne_zero]
    exact div_lt_div₀ hnhi hdlo (by positivity) (by positivity)
  have hcases : log2Rat n d = if (n : ℚ) / d < 2 ^ ((Nat.log2 n : Int) - Nat.log2 d) then (Nat.log2 n : Int) - Nat.log2 d - 1
      else (Nat.log2 n : Int) - Nat.log2 d := if_congr (below_iff hd _) rfl rfl
  rw [hcases]
  split
  · next h => exact ⟨hlo, by rwa [sub_add_cancel]⟩
  · next h => exact ⟨not_lt.1 h, hhi⟩

/-- The logarithm of a magnitude. -/
theorem log2_spec (hx : isNumber x) : reaches x (2 ^ x.log2) ∧ ¬ reaches x (2 ^ (x.log2 + 1)) := by
  cases x with
  | rat s n d =>
    obtain ⟨hlo, hhi⟩ := log2Rat_spec hx.1 hx.2
    exact ⟨hlo, not_le.2 hhi⟩
  | root s n d =>
    obtain ⟨hlo, hhi⟩ := log2Rat_spec hx.1 hx.2
    have hsq : ∀ e : Int, ((2 : ℚ) ^ e) ^ 2 = 2 ^ (2 * e) := fun e => by rw [mul_comm, zpow_mul]; rfl
    rw [Exact.log2, reaches, reaches, hsq, hsq, not_le]
    exact ⟨le_trans (zpow_le_zpow_right₀ one_le_two (by omega)) hlo,
      lt_of_lt_of_le hhi (zpow_le_zpow_right₀ one_le_two (by omega))⟩
  | _ => exact hx.elim

end Sys2Proof.Proofs
end

section

/-!
The neighbours of a number among the values of codes, and the one that a mode chooses (R95, R96): what every rounding of the
model gives, whatever the values are. Whole numbers come first, with the conversion to integers (R97).
-/

namespace Sys2Proof.Proofs

open Sys2Proof Sys2Proof.Machine Sys2Proof.Claims

variable {x : Exact} {mode : Rnd} {u : Nat}

/-- Codes `c` and `c + 1` stand around a number's magnitude, and `hi` tells which one the mode chooses; a value itself is kept. -/
structure Neighbour (val : Nat → ℚ) (mode : Rnd) (x : Exact) (u c : Nat) (hi : Bool) : Prop where
  below : reaches x (val c)
  above : ¬ reaches x (val (c + 1))
  kept : ¬ exceeds x (val c) → hi = false
  chosen : exceeds x (val c) → mode ≠ .ctx → (hi = true ↔ choosesHi mode (c % 2 = 1) x (val c) (val (c + 1)) u)

/-- The model's choice between two neighbours is R95's and R96's. -/
theorem takesHi_iff (hx : isNumber x) (hmode : mode ≠ .ctx) (odd : Bool) {a b t : Nat} {lo hi : ℚ} (hb : 0 < b)
    (hmid : (a : ℚ) / b = (lo + hi) / 2) (ht : u < t ↔ reaches x (lo + ((u : ℚ) + 1) * (hi - lo) / 2 ^ 32)) :
    takesHi mode x.neg false odd (x.cmpMag a b) t u = true ↔ choosesHi mode odd x lo hi u := by
  have hgt := cmpMag_gt hx (a := a) hb
  have hlt := cmpMag_lt hx (a := a) hb
  have heq := cmpMag_eq hx (a := a) hb
  rw [hmid] at hgt hlt heq
  cases mode with
  | rne =>
    simp only [takesHi, choosesHi, Bool.false_eq_true, if_false, Bool.or_eq_true, Bool.and_eq_true, decide_eq_true_eq, hgt, heq]
    tauto
  | rtz => simp [takesHi, choosesHi]
  | rup => simp [takesHi, choosesHi]
  | rdn => simp [takesHi, choosesHi]
  | rna => simp only [takesHi, choosesHi, Bool.false_eq_true, if_false, bne_iff_ne, ne_eq, hlt, not_not]
  | sto => simp only [takesHi, choosesHi, Bool.false_eq_true, if_false, decide_eq_true_eq, ht]
  | ctx => exact absurd rfl hmode

theorem takesHi_exact (neg odd : Bool) (half : Ordering) (t u : Nat) : takesHi mode neg true odd half t u = false := rfl

/-- Rounding to a whole number of units (R95, R96). -/
theorem roundUnits_neighbour (hx : isNumber x) (mode : Rnd) (u : Nat) :
    ∃ hi, Neighbour (fun m => (m : ℚ)) mode x u x.floorMag hi ∧ roundUnits mode x u = x.floorMag + hi.toNat := by
  refine ⟨_, ⟨(le_floorMag hx _).1 le_rfl, fun h => ?_, fun h => ?_, fun h hmode => ?_⟩, rfl⟩
  · exact absurd ((le_floorMag hx _).2 h) (Nat.not_succ_le_self _)
  · have hexact : x.cmpMag x.floorMag 1 = .eq :=
      (cmpMag_eq hx Nat.one_pos).2 (by rw [Nat.cast_one, div_one]; exact ⟨(le_floorMag hx _).1 le_rfl, h⟩)
    rw [decide_eq_true hexact, takesHi_exact]
  · have hexact : x.cmpMag x.floorMag 1 ≠ .eq := fun heq => ((cmpMag_eq hx Nat.one_pos).1 heq).2 (by rwa [Nat.cast_one, div_one])
    rw [decide_eq_false hexact]
    refine takesHi_iff hx hmode _ (by decide) (by push_cast; ring) ?_
    rw [Nat.lt_sub_iff_add_lt, ← Nat.succ_le_iff, le_floorMag (isNumber_scale hx 32), reaches_scale hx]
    refine iff_of_eq (congrArg _ ?_)
    push_cast
    ring

/-- A choice between scaled values (R95, R96). -/
theorem choosesHi_scale (hx : isNumber x) (k : Int) (odd : Bool) (lo hi : ℚ) :
    choosesHi mode odd (x.scale k) lo hi u ↔ choosesHi mode odd x (lo / 2 ^ k) (hi / 2 ^ k) u := by
  have hmid : (lo + hi) / 2 / 2 ^ k = (lo / 2 ^ k + hi / 2 ^ k) / 2 := by ring
  have hdraw : (lo + ((u : ℚ) + 1) * (hi - lo) / 2 ^ 32) / 2 ^ k =
      lo / 2 ^ k + ((u : ℚ) + 1) * (hi / 2 ^ k - lo / 2 ^ k) / 2 ^ 32 := by ring
  cases mode <;> simp only [choosesHi, exceeds_scale hx, reaches_scale hx, scale_neg, hmid, hdraw]

/-- Neighbours in units of a power of two are neighbours of the codes that have these values. -/
theorem Neighbour.unscale {val : Nat → ℚ} {k : Int} {q c : Nat} {hi : Bool} (hx : isNumber x)
    (h : Neighbour (fun m => (m : ℚ)) mode (x.scale k) u q hi) (hc : val c = (q : ℚ) / 2 ^ k)
    (hsucc : val (c + 1) = ((q + 1 : Nat) : ℚ) / 2 ^ k) (hodd : c % 2 = q % 2) : Neighbour val mode x u c hi := by
  obtain ⟨hbelow, habove, hkept, hchosen⟩ := h
  rw [reaches_scale hx] at hbelow habove
  rw [exceeds_scale hx] at hkept hchosen
  rw [choosesHi_scale hx] at hchosen
  refine ⟨?_, ?_, ?_, ?_⟩
  · rwa [hc]
  · rwa [hsucc]
  · rwa [hc]
  · rwa [hc, hsucc, hodd]

section Codes
variable {val : Nat → ℚ} {c : Nat} {hi : Bool} (hmono : StrictMono val) (hzero : 0 ≤ val 0) (h : Neighbour val mode x u c hi)
include hmono hzero h

/-- Values increase with their codes, so the neighbours are the only ones. -/
theorem Neighbour.unique {c' : Nat} (hlo : reaches x (val c')) (hhi : ¬ reaches x (val (c' + 1))) : c' = c := by
  have hnonneg : ∀ i, 0 ≤ val i := fun i => le_trans hzero (hmono.monotone (Nat.zero_le i))
  by_contra hne
  rcases Nat.lt_or_gt_of_ne hne with hlt | hgt
  · exact hhi (reaches_mono (hnonneg _) (hmono.monotone hlt) h.below)
  · exact h.above (reaches_mono (hnonneg _) (hmono.monotone hgt) hlo)

/-- A value itself is found and kept. -/
theorem Neighbour.of_value {c' : Nat} (hlo : reaches x (val c')) (hhi : ¬ exceeds x (val c')) : c = c' ∧ hi = false := by
  have hnonneg : 0 ≤ val c' := le_trans hzero (hmono.monotone (Nat.zero_le c'))
  obtain rfl := h.unique hmono hzero hlo fun hreach => hhi (exceeds_of_lt hnonneg (hmono (Nat.lt_succ_self c')) hreach)
  exact ⟨rfl, h.kept hhi⟩

/-- Between two values the mode chooses. -/
theorem Neighbour.of_between {c' : Nat} (hmode : mode ≠ .ctx) (hlo : exceeds x (val c')) (hhi : ¬ reaches x (val (c' + 1))) :
    c = c' ∧ (hi = true ↔ choosesHi mode (c' % 2 = 1) x (val c') (val (c' + 1)) u) := by
  obtain rfl := h.unique hmono hzero (reaches_of_exceeds hlo) hhi
  exact ⟨rfl, h.chosen hlo hmode⟩

end Codes

/-- A code chosen by a Boolean, as the statements say it. -/
theorem byChoice_of_iff {p : Prop} {hi : Bool} {α : Type} {g : Bool → α} (h : hi = true ↔ p) : byChoice p (g hi) (g true) (g false) := by
  cases hi with
  | true => exact ⟨fun _ => rfl, fun hp => absurd (h.1 rfl) hp⟩
  | false => exact ⟨fun hp => absurd (h.2 hp) Bool.false_ne_true, fun _ => rfl⟩

end Sys2Proof.Proofs
end

section

/-!
Rounding into a binary float format (R87, R94 to R97): the values of its codes, which increase, and the code that `toBinary`
takes among them.
-/

namespace Sys2Proof.Proofs

open Sys2Proof Sys2Proof.Machine Sys2Proof.Claims

variable {f : Fmt} {x : Exact} {mode : Rnd} {u : Nat}

/-- A power-of-two rational (R87, R89). -/
theorem pow2Rat_rat (s : Bool) (m : Nat) (e : Int) : ∃ n d : Nat, pow2Rat s m e = .rat s n d ∧ 0 < d ∧ (n : ℚ) / d = m * 2 ^ e := by
  rw [pow2Rat]
  split
  · next h => exact ⟨_, _, rfl, Nat.one_pos, by rw [Nat.cast_one, div_one, Nat.cast_mul, zpow_of_nonneg h]⟩
  · next h => exact ⟨_, _, rfl, Nat.two_pow_pos _, by rw [zpow_of_nonneg (by omega), zpow_neg, div_inv_eq_mul]⟩

/-! Values of codes. -/

/-- The exponent field of a magnitude code, which counts as 1 where it is 0 (R87). -/
def binExp (f : Fmt) (c : Nat) : Nat := max (c / 2 ^ fracBits f) 1

/-- The significand of a magnitude code, in units (R87). -/
def binSig (f : Fmt) (c : Nat) : Nat := c - (binExp f c - 1) * 2 ^ fracBits f

/-- The unit of an exponent field (R87). -/
def binUnit (f : Fmt) (e : Nat) : ℚ := 2 ^ ((e : Int) - biasOf f - fracBits f)

/-- The value of a magnitude code (R87). -/
def binVal (f : Fmt) (c : Nat) : ℚ := binSig f c * binUnit f (binExp f c)

theorem binUnit_pos (f : Fmt) (e : Nat) : 0 < binUnit f e := zpow_pos two_pos _

/-- The value of `q` units above an exponent's first code, the next exponent's first code included. -/
theorem binVal_units {e q : Nat} (he : 1 ≤ e) (hq : 2 ^ fracBits f ≤ q ∨ e = 1) (hlt : q ≤ 2 * 2 ^ fracBits f) :
    binVal f ((e - 1) * 2 ^ fracBits f + q) = q * binUnit f e := by
  have hp := Nat.two_pow_pos (fracBits f)
  have hdiv : ((e - 1) * 2 ^ fracBits f + q) / 2 ^ fracBits f = e - 1 + q / 2 ^ fracBits f := by
    rw [Nat.add_comm, Nat.add_mul_div_right _ _ hp, Nat.add_comm]
  rcases Nat.lt_or_eq_of_le hlt with hlt | rfl
  · have hexp : binExp f ((e - 1) * 2 ^ fracBits f + q) = e := by
      rw [binExp, hdiv]
      rcases Nat.lt_or_ge q (2 ^ fracBits f) with hsub | hnorm
      · rw [Nat.div_eq_of_lt hsub]; omega
      · rw [Nat.div_eq_of_lt_le (by omega : 1 * 2 ^ fracBits f ≤ q) (by omega)]; omega
    rw [binVal, binSig, hexp, Nat.add_sub_cancel_left]
  · have hexp : binExp f ((e - 1) * 2 ^ fracBits f + 2 * 2 ^ fracBits f) = e + 1 := by
      rw [binExp, hdiv, Nat.mul_div_cancel _ hp]; omega
    have hsig : binSig f ((e - 1) * 2 ^ fracBits f + 2 * 2 ^ fracBits f) = 2 ^ fracBits f := by
      rw [binSig, hexp, ← Nat.add_mul, ← Nat.sub_mul]
      convert Nat.one_mul _ using 2
      omega
    have hunit : binUnit f (e + 1) = 2 * binUnit f e := by
      rw [binUnit, binUnit, ← zpow_one_add₀ two_ne_zero]
      congr 1
      push_cast
      ring
    rw [binVal, hexp, hsig, hunit]
    push_cast
    ring

/-- A code is its significand above its exponent's first code. -/
theorem bin_code (f : Fmt) (c : Nat) : (binExp f c - 1) * 2 ^ fracBits f + binSig f c = c ∧ 1 ≤ binExp f c ∧
    (2 ^ fracBits f ≤ binSig f c ∨ binExp f c = 1) ∧ binSig f c < 2 * 2 ^ fracBits f := by
  have hdm := Nat.div_add_mod' c (2 ^ fracBits f)
  have hmod := Nat.mod_lt c (Nat.two_pow_pos (fracBits f))
  rcases Nat.eq_zero_or_pos (c / 2 ^ fracBits f) with h0 | hpos
  · rw [h0, Nat.zero_mul] at hdm
    have hexp : binExp f c = 1 := by rw [binExp, h0]; rfl
    rw [binSig, hexp, Nat.sub_self, Nat.zero_mul]
    omega
  · obtain ⟨k, hk⟩ := Nat.exists_eq_succ_of_ne_zero hpos.ne'
    rw [hk, Nat.succ_mul] at hdm
    have hexp : binExp f c = k + 1 := by rw [binExp, hk]; omega
    rw [binSig, hexp, Nat.add_sub_cancel]
    omega

theorem binVal_succ (f : Fmt) (c : Nat) : binVal f (c + 1) = binVal f c + binUnit f (binExp f c) := by
  obtain ⟨hcode, he, hq, hlt⟩ := bin_code f c
  have hnext := binVal_units (f := f) (e := binExp f c) (q := binSig f c + 1) he (by omega) hlt
  rw [← Nat.add_assoc, hcode] at hnext
  rw [hnext, binVal]
  push_cast
  ring

theorem binVal_strictMono (f : Fmt) : StrictMono (binVal f) :=
  strictMono_nat_of_lt_succ fun c => by rw [binVal_succ]; exact lt_add_of_pos_right _ (binUnit_pos ..)

theorem binVal_zero (f : Fmt) : binVal f 0 = 0 := by simp [binVal, binSig]

/-! Codes decoded. -/

/-- What the binary formats have in common (R87). -/
theorem binary_maxCode (hf : f.isFloat = true) (ht : tapered f = false) :
    maxCode f < 2 ^ (f.width - 1) ∧ 2 ^ fracBits f ≤ maxCode f ∧ 1 ≤ maxCode f % 2 ^ fracBits f ∧ 2 ∣ 2 ^ fracBits f ∧
      1 ≤ biasOf f := by
  revert hf ht
  cases f <;> decide

/-- A finite code of a binary format (R87). -/
theorem decodeElem_binary (ht : tapered f = false) {v : Nat} (hm : v % 2 ^ (f.width - 1) ≤ maxCode f) :
    decodeElem f v = pow2Rat (v.testBit (f.width - 1)) (binSig f (v % 2 ^ (f.width - 1)))
      ((binExp f (v % 2 ^ (f.width - 1)) : Int) - biasOf f - fracBits f) := by
  have hdm := Nat.div_add_mod' (v % 2 ^ (f.width - 1)) (2 ^ fracBits f)
  have hmod := Nat.mod_lt (v % 2 ^ (f.width - 1)) (Nat.two_pow_pos (fracBits f))
  have hnan : f = .e4m3 → v % 2 ^ (f.width - 1) ≠ 0x7F := fun h => by
    subst h
    have : v % 2 ^ (Fmt.e4m3.width - 1) ≤ 0x7E := hm
    omega
  have hparts : (if v % 2 ^ (f.width - 1) / 2 ^ fracBits f = 0
      then pow2Rat (v.testBit (f.width - 1)) (v % 2 ^ (f.width - 1) % 2 ^ fracBits f) (1 - biasOf f - fracBits f)
      else pow2Rat (v.testBit (f.width - 1)) (2 ^ fracBits f + v % 2 ^ (f.width - 1) % 2 ^ fracBits f)
        ((v % 2 ^ (f.width - 1) / 2 ^ fracBits f : Nat) - biasOf f - fracBits f)) =
      pow2Rat (v.testBit (f.width - 1)) (binSig f (v % 2 ^ (f.width - 1)))
        ((binExp f (v % 2 ^ (f.width - 1)) : Int) - biasOf f - fracBits f) := by
    generalize v % 2 ^ (f.width - 1) = m at hdm hmod
    split
    · next h0 =>
      have hexp : binExp f m = 1 := by rw [binExp, h0]; rfl
      have hsig : binSig f m = m % 2 ^ fracBits f := by
        rw [h0, Nat.zero_mul] at hdm
        rw [binSig, hexp, Nat.sub_self, Nat.zero_mul]
        omega
      rw [hexp, hsig]
      rfl
    · next h0 =>
      obtain ⟨k, hk⟩ := Nat.exists_eq_succ_of_ne_zero h0
      have hexp : binExp f m = k + 1 := by rw [binExp, hk]; omega
      have hsig : binSig f m = 2 ^ fracBits f + m % 2 ^ fracBits f := by
        rw [hk, Nat.succ_mul] at hdm
        rw [binSig, hexp, Nat.add_sub_cancel]
        omega
      rw [hexp, hsig, hk]
  rw [← hparts]
  simp only [decodeElem, ht, Bool.false_eq_true, if_false]
  split
  · next h => rw [if_neg (hnan h)]
  · rw [if_neg (Nat.not_lt.2 hm)]

/-- The value of a magnitude code (R87). -/
theorem ratValue_binary (hf : f.isFloat = true) (ht : tapered f = false) {c : Nat} (hc : c ≤ maxCode f) :
    ratValue (decodeElem f c) = binVal f c := by
  have hlt : c < 2 ^ (f.width - 1) := Nat.lt_of_le_of_lt hc (binary_maxCode hf ht).1
  have hmod : c % 2 ^ (f.width - 1) = c := Nat.mod_eq_of_lt hlt
  rw [decodeElem_binary ht (by rwa [hmod]), hmod, Nat.testBit_lt_two_pow hlt]
  obtain ⟨n, d, he, -, hv⟩ := pow2Rat_rat false (binSig f c) ((binExp f c : Int) - biasOf f - fracBits f)
  rw [he, ratValue, if_neg Bool.false_ne_true, one_mul, hv]
  rfl

/-! The code that `toBinary` takes. -/

/-- Rounding in units of the exponent that the magnitude has (R94, R95). -/
theorem toBinary_neighbour (hf : f.isFloat = true) (ht : tapered f = false) (hx : isNumber x) (mode : Rnd) (sat : Bool) (u : Nat) :
    ∃ c hi, Neighbour (binVal f) mode x u c hi ∧ toBinary f mode sat x u =
      if maxCode f < c + hi.toNat then overflowCode f mode x.neg sat else signBit f x.neg + (c + hi.toNat) := by
  obtain ⟨hlog, hlog'⟩ := log2_spec hx
  obtain ⟨-, -, -, heven, hbias⟩ := binary_maxCode hf ht
  obtain ⟨hi, hnb, hround⟩ := roundUnits_neighbour (isNumber_scale hx (fracBits f - max x.log2 (1 - (biasOf f : Int)))) mode u
  set ue : Int := max x.log2 (1 - (biasOf f : Int)) with hue
  set y := x.scale (fracBits f - ue) with hy
  obtain ⟨e, he⟩ : ∃ e : Nat, (e : Int) = ue + biasOf f := ⟨(ue + biasOf f).toNat, by omega⟩
  have hbase : (ue + biasOf f - 1).toNat = e - 1 := by omega
  have hunit : binUnit f e = (2 ^ ((fracBits f : Int) - ue))⁻¹ := by rw [binUnit, ← zpow_neg]; congr 1; omega
  have hpow : ∀ k : Nat, ((2 ^ k : Nat) : ℚ) / 2 ^ ((fracBits f : Int) - ue) = 2 ^ ((k : Int) - fracBits f + ue) := fun k => by
    rw [Nat.cast_pow, Nat.cast_ofNat, ← zpow_natCast, ← zpow_sub₀ two_ne_zero]
    congr 1
    omega
  -- the whole part lies within the units of the exponent
  have hlt : y.floorMag < 2 * 2 ^ fracBits f := by
    rw [← Nat.pow_succ', ← Nat.not_le, le_floorMag (isNumber_scale hx _), reaches_scale hx, hpow]
    exact fun hle => hlog' (reaches_mono (by positivity) (zpow_le_zpow_right₀ one_le_two (by omega)) hle)
  have hq : 2 ^ fracBits f ≤ y.floorMag ∨ e = 1 := by
    rcases le_or_gt (1 - (biasOf f : Int)) x.log2 with hnorm | hsub
    · left
      rw [le_floorMag (isNumber_scale hx _), reaches_scale hx, hpow]
      exact reaches_mono (by positivity) (zpow_le_zpow_right₀ one_le_two (by omega)) hlog
    · right
      omega
  refine ⟨(e - 1) * 2 ^ fracBits f + y.floorMag, hi, hnb.unscale hx ?_ ?_ ?_, ?_⟩
  · rw [binVal_units (by omega) hq hlt.le, hunit, div_eq_mul_inv]
  · rw [Nat.add_assoc, binVal_units (by omega) (by omega) hlt, hunit, div_eq_mul_inv]
  · obtain ⟨k, hk⟩ := heven
    rw [hk, Nat.mul_left_comm, Nat.add_comm, Nat.add_mul_mod_self_left]
  · have hover : maxCode f < (e - 1) * 2 ^ fracBits f + y.floorMag ∨ maxCode f < (e - 1) * 2 ^ fracBits f + (y.floorMag + hi.toNat) ↔
        maxCode f < (e - 1) * 2 ^ fracBits f + y.floorMag + hi.toNat := by omega
    simp only [toBinary, ← hue, ← hy, hround, hbase]
    exact if_congr hover rfl (congrArg _ (Nat.add_assoc ..).symm)

end Sys2Proof.Proofs
end

section

/-!
Rounding into a tapered format (R89, R95, R96, R98): the values of its codes, which increase, the code below a magnitude, and
the draw's bound, digit by digit.
-/

namespace Sys2Proof.Proofs

open Sys2Proof Sys2Proof.Machine Sys2Proof.Claims

variable {f : Fmt} {x : Exact} {mode : Rnd} {u : Nat}

/-! Values of codes. -/

/-- The value of a tapered magnitude code (R89). -/
def tapVal (f : Fmt) (c : Nat) : ℚ := ((taperRat (f.width - 1) c).1 : ℚ) / (taperRat (f.width - 1) c).2

/-- Adjacent codes of a tapered format, compared as fractions (R89). -/
theorem taperRat_increases (ht : tapered f = true) : ∀ c < maxCode f,
    (taperRat (f.width - 1) c).1 * (taperRat (f.width - 1) (c + 1)).2 < (taperRat (f.width - 1) (c + 1)).1 * (taperRat (f.width - 1) c).2 := by
  cases f with
  | t6 | t8 => decide +kernel
  | _ => cases ht

/-- A tapered code as a rational (R89). -/
theorem taperRat_pos (w c : Nat) (hc : 0 < c) : pow2Rat false (taperParts w c).1 (taperParts w c).2 =
    .rat false (taperRat w c).1 (taperRat w c).2 ∧ 0 < (taperRat w c).2 ∧
      ((taperRat w c).1 : ℚ) / (taperRat w c).2 = (taperParts w c).1 * 2 ^ (taperParts w c).2 := by
  obtain ⟨n, d, he, hd, hv⟩ := pow2Rat_rat false (taperParts w c).1 (taperParts w c).2
  have hrat : taperRat w c = (n, d) := by simp only [taperRat, if_neg hc.ne', he]
  rw [he, hrat]
  exact ⟨rfl, hd, hv⟩

theorem taperRat_den (w c : Nat) : 0 < (taperRat w c).2 := by
  rcases Nat.eq_zero_or_pos c with rfl | hc
  · exact Nat.one_pos
  · exact (taperRat_pos w c hc).2.1

theorem tapVal_lt_succ (ht : tapered f = true) {c : Nat} (hc : c < maxCode f) : tapVal f c < tapVal f (c + 1) := by
  rw [tapVal, tapVal, div_lt_div_iff₀ (Nat.cast_pos.2 (taperRat_den ..)) (Nat.cast_pos.2 (taperRat_den ..))]
  exact_mod_cast taperRat_increases ht c hc

theorem tapVal_le (ht : tapered f = true) {i j : Nat} (hij : i ≤ j) (hj : j ≤ maxCode f) : tapVal f i ≤ tapVal f j := by
  induction j, hij using Nat.le_induction with
  | base => exact le_rfl
  | succ j _ ih => exact le_trans (ih (Nat.le_of_succ_le hj)) (tapVal_lt_succ ht hj).le

theorem tapVal_nonneg (f : Fmt) (c : Nat) : 0 ≤ tapVal f c := div_nonneg (Nat.cast_nonneg _) (Nat.cast_nonneg _)

theorem tapVal_zero (f : Fmt) : tapVal f 0 = 0 := by simp [tapVal, taperRat]

theorem maxCode_tapered (ht : tapered f = true) : maxCode f = 2 ^ (f.width - 1) - 1 ∧ 1 < maxCode f := by
  revert ht
  cases f <;> decide

/-- A code of a tapered format other than zero and NaR (R89). -/
theorem decodeElem_tapered (ht : tapered f = true) {v : Nat} (hm : v % 2 ^ (f.width - 1) ≠ 0) :
    decodeElem f v = pow2Rat (v.testBit (f.width - 1)) (taperParts (f.width - 1) (v % 2 ^ (f.width - 1))).1
      (taperParts (f.width - 1) (v % 2 ^ (f.width - 1))).2 := by
  simp only [decodeElem, ht, if_true, if_neg hm]

/-- The value of a magnitude code (R89). -/
theorem ratValue_tapered (ht : tapered f = true) {c : Nat} (hc : c ≤ maxCode f) : ratValue (decodeElem f c) = tapVal f c := by
  have hmax := (maxCode_tapered ht).1
  have hp := Nat.two_pow_pos (f.width - 1)
  have hlt : c < 2 ^ (f.width - 1) := by omega
  have hmod : c % 2 ^ (f.width - 1) = c := Nat.mod_eq_of_lt hlt
  rcases Nat.eq_zero_or_pos c with rfl | hpos
  · simp [decodeElem, ht, tapVal_zero, ratValue]
  · rw [decodeElem_tapered ht (by omega), hmod, Nat.testBit_lt_two_pow hlt, (taperRat_pos _ c hpos).1, ratValue,
      if_neg Bool.false_ne_true, one_mul, tapVal]

/-! The code below a magnitude. -/

section Number
variable (hx : isNumber x)
include hx

/-- The search takes a code whose value the magnitude reaches, and otherwise goes on below it. -/
theorem taperBelow_succ (f : Fmt) (k : Nat) : (reaches x (tapVal f (k + 1)) → taperBelow (f.width - 1) x (k + 1) = k + 1) ∧
    (¬ reaches x (tapVal f (k + 1)) → taperBelow (f.width - 1) x (k + 1) = taperBelow (f.width - 1) x k) := by
  obtain ⟨he, hd, -⟩ := taperRat_pos (f.width - 1) (k + 1) (Nat.succ_pos k)
  have hlt : x.cmpMag (taperRat (f.width - 1) (k + 1)).1 (taperRat (f.width - 1) (k + 1)).2 = .lt ↔
      ¬ reaches x (tapVal f (k + 1)) := cmpMag_lt hx hd
  rw [taperBelow]
  simp only [he]
  exact ⟨fun h => if_neg fun h' => hlt.1 h' h, fun h => if_pos (hlt.2 h)⟩

theorem taperBelow_eq_zero (f : Fmt) : ∀ k, (∀ j, 0 < j → j ≤ k → ¬ reaches x (tapVal f j)) → taperBelow (f.width - 1) x k = 0
  | 0, _ => rfl
  | k + 1, h => by
    rw [(taperBelow_succ hx f k).2 (h _ (Nat.succ_pos k) le_rfl)]
    exact taperBelow_eq_zero f k fun j hj hjk => h j hj (Nat.le_succ_of_le hjk)

theorem taperBelow_eq (f : Fmt) {c : Nat} (hc : 0 < c) (hreach : reaches x (tapVal f c)) : ∀ k, c ≤ k →
    (∀ j, c < j → j ≤ k → ¬ reaches x (tapVal f j)) → taperBelow (f.width - 1) x k = c
  | 0, hck, _ => by omega
  | k + 1, hck, h => by
    rcases Nat.eq_or_lt_of_le hck with rfl | hlt
    · exact (taperBelow_succ hx f k).1 hreach
    · rw [(taperBelow_succ hx f k).2 (h _ hlt le_rfl)]
      exact taperBelow_eq f hc hreach k (Nat.le_of_lt_succ hlt) fun j hj hjk => h j hj (Nat.le_succ_of_le hjk)

/-! The draw's bound. -/

omit hx in
/-- Binary digits find the last of the bounds that a magnitude reaches (R96). -/
theorem drawBound_spec {lo hi : Nat × Nat} {p : Nat → Prop} (hp : ∀ t, x.cmpMag (lo.1 * hi.2 * 2 ^ 32 + t * (hi.1 * lo.2 - lo.1 * hi.2))
    (lo.2 * hi.2 * 2 ^ 32) = .lt ↔ ¬ p t) : ∀ k t, p t → ¬ p (t + 2 ^ k) →
    p (drawBound x lo hi k t) ∧ ¬ p (drawBound x lo hi k t + 1)
  | 0, _, ht, hk => ⟨ht, hk⟩
  | k + 1, t, ht, hk => by
    rw [drawBound]
    split
    · next h => exact drawBound_spec hp k t ht ((hp _).1 h)
    · next h =>
      refine drawBound_spec hp k _ (not_not.1 fun hn => h ((hp _).2 hn)) ?_
      rwa [Nat.add_assoc, ← Nat.two_mul, ← Nat.pow_succ']

/-- A draw takes the neighbour above where it lies below the bound (R96). -/
theorem lt_drawBound {a b c d : Nat} (hb : 0 < b) (hd : 0 < d) (hle : a * d ≤ c * b) (hlo : reaches x ((a : ℚ) / b))
    (hhi : ¬ reaches x ((c : ℚ) / d)) : u < drawBound x (a, b) (c, d) 32 0 ↔
      reaches x ((a : ℚ) / b + ((u : ℚ) + 1) * ((c : ℚ) / d - (a : ℚ) / b) / 2 ^ 32) := by
  have hb' : (b : ℚ) ≠ 0 := Nat.cast_ne_zero.2 hb.ne'
  have hd' : (d : ℚ) ≠ 0 := Nat.cast_ne_zero.2 hd.ne'
  have hgap : (0 : ℚ) ≤ (c : ℚ) / d - (a : ℚ) / b := by
    rw [sub_nonneg, div_le_div_iff₀ (Nat.cast_pos.2 hb) (Nat.cast_pos.2 hd)]
    exact_mod_cast hle
  have hmono : ∀ t t' : Nat, t ≤ t' → reaches x ((a : ℚ) / b + t' * ((c : ℚ) / d - (a : ℚ) / b) / 2 ^ 32) →
      reaches x ((a : ℚ) / b + t * ((c : ℚ) / d - (a : ℚ) / b) / 2 ^ 32) := fun t t' htt h => by
    have : (t : ℚ) ≤ t' := Nat.cast_le.2 htt
    exact reaches_mono (by positivity) (by gcongr) h
  obtain ⟨hreach, hpast⟩ := drawBound_spec (x := x) (lo := (a, b)) (hi := (c, d))
    (p := fun t => reaches x ((a : ℚ) / b + (t : ℚ) * ((c : ℚ) / d - (a : ℚ) / b) / 2 ^ 32)) (fun t => by
      rw [cmpMag_lt hx (by positivity)]
      refine not_congr (iff_of_eq (congrArg _ ?_))
      push_cast [Nat.cast_sub hle]
      field_simp
      ring) 32 0 (by simpa using hlo) (by
      have : (a : ℚ) / b + ((0 + 2 ^ 32 : Nat) : ℚ) * ((c : ℚ) / d - (a : ℚ) / b) / 2 ^ 32 = (c : ℚ) / d := by
        push_cast
        ring
      rwa [this])
  rw [← Nat.cast_succ]
  exact ⟨fun h => hmono _ _ h hreach, fun h => Nat.lt_of_not_le fun hle => hpast (hmono _ _ (Nat.succ_le_succ hle) h)⟩

/-! The code that `toTapered` takes. -/

/-- At both ends a tapered format keeps its least and its greatest value (R98). -/
theorem toTapered_ends (ht : tapered f = true) (mode : Rnd) (u : Nat) :
    (¬ reaches x (tapVal f 1) → toTapered f mode x u = signBit f x.neg + 1) ∧
    (reaches x (tapVal f (maxCode f)) → toTapered f mode x u = signBit f x.neg + maxCode f) := by
  have hmax := (maxCode_tapered ht).2
  constructor
  · intro h
    have hc : taperBelow (f.width - 1) x (maxCode f) = 0 := taperBelow_eq_zero hx f _ fun j hj hjk hreach =>
      h (reaches_mono (tapVal_nonneg f 1) (tapVal_le ht hj hjk) hreach)
    simp only [toTapered, hc, if_true]
  · intro h
    have hc : taperBelow (f.width - 1) x (maxCode f) = maxCode f := taperBelow_eq hx f (by omega) h _ le_rfl fun j hj hjk => by omega
    simp only [toTapered, hc, if_true, if_neg (show ¬ maxCode f = 0 by omega)]

/-- Between its ends a tapered format rounds to a neighbour (R95). -/
theorem toTapered_neighbour (ht : tapered f = true) (mode : Rnd) (u : Nat) {c : Nat} (hc : 0 < c) (hlt : c < maxCode f)
    (hlo : reaches x (tapVal f c)) (hhi : ¬ reaches x (tapVal f (c + 1))) :
    ∃ hi, Neighbour (tapVal f) mode x u c hi ∧ toTapered f mode x u = signBit f x.neg + (c + hi.toNat) := by
  have hbelow : taperBelow (f.width - 1) x (maxCode f) = c := taperBelow_eq hx f hc hlo _ hlt.le fun j hj hjk hreach =>
    hhi (reaches_mono (tapVal_nonneg f _) (tapVal_le ht hj hjk) hreach)
  have hd := taperRat_den (f.width - 1) c
  have hd' := taperRat_den (f.width - 1) (c + 1)
  refine ⟨_, ⟨hlo, hhi, fun h => ?_, fun h hmode => ?_⟩, by
    simp only [toTapered, hbelow]
    rw [if_neg hc.ne', if_neg hlt.ne]⟩
  · rw [decide_eq_true ((cmpMag_eq hx hd).2 ⟨hlo, h⟩), takesHi_exact]
  · rw [decide_eq_false fun heq => ((cmpMag_eq hx hd).1 heq).2 h]
    refine takesHi_iff hx hmode _ (by positivity) ?_ ?_
    · rw [tapVal, tapVal]
      push_cast
      field_simp
    · exact lt_drawBound hx hd hd' (taperRat_increases ht c hlt).le hlo hhi

end Number

end Sys2Proof.Proofs
end

section

/-!
Rounding into any format (R87, R89, R95 to R98): a value that a format holds, a number between two, what lies past the ends,
and the conversion to integers.
-/

namespace Sys2Proof.Proofs

open Sys2Proof Sys2Proof.Machine Sys2Proof.Claims

variable {f : Fmt} {x : Exact} {mode : Rnd} {sat : Bool} {u : Nat}

theorem exceeds_zero (hx : isNumber x) : exceeds x 0 := by
  cases x with
  | rat s n d => exact div_pos (Nat.cast_pos.2 hx.1) (Nat.cast_pos.2 hx.2)
  | root s n d =>
    show (0 : ℚ) ^ 2 < (n : ℚ) / d
    rw [zero_pow (by decide)]
    exact div_pos (Nat.cast_pos.2 hx.1) (Nat.cast_pos.2 hx.2)
  | _ => exact hx

/-- Rounding a number (R95). -/
theorem roundTo_number (hx : isNumber x) (f : Fmt) (mode : Rnd) (sat : Bool) (u : Nat) :
    roundTo f mode sat x u = if tapered f then toTapered f mode x u else toBinary f mode sat x u := by
  cases x with
  | rat s n d => exact if_neg (by simpa [Exact.isZero] using hx.1.ne')
  | root s n d => exact if_neg (by simpa [Exact.isZero] using hx.1.ne')
  | _ => exact hx.elim

/-- The value of a magnitude code of any float format. -/
def magVal (f : Fmt) (c : Nat) : ℚ := if tapered f then tapVal f c else binVal f c

theorem ratValue_code (hf : f.isFloat = true) {c : Nat} (hc : c ≤ maxCode f) : ratValue (decodeElem f c) = magVal f c := by
  rw [magVal]
  split
  · next ht => exact ratValue_tapered ht hc
  · next ht => exact ratValue_binary hf (Bool.eq_false_iff.2 ht) hc

theorem magVal_zero (f : Fmt) : magVal f 0 = 0 := by rw [magVal, tapVal_zero, binVal_zero, ite_self]

theorem magVal_lt_succ {c : Nat} (hc : c < maxCode f) : magVal f c < magVal f (c + 1) := by
  rw [magVal, magVal]
  split
  · next ht => exact tapVal_lt_succ ht hc
  · exact binVal_strictMono f (Nat.lt_succ_self c)

theorem magVal_nonneg (f : Fmt) (c : Nat) : 0 ≤ magVal f c := by
  rw [magVal]
  split
  · exact tapVal_nonneg f c
  · rw [← binVal_zero f]; exact (binVal_strictMono f).monotone (Nat.zero_le c)

section Number
variable (hf : f.isFloat = true) (hx : isNumber x)
include hf hx

/-- Between two values of a format a number goes to the neighbour that the mode chooses, and each value is kept (R95, R96). -/
theorem roundTo_neighbour (mode : Rnd) (sat : Bool) (u : Nat) {c : Nat} (hc : c < maxCode f) (hpos : tapered f = true → 0 < c)
    (hlo : reaches x (magVal f c)) (hhi : ¬ reaches x (magVal f (c + 1))) :
    ∃ hi, Neighbour (magVal f) mode x u c hi ∧ roundTo f mode sat x u = signBit f x.neg + (c + hi.toNat) := by
  rw [roundTo_number hx]
  cases ht : tapered f with
  | true =>
    have hval : magVal f = tapVal f := funext fun _ => if_pos ht
    rw [hval] at hlo hhi ⊢
    exact toTapered_neighbour hx ht mode u (hpos ht) hc hlo hhi
  | false =>
    have hval : magVal f = binVal f := funext fun _ => if_neg (by simp [ht])
    rw [hval] at hlo hhi ⊢
    obtain ⟨c', hi, hnb, hround⟩ := toBinary_neighbour hf ht hx mode sat u
    obtain rfl := hnb.unique (binVal_strictMono f) (binVal_zero f).ge hlo hhi
    refine ⟨hi, hnb, hround.trans (if_neg ?_)⟩
    have := hi.toNat_le
    omega

/-- A value that the format holds is kept, in every mode, whatever the draw (R95). -/
theorem roundTo_value (mode : Rnd) (sat : Bool) (u : Nat) {c : Nat} (hc : c ≤ maxCode f) (hlo : reaches x (magVal f c))
    (hhi : ¬ exceeds x (magVal f c)) : roundTo f mode sat x u = signBit f x.neg + c := by
  rcases Nat.eq_or_lt_of_le hc with rfl | hlt
  · rw [roundTo_number hx]
    cases ht : tapered f with
    | true => exact (toTapered_ends hx ht mode u).2 (by rwa [magVal, if_pos ht] at hlo)
    | false =>
      rw [magVal, if_neg (by simp [ht])] at hlo hhi
      obtain ⟨c, hi, hnb, hround⟩ := toBinary_neighbour hf ht hx mode sat u
      obtain ⟨rfl, rfl⟩ := hnb.of_value (binVal_strictMono f) (binVal_zero f).ge hlo hhi
      exact hround.trans (if_neg (by simp))
  · have hpos : 0 < c := Nat.pos_of_ne_zero fun h0 => hhi (by rw [h0, magVal_zero]; exact exceeds_zero hx)
    have hnext : ¬ reaches x (magVal f (c + 1)) := fun h => hhi (exceeds_of_lt (magVal_nonneg f c) (magVal_lt_succ hlt) h)
    obtain ⟨hi, hnb, hround⟩ := roundTo_neighbour hf hx mode sat u hlt (fun _ => hpos) hlo hnext
    rw [hround, hnb.kept hhi]
    rfl

end Number

theorem magVal_pos {c : Nat} (hc : c ≤ maxCode f) (hpos : 0 < c) : 0 < magVal f c := by
  obtain ⟨k, rfl⟩ := Nat.exists_eq_succ_of_ne_zero hpos.ne'
  exact lt_of_le_of_lt (magVal_nonneg f k) (magVal_lt_succ hc)

/-- The step past the largest finite magnitude of a binary format is as wide as the one before it (R97). -/
theorem next_eq (hf : f.isFloat = true) (ht : tapered f = false) :
    2 * binVal f (maxCode f) - binVal f (maxCode f - 1) = binVal f (maxCode f + 1) := by
  obtain ⟨-, hle, hmod, -, -⟩ := binary_maxCode hf ht
  have hp := Nat.two_pow_pos (fracBits f)
  have hdm := Nat.div_add_mod (maxCode f) (2 ^ fracBits f)
  have hdiv : (maxCode f - 1) / 2 ^ fracBits f = maxCode f / 2 ^ fracBits f := by
    have hlt := Nat.mod_lt (maxCode f) hp
    have hsplit : maxCode f - 1 = (maxCode f % 2 ^ fracBits f - 1) + 2 ^ fracBits f * (maxCode f / 2 ^ fracBits f) := by omega
    rw [hsplit, Nat.add_mul_div_left _ _ hp, Nat.div_eq_of_lt (by omega), Nat.zero_add]
  have hexp : binExp f (maxCode f - 1) = binExp f (maxCode f) := by rw [binExp, hdiv, binExp]
  have hbelow := binVal_succ f (maxCode f - 1)
  rw [hexp, Nat.sub_add_cancel (Nat.le_trans hp hle)] at hbelow
  rw [binVal_succ f (maxCode f)]
  linarith

/-- A code's value with a sign rounds to the code with that sign. -/
theorem roundTo_rat (hf : f.isFloat = true) (mode : Rnd) (sat : Bool) (u : Nat) (s : Bool) {n d c : Nat} (hd : 0 < d)
    (hc : c ≤ maxCode f) (hpos : tapered f = true → 0 < c) (hv : (n : ℚ) / d = magVal f c) :
    roundTo f mode sat (.rat s n d) u = signBit f s + c := by
  rcases Nat.eq_zero_or_pos n with rfl | hn
  · obtain rfl : c = 0 := by
      by_contra h0
      have := magVal_pos hc (Nat.pos_of_ne_zero h0)
      rw [← hv, Nat.cast_zero, zero_div] at this
      exact lt_irrefl _ this
    have ht : tapered f = false := Bool.eq_false_iff.2 fun ht => Nat.lt_irrefl 0 (hpos ht)
    simp [roundTo, Exact.isZero, ht, Exact.neg]
  · have hx : isNumber (.rat s n d) := ⟨hn, hd⟩
    exact roundTo_value hf hx mode sat u hc (le_of_eq hv.symm) (not_lt.2 (le_of_eq hv))

/-! Codes are the codes of their own values. -/

/-- A code is its sign bit and its magnitude. -/
theorem code_split {v : Nat} (hv : v < 2 ^ f.width) : v = signBit f (v.testBit (f.width - 1)) + v % 2 ^ (f.width - 1) := by
  have hw := width_pos f
  have hp : 2 ^ f.width = 2 * 2 ^ (f.width - 1) := by rw [← Nat.pow_succ', Nat.succ_eq_add_one, Nat.sub_add_cancel hw]
  have hdm := Nat.div_add_mod v (2 ^ (f.width - 1))
  have hlt : v / 2 ^ (f.width - 1) < 2 := Nat.div_lt_of_lt_mul (by rwa [Nat.mul_comm, ← hp])
  rw [signBit, Nat.testBit_eq_decide_div_mod_eq, Nat.mod_eq_of_lt hlt]
  generalize v / 2 ^ (f.width - 1) = k at hdm hlt
  obtain rfl | rfl : k = 0 ∨ k = 1 := by omega
  · rw [Nat.mul_zero, Nat.zero_add] at hdm
    simp [hdm]
  · rw [Nat.mul_one] at hdm
    simp [hdm]

/-- The infinities' code and the NaNs above it (R87). -/
theorem binary_special (hf : f.isFloat = true) (ht : tapered f = false) (h4 : f ≠ .e4m3) :
    2 ^ (f.width - 1) = maxCode f + 1 + 2 ^ fracBits f ∧ 2 ^ fracBits f ∣ maxCode f + 1 := by
  revert hf ht h4
  cases f <;> decide

/-- Every code but a NaN's is the code of its own value (R87, R89). -/
theorem roundTo_decodeElem (hf : f.isFloat = true) {v : Nat} (hv : v < 2 ^ f.width) (hnan : decodeElem f v ≠ .nan) (mode : Rnd)
    (sat : Bool) (u : Nat) : roundTo f mode sat (decodeElem f v) u = v := by
  have hsplit := code_split hv
  have hm := Nat.mod_lt v (Nat.two_pow_pos (f.width - 1))
  cases ht : tapered f with
  | true =>
    rcases Nat.eq_zero_or_pos (v % 2 ^ (f.width - 1)) with h0 | hpos
    · have hzero : decodeElem f v = if v.testBit (f.width - 1) then .nan else .rat false 0 1 := by
        simp only [decodeElem, ht, h0, if_true]
      cases hneg : v.testBit (f.width - 1) with
      | true => exact absurd (hzero.trans (if_pos hneg)) hnan
      | false =>
        rw [hneg, h0] at hsplit
        rw [hzero, hneg, hsplit]
        simp [roundTo, Exact.isZero, ht, signBit]
    · obtain ⟨n, d, he, hd, hval⟩ := pow2Rat_rat (v.testBit (f.width - 1)) (taperParts (f.width - 1) (v % 2 ^ (f.width - 1))).1
        (taperParts (f.width - 1) (v % 2 ^ (f.width - 1))).2
      rw [decodeElem_tapered ht hpos.ne', he, roundTo_rat hf mode sat u _ hd (Nat.le_of_lt_succ ?_) (fun _ => hpos) ?_, ← hsplit]
      · have := (maxCode_tapered ht).1
        omega
      · rw [hval, magVal, if_pos ht, tapVal, (taperRat_pos _ _ hpos).2.2]
  | false =>
    rcases Nat.lt_or_ge (maxCode f) (v % 2 ^ (f.width - 1)) with hpast | hfinite
    · by_cases h4 : f = .e4m3
      · subst h4
        have hnan' : v % 2 ^ (Fmt.e4m3.width - 1) = 0x7F := by
          have hpast : 0x7E < v % 2 ^ 7 := hpast
          have hm : v % 2 ^ 7 < 2 ^ 7 := hm
          show v % 2 ^ 7 = 0x7F
          omega
        exact absurd (by simp only [decodeElem, ht, hnan', Bool.false_eq_true, if_false, if_true]) hnan
      · have hfrac : v % 2 ^ (f.width - 1) % 2 ^ fracBits f = 0 := by
          by_contra h0
          exact hnan (by simp only [decodeElem, ht, h4, if_pos hpast, if_neg h0, Bool.false_eq_true, if_false])
        obtain ⟨hspecial, hdvd⟩ := binary_special hf ht h4
        have hmag : v % 2 ^ (f.width - 1) = maxCode f + 1 := by
          have hdiff := (Nat.dvd_sub (Nat.dvd_of_mod_eq_zero hfrac) hdvd)
          have := Nat.eq_zero_of_dvd_of_lt hdiff (by omega)
          omega
        have hinf : decodeElem f v = .inf (v.testBit (f.width - 1)) := by
          simp only [decodeElem, ht, h4, if_pos hpast, if_pos hfrac, Bool.false_eq_true, if_false]
        rw [hmag] at hsplit
        rw [hinf]
        simp only [roundTo, ht, h4, Bool.false_eq_true, if_false]
        exact hsplit.symm
    · obtain ⟨n, d, he, hd, hval⟩ := pow2Rat_rat (v.testBit (f.width - 1)) (binSig f (v % 2 ^ (f.width - 1)))
        ((binExp f (v % 2 ^ (f.width - 1)) : Int) - biasOf f - fracBits f)
      rw [decodeElem_binary ht hfinite, he, roundTo_rat hf mode sat u _ hd hfinite (fun h => by simp [ht] at h) ?_, ← hsplit]
      rw [hval, magVal, if_neg (by simp [ht])]
      rfl

/-! Conversion to an integer. -/

/-- An integer in a format, clamped or refused out of range (R86, R97). -/
theorem convertTo_integer (hf : f.isFloat = false) (hx : isNumber x) (mode : Rnd) (sat : Bool) (u : Nat) :
    convertTo f mode sat x u =
      if intMin f ≤ roundToInt mode x u ∧ roundToInt mode x u ≤ intMax f then some (BitVec.ofInt f.width (roundToInt mode x u)).toNat
      else if sat then some (BitVec.ofInt f.width (max (intMin f) (min (intMax f) (roundToInt mode x u)))).toNat else none := by
  cases x with
  | rat | root => simp only [convertTo, hf, Bool.false_eq_true, if_false, wrapInt_eq_toNat, clampInt]
  | _ => exact hx.elim

theorem intMin_eq (f : Fmt) : intMin f = if f.signed then -2 ^ (f.width - 1) else 0 := by simp [intMin]

theorem intMax_eq (f : Fmt) : intMax f = if f.signed then 2 ^ (f.width - 1) - 1 else 2 ^ f.width - 1 := by simp [intMax]

/-! Past the largest finite magnitude of a binary format. -/

section Past
variable (hf : f.isFloat = true) (ht : tapered f = false) (hx : isNumber x)
include hf ht hx

/-- Between the largest finite magnitude and the next step the mode chooses (R97). -/
theorem toBinary_between (hmode : mode ≠ .ctx) (sat : Bool) (u : Nat) (hlo : exceeds x (binVal f (maxCode f)))
    (hhi : ¬ reaches x (binVal f (maxCode f + 1))) :
    byChoice (choosesHi mode (maxCode f % 2 = 1) x (binVal f (maxCode f)) (binVal f (maxCode f + 1)) u) (toBinary f mode sat x u)
      (overflowCode f mode x.neg sat) (signBit f x.neg + maxCode f) := by
  obtain ⟨c, hi, hnb, hround⟩ := toBinary_neighbour hf ht hx mode sat u
  obtain ⟨rfl, hiff⟩ := hnb.of_between (binVal_strictMono f) (binVal_zero f).ge hmode hlo hhi
  cases hi with
  | true =>
    rw [hround, if_pos (show maxCode f < maxCode f + true.toNat from Nat.lt_succ_self _)]
    exact ⟨fun _ => rfl, fun h => absurd (hiff.1 rfl) h⟩
  | false =>
    rw [hround, if_neg (show ¬ maxCode f < maxCode f + false.toNat from Nat.lt_irrefl _)]
    exact ⟨fun h => absurd (hiff.2 h) Bool.false_ne_true, fun _ => rfl⟩

/-- What reaches the next step overflows (R97). -/
theorem toBinary_overflow (mode : Rnd) (sat : Bool) (u : Nat) (h : reaches x (binVal f (maxCode f + 1))) :
    toBinary f mode sat x u = overflowCode f mode x.neg sat := by
  obtain ⟨c, hi, hnb, hround⟩ := toBinary_neighbour hf ht hx mode sat u
  have hpast : maxCode f < c := by
    by_contra hle
    have hnonneg : 0 ≤ binVal f (c + 1) := (binVal_zero f).ge.trans ((binVal_strictMono f).monotone (Nat.zero_le _))
    exact hnb.above (reaches_mono hnonneg ((binVal_strictMono f).monotone (by omega)) h)
  rw [hround, if_pos (Nat.lt_of_lt_of_le hpast (Nat.le_add_right ..))]

end Past

theorem nanCode_tapered (ht : tapered f = true) : nanCode f = 2 ^ (f.width - 1) := by
  cases f with
  | t6 | t8 => rfl
  | _ => cases ht

/-- Settles O13: values that a format holds, the neighbours, what lies past the ends, and integers. -/
theorem rounding : Obligations.Rounding := by
  unfold Obligations.Rounding
  refine ⟨fun f v hf hv hnan mode sat u => roundTo_decodeElem hf hv hnan mode sat u, fun f x mode sat u hf hx hmode => ?_,
    fun f mode sat u hf => ?_, fun f x mode sat u hf hmode => ?_⟩
  · intro mag code top next past
    have hmag : ∀ c, c ≤ top → mag c = magVal f c := fun c hc => ratValue_code hf hc
    refine ⟨fun c hc hlo hhi => ?_, fun c hc hpos hlo hhi => ?_, fun ht => ?_, fun ht => ?_⟩
    · rw [hmag c hc] at hlo hhi
      exact roundTo_value hf hx mode sat u hc hlo hhi
    · rw [hmag _ hc.le] at hlo ⊢
      rw [hmag _ hc] at hhi ⊢
      obtain ⟨hi, hnb, hround⟩ := roundTo_neighbour hf hx mode sat u hc hpos (reaches_of_exceeds hlo) hhi
      rw [hround]
      exact byChoice_of_iff (g := fun b => code (c + b.toNat)) (hnb.chosen hlo hmode)
    · obtain ⟨hleast, hgreatest⟩ := toTapered_ends hx ht mode u
      have hval : ∀ c, c ≤ top → mag c = tapVal f c := fun c hc => ratValue_tapered ht hc
      rw [roundTo_number hx, if_pos ht, hval top le_rfl, hval 1 (maxCode_tapered ht).2.le]
      exact ⟨fun h => hgreatest (reaches_of_exceeds h), hleast⟩
    · have hval : ∀ c, c ≤ top → mag c = binVal f c := fun c hc => ratValue_binary hf ht hc
      have hnext : next = binVal f (top + 1) := by
        rw [← next_eq hf ht, ← hval top le_rfl, ← hval (top - 1) (Nat.sub_le ..)]
      have hpast : overflowCode f mode x.neg sat = past := by
        cases sat with
        | true => rfl
        | false =>
          by_cases h4 : f = .e4m3
          · subst h4
            rfl
          · simp only [overflowCode, past, if_neg h4]
            cases mode <;> rfl
      rw [roundTo_number hx, if_neg (by simp [ht]), hval top le_rfl, hnext, ← hpast]
      exact ⟨toBinary_between hf ht hx hmode sat u, toBinary_overflow hf ht hx mode sat u⟩
  · intro sign
    refine ⟨rfl, fun s d hd => rfl, fun s => ?_, fun x => if_pos hf⟩
    cases ht : tapered f with
    | true => exact (if_pos ht).trans (nanCode_tapered ht)
    | false =>
      by_cases h4 : f = .e4m3
      · subst h4
        rfl
      · simp only [roundTo, ht, if_neg h4]
        rfl
  · intro least most put signed
    have hput : isNumber x → convertTo f mode sat x u = put (signed (roundUnits mode x u)) := fun hx => by
      rw [convertTo_integer hf hx, intMin_eq, intMax_eq]
      rfl
    refine ⟨fun hx q hlo hhi => ?_, fun s d _ => convertTo_integer_zero hf mode sat s d u, ?_, fun s => ?_⟩
    · obtain ⟨hi, hnb, hround⟩ := roundUnits_neighbour hx mode u
      obtain rfl := hnb.unique Nat.strictMono_cast le_rfl hlo (by exact_mod_cast hhi)
      rw [hput hx, hround]
      refine ⟨fun h => ?_, fun h => ?_⟩
      · rw [hnb.kept h]
        rfl
      · have hiff := hnb.chosen h hmode
        rw [Nat.cast_succ] at hiff
        exact byChoice_of_iff (g := fun b => put (signed (x.floorMag + b.toNat))) hiff
    · simp only [convertTo, hf, Bool.false_eq_true, if_false]
    · simp only [convertTo, hf, Bool.false_eq_true, if_false, wrapInt_eq_toNat, intMin_eq, intMax_eq]
      rfl

end Sys2Proof.Proofs
end

section

/-!
SUPPORT. The view of all bytes (R112, R118) through every way in which the model writes a state: field by field, by tables of
memory tiles, by branches and by folds; and the canonical form as a property of what an instruction answers.
-/

namespace Sys2Proof.Proofs

open Sys2Proof Sys2Proof.Machine Sys2Proof.Claims

variable {s t : State}

/-- The bytes of a table of memory tiles. -/
def tileBytes (l : List (TileId × MTile)) : TileId → List Host.Cell := fun u => (lookD MTile.reset u l).banks

/-- A state given field by field. -/
@[simp] theorem memOf_mk {a₁ a₂ a₃ a₄ a₅ a₆ a₇ a₈ a₉ a₁₀ a₁₁ a₁₂ a₁₃ a₁₄ mt mn b₁ b₂ b₃ b₄ b₅ b₆ b₇ b₈ b₉ b₁₀ b₁₁ b₁₂ b₁₃
    b₁₄ b₁₅ b₁₆ b₁₇ b₁₈} : memOf (State.mk a₁ a₂ a₃ a₄ a₅ a₆ a₇ a₈ a₉ a₁₀ a₁₁ a₁₂ a₁₃ a₁₄ mt mn b₁ b₂ b₃ b₄ b₅ b₆ b₇ b₈ b₉ b₁₀
      b₁₁ b₁₂ b₁₃ b₁₄ b₁₅ b₁₆ b₁₇ b₁₈) = (mn.cells, tileBytes mt) := rfl

@[simp] theorem memOf_fields (s : State) : (s.main.cells, tileBytes s.mtiles) = memOf s := rfl

/-- The bytes of tiles that a change leaves alone. -/
@[simp] theorem tileBytes_map (f : TileId × MTile → MTile) (hf : ∀ x, (f x).banks = x.2.banks) (l : List (TileId × MTile)) :
    tileBytes (l.map fun x => (x.1, f x)) = tileBytes l := funext fun u => banks_map f hf l u

@[simp] theorem memOf_ite {p : Prop} [Decidable p] : memOf (if p then s else t) = if p then memOf s else memOf t :=
  apply_ite ..

@[simp] theorem memWf_ite {p : Prop} [Decidable p] {x y : List Host.Cell × (TileId → List Host.Cell)} :
    MemWf (if p then x else y) ↔ if p then MemWf x else MemWf y := by
  split <;> rfl

/-- What `Kept` says of bytes. -/
theorem memOf_of_kept (k : Kept s t) : memOf t = memOf s :=
  Prod.ext k.main.1 (funext fun u => (k.tiles u).1)

theorem memOf_of_onlyMessages (h : OnlyMessages s t) : memOf t = memOf s := memOf_of_kept (kept_of_onlyMessages h)

@[simp] theorem memWf_cells (h : MemWf (memOf s)) : cellsWf s.main.cells = true := h.1

@[simp] theorem memWf_tile (h : MemWf (memOf s)) (u : TileId) : cellsWf (s.mtile u).banks = true := h.2 u

@[simp] theorem banks_setGen (m : MTile) (g : Nat) (x : Gen) : (m.setGen g x).banks = m.banks := rfl

/-- A next state's memories are in canonical form; any other outcome has no state. -/
def OutWf : Out → Prop
  | .next t => MemWf (memOf t)
  | .fault _ | .refused _ => True

@[simp] theorem outWf_next : OutWf (.next t) ↔ MemWf (memOf t) := Iff.rfl

@[simp] theorem outWf_ite {p : Prop} [Decidable p] {a b : Out} :
    OutWf (if p then a else b) ↔ if p then OutWf a else OutWf b := by
  split <;> rfl

/-- The state that a computation answers, if it answers one, has memories in canonical form. -/
def ResWf : Res State → Prop
  | .ok t => MemWf (memOf t)
  | .fault _ _ _ | .miss _ => True

@[simp] theorem resWf_ok : ResWf (.ok t) ↔ MemWf (memOf t) := Iff.rfl
@[simp] theorem resWf_fault (c : Nat) (a d : Word) : ResWf (.fault c a d) := trivial
@[simp] theorem resWf_miss (va : Nat) : ResWf (.miss va) := trivial

@[simp] theorem resWf_ite {p : Prop} [Decidable p] {a b : Res State} :
    ResWf (if p then a else b) ↔ if p then ResWf a else ResWf b := by
  split <;> rfl

end Sys2Proof.Proofs
end

section

/-!
SUPPORT. The view of all bytes (R112, R118) through emission, routes, faults and the operands: none of them writes a byte.
`memOf_f` says that `f` leaves every byte alone, `memWf_f` that it keeps every memory in canonical form where what it goes on
with does.
-/

namespace Sys2Proof.Proofs

open Sys2Proof Sys2Proof.Machine Sys2Proof.Claims

variable (s : State)

@[simp] theorem memOf_mapNum (n : Nat) (f : Ctx → Ctx) : memOf (s.mapNum n f) = memOf s := by
  unfold State.mapNum
  split <;> simp

@[simp] theorem memOf_mapBlock (r bc : Nat) (f : Block → Block) : memOf (s.mapBlock r bc f) = memOf s :=
  memOf_of_kept (kept_mapBlock ..)

@[simp] theorem memOf_tcFill (r ctx base size : Nat) (leaf : Word) : memOf (s.tcFill r ctx base size leaf) = memOf s := rfl

@[simp] theorem memOf_sendLink (p : Nat) (load : LinkLoad) : memOf (s.sendLink p load) = memOf s := by
  simp [State.sendLink]

@[simp] theorem memOf_sendMsg (node kind : Nat) (body : List Byte) : memOf (s.sendMsg node kind body) = memOf s := by
  unfold State.sendMsg
  simp only
  split <;> simp

@[simp] theorem memOf_sendCompl (node region kind launch cause : Nat) (value : Word) : memOf
    (s.sendCompl node region kind launch cause value) = memOf s := by
  simp [State.sendCompl]

@[simp] theorem memOf_postRecord (r : Nat) (rec' : Record) (op : Option Issued) : memOf (s.postRecord r rec' op) = memOf s :=
  memOf_of_kept (kept_postRecord ..)

@[simp] theorem memOf_markCtx (ln round : Nat) (issuer : Option Nat) (stop endIt : Bool) : memOf
    (s.markCtx ln round issuer stop endIt) = memOf s := rfl

@[simp] theorem memOf_stopCtx (num : Nat) : memOf (s.stopCtx num) = memOf s :=
  memOf_of_kept (kept_stopCtx ..)

@[simp] theorem memOf_recordFault (f : Flt) (owner : Option Ctx) : memOf (s.recordFault f owner) = memOf s := by
  obtain ⟨u, hu, e⟩ := recordFault_recorded s f owner
  have hm : memOf u = memOf s := by
    unfold memOf State.mtile
    rw [hu.main, hu.mtiles]
  rw [e]
  split
  · exact (memOf_stopCtx u _).trans hm
  · exact hm

@[simp] theorem memOf_takeFault (f : Flt) : memOf (s.takeFault f) = memOf s :=
  memOf_of_kept (kept_takeFault ..)

@[simp] theorem memOf_dropBlockOps (r bc : Nat) (keepLoads : Bool) : memOf (s.dropBlockOps r bc keepLoads) = memOf s :=
  memOf_of_kept (kept_dropBlockOps ..)

@[simp] theorem memOf_stopBlock (r bc : Nat) : memOf (s.stopBlock r bc) = memOf s :=
  memOf_of_kept (kept_stopBlock ..)

@[simp] theorem memOf_faultAt (op : Issued) (place : Place) (cause : Nat) (addr detail : Word) : memOf
    (s.faultAt op place cause addr detail) = memOf s := by
  unfold State.faultAt
  split <;> simp

@[simp] theorem memOf_opFault (op : Issued) (cause : Nat) (addr detail : Word) : memOf
    (s.opFault op cause addr detail) = memOf s :=
  memOf_of_kept (kept_opFault ..)

@[simp] theorem memOf_opRecord (op : Issued) (cause : Nat) (addr detail : Word) : memOf
    (s.opRecord op cause addr detail) = memOf s := by
  simp [State.opRecord]

@[simp] theorem memOf_unfreeze (c : Ctx) : memOf (s.unfreeze c) = memOf s := by
  unfold State.unfreeze
  refine ((memOf_mapCtx ..).trans (memOf_foldl _ _ (fun u r => memOf_foldl _ _ (fun v b => ?_) _) _)).trans ?_
  · simp only
    split
    · exact memOf_setBctx ..
    · rfl
  · rw [memOf_mk, tileBytes_map]
    · rfl
    · exact fun _ => rfl

@[simp] theorem memOf_inject (t dst : TileId) (typ : Nat) (cargo : Cargo) (ws : List Word) : memOf
    (s.inject t dst typ cargo ws) = memOf s :=
  memOf_of_kept (kept_inject ..)

@[simp] theorem memOf_sendRemote (op : Issued) (rank : Nat) (p : Parcel) : memOf (s.sendRemote op rank p) = memOf s :=
  memOf_of_kept (kept_sendRemote ..)

@[simp] theorem memOf_toMemTile (op : Issued) (m : TileId) (ch : Nat) (tok : Tok) : memOf
    (s.toMemTile op m ch tok) = memOf s :=
  memOf_of_kept (kept_toMemTile ..)

@[simp] theorem memOf_capture (t : TileId) (q : Parcel) : memOf (s.capture t q) = memOf s :=
  memOf_of_kept (kept_capture ..)

@[simp] theorem memOf_sends (t dst : TileId) (tok : Tok) : memOf (s.sends t dst tok) = memOf s :=
  memOf_of_kept (kept_sends ..)

@[simp] theorem memOf_receives (t src : TileId) (tok : Tok) : memOf (s.receives t src tok) = memOf s :=
  memOf_of_kept (kept_receives ..)

@[simp] theorem memOf_sendRecord (from' to' : TileId) (r : Record) (cargo : Cargo) : memOf
    (s.sendRecord from' to' r cargo) = memOf s := rfl

@[simp] theorem memWf_leaveTile (t : TileId) (q : Parcel) (go : State → State) (h : MemWf (memOf s))
    (hgo : ∀ u, MemWf (memOf u) → MemWf (memOf (go u)))
    : MemWf (memOf (s.leaveTile t q go)) := by
  simp [State.leaveTile, h, hgo]

@[simp] theorem memOf_route (op : Issued) (t : TileId) (idx : Nat) (slot : Slot) (tok : Tok) : memOf
    (s.route op t idx slot tok) = memOf s :=
  memOf_of_kept (kept_route ..)

@[simp] theorem memOf_blockPut (op : Issued) (r bc idx : Nat) (slot : Slot) (tok : Tok) : memOf
    (s.blockPut op r bc idx slot tok) = memOf s :=
  memOf_of_kept (kept_blockPut ..)

@[simp] theorem memOf_send1 (op : Issued) (t : Option Target) (tok : Tok) : memOf (s.send1 op t tok) = memOf s :=
  memOf_of_kept (kept_send1 ..)

@[simp] theorem memOf_sendTo (op : Issued) (x0 : List (Option Target)) (x1 : Tok) : memOf (s.sendTo op x0 x1) = memOf s :=
  memOf_of_kept (kept_sendTo ..)

@[simp] theorem memOf_emit1 (op : Issued) (t : Option Target) (tok : Tok) : memOf (s.emit1 op t tok) = memOf s := by
  simp [State.emit1]

@[simp] theorem memOf_emitTo (op : Issued) (x0 : List (Option Target)) (x1 : Tok) : memOf (s.emitTo op x0 x1) = memOf s :=
  memOf_of_kept (kept_emitTo ..)

@[simp] theorem memOf_hand (op : Issued) (ts : List (Option Target)) (tok : Tok) : memOf (s.hand op ts tok) = memOf s := by
  unfold State.hand
  split <;> simp

@[simp] theorem memOf_emit (op : Issued) (n : Niw) (tok : Tok) : memOf (s.emit op n tok) = memOf s :=
  memOf_of_kept (kept_emit ..)

@[simp] theorem memOf_emitWord (op : Issued) (n : Niw) (w : Word) (pred : Bool) : memOf (s.emitWord op n w pred) = memOf s
    := by
  simp [State.emitWord]

@[simp] theorem memOf_emitVal (op : Issued) (n : Niw) (v : Value) (pred psn : Bool) : memOf
    (s.emitVal op n v pred psn) = memOf s := by
  simp [State.emitVal]

@[simp] theorem memOf_markDone (op : Issued) : memOf (s.markDone op) = memOf s := by
  unfold State.markDone
  split <;> simp

@[simp] theorem memOf_reply (op : Issued) (n : Niw) (v : Value) (psn : Bool) : memOf (s.reply op n v psn) = memOf s := by
  simp [State.reply]

@[simp] theorem memOf_complete (op : Issued) (n : Niw) (count : Nat) (scope : Scope) (noef : Bool) (cause : Nat) : memOf
    (s.complete op n count scope noef cause) = memOf s := by
  simp [State.complete]

@[simp] theorem memOf_bubble (op : Issued) (n : Niw) : memOf (s.bubble op n) = memOf s := by
  simp [State.bubble]

@[simp] theorem memOf_nulls (op : Issued) (n : Niw) : memOf (s.nulls op n) = memOf s := by
  simp [State.nulls]

@[simp] theorem memOf_touch (op : Issued) : memOf (s.touch op) = memOf s :=
  memOf_of_kept (kept_touch ..)

@[simp] theorem memOf_fix (op : Issued) : memOf (s.fix op) = memOf s := by
  unfold State.fix
  split <;> simp

/-- An instruction keeps the canonical form where its body does. -/
theorem outWf_fire (n : Niw) (body : Issued → State → State) (h : MemWf (memOf s))
    (hb : ∀ op u, MemWf (memOf u) → MemWf (memOf (body op u))) : OutWf (fire s n body) := by
  unfold fire
  split
  · exact h
  · have hi (op : Issued) : MemWf (memOf (({ s with issue := none } : State).touch op)) := by
      rw [memOf_touch]; exact h
    simp only
    split
    · exact h
    · rw [outWf_next, memOf_nulls]; exact hi _
    · rw [outWf_next, memOf_bubble]; exact hi _
    · exact hb _ _ (hi _)

/-- An instruction keeps the canonical form where its body does. -/
theorem outWf_fireRaw (body : Issued → State → State) (h : MemWf (memOf s))
    (hb : ∀ op u, MemWf (memOf u) → MemWf (memOf (body op u))) : OutWf (fireRaw s body) := by
  unfold fireRaw
  split
  · exact h
  · exact hb _ _ h

@[simp] theorem memOf_finish (op : Issued) (n : Niw) (r : Except Bad Result) : memOf (s.finish op n r) = memOf s :=
  memOf_of_kept (kept_finish ..)

@[simp] theorem memWf_scalars (op : Issued) (ts : List Tok) (k : State → State) (h : MemWf (memOf s))
    (hk : ∀ u, MemWf (memOf u) → MemWf (memOf (k u)))
    : MemWf (memOf (s.scalars op ts k)) := by
  simp [State.scalars, h, hk]

@[simp] theorem memOf_replyData (op : Issued) (n : Niw) (v : Value) (psn : Bool) : memOf
    (s.replyData op n v psn) = memOf s := by
  unfold State.replyData
  split <;> simp

end Sys2Proof.Proofs
end

section

/-!
SUPPORT. The view of all bytes through matching, gathering and the instructions of control: only the store buffer's
operations may write, and those are of memory instructions.
-/

namespace Sys2Proof.Proofs

open Sys2Proof Sys2Proof.Machine Sys2Proof.Claims

variable (s : State)

@[simp] theorem memOf_spill (t : TileId) (c : Ctx) (e : Entry) : memOf (s.spill t c e) = memOf s :=
  memOf_of_kept (kept_spill ..)

@[simp] theorem memOf_allocate (t : TileId) (c : Ctx) (p : CPlane) (e : Entry) : memOf (s.allocate t c p e) = memOf s :=
  memOf_of_kept (kept_allocate ..)

@[simp] theorem memOf_settle (t : TileId) (c : Ctx) (p : CPlane) (e : Entry) (ready : Bool) : memOf
    (s.settle t c p e ready) = memOf s :=
  memOf_of_kept (kept_settle ..)

@[simp] theorem memOf_deliver (q : Parcel) : memOf (s.deliver q) = memOf s := rfl

@[simp] theorem memOf_readmit (t : TileId) (c : Ctx) (p : CPlane) (tag : Word) : memOf (s.readmit t c p tag) = memOf s := by
  unfold State.readmit
  refine memOf_foldl _ _ (fun u x => ?_) _
  (repeat' split) <;> simp

@[simp] theorem memOf_loopChanged (old : Bool) (c : Ctx) (r : LoopRec) : memOf (s.loopChanged old c r) = memOf s := by
  unfold State.loopChanged
  refine memOf_foldl _ _ (fun u x => ?_) _
  (repeat' split) <;> simp

@[simp] theorem memOf_readmitAll (num : Nat) : memOf (s.readmitAll num) = memOf s := by
  unfold State.readmitAll
  split
  · rfl
  · refine (memOf_foldl _ _ (fun u r => ?_) _).trans (memOf_foldl _ _ (fun u r => ?_) _)
    · simp only
      split <;> simp
    · simp only
      split <;> simp

theorem memOf_gateToken (t : TileId) (c : Ctx) (ws : List Nat) (n : Niw) (tag : Word) {x : Bool × State}
    (hx : s.gateToken t c ws n tag = some x) : memOf x.2 = memOf s := by
  unfold State.gateToken at hx
  obtain ⟨g, -, rfl⟩ := Option.map_eq_some_iff.1 hx
  simp only
  split <;> simp

/-- What a GATE admits leaves every byte alone. -/
@[simp] theorem memOf_elim_gateToken (t : TileId) (c : Ctx) (ws : List Nat) (n : Niw) (tag : Word) :
    memOf ((s.gateToken t c ws n tag).elim s (·.2)) = memOf s := by
  cases hg : s.gateToken t c ws n tag with
  | none => rfl
  | some x => exact memOf_gateToken s t c ws n tag hg

@[simp] theorem memOf_retireToken (t : TileId) (c : Ctx) (ws : List Nat) (tag : Word) : memOf
    (s.retireToken t c ws tag) = memOf s := by
  unfold State.retireToken
  split <;> simp

@[simp] theorem memOf_matchKey (t : TileId) (c : Ctx) (p : CPlane) (x : Nat × Niw) (q : Parcel) : memOf
    (s.matchKey t c p x q) = memOf s := by
  unfold State.matchKey
  simp only
  (repeat' split) <;> simp

@[simp] theorem memOf_refill (t : TileId) (c : Ctx) (p : CPlane) (x : Nat × Niw) (q : Parcel) :
    memOf (s.refill t c p x q) = memOf s := by
  have gate (u : State) (e : Entry) : memOf (match u.launched? c.launch with
        | some c => if isGate x && e.a.isSome then
            (u.gateToken t c (fullWidths p.widths) x.2 (p.keyTag x q)).elim u (·.2) else u
        | none => u) = memOf u := by
    split
    · split
      · exact memOf_elim_gateToken ..
      · rfl
    · rfl
  unfold State.refill
  simp only
  split
  · exact memOf_matchKey ..
  · split
    · exact memOf_takeFault ..
    · split
      · exact (memOf_settle ..).trans (gate _ _)
      · exact gate _ _

@[simp] theorem memOf_freeSpilled (t : TileId) (launch : Nat) (q : Parcel) : memOf (s.freeSpilled t launch q) = memOf s
    := rfl

@[simp] theorem memWf_reenter (op : Issued) (wait dropped : State → State) (h : MemWf (memOf s))
    (hwait : ∀ u, MemWf (memOf u) → MemWf (memOf (wait u)))
    (hdropped : ∀ u, MemWf (memOf u) → MemWf (memOf (dropped u))) : MemWf (memOf (s.reenter op wait dropped)) := by
  unfold State.reenter
  (repeat' split) <;> simp [h, hwait, hdropped]

@[simp] theorem memOf_unparkEntry (op : Issued) : memOf (s.unparkEntry op) = memOf s := by
  unfold State.unparkEntry
  simp only
  (repeat' split) <;> simp

@[simp] theorem memOf_takeAgg (t : TileId) (c : Ctx) (tag : Word) (node : Nat) :
    memOf (s.takeAgg t c tag node).2 = memOf s := memOf_of_kept (kept_takeAgg ..)

@[simp] theorem memOf_putAgg (t : TileId) (launch : Nat) (e : Entry) : memOf (s.putAgg t launch e) = memOf s :=
  memOf_of_kept (kept_putAgg ..)

@[simp] theorem memOf_emitTree (op : Issued) (n : Niw) (e : FloatEnv) (tag : Word) (vector : Bool)
    (x : Option (List (Option Nat)))
    (psn : Bool) : memOf (s.emitTree op n e tag vector x psn) = memOf s :=
  memOf_of_kept (kept_emitTree ..)

@[simp] theorem memOf_tredInput (op : Issued) (n : Niw) (t : TileId) (c : Ctx) (cw : Word) : memOf
    (s.tredInput op n t c cw) = memOf s :=
  memOf_of_kept (kept_tredInput ..)

@[simp] theorem memOf_joinLeaf (op : Issued) (n : Niw) (t : TileId) (c : Ctx) : memOf (s.joinLeaf op n t c) = memOf s :=
  memOf_of_kept (kept_joinLeaf ..)

@[simp] theorem memOf_broadcastKill (old : Bool) (c : Ctx) (tag : Word) (e : Nat) : memOf
    (s.broadcastKill old c tag e) = memOf s := rfl

@[simp] theorem memOf_takeExit (old : Bool) (c : Ctx) (r : LoopRec) (e : Nat) (op : Issued) : memOf
    (s.takeExit old c r e op) = memOf s := by
  simp [State.takeExit]

@[simp] theorem memOf_resolveLoop (old : Bool) (c : Ctx) (r : LoopRec) : memOf (s.resolveLoop old c r) = memOf s := by
  unfold State.resolveLoop
  simp only
  split <;> simp

@[simp] theorem memWf_withLoop (op : Issued) (k : Ctx → LoopRec → Nat → State) (h : MemWf (memOf s))
    (hk : ∀ x0 x1 x2, MemWf (memOf (k x0 x1 x2)))
    : MemWf (memOf (s.withLoop op k)) := by
  unfold State.withLoop
  simp only
  split <;> simp [h, hk]

@[simp] theorem outWf_execWave (n : Niw) (h : MemWf (memOf s)) : OutWf (execWave n s) :=
  outWf_fire _ _ _ h fun op u hu => memWf_withLoop _ _ _ hu fun c r i => by
    split <;> simp [hu]

@[simp] theorem outWf_execBound (n : Niw) (h : MemWf (memOf s)) : OutWf (execBound n s) :=
  outWf_fire _ _ _ h fun op u hu => by
    simp only
    (repeat' split) <;> simp [hu]

@[simp] theorem outWf_execExitl (n : Niw) (h : MemWf (memOf s)) : OutWf (execExitl n s) :=
  outWf_fire _ _ _ h fun op u hu => memWf_withLoop _ _ _ hu fun c r i => by
    simp only
    split <;> simp [hu]

@[simp] theorem memOf_retag (op : Issued) (n : Niw) (tag : Word) : memOf (s.retag op n tag) = memOf s := by
  simp [State.retag]

@[simp] theorem memOf_pushTag (op : Issued) (n : Niw) (v : Nat) : memOf (s.pushTag op n v) = memOf s :=
  memOf_of_kept (kept_pushTag ..)

@[simp] theorem outWf_execCall (n : Niw) (h : MemWf (memOf s)) : OutWf (execCall n s) :=
  outWf_fire _ _ _ h fun op u hu => by simp [hu]

@[simp] theorem outWf_execDrainFabric (n : Niw) (h : MemWf (memOf s)) : OutWf (execDrainFabric n s) :=
  outWf_fire _ _ _ h fun op u hu => by simp [hu]

@[simp] theorem memOf_sendDrains (c : Ctx) : memOf (s.sendDrains c) = memOf s := by
  unfold State.sendDrains
  exact memOf_foldl _ _ (fun u x => by simp) _

@[simp] theorem outWf_execDrainBlock (n : Niw) (h : MemWf (memOf s)) : OutWf (execDrainBlock n s) :=
  outWf_fire _ _ _ h fun op u hu => memWf_scalars _ _ _ _ hu fun v hv => by
    split <;> simp [hv]

/-- An exit keeps the canonical form where its body does. -/
theorem outWf_fireExit (n : Niw) (body : Issued → State → State) (h : MemWf (memOf s))
    (hb : ∀ op u, MemWf (memOf u) → MemWf (memOf (body op u))) : OutWf (fireExit s n body) :=
  outWf_fireRaw _ _ h fun op u hu => by
    split
    · exact hb _ _ (by simpa using hu)
    · simpa using hu
    · simpa using hu
    · exact hu

@[simp] theorem memOf_countExit (op : Issued) (e : Exit) : memOf (s.countExit op e) = memOf s := by
  unfold State.countExit
  (repeat' split) <;> simp

@[simp] theorem outWf_execBr (n : Niw) (h : MemWf (memOf s)) : OutWf (execBr n s) :=
  outWf_fireExit _ _ _ h fun op u hu => by simp [hu]

@[simp] theorem outWf_execBrc (n : Niw) (h : MemWf (memOf s)) : OutWf (execBrc n s) :=
  outWf_fireExit _ _ _ h fun op u hu => by simp [hu]

@[simp] theorem outWf_execBcall (n : Niw) (h : MemWf (memOf s)) : OutWf (execBcall n s) :=
  outWf_fireExit _ _ _ h fun op u hu => by simp [hu]

@[simp] theorem outWf_execBret (n : Niw) (h : MemWf (memOf s)) : OutWf (execBret n s) :=
  outWf_fireExit _ _ _ h fun op u hu => by
    split
    · exact hu
    · split <;> simp [hu]

@[simp] theorem memOf_countWrite (op : Issued) (g : Nat) (v : Option Word) : memOf (s.countWrite op g v) = memOf s := by
  unfold State.countWrite
  (repeat' split) <;> simp

@[simp] theorem outWf_execGwr (n : Niw) (h : MemWf (memOf s)) : OutWf (execGwr n s) :=
  outWf_fireRaw _ _ h fun op u hu => by
    split <;> simp [hu]

end Sys2Proof.Proofs
end

section

/-!
SUPPORT. The canonical form of memories through the memory tiles and the ports: banks, operand buffers, FIFOs, rows, and
the way of an access over its port (R105 to R110, R119).
-/

namespace Sys2Proof.Proofs

open Sys2Proof Sys2Proof.Machine Sys2Proof.Claims

variable (s : State)

@[simp] theorem memWf_writeBank (t : TileId) (a : Nat) (bs : List Byte) (h : MemWf (memOf s)) :
    MemWf (memOf (s.writeBank t a bs)) :=
  memWf_setMtile _ _ _ (cellsWf_cellsPut _ _ _ (memWf_tile h t)) h

@[simp] theorem memOf_waitAt (t : TileId) (op : Issued) : memOf (s.waitAt t op) = memOf s :=
  memOf_setMtile _ _ _ rfl

@[simp] theorem memOf_bufferFull (t : TileId) (tag : Word) : memOf (s.bufferFull t tag) = memOf s := by
  unfold State.bufferFull
  simp only
  split <;> simp

@[simp] theorem memOf_bufferEmpty (t : TileId) (k : Nat) : memOf (s.bufferEmpty t k) = memOf s :=
  memOf_setMtile _ _ _ rfl

@[simp] theorem memWf_fillBuffer (t : TileId) (tag : Word) (ps : List (Nat × List Byte)) (h : MemWf (memOf s)) :
    MemWf (memOf (s.fillBuffer t tag ps)) := by
  have hw := memWf_foldl s (fun u p => u.writeBank t ((s.mtile t).fill * (s.mtile t).depth + p.1) p.2)
    (fun u p hu => memWf_writeBank u _ _ _ hu) ps h
  unfold State.fillBuffer
  simp only
  split
  · simpa using hw
  · exact hw

@[simp] theorem memOf_fifoPush (t : TileId) (bs : List Byte) : memOf (s.fifoPush t bs) = memOf s :=
  memOf_setMtile _ _ _ rfl

@[simp] theorem memOf_fifoPop (t : TileId) : memOf (s.fifoPop t) = memOf s :=
  memOf_setMtile _ _ _ rfl

@[simp] theorem memWf_writeLine (t : TileId) (off : Nat) (bs : List Byte) (h : MemWf (memOf s)) : MemWf
    (memOf (s.writeLine t off bs))
    := by
  simp [State.writeLine, h]

@[simp] theorem memOf_answerReader (v : Word) (op : Issued) : memOf (s.answerReader v op) = memOf s := by
  simp [State.answerReader]

@[simp] theorem memOf_answerAll (v : Word) (ops : List Issued) : memOf (s.answerAll v ops) = memOf s := by
  induction ops generalizing s with
  | nil => rfl
  | cons op ops ih => exact (ih _).trans (memOf_answerReader ..)

@[simp] theorem memOf_takeSpilledReaders (t : TileId) (w : Nat) : memOf (s.takeSpilledReaders t w).2 = memOf s := rfl

@[simp] theorem memOf_tileIrd (op : Issued) (n : Niw) (t : TileId) (w : Nat) : memOf (s.tileIrd op n t w) = memOf s := by
  unfold State.tileIrd
  simp only
  (repeat' split) <;> simp

@[simp] theorem memWf_tileIwr (t : TileId) (w : Nat) (v : Word) (h : MemWf (memOf s)) :
    MemWf (memOf (s.tileIwr t w v).2) := by
  unfold State.tileIwr
  simp only
  split
  · exact h
  · simp [h]

@[simp] theorem memWf_tileIrst (t : TileId) (w : Nat) (h : MemWf (memOf s)) : MemWf (memOf (s.tileIrst t w)) := by
  simp [State.tileIrst, h]

@[simp] theorem memOf_mainIrd (op : Issued) (n : Niw) (pa : Nat) : memOf (s.mainIrd op n pa) = memOf s := by
  simp [State.mainIrd]

@[simp] theorem memOf_deferMain (op : Issued) (n : Niw) (pa : Nat) : memOf (s.deferMain op n pa) = memOf s := by
  simp [State.deferMain]

@[simp] theorem memWf_mainIwr (pa : Nat) (v : Word) (h : MemWf (memOf s)) : MemWf (memOf (s.mainIwr pa v).2) := by
  unfold State.mainIwr
  split
  · exact h
  · simp only [memOf_answerAll]
    exact memWf_writeMain _ pa (bytesOf 8 v.toNat) h

@[simp] theorem memWf_mainIrst (pa : Nat) (h : MemWf (memOf s)) : MemWf (memOf (s.mainIrst pa)) := by
  unfold State.mainIrst
  split
  · exact memWf_writeMain _ pa (bytesOf 8 0) h
  · exact h

@[simp] theorem memOf_tileGive (t : TileId) (a n : Nat) : memOf (s.tileGive t a n).2 = memOf s := by
  unfold State.tileGive
  simp only
  split
  · exact memOf_fifoPop ..
  · rfl

@[simp] theorem memWf_tileTake (t : TileId) (a seq : Nat) (tag : Word) (bs : List Byte) (h : MemWf (memOf s)) : MemWf
    (memOf (s.tileTake t a seq tag bs)) := by
  unfold State.tileTake
  simp only
  split <;> simp [h]

@[simp] theorem memOf_advanceGen (t : TileId) (g : Nat) : memOf (s.advanceGen t g) = memOf s :=
  memOf_setMtile _ _ _ rfl

@[simp] theorem memOf_circuitIn (t far : TileId) (g : Nat) : memOf (s.circuitIn t far g) = memOf s := by
  have put (u : State) (bs : List Byte) : memOf (u.setMtile t ((u.mtile t).setGen g
      { (u.mtile t).gen g with chan := [(((s.mtile t).gen g).pos, ((s.mtile t).gen g).moved, bs)] })) = memOf u :=
    memOf_setMtile _ _ _ rfl
  unfold State.circuitIn
  simp only
  split
  · split
    · rfl
    · exact (put _ _).trans ((memOf_advanceGen ..).trans (memOf_tileGive ..))
  · split
    · rfl
    · exact (put _ _).trans ((memOf_advanceGen ..).trans (memOf_tileGive ..))

/-- Taking the element out of a circuit's channel. -/
theorem memOf_chanGone (t : TileId) (g : Nat) :
    memOf (s.setMtile t ((s.mtile t).setGen g { (s.mtile t).gen g with chan := [] })) = memOf s :=
  memOf_setMtile _ _ _ rfl

@[simp] theorem memWf_circuitOut (t far : TileId) (g : Nat) (op : Issued) (idx : Nat) (bs : List Byte)
    (h : MemWf (memOf s)) : MemWf (memOf (s.circuitOut t far g op idx bs)) := by
  unfold State.circuitOut
  simp only [memOf_chanGone, memWf_ite, memOf_ite]
  split
  · split <;> simp [h]
  · (repeat' split) <;> simp [h]

@[simp] theorem memWf_stopGen (t : TileId) (g cause va : Nat) (h : MemWf (memOf s)) : MemWf (memOf (s.stopGen t g cause va))
    := by
  unfold State.stopGen
  simp only
  split <;> simp [h]

@[simp] theorem memWf_moveElement (t : TileId) (g : Nat) (h : MemWf (memOf s)) : MemWf (memOf (s.moveElement t g)) := by
  unfold State.moveElement
  simp only
  (repeat' split) <;> simp [h]

@[simp] theorem memOf_partFault (op : Issued) (n : Niw) (count : Nat) (place : Place) (scope : Scope) (cause : Nat)
    (addr detail : Word) : memOf (s.partFault op n count place scope cause addr detail) = memOf s := by
  unfold State.partFault
  split <;> simp

@[simp] theorem memOf_memFault (op : Issued) (n : Niw) (place : Place) (scope : Scope) (cause : Nat) (addr detail : Word)
    : memOf (s.memFault op n place scope cause addr detail) = memOf s := by
  simp [State.memFault]

@[simp] theorem memOf_awaitWalk (op : Issued) (va : Nat) : memOf (s.awaitWalk op va) = memOf s := rfl

@[simp] theorem memWf_withParts {α : Type} (op : Issued) (n : Niw) (count : Nat) (r : Res α) (k : α → State)
    (h : MemWf (memOf s))
    (hk : ∀ x0, MemWf (memOf (k x0))) : MemWf (memOf (s.withParts op n count r k)) := by
  unfold State.withParts
  split <;> simp [h, hk]

@[simp] theorem memWf_withPieces {α : Type} (op : Issued) (n : Niw) (r : Res α) (k : α → State) (h : MemWf (memOf s))
    (hk : ∀ x0, MemWf (memOf (k x0)))
    : MemWf (memOf (s.withPieces op n r k)) := by
  simp [State.withPieces, h, hk]

@[simp] theorem memOf_bridgeLoss (op : Issued) : memOf (s.bridgeLoss op) = memOf s := by
  simp [State.bridgeLoss]

@[simp] theorem memWf_overPort (op : Issued) (n : Niw) (pas : List Nat) (k : Issued → Niw → State → State)
    (h : MemWf (memOf s))
    (hk : ∀ x0 x1 u, MemWf (memOf u) → MemWf (memOf (k x0 x1 u))) : MemWf (memOf (s.overPort op n pas k)) := by
  unfold State.overPort
  split <;> simp [h, hk]

@[simp] theorem memWf_overCarder (op : Issued) (ls : List (Nat × List (Nat × Nat))) (k : State → State)
    (h : MemWf (memOf s)) (hk : ∀ u, MemWf (memOf u) → MemWf (memOf (k u))) : MemWf (memOf (s.overCarder op ls k)) := by
  unfold State.overCarder
  split
  · exact hk s h
  · rw [memOf_foldl _ _ fun u _ => memOf_bridgeLoss u op]
    exact h

@[simp] theorem memWf_chained (op : Issued) (store : Bool) (k : State → State) (h : MemWf (memOf s))
    (hk : ∀ u, MemWf (memOf u) → MemWf (memOf (k u)))
    : MemWf (memOf (s.chained op store k)) := by
  simp [State.chained, h, hk]

@[simp] theorem memOf_countStore (op : Issued) (n : Niw) (held : Option Issued) : memOf (s.countStore op n held) = memOf s
    := by
  unfold State.countStore
  (repeat' split) <;> simp

@[simp] theorem memOf_countNulled (op : Issued) (n : Niw) : memOf (s.countNulled op n) = memOf s := by
  simp [State.countNulled]

/-- A load keeps the canonical form where its body does. -/
theorem outWf_fireLoad (n : Niw) (body : Issued → State → State) (h : MemWf (memOf s))
    (hb : ∀ op u, MemWf (memOf u) → MemWf (memOf (body op u))) : OutWf (fireLoad n s body) :=
  outWf_fireRaw _ _ h fun op u hu => by
    split
    · exact hu
    · simpa using hu
    · simpa using hu
    · exact hb _ _ (by simpa using hu)

/-- A store keeps the canonical form where its body does. -/
theorem outWf_fireStore (n : Niw) (body : Issued → State → State) (h : MemWf (memOf s))
    (hb : ∀ op u, MemWf (memOf u) → MemWf (memOf (body op u))) : OutWf (fireStore n s body) :=
  outWf_fireRaw _ _ h fun op u hu => by
    split
    · exact hu
    · simpa using hu
    · simpa using hu
    · simpa using hu
    · exact hb _ _ (by simpa using hu)

@[simp] theorem memOf_noEffect (op : Issued) (n : Niw) (scope : Scope) (count cause : Nat) : memOf
    (s.noEffect op n scope count cause) = memOf s := by
  unfold State.noEffect
  split <;> simp

@[simp] theorem memWf_sink (op : Issued) (n : Niw) (scope : Scope) (count : Nat) (k : State → State) (h : MemWf (memOf s))
    (hk : ∀ u, MemWf (memOf u) → MemWf (memOf (k u))) : MemWf (memOf (s.sink op n scope count k)) := by
  simp [State.sink, h, hk]

@[simp] theorem memOf_tileFault (op : Issued) (n : Niw) (t : TileId) (cause : Nat) (addr : Word) : memOf
    (s.tileFault op n t cause addr) = memOf s := by
  simp [State.tileFault]

@[simp] theorem memWf_toHome (op : Issued) (n : Niw) (tile : State → TileId → State) (main : State → State)
    (h : MemWf (memOf s))
    (htile : ∀ u x1, MemWf (memOf u) → MemWf (memOf (tile u x1))) (hmain : ∀ u, MemWf (memOf u) → MemWf (memOf (main u)))
    : MemWf (memOf (s.toHome op n tile main)) := by
  unfold State.toHome
  split <;> simp [h, htile, hmain]

@[simp] theorem memOf_sendEpdata (c ep op' pos rid : Nat) (node : Nat) (len : Nat) (data : List Byte) : memOf
    (s.sendEpdata c ep op' pos rid node len data) = memOf s := by
  simp [State.sendEpdata]

@[simp] theorem memOf_moveEndpoint (num ep k : Nat) : memOf (s.moveEndpoint num ep k) = memOf s := by
  simp [State.moveEndpoint]

@[simp] theorem memOf_sendHout (op : Issued) (c : Ctx) (ep : Nat) (bs : List Byte) : memOf
    (s.sendHout op c ep bs) = memOf s := by
  unfold State.sendHout
  split <;> simp

end Sys2Proof.Proofs
end

section

/-!
SUPPORT. The canonical form of memories through reductions, loads, stores, write-once words, the endpoints and the
atomics (R102, R110, R116, R241, R277 to R282).
-/

namespace Sys2Proof.Proofs

open Sys2Proof Sys2Proof.Machine Sys2Proof.Claims

variable (s : State)

@[simp] theorem memWf_redWrite (n : Niw) (pa : Nat) (tile : Option TileId) (tag : Word) (v : Nat) (hw : MemWf (memOf s))
    : MemWf (memOf (s.redWrite n pa tile tag v)) := by
  unfold State.redWrite
  split <;> simp [hw]

@[simp] theorem memOf_redComplete (scope : Scope) (poisoned : Bool) (ls : List RedLeaf) :
    memOf (s.redComplete scope poisoned ls) = memOf s := by
  induction ls generalizing s with
  | nil => rfl
  | cons l ls ih => exact (ih _).trans (memOf_reply ..)

@[simp] theorem memWf_redFinish (op : Issued) (n : Niw) (r : Reduction) (tile : Option TileId) (hw : MemWf (memOf s)) :
    MemWf (memOf (s.redFinish op n r tile)) := by
  unfold State.redFinish
  simp only [memOf_redComplete]
  split
  · rw [memOf_takeFault]; exact hw
  · split
    · exact hw
    · exact memWf_redWrite _ _ _ _ _ _ hw

@[simp] theorem memWf_redLeaf (op : Issued) (n : Niw) (key : Word) (pa : Nat) (tile : Option TileId) (addr : Word)
    (hw : MemWf (memOf s))
    : MemWf (memOf (s.redLeaf op n key pa tile addr)) := by
  simp [State.redLeaf, hw]

@[simp] theorem memWf_performSt (op : Issued) (n : Niw) (hw : MemWf (memOf s)) : MemWf (memOf (s.performSt op n)) := by
  unfold State.performSt
  split
  · exact memWf_overPort _ _ _ _ _ hw fun _ _ u hu => memWf_writePieces u _ _ hu
  · simpa using hw
  · exact hw

@[simp] theorem memWf_walkedWord (op : Issued) (need : Need) (len : Nat) (k : State → Nat → State) (hw : MemWf (memOf s))
    (hk : ∀ u pa, MemWf (memOf u) → MemWf (memOf (k u pa))) : MemWf (memOf (s.walkedWord op need len k)) := by
  unfold State.walkedWord
  split
  · exact memWf_overPort _ _ _ _ _ hw fun _ _ u hu => hk u _ hu
  · simpa using hw
  · exact hw

@[simp] theorem memWf_performHeld (op : Issued) (hw : MemWf (memOf s)) : MemWf (memOf (s.performHeld op)) := by
  unfold State.performHeld
  split
  · exact memWf_performSt _ _ _ hw
  · exact memWf_walkedWord _ _ _ _ _ hw fun u pa hu => by
      simp only
      split <;> simp [hu]
  · exact memWf_walkedWord _ _ _ _ _ hw fun u pa hu => memWf_mainIrst _ _ hu
  · exact memWf_walkedWord _ _ _ _ _ hw fun u pa hu => memWf_redLeaf _ _ _ _ _ _ _ hu
  · split
    · exact hw
    · simp only
      split <;> simp [hw]
  · exact hw

@[simp] theorem memWf_performAll (hs : List HeldStore) (hw : MemWf (memOf s)) : MemWf (memOf (s.performAll hs)) := by
  induction hs generalizing s with
  | nil => exact hw
  | cons x hs ih =>
    have hx := memWf_performHeld s x.op hw
    unfold State.performAll
    simp only
    split
    · rw [memOf_foldl _ _ fun u _ => memOf_hold ..]; exact hx
    · exact ih _ hx

@[simp] theorem memWf_ifHeld (op : Issued) (k : State → State) (hw : MemWf (memOf s))
    (hk : ∀ u, MemWf (memOf u) → MemWf (memOf (k u)))
    : MemWf (memOf (s.ifHeld op k)) := by
  unfold State.ifHeld
  (repeat' split) <;> simp [hw, hk]

@[simp] theorem memWf_overlay (op : Issued) (n : Niw) (hw : MemWf (memOf s)) : MemWf (memOf (s.overlay op n)) := by
  unfold State.overlay
  split
  · exact hw
  · split
    · exact hw
    · exact memWf_foldl _ _ (fun u x hu => memWf_performHeld u _ hu) _ hw

@[simp] theorem memWf_releaseBelow (op : Issued) (lsid : Nat) (hw : MemWf (memOf s)) : MemWf (memOf (s.releaseBelow op lsid))
    := by
  unfold State.releaseBelow
  (repeat' split) <;> simp [hw]

@[simp] theorem memOf_replyLoad (op : Issued) (n : Niw) (v : Value) : memOf (s.replyLoad op n v) = memOf s := by
  simp [State.replyLoad]

@[simp] theorem memOf_ldTile (op : Issued) (n : Niw) (t : TileId) : memOf (s.ldTile op n t) = memOf s := by
  unfold State.ldTile
  simp only
  split <;> simp

@[simp] theorem memWf_ldMain (op : Issued) (n : Niw) (hw : MemWf (memOf s)) : MemWf (memOf (s.ldMain op n)) := by
  simp [State.ldMain, hw]

@[simp] theorem memWf_load (op : Issued) (n : Niw) (k : State → State) (hw : MemWf (memOf s))
    (hk : ∀ u, MemWf (memOf u) → MemWf (memOf (k u))) : MemWf (memOf (s.load op n k)) := by
  unfold State.load
  split
  · simpa using hw
  · split
    · simpa using hw
    · split
      · exact hw
      · exact memWf_chained _ _ _ _ hw hk

@[simp] theorem outWf_execLd (n : Niw) (hw : MemWf (memOf s)) : OutWf (execLd n s) :=
  outWf_fireLoad _ _ _ hw fun op u hu => memWf_load _ _ _ _ hu fun v hv =>
    memWf_toHome _ _ _ _ _ hv (fun w t h => by simp [h]) fun w h => by simp [h]

@[simp] theorem memOf_ldvTile (op : Issued) (n : Niw) (t : TileId) (mask : Nat) : memOf (s.ldvTile op n t mask) = memOf s
    := by
  unfold State.ldvTile
  simp only
  split <;> simp

@[simp] theorem outWf_execLdv (n : Niw) (hw : MemWf (memOf s)) : OutWf (execLdv n s) :=
  outWf_fireLoad _ _ _ hw fun op u hu => memWf_load _ _ _ _ hu fun v hv => by
    split
    · simpa using hv
    · exact memWf_toHome _ _ _ _ _ hv (fun w t h => by simp [h]) fun w h =>
        memWf_withPieces _ _ _ _ _ h fun ls => memWf_overPort _ _ _ _ _ h fun _ _ u hu => by simp [hu]

@[simp] theorem memWf_stTile (op : Issued) (n : Niw) (t : TileId) (hw : MemWf (memOf s)) : MemWf (memOf (s.stTile op n t))
    := by
  unfold State.stTile
  simp only
  split <;> simp [hw]

@[simp] theorem outWf_execSt (n : Niw) (hw : MemWf (memOf s)) : OutWf (execSt n s) :=
  outWf_fireStore _ _ _ hw fun op u hu => memWf_ifHeld _ _ _ hu fun v hv => memWf_sink _ _ _ _ _ _ hv fun w h => by
    split
    · simpa using h
    · split
      · exact memWf_withPieces _ _ _ _ _ h fun _ => by simp [h]
      · exact memWf_chained _ _ _ _ h fun w h => memWf_toHome _ _ _ _ _ h (fun w t h => by simp [h]) fun w h =>
          memWf_withPieces _ _ _ _ _ h fun ps => memWf_overPort _ _ _ _ _ h fun _ _ u hu => by simp [hu]

@[simp] theorem memWf_writeLanes (vs : List (Nat × Word)) (ls : List (Nat × List (Nat × Nat))) (hw : MemWf (memOf s)) :
    MemWf (memOf (s.writeLanes vs ls)) := by
  induction ls generalizing s with
  | nil => exact hw
  | cons l ls ih => exact ih _ (memWf_writePieces s _ _ hw)

@[simp] theorem memWf_stvTile (op : Issued) (n : Niw) (t : TileId) (hw : MemWf (memOf s)) :
    MemWf (memOf (s.stvTile op n t)) := by
  have lines := memWf_foldl s (fun u (v : Nat × Word) => u.writeLine t (op.ta.word.toNat + 8 * v.1) (bytesOf 8 v.2.toNat))
    (fun u v hu => memWf_writeLine u _ _ _ hu) (stvLanes n op) hw
  unfold State.stvTile
  simp only
  (repeat' split) <;> simp [hw, lines]

@[simp] theorem outWf_execStv (n : Niw) (hw : MemWf (memOf s)) : OutWf (execStv n s) :=
  outWf_fireStore _ _ _ hw fun op u hu => memWf_sink _ _ _ _ _ _ hu fun w h => by
    split
    · simpa using h
    · exact memWf_chained _ _ _ _ h fun w h => memWf_toHome _ _ _ _ _ h (fun w t h => by simp [h]) fun w h =>
        memWf_withPieces _ _ _ _ _ h fun ls => memWf_overPort _ _ _ _ _ h fun _ _ u hu => by simp [hu]

@[simp] theorem outWf_execGth (n : Niw) (hw : MemWf (memOf s)) : OutWf (execGth n s) :=
  outWf_fireLoad _ _ _ hw fun op u hu => by
    split
    · simpa using hu
    · split
      · simpa using hu
      · exact memWf_chained _ _ _ _ hu fun v hv => memWf_toHome _ _ _ _ _ hv (fun w _ h => by simp [h]) fun w h =>
          memWf_withParts _ _ _ _ _ _ h fun ls => memWf_overCarder _ _ _ _ h fun u hu => by simp [hu]

@[simp] theorem memWf_writeElems (len : Nat) (es : List (Nat × Nat)) (ls : List (Nat × List (Nat × Nat)))
    (hw : MemWf (memOf s)) : MemWf (memOf (s.writeElems len es ls)) := by
  induction ls generalizing s with
  | nil => exact hw
  | cons l ls ih => exact ih _ (memWf_writePieces s _ _ hw)

@[simp] theorem outWf_execSct (n : Niw) (hw : MemWf (memOf s)) : OutWf (execSct n s) :=
  outWf_fireStore _ _ _ hw fun op u hu => memWf_sink _ _ _ _ _ _ hu fun w h => by
    split
    · simpa using h
    · exact memWf_chained _ _ _ _ h fun w h => memWf_toHome _ _ _ _ _ h (fun w _ h => by simp [h]) fun w h =>
        memWf_withParts _ _ _ _ _ _ h fun ls =>
          memWf_overCarder _ _ _ _ (memWf_writeElems _ _ _ _ h) fun u hu => by simp [hu]

@[simp] theorem memWf_compact (op : Issued) (n : Niw) (hw : MemWf (memOf s)) : MemWf (memOf (s.compact op n)) :=
  memWf_withParts _ _ _ _ _ _ hw fun ls => memWf_overCarder _ _ _ _ (memWf_writeElems _ _ _ _ hw) fun u hu => by
    split <;> simp [hu]

@[simp] theorem outWf_execSctCompact (n : Niw) (hw : MemWf (memOf s)) : OutWf (execSctCompact n s) :=
  outWf_fireStore _ _ _ hw fun op u hu => memWf_sink _ _ _ _ _ _ hu fun w h => by
    split
    · simpa using h
    · exact memWf_chained _ _ _ _ h fun w h =>
        memWf_toHome _ _ _ _ _ h (fun w _ h => by simp [h]) fun w h => memWf_compact _ _ _ h

@[simp] theorem memWf_wonceTile (op : Issued) (n : Niw) (t : TileId) (k : State → Nat → State) (hw : MemWf (memOf s))
    (hk : ∀ u x1, MemWf (memOf u) → MemWf (memOf (k u x1)))
    : MemWf (memOf (s.wonceTile op n t k)) := by
  simp [State.wonceTile, hw, hk]

@[simp] theorem memWf_wonceMain (op : Issued) (n : Niw) (k : State → Nat → State) (hw : MemWf (memOf s))
    (hk : ∀ u pa, MemWf (memOf u) → MemWf (memOf (k u pa))) : MemWf (memOf (s.wonceMain op n k)) :=
  memWf_withPieces _ _ _ _ _ hw fun ps => by
    split
    · exact hk _ _ hw
    · exact hw

@[simp] theorem outWf_execIrd (n : Niw) (hw : MemWf (memOf s)) : OutWf (execIrd n s) :=
  outWf_fireLoad _ _ _ hw fun op u hu => memWf_load _ _ _ _ hu fun v hv => memWf_toHome _ _ _ _ _ hv
    (fun w t h => memWf_wonceTile _ _ _ _ _ h fun u k hu => by simp [hu]) fun w h =>
      memWf_wonceMain _ _ _ _ h fun x pa hx => memWf_overPort _ _ _ _ _ hx fun _ _ u hu => by
        split <;> simp [hu]

@[simp] theorem outWf_execIwr (n : Niw) (hw : MemWf (memOf s)) : OutWf (execIwr n s) :=
  outWf_fireStore _ _ _ hw fun op u hu => memWf_ifHeld _ _ _ hu fun v hv => memWf_sink _ _ _ _ _ _ hv fun w h => by
    split
    · simpa using h
    · split
      · exact memWf_wonceMain _ _ _ _ h fun _ _ h => by simp [h]
      · refine memWf_chained _ _ _ _ h fun w h => memWf_toHome _ _ _ _ _ h (fun w t h => ?_) fun w h => ?_
        · exact memWf_wonceTile _ _ _ _ _ h fun x k hx => by
            simp only
            split <;> simp [hx]
        · exact memWf_wonceMain _ _ _ _ h fun x k hx => memWf_overPort _ _ _ _ _ hx fun _ _ u hu => by
            simp only
            split <;> simp [hu]

@[simp] theorem outWf_execIrst (n : Niw) (hw : MemWf (memOf s)) : OutWf (execIrst n s) :=
  outWf_fireStore _ _ _ hw fun op u hu => memWf_ifHeld _ _ _ hu fun w h => by
    split
    · simpa using h
    · split
      · simpa using h
      · split
        · exact memWf_wonceMain _ _ _ _ h fun _ _ h => by simp [h]
        · exact memWf_chained _ _ _ _ h fun w h => memWf_toHome _ _ _ _ _ h
            (fun w t h => memWf_wonceTile _ _ _ _ _ h fun x k hx => by simp [hx]) fun w h =>
              memWf_wonceMain _ _ _ _ h fun x k hx => memWf_overPort _ _ _ _ _ hx fun _ _ u hu => by simp [hu]

@[simp] theorem memOf_sendHin (op : Issued) (n : Niw) (c : Ctx) (ep : Nat) : memOf (s.sendHin op n c ep) = memOf s := by
  unfold State.sendHin
  (repeat' split) <;> simp

@[simp] theorem outWf_execHin (n : Niw) (hw : MemWf (memOf s)) : OutWf (execHin n s) :=
  outWf_fireRaw _ _ hw fun op u hu => by
    split
    · exact hu
    · simpa using hu
    · have ht : MemWf (memOf (u.touch op)) := by simpa using hu
      simp only
      split
      · simpa using hu
      · split
        · simpa using hu
        · split
          · exact ht
          · refine memWf_chained _ _ _ _ ht fun w h => memWf_toHome _ _ _ _ _ h (fun w _ h => by simp [h]) fun w h => ?_
            (repeat' split) <;> simp [h]

@[simp] theorem outWf_execHout (n : Niw) (hw : MemWf (memOf s)) : OutWf (execHout n s) :=
  outWf_fireStore _ _ _ hw fun op u hu => memWf_ifHeld _ _ _ hu fun v hv => memWf_sink _ _ _ _ _ _ hv fun w h => by
    split
    · simpa using h
    · simp only
      split
      · exact h
      · split
        · split <;> simp [h]
        · refine memWf_chained _ _ _ _ h fun w h => memWf_toHome _ _ _ _ _ h (fun w _ h => by simp [h]) fun w h => ?_
          split <;> simp [h]

@[simp] theorem memWf_atomicTile (op : Issued) (n : Niw) (t : TileId) (f : Word → Option Word) (hw : MemWf (memOf s))
    : MemWf (memOf (s.atomicTile op n t f)) := by
  unfold State.atomicTile
  simp only
  (repeat' split) <;> simp [hw]

@[simp] theorem memWf_atomicAt (op : Issued) (n : Niw) (ps : List (Nat × Nat)) (f : Word → Option Word)
    (hw : MemWf (memOf s)) : MemWf (memOf (s.atomicAt op n ps f)) :=
  memWf_overPort _ _ _ _ _ hw fun op n u hu => by
    simp only [memOf_reply]
    split
    · exact memWf_writePieces _ _ _ hu
    · exact hu

@[simp] theorem memWf_atomicBlock (op : Issued) (n : Niw) (f : Word → Option Word) (hw : MemWf (memOf s)) :
    MemWf (memOf (s.atomicBlock op n f)) := by
  have released (ps : List (Nat × Nat)) :
      MemWf (memOf ((((s.countNulled op n).releaseBelow op (lsidOf n)).fix op).atomicAt op n ps f)) := by
    refine memWf_atomicAt _ _ _ _ _ ?_
    rw [memOf_fix]
    exact memWf_releaseBelow _ _ _ (by simpa using hw)
  unfold State.atomicBlock
  split
  · exact hw
  · refine memWf_withPieces _ _ _ _ _ hw fun ps => ?_
    simp only
    (repeat' split) <;> simp [hw, released]

@[simp] theorem memWf_atomic (op : Issued) (n : Niw) (f : Word → Option Word) (hw : MemWf (memOf s)) :
    MemWf (memOf (s.atomic op n f)) := by
  unfold State.atomic
  simp only
  split
  · simpa using hw
  · split
    · simpa using hw
    · split
      · simpa using hw
      · split
        · simpa using hw
        · split
          · exact memWf_atomicBlock _ _ _ _ hw
          · exact memWf_chained _ _ _ _ hw fun w h => memWf_toHome _ _ _ _ _ h (fun w t h => by simp [h]) fun w h =>
              memWf_withPieces _ _ _ _ _ h fun ps => memWf_atomicAt _ _ _ _ _ h

@[simp] theorem outWf_fireAtomic (n : Niw) (f : Issued → Word → Option Word) (hw : MemWf (memOf s)) : OutWf
    (fireAtomic n s f) :=
  outWf_fireRaw _ _ hw fun op u hu => by
    split <;> simp [hu]

@[simp] theorem outWf_execAadd (n : Niw) (hw : MemWf (memOf s)) : OutWf (execAadd n s) := by
  simp [execAadd, hw]

@[simp] theorem outWf_execAmin (n : Niw) (hw : MemWf (memOf s)) : OutWf (execAmin n s) := by
  simp [execAmin, hw]

@[simp] theorem outWf_execAmax (n : Niw) (hw : MemWf (memOf s)) : OutWf (execAmax n s) := by
  simp [execAmax, hw]

@[simp] theorem outWf_execAlog (n : Niw) (hw : MemWf (memOf s)) : OutWf (execAlog n s) := by
  simp [execAlog, hw]

@[simp] theorem outWf_execAxch (n : Niw) (hw : MemWf (memOf s)) : OutWf (execAxch n s) := by
  simp [execAxch, hw]

@[simp] theorem outWf_execAcas (n : Niw) (hw : MemWf (memOf s)) : OutWf (execAcas n s) := by
  simp [execAcas, hw]

@[simp] theorem memWf_redTile (op : Issued) (n : Niw) (t : TileId) (hw : MemWf (memOf s)) : MemWf (memOf (s.redTile op n t))
    := by
  simp [State.redTile, hw]

@[simp] theorem outWf_execRed (n : Niw) (hw : MemWf (memOf s)) : OutWf (execRed n s) :=
  outWf_fireStore _ _ _ hw fun op u hu => memWf_ifHeld _ _ _ hu fun v hv => by
    split
    · simpa using hv
    · split
      · simpa using hv
      · split
        · simpa using hv
        · simp only
          split
          · exact memWf_withPieces _ _ _ _ _ hv fun ps => by split <;> simp [hv]
          · refine memWf_chained _ _ _ _ hv fun w h => memWf_toHome _ _ _ _ _ h (fun w t h => by simp [h]) fun w h => ?_
            exact memWf_withPieces _ _ _ _ _ h fun ps => by
              split
              · exact memWf_overPort _ _ _ _ _ h fun _ _ u hu => by simp [hu]
              · exact h

end Sys2Proof.Proofs
end

section

/-!
SUPPORT. The canonical form of memories through the matrix engine, verdicts, SACC tiles and generators (R63, R106, R145
to R158).
-/

namespace Sys2Proof.Proofs

open Sys2Proof Sys2Proof.Machine Sys2Proof.Claims

variable (s : State)

@[simp] theorem memOf_queueMma (op : Issued) (n : Niw) (zero : Bool) : memOf (s.queueMma op n zero) = memOf s := by
  unfold State.queueMma
  (repeat' split) <;> simp

@[simp] theorem outWf_execMma (n : Niw) (hw : MemWf (memOf s)) : OutWf (execMma n s) :=
  outWf_fire _ _ _ hw fun op u hu => by simp [hu]

@[simp] theorem outWf_execMmaz (n : Niw) (hw : MemWf (memOf s)) : OutWf (execMmaz n s) :=
  outWf_fire _ _ _ hw fun op u hu => by simp [hu]

@[simp] theorem memOf_doneReading (x : TileId × Nat) : memOf (s.doneReading x) = memOf s := by
  simp [State.doneReading]

@[simp] theorem outWf_execMmaExecute (t : TileId) (hw : MemWf (memOf s)) : OutWf (execMmaExecute t s) := by
  unfold execMmaExecute
  simp only
  (repeat' split) <;> simp [hw]

@[simp] theorem memOf_emitRows (op : Issued) (n : Niw) (ws : List Nat) (x0 : List (Nat × Result)) : memOf
    (s.emitRows op n ws x0) = memOf s :=
  memOf_of_kept (kept_emitRows ..)

@[simp] theorem outWf_execAcwr (n : Niw) (hw : MemWf (memOf s)) : OutWf (execAcwr n s) :=
  outWf_fire _ _ _ hw fun op u hu => by
    split <;> simp [hu]

@[simp] theorem outWf_execScle (n : Niw) (hw : MemWf (memOf s)) : OutWf (execScle n s) :=
  outWf_fire _ _ _ hw fun op u hu => by simp [hu]

@[simp] theorem memOf_emitColumns (op : Issued) (n : Niw) (ws : List Nat) (agg : Word) (k : Corner) (x0 : List Nat)
    : memOf (s.emitColumns op n ws agg k x0) = memOf s :=
  memOf_of_kept (kept_emitColumns ..)

@[simp] theorem memOf_cornerInput (op : Issued) (n : Niw) (t : TileId) (agg : Word) (k : Corner) : memOf
    (s.cornerInput op n t agg k) = memOf s :=
  memOf_of_kept (kept_cornerInput ..)

@[simp] theorem memOf_putSlot (t : TileId) (v : Verdict) : memOf (s.putSlot t v) = memOf s := rfl

@[simp] theorem memOf_freeSlot (t : TileId) (tag : Word) : memOf (s.freeSlot t tag) = memOf s := rfl

@[simp] theorem memOf_slotFault (op : Issued) (t : TileId) (cause : Nat) : memOf (s.slotFault op t cause) = memOf s := by
  simp [State.slotFault]

@[simp] theorem memOf_claimSlot (op : Issued) (n : Niw) (t : TileId) (d : BitVec 32 × Nat × Nat × Nat) :
    memOf (s.claimSlot op n t d) = memOf s := by
  have again : memOf (s.reenter op (·.hold op .verdict) id) = memOf s := by
    unfold State.reenter
    (repeat' split) <;> simp
  unfold State.claimSlot
  simp only
  split
  · exact memOf_slotFault ..
  · split
    · exact again
    · split <;> simp

@[simp] theorem outWf_execVopen (n : Niw) (hw : MemWf (memOf s)) : OutWf (execVopen n s) :=
  outWf_fire _ _ _ hw fun op u hu => by
    split
    · exact hu
    · refine memWf_scalars _ _ _ _ hu fun v hv => ?_
      split
      · simpa using hv
      · split
        · simpa using hv
        · split
          · simpa using hv
          · exact memWf_scalars _ _ _ _ hv fun w h => by
              split <;> simp [h]

@[simp] theorem memOf_vaccSlot (op : Issued) (n : Niw) (t : TileId) (v : Verdict) : memOf (s.vaccSlot op n t v) = memOf s
    := by
  simp [State.vaccSlot]

@[simp] theorem outWf_execVacc (n : Niw) (hw : MemWf (memOf s)) : OutWf (execVacc n s) :=
  outWf_fire _ _ _ hw fun op u hu => by
    (repeat' split) <;> simp [hu]

@[simp] theorem memOf_closeSlot (op : Issued) (n : Niw) (v : Verdict) (result : Word) : memOf
    (s.closeSlot op n v result) = memOf s := by
  simp [State.closeSlot]

@[simp] theorem outWf_execVclose (n : Niw) (hw : MemWf (memOf s)) : OutWf (execVclose n s) :=
  outWf_fire _ _ _ hw fun op u hu => by
    (repeat' split) <;> simp [hu]

@[simp] theorem outWf_execVchk (n : Niw) (hw : MemWf (memOf s)) : OutWf (execVchk n s) :=
  outWf_fire _ _ _ hw fun op u hu => by simp [hu]

@[simp] theorem memOf_thrDone (op : Issued) (n : Niw) (noef : Bool) (cause : Nat) : memOf
    (s.thrDone op n noef cause) = memOf s := by
  simp [State.thrDone]

@[simp] theorem memOf_thrFault (op : Issued) (n : Niw) (cause : Nat) (addr : Word) : memOf
    (s.thrFault op n cause addr) = memOf s := by
  unfold State.thrFault
  split <;> simp

@[simp] theorem memWf_thr (op : Issued) (n : Niw) (f : Word → Nat → Except Nat Word) (hw : MemWf (memOf s)) :
    MemWf (memOf (s.thr op n f)) := by
  unfold State.thr
  split
  · simpa using hw
  · split
    · simpa using hw
    · refine memWf_scalars _ _ _ _ hw fun v hv => ?_
      split
      · simpa using hv
      · exact hv
      · split
        · simpa using hv
        · rw [memOf_thrDone]
          exact memWf_writePieces _ _ _ (by simpa using hv)

@[simp] theorem outWf_fireThr (n : Niw) (f : Word → Nat → Except Nat Word) (hw : MemWf (memOf s)) : OutWf (fireThr n s f) :=
  outWf_fireRaw _ _ hw fun op u hu => by
    split <;> simp [hu]

@[simp] theorem outWf_execVthrRaise (n : Niw) (hw : MemWf (memOf s)) : OutWf (execVthrRaise n s) := by
  simp [execVthrRaise, hw]

@[simp] theorem outWf_execVthrReset (n : Niw) (hw : MemWf (memOf s)) : OutWf (execVthrReset n s) := by
  simp [execVthrReset, hw]

@[simp] theorem memOf_cellReply (t : TileId) (v : Verdict) (cell : Word) : memOf (s.cellReply t v cell) = memOf s := by
  unfold State.cellReply
  simp only
  split <;> simp

@[simp] theorem outWf_execVerdictCellReply (t : TileId) (hw : MemWf (memOf s)) : OutWf (execVerdictCellReply t s) := by
  unfold execVerdictCellReply
  (repeat' split) <;> simp [hw]

@[simp] theorem memOf_emitTop (op : Issued) (n : Niw) (ts : List (Option Target)) (g : Word) (k : Nat) (psn : Bool)
    (es : List (Word × Word)) (is : List Nat) : memOf (s.emitTop op n ts g k psn es is) = memOf s := by
  induction is generalizing s with
  | nil => rfl
  | cons i is ih =>
    unfold State.emitTop
    simp only
    split
    · exact memOf_opFault ..
    · exact (ih _).trans (memOf_emitTo ..)

@[simp] theorem memWf_topkInput (op : Issued) (n : Niw) (t : TileId) (c : Ctx) (g : Word) (ins : List Word)
    (hw : MemWf (memOf s))
    : MemWf (memOf (s.topkInput op n t c g ins)) := by
  simp [State.topkInput, hw]

@[simp] theorem outWf_execVtopk (n : Niw) (hw : MemWf (memOf s)) : OutWf (execVtopk n s) :=
  outWf_fire _ _ _ hw fun op u hu => by
    split
    · refine memWf_scalars _ _ _ _ hu fun v hv => ?_
      simp only
      split
      · simpa using hv
      · split
        · split <;> simp [hv]
        · exact memWf_scalars _ _ _ _ hv fun w h => by
            split <;> simp [h]
    · exact hu

@[simp] theorem memOf_putRow (t : TileId) (x : Row) : memOf (s.putRow t x) = memOf s :=
  memOf_setMtile _ _ _ rfl

@[simp] theorem memOf_dropRow (t : TileId) (num : Nat) : memOf (s.dropRow t num) = memOf s :=
  memOf_setMtile _ _ _ rfl

@[simp] theorem memWf_setElem (r : Nat) (x : Row) (c : Nat) (y : Int) (hw : MemWf (memOf s)) : MemWf
    (memOf (s.setElem r x c y))
    := by
  unfold State.setElem
  simp only
  split <;> simp [hw]

@[simp] theorem memWf_setElems (r : Nat) (x : Row) (es : List (Nat × Int)) (hw : MemWf (memOf s)) :
    MemWf (memOf (s.setElems r x es)) := by
  induction es generalizing s with
  | nil => exact hw
  | cons e es ih => exact ih _ (memWf_setElem _ _ _ _ _ hw)

@[simp] theorem memOf_mapRow (t : TileId) (num : Nat) (f : Row → Row) : memOf (s.mapRow t num f) = memOf s :=
  memOf_setMtile _ _ _ rfl

@[simp] theorem memOf_undefineRow (r : Nat) (x : Row) : memOf (s.undefineRow r x) = memOf s := by
  unfold State.undefineRow
  exact memOf_foldl _ _ (fun u x => by simp) _

@[simp] theorem memOf_sacReply (op : Issued) (n : Niw) (v : Value) (psn : Bool) : memOf (s.sacReply op n v psn) = memOf s
    := by
  simp [State.sacReply]

@[simp] theorem memOf_sacDone (op : Issued) (n : Niw) (scope : Scope) (noef : Bool) (cause : Nat) : memOf
    (s.sacDone op n scope noef cause) = memOf s := by
  simp [State.sacDone]

@[simp] theorem memOf_sacFault (op : Issued) (n : Niw) (place : Place) (scope : Scope) (cause : Nat) (addr detail : Word)
    : memOf (s.sacFault op n place scope cause addr detail) = memOf s := by
  simp [State.sacFault]

@[simp] theorem memWf_sacChecked (op : Issued) (n : Niw) (scalars : List Tok) (bad : Bool) (scope : Scope)
    (k : State → TileId → State)
    (hw : MemWf (memOf s)) (hk : ∀ u x1, MemWf (memOf u) → MemWf (memOf (k u x1))) : MemWf
    (memOf (s.sacChecked op n scalars bad scope k)) := by
  unfold State.sacChecked
  (repeat' split) <;> simp [hw, hk]

@[simp] theorem memWf_withRow (op : Issued) (n : Niw) (t : TileId) (scope : Scope) (k : Row → State) (hw : MemWf (memOf s))
    (hk : ∀ x0, MemWf (memOf (k x0))) : MemWf (memOf (s.withRow op n t scope k)) := by
  unfold State.withRow
  split <;> simp [hw, hk]

@[simp] theorem memWf_sacAdd (op : Issued) (n : Niw) (t : TileId) (x : Row) (hw : MemWf (memOf s)) : MemWf
    (memOf (s.sacAdd op n t x))
    := by
  unfold State.sacAdd
  simp only
  (repeat' split) <;> simp [hw]

@[simp] theorem outWf_execSaadd (n : Niw) (hw : MemWf (memOf s)) : OutWf (execSaadd n s) :=
  outWf_fireRaw _ _ hw fun op u hu => by
    split
    · exact hu
    · simpa using hu
    · exact memWf_sacChecked _ _ _ _ _ _ _ hu fun v t hv => memWf_withRow _ _ _ _ _ _ hv fun x => memWf_sacAdd _ _ _ _ _ hv

@[simp] theorem memOf_sacNorm (op : Issued) (n : Niw) (t : TileId) (x : Row) : memOf (s.sacNorm op n t x) = memOf s := by
  unfold State.sacNorm
  simp only
  (repeat' split) <;> simp

@[simp] theorem outWf_execSanrm (n : Niw) (hw : MemWf (memOf s)) : OutWf (execSanrm n s) :=
  outWf_fire _ _ _ hw fun op u hu => memWf_sacChecked _ _ _ _ _ _ _ hu fun v t hv =>
    memWf_withRow _ _ _ _ _ _ hv fun x => by simpa using hv

@[simp] theorem outWf_execSacnt (n : Niw) (hw : MemWf (memOf s)) : OutWf (execSacnt n s) :=
  outWf_fire _ _ _ hw fun op u hu => by simp [hu]

/-- A sink among the accumulator instructions keeps the canonical form where its body does. -/
theorem outWf_fireSac (n : Niw) (scope : Issued → Scope) (body : Issued → State → State) (hw : MemWf (memOf s))
    (hb : ∀ op u, MemWf (memOf u) → MemWf (memOf (body op u))) : OutWf (fireSac n s scope body) :=
  outWf_fireRaw _ _ hw fun op u hu => by
    split
    · exact hu
    · simpa using hu
    · simp only
      split
      · simpa using hu
      · split
        · simpa using hu
        · exact hb _ _ (by simpa using hu)

@[simp] theorem memWf_defineRow (t : TileId) (x : Row) (hw : MemWf (memOf s)) : MemWf (memOf (s.defineRow t x)) := by
  unfold State.defineRow
  refine memWf_foldl _ _ (fun u k hu => ?_) _ ?_
  · simp only [memOf_putRow]
    exact memWf_setMtile _ _ _ (cellsWf_cellsZero _ _ _ (memWf_tile hu _)) hu
  · split
    · simpa using hw
    · exact hw

@[simp] theorem memWf_place (op : Issued) (n : Niw) (t : TileId) (x : Row) (k : State → State) (hw : MemWf (memOf s))
    (hk : ∀ u, MemWf (memOf u) → MemWf (memOf (k u)))
    : MemWf (memOf (s.place op n t x k)) := by
  unfold State.place
  (repeat' split) <;> simp [hw, hk]

@[simp] theorem outWf_execSazro (n : Niw) (hw : MemWf (memOf s)) : OutWf (execSazro n s) :=
  outWf_fireSac _ _ _ _ hw fun op u hu => memWf_sacChecked _ _ _ _ _ _ _ hu fun v t hv => by
    simp only
    split
    · simpa using hv
    · exact memWf_place _ _ _ _ _ _ hv fun _ h => h

@[simp] theorem memOf_endReads (t : TileId) (num : Nat) : memOf (s.endReads t num) = memOf s := by
  unfold State.endReads
  refine (memOf_foldl _ _ (fun u x => ?_) _).trans (by simp)
  (repeat' split) <;> simp

@[simp] theorem memWf_sacEvict (op : Issued) (n : Niw) (t : TileId) (x : Row) (hw : MemWf (memOf s)) : MemWf
    (memOf (s.sacEvict op n t x))
    := by
  unfold State.sacEvict
  (repeat' split) <;> simp [hw]

@[simp] theorem outWf_execSaevc (n : Niw) (hw : MemWf (memOf s)) : OutWf (execSaevc n s) :=
  outWf_fireSac _ _ _ _ hw fun _ _ hu => memWf_sacChecked _ _ _ _ _ _ _ hu fun _ _ hv =>
    memWf_withRow _ _ _ _ _ _ hv fun _ => memWf_sacEvict _ _ _ _ _ hv

@[simp] theorem memWf_sacLoad (op : Issued) (n : Niw) (t : TileId) (hw : MemWf (memOf s)) :
    MemWf (memOf (s.sacLoad op n t)) := by
  unfold State.sacLoad
  simp only
  split
  · simpa using hw
  · simpa using hw
  · split
    · simpa using hw
    · simpa using hw
    · split
      · simpa using hw
      · exact memWf_place _ _ _ _ _ _ hw fun _ h => memWf_setElems _ _ _ _ h

@[simp] theorem outWf_execSalod (n : Niw) (hw : MemWf (memOf s)) : OutWf (execSalod n s) :=
  outWf_fireSac _ _ _ _ hw fun _ _ hu => memWf_sacChecked _ _ _ _ _ _ _ hu fun _ _ hv => memWf_sacLoad _ _ _ _ hv

@[simp] theorem outWf_execSanrmCountReached (t : TileId) (hw : MemWf (memOf s)) : OutWf (execSanrmCountReached t s) := by
  unfold execSanrmCountReached
  simp only
  split
  · exact hw
  · split
    · exact hw
    · rename_i op rest _
      exact memWf_setMtile s t { s.mtile t with waiting := rest } (memWf_tile hw t) hw

end Sys2Proof.Proofs
end

section

/-!
SUPPORT. The canonical form of memories through the Lace arrays (R197 to R215).
-/

namespace Sys2Proof.Proofs

open Sys2Proof Sys2Proof.Machine Sys2Proof.Claims

variable (s : State)

@[simp] theorem memOf_laceFlushList (l : List LaceOut) : memOf (s.laceFlushList l).2 = memOf s := by
  induction l generalizing s with
  | nil => rfl
  | cons x l ih =>
    cases x with
    | event r x => rfl
    | fifo t bs =>
      unfold State.laceFlushList
      simp only
      split
      · exact (ih _).trans (memOf_fifoPush ..)
      · rfl

@[simp] theorem memWf_laceRecords (a : Nat) (hw : MemWf (memOf s)) : MemWf (memOf (s.laceRecords a)) := by
  simp [State.laceRecords, hw]

@[simp] theorem memOf_setSlot (a k : Nat) (st : Stream) : memOf (s.setSlot a k st) = memOf s := rfl

@[simp] theorem memOf_putOp (a : Nat) (o o' : LaceOp) : memOf (s.putOp a o o') = memOf s := rfl

@[simp] theorem memOf_leaves (a : Nat) (o : LaceOp) : memOf (s.leaves a o) = memOf s := rfl

@[simp] theorem memOf_laceAway (a : Nat) (o : LaceOp) (va : Nat) : memOf (s.laceAway a o va) = memOf s := rfl

@[simp] theorem memOf_laceForget (op : Issued) : memOf (s.laceForget op) = memOf s := rfl

@[simp] theorem memOf_laceReply (a : Nat) (o : LaceOp) (v : Word) (pred : Bool) : memOf (s.laceReply a o v pred) = memOf s
    := by
  simp [State.laceReply]

@[simp] theorem memOf_laceFault (a : Nat) (o : LaceOp) (slot : Option Nat) (cause : Nat) (h : Word) (detail : Nat) : memOf
    (s.laceFault a o slot cause h detail) = memOf s := by
  simp [State.laceFault]

@[simp] theorem memWf_laceFirst (op : Issued) (h : Word) (scalars : List Tok) (k : State → State) (hw : MemWf (memOf s))
    (hk : ∀ u, MemWf (memOf u) → MemWf (memOf (k u))) : MemWf (memOf (s.laceFirst op h scalars k)) := by
  simp [State.laceFirst, hw, hk]

@[simp] theorem memWf_onStream (a : Nat) (o : LaceOp) (states : List SState) (k : Nat → Stream → Graph → State)
    (hw : MemWf (memOf s))
    (hk : ∀ x0 x1 x2, MemWf (memOf (k x0 x1 x2))) : MemWf (memOf (s.onStream a o states k)) := by
  unfold State.onStream
  simp only
  (repeat' split) <;> simp [hw, hk]

@[simp] theorem memOf_holdStream (a k : Nat) : memOf (s.holdStream a k) = memOf s := rfl

@[simp] theorem memWf_feedStart (a : Nat) (o : LaceOp) (hw : MemWf (memOf s)) : MemWf (memOf (s.feedStart a o)) := by
  simp [State.feedStart, hw]

@[simp] theorem memOf_stepSym (a : Nat) (o : LaceOp) (k sym : Nat) (rest : LaceWork) : memOf
    (s.stepSym a o k sym rest) = memOf s := by
  unfold State.stepSym
  simp only
  (repeat' split) <;> simp

@[simp] theorem memOf_feedEnd (a : Nat) (o : LaceOp) (k : Nat) : memOf (s.feedEnd a o k) = memOf s := by
  unfold State.feedEnd
  split <;> simp

@[simp] theorem memWf_laceRead (a : Nat) (o : LaceOp) (va len align : Nat) (k : List Byte → State) (hw : MemWf (memOf s))
    (hk : ∀ x0, MemWf (memOf (k x0))) : MemWf (memOf (s.laceRead a o va len align k)) := by
  unfold State.laceRead
  split <;> simp [hw, hk]

@[simp] theorem memWf_withGraph (a : Nat) (o : LaceOp) (k : State → Graph → State) (hw : MemWf (memOf s))
    (hk : ∀ u g, MemWf (memOf u) → MemWf (memOf (k u g))) : MemWf (memOf (s.withGraph a o k)) :=
  memWf_laceRead _ _ _ _ _ _ _ hw fun head => by
    simp only
    split
    · simpa using hw
    · refine memWf_laceRead _ _ _ _ _ _ _ hw fun bs => ?_
      split
      · split
        · exact hk _ _ hw
        · split
          · simpa using hw
          · split
            · simpa using hw
            · exact hk _ _ hw
      · split
        · simpa using hw
        · exact hk _ _ hw

@[simp] theorem memWf_bindStart (a : Nat) (o : LaceOp) (k : State → Nat → Graph → State) (hw : MemWf (memOf s))
    (hk : ∀ u i g, MemWf (memOf u) → MemWf (memOf (k u i g))) : MemWf (memOf (s.bindStart a o k)) := by
  unfold State.bindStart
  split
  · simpa using hw
  · split
    · exact memWf_reenter _ _ _ _ hw (fun _ h => h) fun _ h => h
    · exact memWf_withGraph _ _ _ _ hw fun u g hu => hk _ _ _ hu

@[simp] theorem memOf_bindSlot (a : Nat) (o : LaceOp) (i : Nat) (cs : List Conf) (pos seq : Nat) : memOf
    (s.bindSlot a o i cs pos seq) = memOf s := by
  simp [State.bindSlot]

@[simp] theorem memWf_bindWhole (a : Nat) (o : LaceOp) (hw : MemWf (memOf s)) : MemWf (memOf (s.bindWhole a o)) := by
  simp [State.bindWhole, hw]

@[simp] theorem memWf_resumeWhole (a : Nat) (o : LaceOp) (hw : MemWf (memOf s)) : MemWf (memOf (s.resumeWhole a o)) :=
  memWf_bindStart _ _ _ _ hw fun u i g hu => memWf_laceRead _ _ _ _ _ _ _ hu fun head => by
    simp only
    split
    · simpa using hu
    · refine memWf_laceRead _ _ _ _ _ _ _ hu fun bs => ?_
      split
      · simpa using hu
      · split <;> simp [hu]

@[simp] theorem memOf_freeStream (a k : Nat) : memOf (s.freeStream a k) = memOf s := rfl

@[simp] theorem memWf_writeParts (op : Issued) (ps : List (Nat × Nat)) (bs : List Byte) (hw : MemWf (memOf s)) :
    MemWf (memOf (s.writeParts op ps bs).1) := by
  induction ps generalizing s bs with
  | nil => exact hw
  | cons p ps ih =>
    unfold State.writeParts
    split
    · exact ih _ _ (memWf_writeMain _ _ _ hw)
    · exact hw
    · exact hw

@[simp] theorem memWf_suspendWhole (a : Nat) (o : LaceOp) (hw : MemWf (memOf s)) : MemWf (memOf (s.suspendWhole a o)) := by
  unfold State.suspendWhole
  refine memWf_onStream _ _ _ _ _ hw fun k st g => ?_
  simp only
  split
  · simpa using hw
  · split
    · simpa using hw
    · have hv {r : State × Res Unit} {ps : List (Nat × Nat)} {bs : List Byte}
          (hr : (s.holdStream a k).writeParts o.op ps bs = r) : MemWf (memOf r.1) :=
        hr ▸ memWf_writeParts (s.holdStream a k) o.op ps bs hw
      split
      · rename_i hr
        simpa using hv hr
      · rename_i hr
        simpa using hv hr
      · rename_i hr
        rw [memOf_laceReply]
        split <;> simpa using hv hr

@[simp] theorem memWf_dropWhole (a : Nat) (o : LaceOp) (hw : MemWf (memOf s)) : MemWf (memOf (s.dropWhole a o)) := by
  simp [State.dropWhole, hw]

@[simp] theorem memWf_queryRes {α : Type} (a : Nat) (o : LaceOp) (k : Nat) (r : Res α) (go : α → State)
    (hw : MemWf (memOf s))
    (hgo : ∀ x0, MemWf (memOf (go x0))) : MemWf (memOf (s.queryRes a o k r go)) := by
  unfold State.queryRes
  split <;> simp [hw, hgo]

@[simp] theorem memOf_queryStart (a : Nat) (o : LaceOp) : memOf (s.queryStart a o) = memOf s := by
  unfold State.queryStart State.onStream State.queryRes
  simp only
  (repeat' split) <;> simp

@[simp] theorem memWf_queryMasked (a : Nat) (o : LaceOp) (k : Nat) (ws : List Word) (d : QueryDesc) (f m : Nat)
    (hw : MemWf (memOf s)) : MemWf (memOf (s.queryMasked a o k ws d f m)) := by
  unfold State.queryMasked
  simp only
  split
  · exact memWf_queryRes _ _ _ _ _ _ hw fun ps => by simp [hw]
  · refine memWf_queryRes _ _ _ _ _ _ hw fun ps => ?_
    have hv := memWf_writePieces s ps (bytesOf 4 ((setBits (m % 2 ^ d.v) d.v).headD 0)) hw
    exact memWf_queryRes _ _ _ _ _ _ hv fun syms => by simpa using hv

@[simp] theorem memWf_queryMask (a : Nat) (o : LaceOp) (k : Nat) (ws : List Word) (f : Nat) (classes : List Nat)
    (off m : Nat) (hw : MemWf (memOf s)) : MemWf (memOf (s.queryMask a o k ws f classes off m)) := by
  unfold State.queryMask
  split
  · simpa using hw
  · simp only
    exact memWf_queryRes _ _ _ _ _ _ (by simpa using hw) fun _ => memWf_queryMasked _ _ _ _ _ _ _ _ (by simpa using hw)

@[simp] theorem memWf_queryTurn (a : Nat) (o : LaceOp) (k : Nat) (ws : List Word) (f : Nat) (hw : MemWf (memOf s)) : MemWf
    (memOf (s.queryTurn a o k ws f)) := by
  unfold State.queryTurn
  simp only
  (repeat' split) <;> simp [hw]

@[simp] theorem memWf_laceStart (a : Nat) (o : LaceOp) (hw : MemWf (memOf s)) : MemWf (memOf (s.laceStart a o)) := by
  unfold State.laceStart
  split <;> simp [hw]

@[simp] theorem memWf_laceOne (a : Nat) (o : LaceOp) (hw : MemWf (memOf s)) : MemWf (memOf (s.laceOne a o)) := by
  unfold State.laceOne
  split <;> simp [hw]

@[simp] theorem memWf_laceRun (fuel a : Nat) (s : State) (hw : MemWf (memOf s)) : MemWf (memOf (State.laceRun fuel a s))
    := by
  induction fuel generalizing s with
  | zero => exact hw
  | succ fuel ih =>
    unfold State.laceRun
    split
    · exact hw
    · exact ih _ (memWf_laceOne _ _ _ hw)

@[simp] theorem memWf_laceGo (a : Nat) (hw : MemWf (memOf s)) : MemWf (memOf (s.laceGo a)) := by
  simp [State.laceGo, hw]

@[simp] theorem memWf_laceArrive (a : Nat) (op : Issued) (hw : MemWf (memOf s)) : MemWf (memOf (s.laceArrive a op)) :=
  memWf_laceGo _ _ hw

@[simp] theorem outWf_execLbind (n : Niw) (hw : MemWf (memOf s)) : OutWf (execLbind n s) :=
  outWf_fire _ _ _ hw fun op u hu => memWf_laceFirst _ _ _ _ _ hu fun v hv => by
    split <;> simp [hv]

@[simp] theorem outWf_execLfeed (n : Niw) (hw : MemWf (memOf s)) : OutWf (execLfeed n s) :=
  outWf_fire _ _ _ hw fun _ _ hu => memWf_laceFirst _ _ _ _ _ hu fun _ hv => memWf_laceArrive _ _ _ hv

@[simp] theorem outWf_execLqry (n : Niw) (hw : MemWf (memOf s)) : OutWf (execLqry n s) :=
  outWf_fire _ _ _ hw fun op u hu => memWf_laceFirst _ _ _ _ _ hu fun v hv => by
    split <;> simp [hv]

@[simp] theorem outWf_execLsusp (n : Niw) (hw : MemWf (memOf s)) : OutWf (execLsusp n s) :=
  outWf_fire _ _ _ hw fun op u hu => memWf_laceFirst _ _ _ _ _ hu fun v hv => by
    split <;> simp [hv]

@[simp] theorem outWf_execLresm (n : Niw) (hw : MemWf (memOf s)) : OutWf (execLresm n s) :=
  outWf_fire _ _ _ hw fun op u hu => memWf_laceFirst _ _ _ _ _ hu fun v hv => by
    split <;> simp [hv]

@[simp] theorem outWf_execLdrop (n : Niw) (hw : MemWf (memOf s)) : OutWf (execLdrop n s) :=
  outWf_fire _ _ _ hw fun _ _ hu => memWf_laceFirst _ _ _ _ _ hu fun _ hv => memWf_laceArrive _ _ _ hv

end Sys2Proof.Proofs
end

section

/-!
SUPPORT. The canonical form of memories through loads of images, planes, contexts and the instructions of the system (R47 to
R50, R118, R125, R251, R323).
-/

namespace Sys2Proof.Proofs

open Sys2Proof Sys2Proof.Machine Sys2Proof.Claims

variable (s : State)

theorem memWf_of_eq {t : State} (e : memOf t = memOf s) (hw : MemWf (memOf s)) : MemWf (memOf t) := e ▸ hw

/-- A computation of a state that goes on from an answer. -/
theorem resWf_bind {α : Type} (r : Res α) (f : α → Res State) (h : ∀ x, r = .ok x → ResWf (f x)) : ResWf (r.bind f) := by
  cases r with
  | ok x => exact h x rfl
  | fault c a d => exact trivial
  | miss va => exact trivial

theorem resWf_bind_state (r : Res State) (f : State → Res State) (hr : ResWf r)
    (h : ∀ u, MemWf (memOf u) → ResWf (f u)) : ResWf (r.bind f) :=
  resWf_bind r f fun u hu => h u (by simpa [hu] using hr)

@[simp] theorem cells_emptied (m : Main) (a n : Nat) : (m.emptied a n).cells = m.cells := rfl

theorem cells_foldl {α : Type} (f : Main → α → Main) (hf : ∀ m x, (f m x).cells = m.cells) (l : List α) (m : Main) :
    (l.foldl f m).cells = m.cells := by
  induction l generalizing m with
  | nil => rfl
  | cons x l ih => exact (ih _).trans (hf m x)

@[simp] theorem memOf_startEmpty (program : Bool) (ps : List (Nat × Nat)) : memOf (s.startEmpty program ps) = memOf s :=
  Prod.ext (cells_foldl _ (fun m p => by split <;> rfl) ps s.main) rfl

@[simp] theorem resWf_writeWords (program : Bool) (root : Nat) (system : Bool) (head : Bool) (a : Nat) (ws : List Word)
    (hw : MemWf (memOf s)) : ResWf (s.writeWords program root system head a ws) := by
  refine resWf_bind _ _ fun ps _ => ?_
  have h := memWf_writePieces (s.startEmpty program ps) ps (wordBytes ws) (by simpa using hw)
  simp only [resWf_ok]
  split <;> exact h

@[simp] theorem resWf_writeData (program : Bool) (root : Nat) (system : Bool) (l : List (Nat × List Word × Word))
    (hw : MemWf (memOf s)) : ResWf (s.writeData program root system l) := by
  induction l generalizing s with
  | nil => exact hw
  | cons d l ih =>
    exact resWf_bind_state _ _ (resWf_writeWords _ _ _ _ _ _ _ hw) fun u hu => ih _ hu

@[simp] theorem memWf_writeCode (t : TileId) (off : Nat) (ws : List Word) (hw : MemWf (memOf s)) :
    MemWf (memOf (s.writeCode t off ws)) := by
  have h := memWf_writeBank s t off (wordBytes ws) hw
  exact memWf_setMtile _ _ _ (memWf_tile h t) h

@[simp] theorem resWf_writeBlocks (program : Bool) (root : Nat) (system : Bool) (l : List BlockSec)
    (hw : MemWf (memOf s)) : ResWf (s.writeBlocks program root system l) := by
  induction l generalizing s with
  | nil => exact hw
  | cons b l ih =>
    unfold State.writeBlocks
    split
    · exact ih _ (memWf_writeCode _ _ _ _ hw)
    · exact resWf_bind_state _ _ (resWf_writeWords _ _ _ _ _ _ _ hw) fun u hu => ih _ hu

@[simp] theorem cellsWf_zeroedFor (m : MTile) (p : MPlane) (h : cellsWf m.banks = true) :
    cellsWf (m.zeroedFor p).banks = true := cellsWf_filter _ _ h

@[simp] theorem memWf_putShadows (ctx : Nat) (cs : List (TileId × CPlane)) (ms : List (TileId × MPlane))
    (hw : MemWf (memOf s)) : MemWf (memOf (s.putShadows ctx cs ms)) := by
  refine memWf_foldl _ _ (fun u m hu => ?_) _ ?_
  · have hb := memWf_tile hu m.1
    simp only
    split
    · exact memWf_setMtile _ _ _ hb hu
    · exact memWf_setMtile _ _ _ (cellsWf_zeroedFor _ _ hb) hu
  · exact memWf_of_eq _ (memOf_foldl _ _ (fun _ _ => by rfl) _) hw

theorem cellsWf_writePlane (p : MPlane) (banks : List Host.Cell) (heads : List Nat) (h : cellsWf banks = true) :
    cellsWf (writePlane p banks heads).1 = true := by
  have go (l : List (Nat × List Word)) (x : List Host.Cell × List Nat) (hx : cellsWf x.1 = true) :
      cellsWf (l.foldl (fun x b => (cellsPut x.1 b.1 (wordBytes b.2),
        addNew (clearHeads x.2 b.1 (8 * b.2.length)) (b.1 / 64))) x).1 = true := by
    induction l generalizing x with
    | nil => exact hx
    | cons b l ih => exact ih _ (cellsWf_cellsPut _ _ _ hx)
  exact go _ _ (cellsWf_cellsPut _ _ _ h)

theorem cellsWf_configured (m : MTile) (p : MPlane) (h : cellsWf m.banks = true) :
    cellsWf (m.configured p).banks = true := by
  refine cellsWf_gateBanks _ _ (cellsWf_writePlane _ _ _ ?_)
  split
  · exact h
  · exact cellsWf_zeroedFor _ _ h

theorem cellsWf_switched (m : MTile) (h : cellsWf m.banks = true) : cellsWf m.switched.banks = true := by
  unfold MTile.switched
  split
  · rfl
  · exact cellsWf_configured _ _ h

@[simp] theorem memWf_switchTile (t : TileId) (hw : MemWf (memOf s)) : MemWf (memOf (s.switchTile t)) := by
  unfold State.switchTile
  split
  · exact hw
  · exact memWf_setMtile _ _ _ (cellsWf_switched _ (memWf_tile hw t)) hw

@[simp] theorem memOf_freeFrame (base size : Nat) : memOf (s.freeFrame base size) = memOf s := rfl

theorem cellsWf_purged (m : MTile) (n : Nat) (h : cellsWf m.banks = true) : cellsWf (m.purged n).banks = true := by
  unfold MTile.purged
  simp only
  split
  · rfl
  · exact h

/-- Tiles changed one by one, each with its bytes in canonical form. -/
theorem cellsWf_map (f : TileId × MTile → MTile) (hf : ∀ x, cellsWf x.2.banks = true → cellsWf (f x).banks = true)
    (l : List (TileId × MTile)) (h : ∀ u, cellsWf (tileBytes l u) = true) (u : TileId) :
    cellsWf (tileBytes (l.map fun x => (x.1, f x)) u) = true := by
  unfold tileBytes lookD at h ⊢
  have hl : look u (l.map fun x => (x.1, f x)) = none ∨
      ∃ x, look u l = some x ∧ look u (l.map fun x => (x.1, f x)) = some (f (u, x)) := by
    clear h
    induction l with
    | nil => exact .inl rfl
    | cons x l ih =>
      obtain ⟨k, m⟩ := x
      by_cases hk : k = u
      · subst hk
        exact .inr ⟨m, by simp [look], by simp [look]⟩
      · simpa [look, hk] using ih
  obtain h0 | ⟨x, hx, hfx⟩ := hl
  · rw [h0]
    rfl
  · rw [hfx]
    exact hf (u, x) (by simpa [hx] using h u)

@[simp] theorem memWf_purge (n : Nat) (hw : MemWf (memOf s)) : MemWf (memOf (s.purge n)) := by
  have h (l : List PageMove) : MemWf (memOf (l.foldl (fun s x => s.freeFrame x.frame x.size) s)) :=
    memWf_of_eq _ (memOf_foldl _ _ (fun _ _ => by rfl) _) hw
  exact ⟨(h _).1, cellsWf_map (fun x => x.2.purged n) (fun x hx => cellsWf_purged _ _ hx) _ (h _).2⟩

@[simp] theorem memWf_endCtx (ln : Nat) (tell : Bool) (hw : MemWf (memOf s)) : MemWf (memOf (s.endCtx ln tell)) := by
  unfold State.endCtx
  (repeat' split) <;> simp [hw]

@[simp] theorem memWf_endPrograms (hw : MemWf (memOf s)) : MemWf (memOf s.endPrograms) := by
  unfold State.endPrograms
  refine memWf_foldl _ _ (fun u x hu => ?_) _ (by simp [hw])
  simp [hu]

@[simp] theorem memWf_endUnplaced (n : Nat) (hw : MemWf (memOf s)) : MemWf (memOf (s.endUnplaced n)) := by
  unfold State.endUnplaced
  split <;> simp [hw]

@[simp] theorem memWf_swapRegion (r : Nat) (hw : MemWf (memOf s)) : MemWf (memOf (s.swapRegion r)) := by
  unfold State.swapRegion
  refine memWf_foldl _ _ (fun u x hu => ?_) _ (by simp [hw])
  simp [hu]

@[simp] theorem memOf_tellSwap (r : Nat) (old : Option Nat) : memOf (s.tellSwap r old) = memOf s := by
  unfold State.tellSwap
  exact memOf_foldl _ _ (fun u x => by simp) _

@[simp] theorem memWf_doSwap (r : Nat) (hw : MemWf (memOf s)) : MemWf (memOf (s.doSwap r)) := by
  unfold State.doSwap
  simp only
  split <;> simp [hw]

@[simp] theorem memOf_enter (ln : Nat) (t : TileId) (node : Nat) (tag : Word) : memOf (s.enter ln t node tag) = memOf s := by
  unfold State.enter
  (repeat' split) <;> simp

@[simp] theorem memOf_injectSeed (ln n : Nat) (x : SeedRec) : memOf (s.injectSeed ln n x) = memOf s := by
  simp [State.injectSeed]

@[simp] theorem memOf_injectSeeds (ln n : Nat) (l : List SeedRec) : memOf (s.injectSeeds ln n l) = memOf s := by
  unfold State.injectSeeds
  exact memOf_foldl _ _ (fun u x => by simp) _

@[simp] theorem resWf_writeSections (c : Ctx) (img : Image) (program : Bool) (hw : MemWf (memOf s)) :
    ResWf (s.writeSections c img program) :=
  resWf_bind_state _ _ (resWf_writeData _ _ _ _ _ hw) fun _ hu => resWf_writeBlocks _ _ _ _ _ hu

@[simp] theorem memOf_markLoaded (rset : Nat) (l : Loaded) : memOf (s.markLoaded rset l) = memOf s := by
  unfold State.markLoaded
  exact memOf_foldl _ _ (fun u x => by simp) _

@[simp] theorem resWf_loadFabric (c : Ctx) (img : Image) (rset : Nat) (byCfgld : Bool) (hw : MemWf (memOf s)) :
    ResWf (s.loadFabric c img rset byCfgld) :=
  resWf_bind _ _ fun ms _ => resWf_bind_state _ _ (resWf_writeSections _ _ _ _ hw) fun u hu =>
    resWf_ok.2 (by simpa using memWf_putShadows _ _ _ _ hu)

@[simp] theorem memOf_askPager (ctx va r : Nat) : memOf (s.askPager ctx va r) = memOf s := by
  simp [State.askPager]

@[simp] theorem resWf_bind_pair (n : Nat) (r : Res State) (hr : ResWf r) :
    ∀ x, (r.bind fun s => .ok (n, s)) = .ok x → MemWf (memOf x.2) := by
  intro x hx
  cases r with
  | ok u =>
    cases hx
    exact hr
  | fault c a d => cases hx
  | miss va => cases hx

/-- The state that a load of an image answers. -/
theorem memWf_cfgld (c : Ctx) (src : Source) (a rs : Nat) (hw : MemWf (memOf s)) (x : Nat × State)
    (hx : s.cfgld c src a rs = .ok x) : MemWf (memOf x.2) := by
  unfold State.cfgld at hx
  simp only at hx
  split at hx
  · cases hx
  · split at hx
    · cases hx
    · cases hr : s.readImage src false a with
      | fault c a d =>
        rw [hr] at hx
        cases hx
      | miss va =>
        rw [hr] at hx
        cases hx
      | ok img =>
        rw [hr] at hx
        simp only [Res.bind] at hx
        split at hx
        · cases hx
        · split at hx
          · cases hx
            exact hw
          · exact resWf_bind_pair _ _ (resWf_loadFabric _ _ _ _ _ hw) x hx

@[simp] theorem outWf_execCfgld (n : Niw) (hw : MemWf (memOf s)) : OutWf (execCfgld n s) :=
  outWf_fire _ _ _ hw fun op u hu => memWf_scalars _ _ _ _ hu fun v hv => by
    split
    · exact hv
    · simp only
      split
      · rename_i h
        rw [memOf_emitWord]
        exact memWf_cfgld _ _ _ _ _ hv _ h
      · split <;> simpa using hv
      · simpa using hv

@[simp] theorem outWf_execCfgsw (n : Niw) (hw : MemWf (memOf s)) : OutWf (execCfgsw n s) :=
  outWf_fire _ _ _ hw fun op u hu => memWf_scalars _ _ _ _ hu fun v hv => by
    simp only
    split
    · exact hv
    · (repeat' split) <;> try simpa using hv
      exact memWf_foldl _ _ (fun w r h => by simp [h]) _ (by simpa using hv)

@[simp] theorem memOf_adopt (rset num : Nat) : memOf (s.adopt rset num) = memOf s := by
  refine memOf_foldl _ _ (fun u r => ?_) _
  refine (memOf_setRegion ..).trans (memOf_foldl _ _ (fun v t => ?_) _)
  simp only
  split <;> simp

@[simp] theorem memOf_spliceDone (c : Ctx) (l : Loaded) : memOf (s.spliceDone c l) = memOf s :=
  (memOf_foldl _ _ (fun u h => by simp) _).trans (memOf_foldl _ _ (fun u r => by rfl) _)

@[simp] theorem outWf_execSplice (n : Niw) (hw : MemWf (memOf s)) : OutWf (execSplice n s) :=
  outWf_fire _ _ _ hw fun op u hu => memWf_scalars _ _ _ _ hu fun v hv => by
    simp only
    (repeat' split) <;> simp [hv]

@[simp] theorem memOf_accept (x : Ctx) : memOf (s.accept x) = memOf s := rfl

@[simp] theorem outWf_execLaunch (n : Niw) (hw : MemWf (memOf s)) : OutWf (execLaunch n s) :=
  outWf_fire _ _ _ hw fun op u hu => memWf_scalars _ _ _ _ hu fun v hv => by
    simp only
    split
    · simpa using hv
    · refine memWf_withPieces _ _ _ _ _ hv fun ps => ?_
      split
      · simpa using hv
      · exact hv
      · (repeat' split) <;> simpa using hv

@[simp] theorem memOf_seed (op : Issued) (n : Niw) (x : Ctx) : memOf (s.seed op n x) = memOf s := by
  unfold State.seed
  split <;> simp

@[simp] theorem outWf_execSeed (n : Niw) (hw : MemWf (memOf s)) : OutWf (execSeed n s) :=
  outWf_fire _ _ _ hw fun op u hu => memWf_scalars _ _ _ _ hu fun v hv => by
    (repeat' split) <;> simp [hv]

@[simp] theorem outWf_execEvpost (n : Niw) (hw : MemWf (memOf s)) : OutWf (execEvpost n s) :=
  outWf_fireRaw _ _ hw fun op u hu => by
    split <;> simp [hu]

@[simp] theorem outWf_execEvwait (n : Niw) (hw : MemWf (memOf s)) : OutWf (execEvwait n s) :=
  outWf_fire _ _ _ hw fun op u hu => memWf_scalars _ _ _ _ hu fun v hv => by
    simp only
    (repeat' split) <;> simp [hv]

@[simp] theorem memWf_withMarked (op : Issued) (extra : Ctx → Option Nat) (k : State → Ctx → State)
    (hw : MemWf (memOf s)) (hk : ∀ u x, MemWf (memOf u) → MemWf (memOf (k u x))) :
    MemWf (memOf (s.withMarked op extra k)) :=
  memWf_scalars _ _ _ _ hw fun v hv => by
    simp only
    (repeat' split) <;> simp [hv, hk]

@[simp] theorem memOf_mark (op : Issued) (n : Niw) (x : Ctx) : memOf (s.mark op n x) = memOf s := by
  unfold State.mark
  split <;> simp

@[simp] theorem outWf_execMarkFreeze (n : Niw) (hw : MemWf (memOf s)) : OutWf (execMarkFreeze n s) :=
  outWf_fire _ _ _ hw fun op u hu => by simp [hu]

@[simp] theorem outWf_execMarkGang (n : Niw) (hw : MemWf (memOf s)) : OutWf (execMarkGang n s) :=
  outWf_fire _ _ _ hw fun op u hu => by simp [hu]

@[simp] theorem outWf_execMarkResume (n : Niw) (hw : MemWf (memOf s)) : OutWf (execMarkResume n s) :=
  outWf_fire _ _ _ hw fun op u hu => memWf_scalars _ _ _ _ hu fun v hv => by
    simp only
    (repeat' split) <;> simp [hv]

/-- A fold that also gathers an address leaves every byte alone when its steps do. -/
theorem memOf_foldl_snd {α β : Type} (f : β × State → α → β × State) (hf : ∀ b x, memOf (f b x).2 = memOf b.2)
    (l : List α) (b : β × State) : memOf (l.foldl f b).2 = memOf b.2 := by
  induction l generalizing b with
  | nil => rfl
  | cons x l ih => exact (ih _).trans (hf b x)

@[simp] theorem memOf_repatch (c : Ctx) (t : TileId) (g : Nat) : memOf (s.repatch c t g).2 = memOf s := by
  unfold State.repatch
  simp only
  split
  · exact memOf_setMtile _ _ _ rfl
  · exact (memOf_askPager ..).trans (memOf_setMtile _ _ _ rfl)
  · simp only
    split
    · exact (memOf_takeFault ..).trans (memOf_setMtile _ _ _ rfl)
    · exact memOf_setMtile _ _ _ rfl

@[simp] theorem memOf_repatchShadow (c : Ctx) (t : TileId) (base len : Nat) :
    memOf (s.repatchShadow c t base len).2 = memOf s := by
  unfold State.repatchShadow
  simp only
  split
  · rfl
  · split
    · rfl
    · refine (memOf_foldl_snd _ (fun b e => ?_) _ _).trans (by simp)
      split <;> simp

@[simp] theorem memOf_repatchActive (c : Ctx) (t : TileId) (base len : Nat) :
    memOf (s.repatchActive c t base len).2 = memOf s := by
  unfold State.repatchActive
  simp only
  split
  · refine memOf_foldl_snd _ (fun b e => ?_) _ _
    split <;> simp
  · rfl

@[simp] theorem memOf_repatchRegion (c : Ctx) (r base len : Nat) : memOf (s.repatchRegion c r base len).2 = memOf s :=
  memOf_foldl_snd _ (fun b e => by simp) _ _

@[simp] theorem memOf_repatchAll (c : Ctx) (base len : Nat) (l : List Nat) :
    memOf (s.repatchAll c base len l).2 = memOf s := by
  induction l generalizing s with
  | nil => rfl
  | cons r l ih =>
    unfold State.repatchAll
    simp only [ih, memOf_repatchRegion]

@[simp] theorem memOf_invalidate (r num base len : Nat) : memOf (s.invalidate r num base len) = memOf s := rfl

@[simp] theorem memWf_resumeScatter (base len : Nat) (x : Scatter) (hw : MemWf (memOf s)) : MemWf
    (memOf (s.resumeScatter base len x))
    := by
  simp [State.resumeScatter, hw]

@[simp] theorem memWf_resumeScatters (num base len : Nat) (hw : MemWf (memOf s)) : MemWf
    (memOf (s.resumeScatters num base len))
    := by
  unfold State.resumeScatters
  refine memWf_foldl _ _ (fun u x hu => ?_) _ (by simp [hw])
  simp [hu]

@[simp] theorem outWf_execXlinv (n : Niw) (hw : MemWf (memOf s)) : OutWf (execXlinv n s) :=
  outWf_fire _ _ _ hw fun op u hu => memWf_scalars _ _ _ _ hu fun v hv => by
    simp only
    split
    · simpa using hv
    · rename_i hc
      have hi (l : List Nat) (a b c : Nat) : MemWf (memOf (l.foldl (fun s r => s.invalidate r a b c) v)) :=
        memWf_of_eq _ (memOf_foldl _ _ (fun _ _ => by rfl) _) hv
      (repeat' split) <;> simp [hi]

@[simp] theorem memOf_closeWindows : memOf s.closeWindows = memOf s := rfl

@[simp] theorem memOf_clearTwin (r : Nat) : memOf (s.clearTwin r) = memOf s := by
  unfold State.clearTwin
  exact memOf_foldl _ _ (fun u x => by simp) _

@[simp] theorem outWf_execThrot (n : Niw) (hw : MemWf (memOf s)) : OutWf (execThrot n s) :=
  outWf_fire _ _ _ hw fun op u hu => by
    split <;> simp [hu]

@[simp] theorem outWf_execSysrdFltdrop (n : Niw) (hw : MemWf (memOf s)) : OutWf (execSysrdFltdrop n s) :=
  outWf_fire _ _ _ hw fun op u hu => by simp [hu]

@[simp] theorem outWf_execSyswrMode (n : Niw) (hw : MemWf (memOf s)) : OutWf (execSyswrMode n s) :=
  outWf_fire _ _ _ hw fun op u hu => by simp [hu]

@[simp] theorem outWf_execSyswrThrotwin (n : Niw) (hw : MemWf (memOf s)) : OutWf (execSyswrThrotwin n s) :=
  outWf_fire _ _ _ hw fun op u hu => by simp [hu]

@[simp] theorem outWf_execSyswr (n : Niw) (hw : MemWf (memOf s)) : OutWf (execSyswr n s) :=
  outWf_fire _ _ _ hw fun op u hu => by simp [hu]

@[simp] theorem outWf_execTrap (n : Niw) (hw : MemWf (memOf s)) : OutWf (execTrap n s) :=
  outWf_fire _ _ _ hw fun op u hu => by
    (repeat' split) <;> simp [hu]

@[simp] theorem outWf_execHalt (n : Niw) (hw : MemWf (memOf s)) : OutWf (execHalt n s) :=
  outWf_fireExit _ _ _ hw fun op u hu => by simp [hu]

end Sys2Proof.Proofs
end

section

/-!
SUPPORT. The canonical form of memories through the events of tiles and contexts and through snapshots: a restored bank is
filled byte by byte (R106 to R109, R117, R118, R218, R226, R227).
-/

namespace Sys2Proof.Proofs

open Sys2Proof Sys2Proof.Machine Sys2Proof.Claims

variable (s : State)

@[simp] theorem memOf_tokenIn (t : TileId) (cargo : Cargo) (ws : List Word) : memOf (s.tokenIn t cargo ws) = memOf s := by
  unfold State.tokenIn
  split <;> simp

@[simp] theorem memOf_requestIn (t : TileId) (op : Issued) : memOf (s.requestIn t op) = memOf s := rfl

@[simp] theorem memOf_replyIn (op : Issued) (tok : Tok) : memOf (s.replyIn op tok) = memOf s := by
  simp [State.replyIn]

@[simp] theorem memOf_recordIn (t : TileId) (cargo : Cargo) (ws : List Word) : memOf (s.recordIn t cargo ws) = memOf s := by
  unfold State.recordIn
  split <;> simp

@[simp] theorem memOf_deliverPacket (t : TileId) (typ : Nat) (cargo : Cargo) (ws : List Word) : memOf
    (s.deliverPacket t typ cargo ws) = memOf s := by
  unfold State.deliverPacket
  split <;> simp

@[simp] theorem memOf_flushReasm (t : TileId) : memOf (s.flushReasm t) = memOf s := by
  unfold State.flushReasm
  exact memOf_foldl _ _ (fun u x => by simp) _

@[simp] theorem memOf_fillIngress (t : TileId) : memOf (s.fillIngress t) = memOf s := by
  simp [State.fillIngress]

@[simp] theorem memOf_drainArrives (t : TileId) (node : Nat) (slot : Slot) : memOf (s.drainArrives t node slot) = memOf s
    := by
  simp [State.drainArrives]

@[simp] theorem memOf_tokenFault (t : TileId) (q : Parcel) (cause : Nat) : memOf (s.tokenFault t q cause) = memOf s := by
  simp [State.tokenFault]

@[simp] theorem memOf_matchGate (t : TileId) (c : Ctx) (p : CPlane) (x : Nat × Niw) (q : Parcel) :
    memOf (s.matchGate t c p x q) = memOf s := by
  unfold State.matchGate
  simp only
  split
  · simp
  · split
    · simp
    · split
      · rfl
      · rename_i h
        split
        · exact (memOf_matchKey ..).trans (memOf_gateToken _ _ _ _ _ _ h)
        · exact memOf_gateToken _ _ _ _ _ _ h

@[simp] theorem memWf_matchToken (t : TileId) (c : Ctx) (p : CPlane) (base : Nat) (q : Parcel) (hw : MemWf (memOf s))
    : MemWf (memOf (s.matchToken t c p base q)) := by
  unfold State.matchToken
  split <;> simp [hw]

@[simp] theorem memWf_arrive (t : TileId) (q : Parcel) (hw : MemWf (memOf s)) : MemWf (memOf (s.arrive t q)) := by
  unfold State.arrive
  simp only
  split <;> simp [hw]

@[simp] theorem outWf_execTokenMatch (t : TileId) (hw : MemWf (memOf s)) : OutWf (execTokenMatch t s) := by
  unfold execTokenMatch
  simp only
  split <;> simp [hw]

@[simp] theorem outWf_execSkeinRefill (t : TileId) (hw : MemWf (memOf s)) : OutWf (execSkeinRefill t s) := by
  unfold execSkeinRefill
  simp only
  (repeat' split) <;> simp [hw]

@[simp] theorem memOf_reseat (t : TileId) : memOf (s.reseat t) = memOf s := by
  unfold State.reseat
  simp only
  (repeat' split) <;> simp

@[simp] theorem memOf_issueTile (t : TileId) (op : Issued) : memOf (s.issueTile t op) = memOf s := by
  unfold State.issueTile
  split <;> simp

@[simp] theorem memOf_goOn (h : Held) : memOf (s.goOn h) = memOf s := by
  unfold State.goOn
  split <;> simp

@[simp] theorem memOf_serveRequest (r : Nat) : memOf (s.serveRequest r) = memOf s := by
  unfold State.serveRequest
  simp only
  split <;> simp

@[simp] theorem outWf_execIssue (who : Issuer) (hw : MemWf (memOf s)) : OutWf (execIssue who s) := by
  unfold execIssue
  (repeat' split) <;> simp [hw]

@[simp] theorem outWf_execKillMarkReceive (t : TileId) (hw : MemWf (memOf s)) : OutWf (execKillMarkReceive t s) := by
  unfold execKillMarkReceive
  simp only
  split <;> simp [hw]

@[simp] theorem outWf_execStoreBufferRelease (r : Nat) (hw : MemWf (memOf s)) : OutWf (execStoreBufferRelease r s) := by
  unfold execStoreBufferRelease
  simp only
  (repeat' split) <;> simp [hw]

@[simp] theorem memOf_refuse (t : TileId) (op : Issued) (count cause : Nat) : memOf (s.refuse t op count cause) = memOf s
    := by
  simp [State.refuse]

@[simp] theorem outWf_execGeneratorStart (t : TileId) (g : Nat) (hw : MemWf (memOf s)) : OutWf (execGeneratorStart t g s)
    := by
  unfold execGeneratorStart
  simp only
  (repeat' split) <;> simp [hw]

@[simp] theorem memOf_stopFill (d : List Word) (t : TileId) (x : Gen) (tag : Word) : memOf
    (s.stopFill d t x tag) = memOf s := by
  unfold State.stopFill
  split <;> simp

@[simp] theorem memWf_stopPeer (d : List Word) (t : TileId) (hw : MemWf (memOf s)) : MemWf (memOf (s.stopPeer d t)) := by
  unfold State.stopPeer
  simp only
  (repeat' split) <;> simp [hw]

@[simp] theorem outWf_execGeneratorStop (t : TileId) (g : Nat) (hw : MemWf (memOf s)) : OutWf (execGeneratorStop t g s) := by
  unfold execGeneratorStop
  simp only
  split
  · exact hw
  · split
    · exact hw
    · rw [outWf_next, memOf_complete]
      exact memWf_stopPeer _ _ _ (memWf_of_eq _ (memOf_stopFill ..) (memWf_of_eq _ (memOf_setMtile _ _ _ rfl) hw))

@[simp] theorem memWf_flushFifos (t : TileId) (hw : MemWf (memOf s)) : MemWf (memOf (s.flushFifos t)) := by
  unfold State.flushFifos
  refine memWf_foldl _ _ (fun u x hu => ?_) _ (by simp [hw])
  (repeat' split) <;> simp [hu]

theorem memOf_issue (i : Option Issued) : memOf { s with issue := i } = memOf s := rfl

@[simp] theorem outWf_execHeldWriteResume (t : TileId) (hw : MemWf (memOf s)) : OutWf (execHeldWriteResume t s) := by
  unfold execHeldWriteResume
  simp only
  have h := memWf_flushFifos s t hw
  split
  · exact hw
  · split
    · exact h
    · generalize s.flushFifos t = u at h ⊢
      split
      · rw [outWf_next, memOf_refuse]
        exact memWf_of_eq _ (memOf_setMtile _ _ _ (by rfl)) h
      · rw [outWf_next, memOf_issue]
        exact memWf_of_eq _ (memOf_setMtile _ _ _ (by rfl)) h

@[simp] theorem outWf_execLineCommit (t : TileId) (hw : MemWf (memOf s)) : OutWf (execLineCommit t s) := by
  unfold execLineCommit
  simp only
  (repeat' split) <;> simp [hw]

@[simp] theorem outWf_execBankWake (t : TileId) (hw : MemWf (memOf s)) : OutWf (execBankWake t s) := by
  simp [execBankWake, hw]

@[simp] theorem outWf_execZeroingEnd (what : Zeroed) (hw : MemWf (memOf s)) : OutWf (execZeroingEnd what s) := by
  unfold execZeroingEnd
  split <;> simp [hw]

@[simp] theorem memOf_gapOps (t : TileId) (node : Nat) : memOf (s.gapOps t node) = memOf s := by
  unfold State.gapOps
  exact memOf_foldl _ _ (fun u x => by simp) _

@[simp] theorem memOf_passNode (t : TileId) (node : Nat) : memOf (s.passNode t node) = memOf s := by
  unfold State.passNode
  simp only
  split
  · rfl
  · split
    · split
      · exact (memOf_foldl _ _ (fun u k => memOf_route ..) _).trans (memOf_gapOps ..)
      · exact (memOf_emitTo ..).trans (memOf_gapOps ..)
    · rfl

@[simp] theorem memOf_passTile (t : TileId) : memOf (s.passTile t) = memOf s := by
  unfold State.passTile
  simp only
  split
  · rfl
  · rename_i op rest _
    have h (l : List ((TileId × Nat) × Slot)) : memOf (l.foldl
        (fun s a => s.deliver ⟨a.1.1, a.1.2, a.2, drainTok (ctxTag op.ctx), false⟩)
        (s.setMtile t { s.mtile t with waiting := rest })) = memOf s :=
      (memOf_foldl _ _ (fun u a => memOf_deliver ..) _).trans (memOf_setMtile _ _ _ rfl)
    split
    · exact h _
    · exact (memOf_emitTo ..).trans (h _)

@[simp] theorem outWf_execDrainPass (t : TileId) (node : Nat) (hw : MemWf (memOf s)) : OutWf (execDrainPass t node s) := by
  simp [execDrainPass, hw]

@[simp] theorem outWf_execPlaneSwap (r : Nat) (hw : MemWf (memOf s)) : OutWf (execPlaneSwap r s) := by
  simp [execPlaneSwap, hw]

@[simp] theorem memWf_spliceSwitch (c : Ctx) (l : Loaded) (t : TileId) (hw : MemWf (memOf s)) : MemWf
    (memOf (s.spliceSwitch c l t))
    := by
  unfold State.spliceSwitch
  simp only
  split <;> simp [hw]

@[simp] theorem outWf_execSpliceTileSwitch (t : TileId) (hw : MemWf (memOf s)) : OutWf (execSpliceTileSwitch t s) := by
  unfold execSpliceTileSwitch
  (repeat' split) <;> simp [hw]

@[simp] theorem memOf_snapshot (x : Ctx) : memOf ((s.snapshot x).2) = memOf s := by
  unfold State.snapshot
  split <;> simp

@[simp] theorem memOf_sendSnap (op : Issued) (c : Ctx) (ep : Nat) (bs : List Byte) :
    memOf (s.sendSnap op c ep bs) = memOf s := by
  unfold State.sendSnap
  split
  · rfl
  · simp only [memOf_hold, memOf_moveEndpoint]
    exact (memOf_foldl _ _ (fun u p => memOf_sendEpdata ..) _)

@[simp] theorem memWf_snapPart (op : Issued) (bs : List Byte) (x0 : Res (List (Nat × Nat))) (hw : MemWf (memOf s)) : MemWf
    (memOf (s.snapPart op bs x0)) := by
  unfold State.snapPart
  split <;> simp [hw]

@[simp] theorem memWf_snap (op : Issued) (n : Niw) (x : Ctx) (hw : MemWf (memOf s)) : MemWf (memOf (s.snap op n x)) := by
  have h : MemWf (memOf (s.snapshot x).2) := memWf_of_eq _ (memOf_snapshot ..) hw
  unfold State.snap
  simp only
  split
  · simpa using h
  · split
    · split
      · exact h
      · split
        · simpa using h
        · split
          · exact memWf_endCtx _ _ _ (by rwa [memOf_sendSnap, memOf_fix])
          · rwa [memOf_sendSnap, memOf_fix]
    · have hp := memWf_snapPart _ op (wordBytes (s.snapshot x).1.words)
        ((s.snapshot x).2.range op .write op.tb.word.toNat (8 * (s.snapshot x).1.words.length) 8) h
      refine memWf_withPieces _ _ _ _ _ hp fun ps => ?_
      rw [memOf_emitWord]
      have hq := memWf_writePieces _ ps (wordBytes (s.snapshot x).1.words) (memWf_of_eq _ (memOf_fix _ op) h)
      split
      · exact memWf_endCtx _ _ _ hq
      · exact hq

@[simp] theorem outWf_execSnap (n : Niw) (hw : MemWf (memOf s)) : OutWf (execSnap n s) :=
  outWf_fire _ _ _ hw fun op u hu => memWf_scalars _ _ _ _ hu fun v hv => by
    (repeat' split) <;> simp [hv]

@[simp] theorem memWf_laidRows (l : List Laid) (rset : Nat) (m : TileId × MTile) (hw : MemWf (memOf s)) : MemWf
    (memOf (s.laidRows l rset m))
    := by
  unfold State.laidRows
  refine memWf_foldl _ _ (fun u x hu => ?_) _ (by simp [hw])
  simp [hu]

@[simp] theorem memOf_imageOf (x : Ctx) (ws : List Word) : memOf ((s.imageOf x ws).2) = memOf s := by
  unfold State.imageOf
  split <;> simp

@[simp] theorem outWf_execRstr (n : Niw) (hw : MemWf (memOf s)) : OutWf (execRstr n s) :=
  outWf_fire _ _ _ hw fun op u hu => memWf_scalars _ _ _ _ hu fun v hv => by
    simp only
    split
    · simpa using hv
    refine memWf_withPieces _ _ _ _ _ hv fun _ => ?_
    split
    · simpa using hv
    refine memWf_withPieces _ _ _ _ _ hv fun _ => ?_
    split
    · simpa using hv
    split
    · simpa using hv
    split
    · simpa using hv
    refine memWf_withPieces _ _ _ _ _ hv fun _ => ?_
    split
    · simpa using hv
    · exact hv
    · split <;> simpa using hv

@[simp] theorem memOf_restoreBcs (v : Relocation) (i : Snapshot) : memOf (s.restoreBcs v i) = memOf s := by
  unfold State.restoreBcs
  exact memOf_foldl _ _ (fun u x => by simp) _

@[simp] theorem memOf_restoreStream (num : Nat) (x : Nat × Nat × Stream × Option Graph) : memOf
    (s.restoreStream num x) = memOf s := by
  unfold State.restoreStream
  simp only
  split <;> simp

@[simp] theorem memOf_restoreLace (v : Relocation) (i : Snapshot) : memOf (s.restoreLace v i) = memOf s :=
  (memOf_foldl _ _ (fun u x => by rfl) _).trans (memOf_foldl _ _ (fun u x => by rfl) _)

@[simp] theorem memOf_restoreReader (op : Issued) : memOf (s.restoreReader op) = memOf s := rfl

@[simp] theorem memOf_reinject (qs : List Parcel) : memOf (s.reinject qs) = memOf s := by
  unfold State.reinject
  exact memOf_foldl _ _ (fun u x => by simp) _

/-- The tiles of an image take their bytes one by one. -/
theorem memWf_restoreTiles (v : Relocation) (l : List (TileId × MTile)) (hw : MemWf (memOf s)) :
    MemWf (memOf (l.foldl (fun s m => s.setMtile (v.tile m.1) (v.mtile (s.mtile (v.tile m.1)) m.2)) s)) :=
  memWf_foldl _ _ (fun _ m h => memWf_setMtile _ _ _ (cellsWf_refilled m.2.banks) h) _ hw

@[simp] theorem memWf_restore (v : Relocation) (i : Snapshot) (launch : Nat) (hw : MemWf (memOf s)) :
    MemWf (memOf (s.restore v i launch)) := by
  have hc : MemWf (memOf (i.ctiles.foldl (fun s c => s.setCtile (v.tile c.1) (v.ctile (s.ctile (v.tile c.1)) c.2)) s)) :=
    memWf_of_eq _ (memOf_foldl _ _ (fun _ _ => by rfl) _) hw
  have hm := memWf_restoreTiles _ v i.mtiles hc
  unfold State.restore
  simp only
  rw [memOf_reinject, memOf_mapCtx, memOf_foldl _ _ fun u x => memOf_restoreReader ..]
  refine memWf_of_eq _ ((memOf_restoreLace ..).trans ((memOf_foldl _ _ (fun u x => memOf_restoreStream ..) _).trans
    ((memOf_restoreBcs ..).trans (memOf_foldl _ _ (fun u g => by rfl) _)))) hm

@[simp] theorem memOf_grant (c : Ctx) : memOf (s.grant c) = memOf s := by
  unfold State.grant
  split
  · rfl
  · simp only
    split
    · rfl
    · exact memOf_foldl _ _ (fun u r => by rfl) _

@[simp] theorem memWf_failLaunch (c : Ctx) (cause : Nat) (addr detail : Word) (hw : MemWf (memOf s)) : MemWf
    (memOf (s.failLaunch c cause addr detail))
    := by
  unfold State.failLaunch
  simp only
  (repeat' split) <;> simp [hw]

@[simp] theorem memOf_startEntry (n : Nat) (e : Nat × Word × List (Nat × Word)) : memOf (s.startEntry n e) = memOf s := by
  unfold State.startEntry
  split <;> simp

@[simp] theorem memOf_started (launch : Nat) : memOf (s.started launch) = memOf s := by
  unfold State.started
  simp only
  (repeat' split) <;> simp

@[simp] theorem resWf_loadProgram (c : Ctx) (img : Image) (hw : MemWf (memOf s)) : ResWf (s.loadProgram c img) := by
  unfold State.loadProgram
  split
  · simp
  · split
    · simp
    · split
      · simp
      · refine resWf_bind_state _ _ (resWf_writeSections _ _ _ _ hw) fun u hu => ?_
        simp only [resWf_ok, memOf_started]
        exact memWf_of_eq _ (memOf_foldl _ _ (fun u e => memOf_startEntry ..) _) hu

@[simp] theorem memWf_swapEmpty (rset : Nat) (hw : MemWf (memOf s)) : MemWf (memOf (s.swapEmpty rset)) := by
  unfold State.swapEmpty
  refine memWf_foldl _ _ (fun u x hu => ?_) _ (by simp [hw])
  simp [hu]

@[simp] theorem resWf_loadLaunch (c : Ctx) (img : Image) (hw : MemWf (memOf s)) : ResWf (s.loadLaunch c img) := by
  unfold State.loadLaunch
  split
  · simp
  · refine resWf_bind_state _ _ (resWf_loadFabric _ _ _ _ _ hw) fun u hu => ?_
    split
    · simp
    · exact memWf_swapEmpty _ _ hu

@[simp] theorem resWf_loadRestore (c : Ctx) (id : Nat) (hw : MemWf (memOf s)) : ResWf (s.loadRestore c id) := by
  unfold State.loadRestore
  split
  · simp
  · split
    · simp
    · refine resWf_bind _ _ fun img _ => resWf_bind_state _ _ (resWf_loadLaunch _ _ _ hw) fun u hu => ?_
      split
      · simp
      · exact hu

@[simp] theorem resWf_loadGranted (c : Ctx) (hw : MemWf (memOf s)) : ResWf (s.loadGranted c) := by
  unfold State.loadGranted
  split
  · exact resWf_loadRestore _ _ _ hw
  · refine resWf_bind _ _ fun img _ => ?_
    split
    · exact resWf_loadProgram _ _ _ hw
    · exact resWf_loadLaunch _ _ _ hw

@[simp] theorem memWf_tryLoad (c : Ctx) (hw : MemWf (memOf s)) : MemWf (memOf (s.tryLoad c)) := by
  have h := resWf_loadGranted s c hw
  unfold State.tryLoad
  split
  · rename_i hr
    rwa [hr] at h
  · exact memWf_failLaunch _ _ _ _ _ hw
  · simpa using hw

@[simp] theorem outWf_execArbiterGrant (hw : MemWf (memOf s)) : OutWf (execArbiterGrant s) := by
  unfold execArbiterGrant
  refine memWf_endPrograms _ (memWf_foldl _ _ (fun u c hu => memWf_tryLoad u c hu) _ ?_)
  split
  · exact memWf_of_eq _ (memOf_grant ..) hw
  · exact hw

@[simp] theorem outWf_execSeedInjection (n : Nat) (hw : MemWf (memOf s)) : OutWf (execSeedInjection n s) := by
  unfold execSeedInjection
  (repeat' split) <;> simp [hw]

@[simp] theorem memOf_markBlock (r bc : Nat) : memOf (s.markBlock r bc) = memOf s := by
  unfold State.markBlock
  simp only
  split <;> simp

@[simp] theorem memOf_sendMarks (n round : Nat) (t : TileId) : memOf (s.sendMarks n round t) = memOf s := by
  unfold State.sendMarks
  exact memOf_foldl _ _ (fun u x => by simp) _

@[simp] theorem memOf_freezeAt (n round : Nat) (el : Element) : memOf (s.freezeAt n round el) = memOf s := by
  unfold State.freezeAt
  split <;> simp

@[simp] theorem memOf_tellMarked (ln round : Nat) : memOf (s.tellMarked ln round) = memOf s := by
  unfold State.tellMarked
  exact memOf_foldl _ _ (fun u x => by simp) _

@[simp] theorem outWf_execMarkerDelivery (n : Nat) (el : Element) (hw : MemWf (memOf s)) : OutWf
    (execMarkerDelivery n el s) := by
  unfold execMarkerDelivery
  split <;> simp [hw]

@[simp] theorem memOf_sendMarkers (gang round : Nat) : memOf (s.sendMarkers gang round) = memOf s := by
  unfold State.sendMarkers
  exact memOf_foldl _ _ (fun u x => by simp) _

@[simp] theorem memOf_sendRound (c : Ctx) : memOf (s.sendRound c) = memOf s := by
  unfold State.sendRound
  simp only
  (repeat' split) <;> simp

@[simp] theorem memOf_report (c : Ctx) : memOf (s.report c) = memOf s := by
  simp [State.report]

@[simp] theorem memWf_frozenNow (c : Ctx) (hw : MemWf (memOf s)) : MemWf (memOf (s.frozenNow c)) := by
  simp [State.frozenNow, hw]

@[simp] theorem outWf_execElementQuiet (n : Nat) (el : Element) (hw : MemWf (memOf s)) : OutWf (execElementQuiet n el s)
    := by
  unfold execElementQuiet
  split <;> simp [hw]

@[simp] theorem outWf_execEventRecordEnqueue (r : Nat) (hw : MemWf (memOf s)) : OutWf (execEventRecordEnqueue r s) := by
  unfold execEventRecordEnqueue
  simp only
  split
  · split
    · exact hw
    · exact memWf_of_eq _ (memOf_emitWord ..) hw
  · split
    · exact hw
    · split
      · exact hw
      · exact memWf_laceGo _ _ hw

end Sys2Proof.Proofs
end

section

/-!
SUPPORT. The canonical form of memories through the events of blocks, pager, mesh, links, hosts and boot (R43 to R45, R122,
R123, R177, R186 to R194).
-/

namespace Sys2Proof.Proofs

open Sys2Proof Sys2Proof.Machine Sys2Proof.Claims

variable (s : State)

@[simp] theorem memWf_blockFault (r bc cause : Nat) (addr detail : Word) (hw : MemWf (memOf s)) : MemWf
    (memOf (s.blockFault r bc cause addr detail))
    := by
  simp [State.blockFault, hw]

@[simp] theorem outWf_execBlockFetch (r bc : Nat) (hw : MemWf (memOf s)) : OutWf (execBlockFetch r bc s) := by
  unfold execBlockFetch
  simp only
  (repeat' split) <;> simp [hw]

@[simp] theorem memOf_detachOps (r bc : Nat) : memOf (s.detachOps r bc) = memOf s := rfl

@[simp] theorem memOf_moveHins (num : Nat) (hs : List (Nat × Nat × Nat)) : memOf (s.moveHins num hs) = memOf s := by
  unfold State.moveHins
  exact memOf_foldl _ _ (fun u x => by simp) _

@[simp] theorem memWf_commit (r bc : Nat) (b : Block) (e : Exit) (hw : MemWf (memOf s)) : MemWf (memOf (s.commit r bc b e))
    := by
  simp [State.commit, hw]

@[simp] theorem outWf_execBlockCommit (r bc : Nat) (hw : MemWf (memOf s)) : OutWf (execBlockCommit r bc s) := by
  unfold execBlockCommit
  (repeat' split) <;> simp [hw]

@[simp] theorem outWf_execBlockStallTimeout (r bc : Nat) (hw : MemWf (memOf s)) : OutWf (execBlockStallTimeout r bc s) := by
  unfold execBlockStallTimeout
  split <;> simp [hw]

@[simp] theorem memWf_parkOp (r : Nat) (op : Issued) (va : Nat) (hw : MemWf (memOf s)) :
    MemWf (memOf (s.parkOp r op va)) :=
  memWf_reenter _ _ _ _ hw (fun _ h => by simpa using h) fun _ h => by simpa using h

@[simp] theorem outWf_execPageWalk (r : Nat) (hw : MemWf (memOf s)) : OutWf (execPageWalk r s) := by
  unfold execPageWalk
  simp only
  split
  · split
    · rw [outWf_next, memOf_issue, memOf_tcFill]
      exact hw
    · exact hw
    · exact memWf_parkOp _ _ _ _ hw
  · exact hw

@[simp] theorem outWf_execParkedAccessReissue (r : Nat) (hw : MemWf (memOf s)) : OutWf (execParkedAccessReissue r s) := by
  unfold execParkedAccessReissue
  simp only
  split <;> simp [hw]

@[simp] theorem memWf_writeLeaf (pa n : Nat) (w : Word) (hw : MemWf (memOf s)) : MemWf (memOf (s.writeLeaf pa n w)) := by
  unfold State.writeLeaf
  refine memWf_foldl _ _ (fun u x hu => ?_) _ (by simp [hw])
  simp [hu]

theorem memOf_allocFrame (size : Nat) {x : Bool × Nat × State} (hx : s.allocFrame size = some x) :
    memOf x.2.2 = memOf s := by
  unfold State.allocFrame at hx
  split at hx
  · cases hx
    rfl
  · split at hx
    · cases hx
    · obtain ⟨r, -, rfl⟩ := Option.map_eq_some_iff.1 hx
      rfl

theorem memWf_zeroFrame {t : State} (base size : Nat) (e : t.main = s.main.zeroFrame base size) (et : t.mtiles = s.mtiles)
    (hw : MemWf (memOf s)) : MemWf (memOf t) := by
  have h : memOf t = (cellsZero s.main.cells base size, tileBytes s.mtiles) := Prod.ext (by simp [memOf, e, Main.zeroFrame])
    (by funext u; simp [memOf, State.mtile, tileBytes, et])
  rw [h]
  exact ⟨cellsWf_cellsZero _ _ _ hw.1, hw.2⟩

@[simp] theorem memOf_resumeGens (c : Ctx) : memOf (s.resumeGens c) = memOf s := by
  refine memOf_foldl _ _ (fun u m => memOf_foldl _ _ (fun v g => ?_) _) _
  split
  · exact memOf_repatch ..
  · rfl

@[simp] theorem memOf_answerPage (c : Ctx) (base size : Nat) : memOf (s.answerPage c base size) = memOf s :=
  memOf_resumeGens ..

/-- The state that the pager's service of a fault flit answers. -/
theorem memWf_servePage (d : Die) (f : PageFault) {u : State} (hw : MemWf (memOf s)) (hu : s.servePage d f = some u) :
    MemWf (memOf u) := by
  unfold State.servePage at hu
  split at hu
  · cases hu
    exact hw
  · split at hu
    · cases hu
      simpa using hw
    · simp only at hu
      split at hu
      · cases hu
        simpa using hw
      · split at hu
        · cases hu
        · split at hu
          · rename_i hx
            cases hu
            rw [memOf_answerPage]
            refine memWf_writeLeaf _ _ _ _ ?_
            exact memWf_zeroFrame _ _ _ rfl rfl (memWf_of_eq _ (memOf_allocFrame s _ hx) hw)
          · split at hu
            · cases hu
            · cases hu
              exact memWf_of_eq _ (memOf_takeFault ..) hw

@[simp] theorem outWf_execPagerFaultService (d : Die) (hw : MemWf (memOf s)) : OutWf (execPagerFaultService d s) := by
  unfold execPagerFaultService
  split
  · rename_i u hu
    obtain ⟨x, -, hx⟩ := List.exists_of_findSome?_eq_some hu
    split at hx
    · exact memWf_servePage s _ _ hw hx
    · cases hx
  · exact hw

@[simp] theorem memOf_foldl_invalidate (n base len : Nat) (rs : List Nat) :
    memOf (rs.foldl (fun s r => s.invalidate r n base len) s) = memOf s := memOf_foldl _ _ (fun _ _ => by rfl) _

@[simp] theorem memOf_pagerXlinv (c : Ctx) (base size : Nat) : memOf (s.pagerXlinv c base size) = memOf s := by
  have h : @State.pagerXlinv = fun s c base size =>
      let rs := regionsOf (2 ^ 42 - 1)
      ((rs.foldl (fun s r => s.invalidate r c.num base size) s).repatchAll c base size rs).2 := rfl
  rw [h]
  generalize regionsOf (2 ^ 42 - 1) = rs
  exact (memOf_repatchAll ..).trans (memOf_foldl_invalidate ..)

@[simp] theorem memWf_beginMove (c : Ctx) (base size pa n : Nat) (w : Word) (hw : MemWf (memOf s)) :
    MemWf (memOf (s.beginMove c base size pa n w)) := by
  unfold State.beginMove
  simp only
  split
  · exact hw
  · rw [memOf_pagerXlinv]
    exact memWf_writeLeaf _ _ _ _ hw

@[simp] theorem memWf_endMove (c : Ctx) (x : PageMove) (hw : MemWf (memOf s)) : MemWf (memOf (s.endMove c x)) := by
  unfold State.endMove
  simp only
  split
  · exact hw
  · split
    · exact hw
    · refine memWf_resumeScatters _ _ _ _ ?_
      rw [memOf_repatchAll, memOf_answerPage, memOf_freeFrame]
      exact memWf_writeLeaf _ _ _ _ ⟨cellsWf_movePage _ _ _ _ hw.1, hw.2⟩

@[simp] theorem outWf_execPageMigration (n page : Nat) (hw : MemWf (memOf s)) : OutWf (execPageMigration n page s) := by
  unfold execPageMigration
  (repeat' split) <;> simp [hw]

@[simp] theorem memOf_lost (p : Place) (f : Flit) : memOf (s.lost p f) = memOf s := by
  simp [State.lost]

@[simp] theorem memOf_hop (t : TileId) (port : Nat) (f : Flit) : memOf (s.hop t port f) = memOf s := by
  unfold State.hop
  split <;> simp

@[simp] theorem memOf_ejectOne (t : TileId) (f : Flit) : memOf (s.ejectOne t f) = memOf s := by
  simp [State.ejectOne]

@[simp] theorem memOf_ejectPart (t : TileId) (f : Flit) : memOf (s.ejectPart t f) = memOf s := by
  simp [State.ejectPart]

@[simp] theorem memOf_injected (t : TileId) : memOf (s.injected t) = memOf s := rfl

@[simp] theorem memOf_takeTurn (t : TileId) (u : Used) (c : Candidate) : memOf ((s.takeTurn t u c).2) = memOf s := by
  unfold State.takeTurn
  simp only
  (repeat' split) <;> simp

@[simp] theorem memOf_placeAll (t : TileId) (u : Used) (l : List Candidate) : memOf (s.placeAll t u l) = memOf s := by
  induction l generalizing s u with
  | nil => rfl
  | cons c l ih => exact (ih _ _).trans (memOf_takeTurn ..)

@[simp] theorem outWf_execRouterArbitrate (t : TileId) (hw : MemWf (memOf s)) : OutWf (execRouterArbitrate t s) := by
  unfold execRouterArbitrate
  simp only
  split
  · exact hw
  · rw [outWf_next, memOf_placeAll]
    exact hw

@[simp] theorem outWf_execReassemblyTimeout (t : TileId) (hw : MemWf (memOf s)) : OutWf (execReassemblyTimeout t s) :=
  memWf_of_eq _ (memOf_foldl _ _ (fun _ _ => memOf_takeFault ..) _) hw

@[simp] theorem outWf_execThrottleWindowEnd (t : TileId) (hw : MemWf (memOf s)) : OutWf (execThrottleWindowEnd t s) := by
  simp [execThrottleWindowEnd, hw]

@[simp] theorem outWf_execBridgeLaneFail (toward : Die) (lane : Nat) (hw : MemWf (memOf s)) :
    OutWf (execBridgeLaneFail toward lane s) :=
  memWf_of_eq _ (memOf_foldl _ _ (fun _ _ => memOf_lost ..) _) hw

@[simp] theorem memOf_strike (t : TileId) (port : Nat) : memOf (s.strike t port) = memOf s := by
  unfold State.strike
  split <;> simp

@[simp] theorem memOf_meshCycle : memOf s.meshCycle = memOf s := rfl

@[simp] theorem memOf_sendAck (p : Nat) (nak : Bool) : memOf (s.sendAck p nak) = memOf s := rfl

@[simp] theorem memOf_captureSlot (f : Flit) : memOf (s.captureSlot f) = memOf s := by
  simp [State.captureSlot]

@[simp] theorem memOf_carriageIn (p : Nat) (f : Flit) : memOf (s.carriageIn p f) = memOf s := by
  unfold State.carriageIn
  simp only
  (repeat' split) <;> simp

@[simp] theorem memOf_slotIn (p : Nat) (bs : List Byte) : memOf (s.slotIn p bs) = memOf s := by
  unfold State.slotIn
  simp only
  (repeat' split) <;> simp

@[simp] theorem memOf_deliverLink (p : Nat) (f : List Byte) : memOf (s.deliverLink p f) = memOf s := by
  unfold State.deliverLink
  simp only
  split
  · split
    · rfl
    · exact memOf_foldl _ _ (fun _ _ => memOf_slotIn ..) _
  · rfl
  · split <;> rfl
  · rfl

@[simp] theorem outWf_execLinkFlitReceive (p : Nat) (hw : MemWf (memOf s)) : OutWf (execLinkFlitReceive p s) := by
  unfold execLinkFlitReceive
  simp only
  split
  · exact hw
  · (repeat' split) <;> simpa using hw

@[simp] theorem memOf_relayMarker (old : State) (m : Nat × Nat) : memOf (s.relayMarker old m) = memOf s := by
  refine memOf_foldl _ _ (fun u q => ?_) _
  split
  · exact memOf_sendLink ..
  · rfl

@[simp] theorem memOf_memberMarker (c : Ctx) (round : Nat) (first : Bool) : memOf (s.memberMarker c round first) = memOf s
    := by
  simp [State.memberMarker]

@[simp] theorem outWf_execGangMarkerReceive (p : Nat) (hw : MemWf (memOf s)) : OutWf (execGangMarkerReceive p s) := by
  unfold execGangMarkerReceive
  simp only
  (repeat' split) <;> simp [hw]

@[simp] theorem memOf_portDown (p : Nat) : memOf (s.portDown p) = memOf s := by
  unfold State.portDown
  exact memOf_foldl _ _ (fun u x => by simp) _

@[simp] theorem outWf_execGwynlinkPortDown (p : Nat) (hw : MemWf (memOf s)) : OutWf (execGwynlinkPortDown p s) := by
  simp [execGwynlinkPortDown, hw]

@[simp] theorem outWf_execLinkSilenceTimeout (p : Nat) (hw : MemWf (memOf s)) : OutWf (execLinkSilenceTimeout p s) := by
  simp [execLinkSilenceTimeout, hw]

@[simp] theorem outWf_execGwynlinkPortRetrain (p : Nat) (hw : MemWf (memOf s)) : OutWf (execGwynlinkPortRetrain p s) := by
  simp [execGwynlinkPortRetrain, hw]

@[simp] theorem outWf_execRoutingTableLoad (tables : RoutingTables) (hw : MemWf (memOf s)) : OutWf
    (execRoutingTableLoad tables s) := by
  simp [execRoutingTableLoad, hw]

@[simp] theorem memOf_dropMsg (m : Msg) (r : Nat) : memOf (s.dropMsg m r) = memOf s := by
  simp [State.dropMsg]

theorem outWf_onMessage (sel : Msg → Bool) (body : Msg → State → State) (hw : MemWf (memOf s))
    (hb : ∀ m u, MemWf (memOf u) → MemWf (memOf (body m u))) : OutWf (onMessage sel s body) := by
  unfold onMessage
  split
  · exact hw
  · split
    · exact hw
    · split
      · exact hb _ _ hw
      · exact hw

@[simp] theorem memOf_hostFail (m : Msg) (f : Flt) (launch : Nat) : memOf (s.hostFail m f launch) = memOf s := by
  simp [State.hostFail]

@[simp] theorem outWf_execHostFeat (hw : MemWf (memOf s)) : OutWf (execHostFeat s) :=
  outWf_onMessage _ _ _ hw fun m u hu => by
    split
    · simpa using hu
    · exact memWf_of_eq _ (memOf_sendMsg ..) hu

@[simp] theorem outWf_execHostCfgw (hw : MemWf (memOf s)) : OutWf (execHostCfgw s) :=
  outWf_onMessage _ _ _ hw fun m u hu => by
    split
    · simpa using hu
    · exact memWf_writeMain _ _ _ hu

@[simp] theorem outWf_execHostCfgwLoad (hw : MemWf (memOf s)) : OutWf (execHostCfgwLoad s) :=
  outWf_onMessage _ _ _ hw fun m u hu => by
    simp only
    split
    · simpa using hu
    · split
      · rename_i h
        rw [memOf_sendCompl]
        exact memWf_cfgld _ _ _ _ _ hu _ h
      · simpa using hu
      · rw [memOf_askPager]
        exact hw

@[simp] theorem outWf_execHostLaunch (hw : MemWf (memOf s)) : OutWf (execHostLaunch s) :=
  outWf_onMessage _ _ _ hw fun m u hu => by
    simp only
    (repeat' split) <;> simpa using hu

@[simp] theorem memOf_stopBlocks (num : Nat) : memOf (s.stopBlocks num) = memOf s := by
  refine memOf_foldl _ _ (fun u r => memOf_foldl _ _ (fun v b => ?_) _) _
  simp only
  split
  · exact memOf_stopBlock ..
  · rfl

@[simp] theorem memWf_endTree (k : Nat) (c : Ctx) (hw : MemWf (memOf s)) : MemWf (memOf (s.endTree k c)) := by
  induction k generalizing s c with
  | zero => exact hw
  | succ k ih =>
    unfold State.endTree
    have hb : MemWf (memOf (if c.program then s.stopBlocks c.num else s)) := by
      split
      · exact memWf_of_eq _ (memOf_stopBlocks ..) hw
      · exact hw
    simp only
    generalize (if c.program = true then s.stopBlocks c.num else s) = v at hb ⊢
    have hf := memWf_foldl v (fun s x => s.endTree k x) (fun u x hu => ih u x hu)
      (v.ctxs.filter fun x => x.parent = some c.launch && x.st != .ended) hb
    generalize (v.ctxs.filter fun x => x.parent = some c.launch && x.st != .ended).foldl
      (fun s x => s.endTree k x) v = w at hf ⊢
    split
    · split
      · exact hf
      · exact memWf_of_eq _ (memOf_markCtx ..) hf
    · exact hf
    · exact memWf_endCtx _ _ _ hf
    · exact memWf_endCtx _ _ _ hf
    · exact memWf_endCtx _ _ _ hf
    · exact memWf_endCtx _ _ _ hf
    · exact hf

@[simp] theorem outWf_execHostEnd (hw : MemWf (memOf s)) : OutWf (execHostEnd s) :=
  outWf_onMessage _ _ _ hw fun m u hu => by
    simp only
    split
    · simpa using hu
    · split
      · split
        · simpa using hu
        · exact memWf_endPrograms _ (memWf_endTree _ _ _ hu)
      · simpa using hu

@[simp] theorem outWf_execHostAttach (hw : MemWf (memOf s)) : OutWf (execHostAttach s) :=
  outWf_onMessage _ _ _ hw fun m u hu => by
    simp only
    (repeat' split) <;> simpa using hu

@[simp] theorem memOf_answer (m : Msg) (op' : Nat) (data : List Byte) : memOf (s.answer m op' data) = memOf s := by
  simp [State.answer]

theorem outWf_serveEpdata (o : Nat) (body : Msg → State → State) (hw : MemWf (memOf s))
    (hb : ∀ m u, MemWf (memOf u) → MemWf (memOf (body m u))) : OutWf (serveEpdata o s body) :=
  outWf_onMessage _ _ _ hw fun m u hu => by
    split
    · simpa using hu
    · split
      · simpa using hu
      · exact hb _ _ hu

@[simp] theorem outWf_execEpdataReadRequest (hw : MemWf (memOf s)) : OutWf (execEpdataReadRequest s) :=
  outWf_serveEpdata _ _ _ hw fun _ _ hu => memWf_of_eq _ (memOf_answer ..) hu

@[simp] theorem outWf_execEpdataWriteData (hw : MemWf (memOf s)) : OutWf (execEpdataWriteData s) :=
  outWf_serveEpdata _ _ _ hw fun m u hu => by
    rw [memOf_answer]
    exact memWf_writeMain _ _ _ hu

@[simp] theorem memOf_transferred (op : Issued) (got : List Byte) : memOf (s.transferred op got) = memOf s := by
  unfold State.transferred
  split <;> simp

@[simp] theorem memOf_transferIn (rid : Nat) (bs : List Byte) : memOf (s.transferIn rid bs) = memOf s := by
  unfold State.transferIn
  (repeat' split) <;> simp

@[simp] theorem outWf_execEpdataReadData (hw : MemWf (memOf s)) : OutWf (execEpdataReadData s) :=
  outWf_onMessage _ _ _ hw fun m u hu => by
    split <;> simpa using hu

@[simp] theorem outWf_execEpdataWriteAck (hw : MemWf (memOf s)) : OutWf (execEpdataWriteAck s) :=
  outWf_onMessage _ _ _ hw fun m u hu => by
    split <;> simpa using hu

@[simp] theorem memOf_sendReport (node : Nat) (report : List Byte) : memOf (s.sendReport node report) = memOf s := by
  unfold State.sendReport
  exact memOf_foldl _ _ (fun u x => by simp) _

@[simp] theorem outWf_execHostAttest (hw : MemWf (memOf s)) : OutWf (execHostAttest s) := by
  unfold execHostAttest
  split <;> simp [hw]

@[simp] theorem outWf_execHostMessageUnknown (hw : MemWf (memOf s)) : OutWf (execHostMessageUnknown s) :=
  outWf_onMessage _ _ _ hw fun _ _ hu => by simpa using hu

theorem memWf_reset : MemWf (memOf State.reset) := ⟨rfl, fun _ => rfl⟩

@[simp] theorem outWf_execPowerOnBoot (_ : MemWf (memOf s)) : OutWf (execPowerOnBoot s) := by
  unfold execPowerOnBoot
  simp only
  split
  · exact memWf_reset
  · exact memWf_reset

@[simp] theorem outWf_execNewFirmwareImage (image : Firmware) (hw : MemWf (memOf s)) : OutWf
    (execNewFirmwareImage image s) := by
  simp [execNewFirmwareImage, hw]

@[simp] theorem outWf_execThermalTrip (d : Die) (hw : MemWf (memOf s)) : OutWf (execThermalTrip d s) := by
  have h (l : List Ctx) : MemWf (memOf (l.foldl (fun s c => s.stopCtx c.num) s)) :=
    memWf_of_eq _ (memOf_foldl _ _ (fun _ _ => memOf_stopCtx ..) _) hw
  exact memWf_of_eq _ (memOf_foldl _ _ (fun _ _ => by rfl) _) (h _)

@[simp] theorem outWf_execUncorrectableCommittedError (ctx : Nat) (place : ErrorPlace) (hw : MemWf (memOf s)) : OutWf
    (execUncorrectableCommittedError ctx place s) := by
  unfold execUncorrectableCommittedError
  split <;> simp [hw]

@[simp] theorem outWf_execSpeculativeRowError (t : TileId) (row : Nat) (hw : MemWf (memOf s)) : OutWf
    (execSpeculativeRowError t row s) := by
  simp [execSpeculativeRowError, hw]

@[simp] theorem outWf_execMatchingStoreEcc (t : TileId) (ctx : Nat) (hw : MemWf (memOf s)) : OutWf
    (execMatchingStoreEcc t ctx s) := by
  simp [execMatchingStoreEcc, hw]

@[simp] theorem outWf_execConfigurationMemoryEcc (r : Nat) (hw : MemWf (memOf s)) :
    OutWf (execConfigurationMemoryEcc r s) :=
  memWf_of_eq _ (memOf_foldl _ _ (fun _ _ => memOf_takeFault ..) _) hw

end Sys2Proof.Proofs
end

section

/-!
Every step keeps every memory in its canonical form (R113, R118, R123, R227).
-/

namespace Sys2Proof.Proofs

open Sys2Proof Sys2Proof.Machine Sys2Proof.Claims

variable (s : State)

/-- What a token instruction does leaves every byte alone (O57). -/
theorem outWf_token {mk : Niw → Instr} (hm : mk ∈ tokenOps) (n : Niw) (hw : MemWf (memOf s)) : OutWf (exec (mk n) s) := by
  cases h : exec (mk n) s with
  | next t => exact memWf_of_eq _ (memOf_of_kept (tokenFrames s t n mk hm h)) hw
  | fault f => trivial
  | refused r => trivial

/-- Every instruction and every event keeps every memory in canonical form. -/
theorem outWf_exec (i : Instr) (hw : MemWf (memOf s)) : OutWf (exec i s) := by
  cases i with
  | nop n | mov n | gate n | const n | nullTok n | steer n | pchk n | grd n | add n | sub n | mul n | mulh n | mad n | div n
  | min n | max n | andI n | orI n | xorI n | andn n | shl n | shr n | sar n | clz n | popc n | sel n | cmp n | ext n | lea n
  | fadd n | fsub n | fmul n | ffma n | fdiv n | fsqrt n | frcp n | frsq n | fmin n | fmax n | frnd n | fscl n | fsgn n
  | fcmp n | fcls n | fcvt n | bcst n | shuf n | pack n | unpk n | vred n | scan n | ctrn n | join n | joinCount n | tred n
  | pushf n | popf n | tagrd n | tagwr n | ret n | acrd n | rng n | sysrd n =>
    exact outWf_token s (by simp [tokenOps]) n hw
  | _ => simp [exec, hw]

theorem memOf_passCycles (n : Nat) : memOf (s.passCycles n) = memOf s := by
  induction n generalizing s with
  | zero => rfl
  | succ n ih =>
    unfold State.passCycles
    split
    · rfl
    · split
      · rfl
      · exact ih _

theorem outWf_perform (m : Move) (hw : MemWf (memOf s)) : OutWf (perform m s) := by
  cases m with
  | run i => exact outWf_exec s i hw
  | cycles n => exact memWf_of_eq _ (memOf_passCycles ..) hw
  | element t g => exact memWf_moveElement _ _ _ hw
  | serve r => exact memWf_of_eq _ (memOf_serveRequest ..) hw
  | lace a => exact memWf_laceGo _ _ hw
  | strike t port => exact memWf_of_eq _ (memOf_strike ..) hw

theorem outWf_step (hw : MemWf (memOf s)) : OutWf (step s) := by
  unfold step
  split
  · split
    · exact outWf_exec _ _ hw
    · trivial
  · split
    · exact outWf_perform _ _ hw
    · exact outWf_perform _ _ hw

/-- Settles O55: every write of a byte goes through functions that keep cells sorted, in range and without zeros. -/
theorem memoryKept : Obligations.MemoryKept := fun s t hs ht =>
  (memoryInv_iff t).2 (outWf_next.1 (ht ▸ outWf_step s ((memoryInv_iff s).1 hs)))

end Sys2Proof.Proofs
end

section

/-!
What the machine is after reset.
-/

namespace Sys2Proof.Proofs

open Sys2Proof Sys2Proof.Machine Sys2Proof.Claims

/-- Settles O60: after reset nothing is configured, acknowledged or stored. -/
theorem atReset : Obligations.AtReset := by
  refine ⟨rfl, rfl, by decide, by decide, rfl, fun _ => rfl, fun _ => ⟨rfl, rfl⟩, fun _ => ⟨rfl, rfl, rfl⟩,
    fun _ => ⟨rfl, rfl, rfl⟩, fun r bc => ?_, fun _ => rfl, rfl, fun _ => rfl⟩
  show (nth BlockCtx.reset (List.replicate 4 BlockCtx.reset) bc).st = .idle
  unfold nth
  rw [List.getElem?_replicate]
  split <;> rfl

end Sys2Proof.Proofs
end

section

/-!
A store that carries the answer of a page walk for another address. `Translated` asks that the operation carries no such answer,
while the model's translation goes through the cache for every address but the one that the answer names: the store reaches
memory, and no physical address of `Obligations.MemoryFrames` accounts for its bytes.
-/

namespace Sys2Proof.Proofs

open Sys2Proof Sys2Proof.Machine Sys2Proof.Claims

/-- The store of 7 at virtual address 256, with a walk's answer for address 0. -/
def answeredOp : Issued :=
  let tok (w : Word) : Tok := ⟨0, .scalar w, true, false, false⟩
  { site := .tile wideTile, word := 0, ctx := 1, tag := 0, node := 0, draw := 0, a := some (tok 256), b := some (tok 7),
    c := none, p := none, konst := none, mode := ⟨.rne, false, false⟩, released := false, walk := some (0x141, 0) }

/-- A store of 32 bits without targets. -/
def answeredFields : Niw := ⟨.z32, .rne, .always, 2, false, 0, none, none, none⟩

/-- The first page of the context is cached, at physical address 0, for reading and writing. -/
def answeredState : State :=
  { State.reset with regions := [(0, { Region.reset with tc := [⟨1, 0, 4096, 0x60⟩] })], issue := some answeredOp }

/-- The store reaches the byte at 256. -/
theorem answeredStore_writes :
    nextView (fun u => u.byteAt 256) (exec (.st answeredFields) answeredState) = some 7 := by
  decide

/-- An outcome with a view has a next state. -/
theorem exists_next_of_nextView {α : Type} {v : State → α} {o : Out} {x : α} (h : nextView v o = some x) :
    ∃ u, o = .next u ∧ v u = x := by
  cases o with
  | next u => exact ⟨u, rfl, Option.some.inj h⟩
  | fault f => cases h
  | refused r => cases h

/-- Refutes O58: a store that carries the answer of another address's walk writes memory at no address that `Translated`
knows. -/
theorem not_memoryFrames : ¬ Obligations.MemoryFrames := by
  unfold Obligations.MemoryFrames
  intro h
  obtain ⟨t, hexec, hbyte⟩ := exists_next_of_nextView answeredStore_writes
  obtain ⟨-, hstores, -⟩ := h answeredState t answeredOp answeredFields rfl
  obtain ⟨hst, -, -⟩ := hstores wideTile rfl ⟨rfl, fun _ => rfl⟩
  have hframe : t.byteAt 256 = answeredState.byteAt 256 :=
    hst hexec 256 fun pa htr => absurd htr.fresh (by decide)
  rw [hbyte] at hframe
  exact absurd hframe (by decide)

end Sys2Proof.Proofs
end

section

/-!
SUPPORT. The way of a memory instruction that fires (R105, R119, R127, R129): what its own checks let through, where it goes, and
what becomes of an access that its home or its translation turns away.
-/

namespace Sys2Proof.Proofs

open Sys2Proof Sys2Proof.Machine Sys2Proof.Claims

variable {s : State} {op : Issued} {n : Niw}

/- Firing. -/

theorem fireLoad_of_issues (h : Issues s op n) (body : Issued → State → State) :
    fireLoad n s body = .next (body op (after s op)) := by
  rw [fireLoad, fireRaw_of_issued h.issued]
  simp only [h.fires]
  rfl

/-- A store that fires runs its body, in fabric and in block mode (R34, R82). -/
theorem fireStore_runs (h : Issues s op n) (body : Issued → State → State) :
    fireStore n s body = .next (body op (after s op)) := by
  rw [fireStore, fireRaw_of_issued h.issued]
  cases op.site <;> simp only [h.fires] <;> rfl

theorem fireAtomic_of_issues (h : Issues s op n) (f : Issued → Word → Option Word) :
    fireAtomic n s f = .next ((after s op).atomic op n (f op)) := by
  rw [fireAtomic, fireRaw_of_issued h.issued]
  simp only [h.fires]
  rfl

/- The checks of each instruction. -/

/-- An operation without poison has none in slot a (R101). -/
theorem ta_unpoisoned (h : op.poisoned = false) : op.ta.psn = false := by
  cases ha : op.a with
  | none => simp [Issued.ta, ha, Tok.zero]
  | some x => simp_all [Issued.poisoned, Issued.operands, Issued.ta]

theorem sink_of_clean (h : Clean op) (scope : Scope) (count : Nat) (k : State → State) : s.sink op n scope count k = k s := by
  simp [State.sink, h.preds, h.noNull, h.unpoisoned]

/-- An operation that no commit has released goes on (R45). -/
theorem ifHeld_of_unheld (h : (siteIsBlock op.site && op.released) = false) (k : State → State) : s.ifHeld op k = k s := by
  rw [State.ifHeld, h, if_neg Bool.false_ne_true]

theorem unheld_of_tile {t : TileId} (hs : op.site = .tile t) : (siteIsBlock op.site && op.released) = false := by
  rw [hs]
  rfl

theorem unheld_of_unreleased (h : op.released = false) : (siteIsBlock op.site && op.released) = false := by
  rw [h, Bool.and_false]

theorem chained_of_mayPerform {store : Bool} (h : s.mayPerform op store = true) (k : State → State) :
    s.chained op store k = k s := by
  rw [State.chained, if_pos h]

theorem lowerDone_of_tile {t : TileId} (hs : op.site = .tile t) : s.lowerDone op n = true := by
  rw [State.lowerDone, hs]

theorem load_of_clear (hp : op.ta.psn = false) (hv : op.ta.isVec = false) (hl : s.lowerDone op n = true)
    (hc : s.mayPerform op false = true) (k : State → State) : s.load op n k = k s := by
  simp [State.load, hp, hv, hl, chained_of_mayPerform hc]

/- Homes. -/

theorem toHome_main (h : s.homeTile op n = none) (tile : State → TileId → State) (main : State → State) :
    s.toHome op n tile main = main s := by
  simp only [State.toHome, h]

/-- A request on a channel that is neither a generator's nor a line buffer's for commands reaches its tile (R105). -/
theorem toHome_tile {t : TileId} {ch : Nat} (h : s.homeTile op n = some (t, ch))
    (hch : ¬ (12 ≤ ch ∨ (ch = 11 ∧ (s.mtile t).mode? = some 2))) (tile : State → TileId → State) (main : State → State) :
    s.toHome op n tile main = tile s t := by
  simp only [State.toHome, h, if_neg hch]

theorem homeScope_main (h : s.homeTile op n = none) : s.homeScope op n = .whole := by
  simp only [State.homeScope, h]

theorem homeScope_tile {x : TileId × Nat} (h : s.homeTile op n = some x) : s.homeScope op n = .tile := by
  simp only [State.homeScope, h]

/- Accesses that are turned away. -/

/-- A fault of a single access in fabric mode (R127). -/
theorem memFault_of_tile {t : TileId} (hs : op.site = .tile t) (hp : op.poisoned = false) (place : Place) (scope : Scope)
    (cause : Nat) (addr : Word) : s.memFault op n place scope cause addr 0 =
      (s.takeFault ⟨cause, place, op.ctx, op.tag, addr, 0, false, false⟩).reply op n
        (.scalar (completion 1 scope true cause)) false := by
  simp only [State.memFault, State.partFault, hs, State.complete, hp]

theorem range_of_addrCause {need : Need} {va len align c : Nat} (h : addrCause (s.isSystem op.ctx) va len align = some c) :
    s.range op need va len align = .fault c (word va) 0 := by
  simp only [State.range, h]

theorem word_toNat (w : Word) : word w.toNat = w := BitVec.ofNat_toNat ..

end Sys2Proof.Proofs
end

section

/-!
SUPPORT. What a memory instruction brings passes stage 5 of the tile that asked (R60, log 29).
-/

namespace Sys2Proof.Proofs

open Sys2Proof Sys2Proof.Machine Sys2Proof.Claims

variable {s u : State} {op : Issued} {n : Niw}

/-- An instruction whose outcome is the reply of data replies it after stage 5. -/
theorem repliesFused_of_replyData {i : Instr} {v : Value} {psn : Bool} (h : exec i s = .next (u.replyData op n v psn)) :
    RepliesFused i s u op n v psn := by
  intro hv
  obtain ⟨w, p, hw, he⟩ := fuse_fused (e := u.floatEnv op n n.fmt false) hv
  exact ⟨w, p, hw, by rw [h, State.replyData, he]⟩

end Sys2Proof.Proofs
end

section

/-!
Write-once words of main memory (R110, R282): the way of each of the three instructions to its word, and what it does there.
-/

namespace Sys2Proof.Proofs

open Sys2Proof Sys2Proof.Machine Sys2Proof.Claims

variable {s : State} {op : Issued} {n : Niw} {pa : Nat}

/-- A word that the operation reaches (R282). -/
theorem wonceMain_reached (h : Reaches s op .once op.ta.word.toNat 8 pa) (k : State → Nat → State) :
    s.wonceMain op n k = k s pa := by
  simp only [State.wonceMain, State.withPieces, State.withParts, range_translated (.inr rfl) h.toTranslated]

theorem overlay_of_tile {t : TileId} (hs : op.site = .tile t) : s.overlay op n = s := by
  simp only [State.overlay, hs]

section Ways
variable (h : Issues s op n) (hclean : Clean op) (ha : op.ta.isVec = false)
  (hr : Reaches (after s op) op .once op.ta.word.toNat 8 pa)
include h hclean ha hr

/-- IRD comes to its word (R282). -/
theorem ird_reaches (hm : AtMain (after s op) op n false) : exec (.ird n) s =
    .next (if wState (after s op).main.wstate pa = some .full
      then (after s op).replyData op n (.scalar ((after s op).wordAt pa)) op.poisoned
      else (after s op).deferMain op n pa) := by
  obtain ⟨t, hs⟩ := hm.site
  show execIrd n s = _
  rw [execIrd, fireLoad_of_issues h, load_of_clear (ta_unpoisoned hclean.unpoisoned) ha (lowerDone_of_tile hs) hm.chain,
    toHome_main hm.home, wonceMain_reached hr, overPort_reached hr, overlay_of_tile hs]

/-- IWR comes to its word (R282). -/
theorem iwr_reaches (hm : AtMain (after s op) op n true) (hb : op.tb.isVec = false) : exec (.iwr n) s =
    .next (if ((after s op).mainIwr pa op.tb.word).1
      then ((after s op).mainIwr pa op.tb.word).2.complete op n 1 .whole false 0
      else ((after s op).mainIwr pa op.tb.word).2.memFault op n (.channel (channelOf pa)) .whole 0x104 op.ta.word 0) := by
  obtain ⟨t, hs⟩ := hm.site
  show execIwr n s = _
  rw [execIwr, fireStore_runs h, ifHeld_of_unheld (unheld_of_tile hs), sink_of_clean hclean, if_neg (by simp [ha, hb])]
  simp only [hs]
  rw [chained_of_mayPerform hm.chain, toHome_main hm.home, wonceMain_reached hr, overPort_reached hr]

/-- IRST comes to its word (R282). -/
theorem irst_reaches (hm : AtMain (after s op) op n true) :
    exec (.irst n) s = .next (stored ((after s op).mainIrst pa) op n) := by
  obtain ⟨t, hs⟩ := hm.site
  show execIrst n s = _
  rw [execIrst, fireStore_runs h, ifHeld_of_unheld (unheld_of_tile hs), if_neg (by simp [hclean.unpoisoned]),
    if_neg (by simp [ha])]
  simp only [hs]
  rw [chained_of_mayPerform hm.chain, toHome_main hm.home, wonceMain_reached hr, overPort_reached hr]
  rfl

end Ways

/- What each does at its word. -/

theorem deferMain_of_not_full (h : wState s.main.wstate pa ≠ some .full) : s.deferMain op n pa = { s with main := { s.main with
    wstate := put pa .deferred s.main.wstate, readers := s.main.readers ++ [(pa, op)] } } := by
  rw [State.deferMain, if_neg h, State.mainIrd, if_neg h]

theorem mainIwr_of_full (h : wState s.main.wstate pa = some .full) (v : Word) : s.mainIwr pa v = (false, s) := by
  rw [State.mainIwr, if_pos h]

theorem mainIwr_of_not_full (h : wState s.main.wstate pa ≠ some .full) (v : Word) : s.mainIwr pa v = (true,
    (({ s with main := { s.main with
        wstate := put pa .full s.main.wstate, readers := s.main.readers.filter fun r => r.1 ≠ pa } } : State).writeMain pa
          (bytesOf 8 v.toNat)).answerAll v
      ((s.main.readers.filter fun r => r.1 = pa).map (·.2))) := by
  rw [State.mainIwr, if_neg h]

theorem mainIrst_of_full (h : wState s.main.wstate pa = some .full) : s.mainIrst pa =
    ({ s with main := { s.main with wstate :=
        (if s.main.readers.any (·.1 = pa) then put pa .deferred else id) (erase pa s.main.wstate) } } : State).writeMain pa
      (List.replicate 8 0) := by
  rw [State.mainIrst, if_pos h]
  split <;> rfl

theorem mainIrst_of_not_full (h : wState s.main.wstate pa ≠ some .full) : s.mainIrst pa = s := by
  rw [State.mainIrst, if_neg h]

/-- Settles O25: each instruction comes to its word, and there the word's state decides. -/
theorem writeOnceWords : Obligations.WriteOnceWords := by
  unfold Obligations.WriteOnceWords
  intro s op n pa h hclean ha s1 hr full mine others
  refine ⟨fun hm => ?_, fun hm hb => ?_, fun hm => ?_⟩
  · have hx := ird_reaches h hclean ha hr hm
    refine ⟨fun (hf : wState (after s op).main.wstate pa = some .full) => repliesFused_of_replyData ?_,
      fun (hf : wState _ pa ≠ some .full) => ?_⟩
    · rw [hx, if_pos hf, hclean.unpoisoned]
    · rw [hx, if_neg hf, deferMain_of_not_full hf]
  · have hx := iwr_reaches h hclean ha hr hm hb
    refine ⟨fun (hf : wState _ pa ≠ some .full) => ?_, fun (hf : wState _ pa = some .full) => ?_⟩
    · rw [hx, mainIwr_of_not_full hf, if_pos rfl]
      rfl
    · obtain ⟨t, hs⟩ := hm.site
      rw [hx, mainIwr_of_full hf, if_neg Bool.false_ne_true, memFault_of_tile hs hclean.unpoisoned]
  · have hx := irst_reaches h hclean ha hr hm
    refine ⟨fun (hf : wState _ pa = some .full) => ?_, fun (hf : wState _ pa ≠ some .full) => ?_⟩
    · rw [hx, mainIrst_of_full hf]
    · rw [hx, mainIrst_of_not_full hf]

end Sys2Proof.Proofs
end

section

/-!
Accesses without effect: the address checks that stop an access in fabric and in block mode (R119, R127, R247), and the sinks
that a predicate of 0 or a poisoned operand stops (R34, R101).
-/

namespace Sys2Proof.Proofs

open Sys2Proof Sys2Proof.Machine Sys2Proof.Claims

variable {s : State} {op : Issued} {n : Niw} {c : Nat}

/-- What is wrong with an access of `w` bytes at `va`, in the order of R242. -/
def Refused (system : Bool) (va w c : Nat) : Prop :=
  let top := va / 2 ^ 55
  (c = 0x100 ∧ top ≠ 0 ∧ top ≠ 511) ∨
  (c = 0x101 ∧ ((top = 0 ∧ 2 ^ 55 < va + w) ∨ (top = 511 ∧ 2 ^ 64 < va + w))) ∨
  (c = 0x102 ∧ ((top = 0 ∧ va + w ≤ 2 ^ 55) ∨ (top = 511 ∧ va + w ≤ 2 ^ 64)) ∧ va % w ≠ 0) ∨
  (c = 0x103 ∧ va % w = 0 ∧ top = 511 ∧ va + w ≤ 2 ^ 64 ∧ system = false) ∨
  (c = 0x103 ∧ va % w = 0 ∧ 0x007FFF0000000000 ≤ va ∧ va + w ≤ 0x007FFF0000000000 + 42 * 2 ^ 24)

/-- The model's check finds what is wrong. -/
theorem addrCause_of_refused {system : Bool} {va w : Nat} (hw : 0 < w) (hva : va < 2 ^ 64) (h : Refused system va w c) :
    addrCause system va w w = some c := by
  have htop : bits va 55 9 = va / 2 ^ 55 := by simp only [bits]; omega
  simp only [addrCause, htop]
  obtain ⟨rfl, h⟩ | ⟨rfl, h⟩ | ⟨rfl, h, hal⟩ | ⟨rfl, hal, h, hend, hsys⟩ | ⟨rfl, hal, h, hend⟩ := h
  · rw [if_pos h]
  · rw [if_neg (by omega), if_pos (by omega)]
  · rw [if_neg (by omega), if_neg (by omega), if_pos hal]
  · rw [if_neg (by omega), if_neg (by omega), if_neg (by omega), if_pos h, hsys, if_neg Bool.false_ne_true]
  · rw [if_neg (by omega), if_neg (by omega), if_neg (by omega), if_neg (by omega), if_pos (by omega)]

theorem bytes_pos (h : n.fmt ≠ .t6) : 0 < n.fmt.width / 8 := by
  revert h
  cases n.fmt <;> decide

/-- The causes of the address checks fit their field of a completion (R127). -/
theorem refused_lt {system : Bool} {va w : Nat} (h : Refused system va w c) : c < 1024 := by
  obtain ⟨rfl, -⟩ | ⟨rfl, -⟩ | ⟨rfl, -⟩ | ⟨rfl, -⟩ | ⟨rfl, -⟩ := h <;> decide

theorem completion_refused {system : Bool} {va w : Nat} (h : Refused system va w c) :
    completion 1 .whole true c = word (1 + 3 * 2 ^ 32 + 2 ^ 35 + c * 2 ^ 36) := by
  rw [completion, Nat.mod_eq_of_lt (refused_lt h)]
  rfl

section Refused
variable (hi : Issues s op n) (hclean : Clean op) (ha : op.ta.isVec = false) (hb : op.tb.isVec = false)
  (hr : (after s op).range op .read op.ta.word.toNat (n.fmt.width / 8) (n.fmt.width / 8) = .fault c op.ta.word 0)
  (hw : (after s op).range op .write op.ta.word.toNat (n.fmt.width / 8) (n.fmt.width / 8) = .fault c op.ta.word 0)

include hi hclean ha hr in
/-- A load whose address is refused (R127, R290). -/
theorem ld_refused {t : TileId} (hs : op.site = .tile t) (hm : AtMain (after s op) op n false) : exec (.ld n) s =
    .next (((after s op).takeFault ⟨c, .tile t, op.ctx, op.tag, op.ta.word, 0, false, false⟩).reply op n
      (.scalar (completion 1 .whole true c)) false) := by
  show execLd n s = _
  rw [execLd, fireLoad_of_issues hi, load_of_clear (ta_unpoisoned hclean.unpoisoned) ha (lowerDone_of_tile hs) hm.chain,
    toHome_main hm.home, State.ldMain, hr, ← memFault_of_tile hs hclean.unpoisoned, ← place_of_tile hs]
  rfl

include hi hclean ha hb hw in
/-- A store whose address is refused (R127, R324). -/
theorem st_refused {t : TileId} (hs : op.site = .tile t) (hm : AtMain (after s op) op n true) : exec (.st n) s =
    .next (((after s op).takeFault ⟨c, .tile t, op.ctx, op.tag, op.ta.word, 0, false, false⟩).reply op n
      (.scalar (completion 1 .whole true c)) false) := by
  show execSt n s = _
  rw [execSt, fireStore_runs hi, ifHeld_of_unheld (unheld_of_tile hs), sink_of_clean hclean, if_neg (by simp [ha, hb])]
  simp only [hs]
  rw [chained_of_mayPerform hm.chain, toHome_main hm.home, hw, ← memFault_of_tile hs hclean.unpoisoned, ← place_of_tile hs]
  rfl

include hi hclean ha hb hw in
/-- A block's store whose address is refused (R45, R127). -/
theorem st_refused_block {r bc k : Nat} (hs : op.site = .block r bc k) (hrel : op.released = false) :
    exec (.st n) s = .next ((after s op).opFault op c op.ta.word 0) := by
  show execSt n s = _
  rw [execSt, fireStore_runs hi, ifHeld_of_unheld (unheld_of_unreleased hrel), sink_of_clean hclean,
    if_neg (by simp [ha, hb])]
  simp only [hs, hw, State.withPieces, State.withParts, State.partFault, hrel, Bool.false_eq_true, if_false]

end Refused

theorem addressFaults : Claims.AddressFaults := by
  intro s op n c hi hclean ha hb s1 va w top hbad
  have hbad : Refused (s1.isSystem op.ctx) va w c := hbad
  have hrange : n.fmt ≠ .t6 → ∀ need, s1.range op need va w w = .fault c op.ta.word 0 := fun hf need => by
    rw [range_of_addrCause (addrCause_of_refused (bytes_pos hf) op.ta.word.isLt hbad), word_toNat]
  refine ⟨fun t hs => ?_, fun hf hsite hrel => ?_⟩
  · rw [← completion_refused hbad]
    exact ⟨fun hm => ld_refused hi hclean ha (hrange hm.format .read) hs hm,
      fun hm => st_refused hi hclean ha hb (hrange hm.format .write) hs hm⟩
  · obtain ⟨r, bc, k, hs⟩ := hsite
    exact st_refused_block hi hclean ha hb (hrange hf .write) hs hrel

/- Sinks. -/

/-- A sink with an operand of predicate 0 (R34). -/
theorem sink_of_false (h : op.allTrue = false) (scope : Scope) (count : Nat) (k : State → State) :
    s.sink op n scope count k = s.noEffect op n scope count 0 := by
  simp [State.sink, h]

/-- A sink with a poisoned operand (R101, log 21). -/
theorem sink_of_poisoned (h : op.allTrue = true) (hn : op.anyNull = false) (hp : op.poisoned = true) (scope : Scope) (count : Nat)
    (k : State → State) :
    s.sink op n scope count k = (s.opRecord op 0x0C1 0 0).noEffect op n scope count 0x0C1 := by
  simp [State.sink, h, hn, hp]

/-- The counting of a store with no effect (R44). -/
theorem countNulled_of_counts {r bc : Nat} {b : Block} (hb : InBlock s op r bc b) (hm : b.sm.testBit (n.imm.toNat % 32) = true)
    (hd : b.doneS.testBit (n.imm.toNat % 32) = false) : s.countNulled op n =
      s.mapBlock r bc fun b => { b with doneS := b.doneS + 2 ^ (n.imm.toNat % 32) } := by
  obtain ⟨k, hs⟩ := hb.site
  have hk : lsidOf n = n.imm.toNat % 32 := bits_zero _ 5
  simp [State.countNulled, State.countStore, hs, hb.runs, hk, hm, hd]

/-- The three sinks begin with their tests in both modes (R34). -/
theorem sinks_eq (hi : Issues s op n) (hrel : (siteIsBlock op.site && op.released) = false) {i : Instr}
    (h : i ∈ [Instr.st n, .stv n, .iwr n]) :
    ∃ k, exec i s = .next ((after s op).sink op n ((after s op).homeScope op n) 1 k) := by
  simp only [List.mem_cons, List.not_mem_nil, or_false] at h
  obtain rfl | rfl | rfl := h
  · show ∃ k, execSt n s = _
    rw [execSt, fireStore_runs hi, ifHeld_of_unheld hrel]
    exact ⟨_, rfl⟩
  · show ∃ k, execStv n s = _
    rw [execStv, fireStore_runs hi]
    exact ⟨_, rfl⟩
  · show ∃ k, execIwr n s = _
    rw [execIwr, fireStore_runs hi, ifHeld_of_unheld hrel]
    exact ⟨_, rfl⟩

theorem hout_eq (hi : Issues s op n) (hrel : (siteIsBlock op.site && op.released) = false) :
    ∃ k, exec (.hout n) s = .next ((after s op).sink op n .system 1 k) := by
  show ∃ k, execHout n s = _
  rw [execHout, fireStore_runs hi, ifHeld_of_unheld hrel]
  exact ⟨_, rfl⟩

/-- The returning atomics run one course (R242). -/
theorem atomics_eq (hi : Issues s op n) {i : Instr}
    (h : i ∈ [Instr.aadd n, .amin n, .amax n, .alog n, .axch n, .acas n]) :
    ∃ f, exec i s = .next ((after s op).atomic op n f) := by
  simp only [List.mem_cons, List.not_mem_nil, or_false] at h
  obtain rfl | rfl | rfl | rfl | rfl | rfl := h <;> exact ⟨_, fireAtomic_of_issues hi _⟩

/-- What has no effect in fabric mode at main memory emits a completion with NOEF (R127). -/
theorem noEffect_of_tile {t : TileId} (hs : op.site = .tile t) (cause : Nat) :
    s.noEffect op n .whole 1 cause = s.reply op n (.scalar (completion 1 .whole true cause)) op.poisoned := by
  simp only [State.noEffect, hs, State.complete]

theorem countNulled_of_tile {t : TileId} (hs : op.site = .tile t) : s.countNulled op n = s := by
  simp only [State.countNulled, State.countStore, hs]

theorem sinksWithoutEffect : Claims.SinksWithoutEffect := by
  intro s op n hi s1 void noted
  refine ⟨fun t hs hh i hmem => ?_, fun t hs hh i hmem => ?_, ?_⟩
  · obtain ⟨k, hk⟩ := sinks_eq hi (unheld_of_tile hs) hmem
    rw [hk, homeScope_main hh]
    refine ⟨fun hf => ?_, fun ht hn hp => ?_⟩
    · rw [sink_of_false hf, noEffect_of_tile hs]
      rfl
    · rw [sink_of_poisoned ht hn hp, noEffect_of_tile hs]
      rfl
  · obtain ⟨f, hk⟩ := atomics_eq hi hmem
    have hscope : (after s op).homeScope op n = .whole := homeScope_main hh
    rw [hk, State.atomic]
    simp only [hscope, countNulled_of_tile hs]
    refine ⟨fun hf => ?_, fun ht hn hp => ?_⟩
    · rw [if_pos (by simp [hf])]
      rfl
    · rw [if_neg (by simp [ht, hn]), if_pos hp]
      rfl
  · intro r bc b hb hfalse k hm hd i hmem
    have hcount := countNulled_of_counts hb hm hd
    obtain ⟨j, hs⟩ := hb.site
    have hvoid (scope : Scope) (count : Nat) (f : State → State) :
        s1.sink op n scope count f = s1.mapBlock r bc fun b => { b with doneS := b.doneS + 2 ^ k } := by
      rw [sink_of_false hfalse, ← hcount, State.noEffect]
      simp only [hs]
    have hrel := unheld_of_unreleased (op := op) hb.held
    simp only [List.mem_cons, List.not_mem_nil, or_false] at hmem
    obtain rfl | rfl | rfl := hmem
    · obtain ⟨f, hf⟩ := sinks_eq hi hrel (i := .st n) (by simp)
      rw [hf, hvoid]
    · obtain ⟨f, hf⟩ := sinks_eq hi hrel (i := .iwr n) (by simp)
      rw [hf, hvoid]
    · obtain ⟨f, hf⟩ := hout_eq hi hrel
      rw [hf, hvoid]

/-- Settles O29: each check in its order, and the tests that every sink makes first. -/
theorem accessesWithoutEffect : Obligations.AccessesWithoutEffect := ⟨addressFaults, sinksWithoutEffect⟩

end Sys2Proof.Proofs
end

section

/-!
Host endpoints (R116, R190, R280): HIN and HOUT come to their endpoint, ask or send there, and wait; a memory tile refuses them, and
so does an endpoint that the context does not have or whose extent the transfer passes.
-/

namespace Sys2Proof.Proofs

open Sys2Proof Sys2Proof.Machine Sys2Proof.Claims

variable {s : State} {op : Issued} {n : Niw} {c : Ctx} {t : TileId}

section Ways
variable (h : Issues s op n) (hclean : Clean op) (hs : op.site = .tile t) (ha : op.ta.isVec = false)
  (hc : (after s op).ctx? op.ctx = some c)

include h hclean hs ha in
/-- HIN leaves its tile (R280). -/
theorem hin_leaves (hmay : (after s op).mayPerform op false = true) : exec (.hin n) s =
    .next ((after s op).toHome op n (fun s t => s.tileFault op n t 0x103 op.ta.word) fun s =>
      match s.ctx? op.ctx with
      | none => s
      | some c =>
        match s.endpointCause c op.ta.word.toNat (s.hinOffset op n op.ta.word.toNat) (hinLen op n) with
        | some x => s.memFault op n op.place .system x op.ta.word 0
        | none => s.sendHin op n c op.ta.word.toNat) := by
  have hhins : (after s op).hinsDone op n = true := by simp only [State.hinsDone, hs]
  have hlower := lowerDone_of_tile (s := after s op) (n := n) hs
  show execHin n s = _
  rw [execHin, fireRaw_of_issued h.issued]
  simp only [h.fires]
  rw [if_neg (by simp [hclean.preds, hclean.noNull, hclean.unpoisoned]), if_neg (by simp [ha])]
  show Host.Outcome.next (if (!(after s op).lowerDone op n || !(after s op).hinsDone op n) = true then _ else _) = _
  rw [if_neg (by simp [hlower, hhins])]
  exact congrArg _ (chained_of_mayPerform hmay _)

include h hclean hs ha hc in
/-- HOUT leaves its tile (R280). -/
theorem hout_leaves (hb : n.imm.getLsbD 7 = true ∨ op.tb.isVec = false) (hmay : (after s op).mayPerform op true = true) :
    exec (.hout n) s = .next ((after s op).toHome op n (fun s t => s.tileFault op n t 0x103 op.ta.word) fun s =>
      match s.endpointCause c op.ta.word.toNat 0 (houtBytes n op.tb.val).length with
      | some x => s.memFault op n op.place .system x op.ta.word 0
      | none => s.sendHout op c op.ta.word.toNat (houtBytes n op.tb.val)) := by
  have hv : (op.ta.isVec || (op.tb.isVec && !n.imm.getLsbD 7)) = false := by
    obtain hb | hb := hb <;> simp [ha, hb]
  show execHout n s = _
  rw [execHout, fireStore_runs h, ifHeld_of_unheld (unheld_of_tile hs), sink_of_clean hclean, hv, if_neg Bool.false_ne_true]
  simp only [hc, hs]
  rw [chained_of_mayPerform hmay] <;> rfl

include h hclean hs ha hc in
/-- HIN where no memory tile is named (R280). -/
theorem hin_main (hmay : (after s op).mayPerform op false = true) (hh : (after s op).homeTile op n = none) :
    exec (.hin n) s = .next (match (after s op).endpointCause c op.ta.word.toNat 0 (hinLen op n) with
      | some x => (after s op).memFault op n op.place .system x op.ta.word 0
      | none => (after s op).sendHin op n c op.ta.word.toNat) := by
  have hoff : (after s op).hinOffset op n op.ta.word.toNat = 0 := by simp only [State.hinOffset, hs]
  rw [hin_leaves h hclean hs ha hmay, toHome_main hh]
  simp only [hc, hoff]

include h hclean hs ha hc in
/-- HOUT where no memory tile is named (R280). -/
theorem hout_main (hb : n.imm.getLsbD 7 = true ∨ op.tb.isVec = false) (hmay : (after s op).mayPerform op true = true)
    (hh : (after s op).homeTile op n = none) : exec (.hout n) s =
    .next (match (after s op).endpointCause c op.ta.word.toNat 0 (houtBytes n op.tb.val).length with
      | some x => (after s op).memFault op n op.place .system x op.ta.word 0
      | none => (after s op).sendHout op c op.ta.word.toNat (houtBytes n op.tb.val)) := by
  rw [hout_leaves h hclean hs ha hc hb hmay, toHome_main hh]

end Ways

/- Endpoints. -/

section Endpoint
variable {ep len : Nat} {e : Endpoint}

/-- An endpoint that the context has, whose extent holds the transfer (R116, R191). -/
theorem endpointCause_of_room (hep : ep < 64) (he : look ep c.endpoints = some e) (hlen : e.pos + len ≤ e.ext)
    (hnode : 4096 ≤ e.node ∨ s.hasFeature 2 = true) : s.endpointCause c ep 0 len = none := by
  have hfar : (decide (e.node < 4096) && !s.hasFeature 2) = false := by
    obtain h | h := hnode
    · simp [Nat.not_lt.2 h]
    · simp [h]
  rw [State.endpointCause, if_neg (by omega), Ctx.endpoint?, he]
  simp only [hfar]
  rw [if_neg (by omega), if_neg Bool.false_ne_true]

/-- An endpoint that the context does not have, or that the transfer passes (R116). -/
theorem endpointCause_of_missing (h : 64 ≤ ep ∨ look ep c.endpoints = none ∨
    ∃ e, look ep c.endpoints = some e ∧ e.ext < e.pos + len) : s.endpointCause c ep 0 len = some 0x105 := by
  by_cases hep : 63 < ep
  · rw [State.endpointCause, if_pos hep]
  · rw [State.endpointCause, if_neg hep, Ctx.endpoint?]
    obtain h | h | ⟨e, h, hlen⟩ := h
    · omega
    · rw [h]
    · rw [h]
      exact if_pos hlen

end Endpoint

/- The bytes of a transfer. -/

theorem hinLen_of_tile (hs : op.site = .tile t) : hinLen op n = if n.imm.getLsbD 7 then 128 else n.fmt.width / 8 := by
  simp [hinLen, hs, siteIsBlock]

theorem length_lanes (f : Nat → Nat) (k : Nat) : ((List.range k).flatMap fun j => bytesOf 8 (f j)).length = 8 * k := by
  simp [List.length_flatMap, length_bytesOf, Nat.mul_comm]

/-- The eight bytes of a lane among those of all. -/
theorem lane_of_lanes (f : Nat → Nat) {k j : Nat} (hj : j < k) :
    (((List.range k).flatMap fun j => bytesOf 8 (f j)).drop (8 * j)).take 8 = bytesOf 8 (f j) := by
  induction k with
  | zero => omega
  | succ k ih =>
    rw [List.range_succ, List.flatMap_append]
    have hlen := length_lanes f k
    by_cases hjk : j < k
    · rw [List.drop_append_of_le_length (by omega), List.take_append_of_le_length (by simp [hlen]; omega), ih hjk]
    · obtain rfl : j = k := by omega
      rw [List.drop_append_of_le_length (by omega), List.drop_of_length_le (by omega)]
      simp [List.take_of_length_le, length_bytesOf]

theorem laneAt_lt (v : Value) (j : Nat) : (laneAt v j).getD 0 < 2 ^ 64 := by
  unfold laneAt
  split
  · exact BitVec.isLt _
  · split
    · exact BitVec.isLt _
    · exact Nat.two_pow_pos 64

theorem width_eight (hf : n.fmt ≠ .t6) : 8 * (n.fmt.width / 8) = n.fmt.width := by
  revert hf
  cases n.fmt <;> decide

/-- What HOUT sends: the scalar's low bytes, or every lane (R280, log 26). -/
theorem houtBytes_spec (hf : n.fmt ≠ .t6) (hb : n.imm.getLsbD 7 = true ∨ op.tb.isVec = false) :
    (houtBytes n op.tb.val).length = (if n.imm.getLsbD 7 then 128 else n.fmt.width / 8) ∧
    (n.imm.getLsbD 7 = false → ofBytes (houtBytes n op.tb.val) = op.tb.word.toNat % 2 ^ n.fmt.width) ∧
    (n.imm.getLsbD 7 = true → ∀ j, j < 16 →
      ofBytes (((houtBytes n op.tb.val).drop (8 * j)).take 8) = (laneAt op.tb.val j).getD 0) := by
  cases hv : n.imm.getLsbD 7 with
  | true =>
    have hbytes : houtBytes n op.tb.val = (List.range 16).flatMap fun j => bytesOf 8 ((laneAt op.tb.val j).getD 0) := by
      unfold houtBytes
      rw [if_pos hv]
    refine ⟨by rw [hbytes, length_lanes]; rfl, fun h => absurd h (by decide), fun _ j hj => ?_⟩
    rw [hbytes, lane_of_lanes _ hj, ofBytes_bytesOf, Nat.mod_eq_of_lt (laneAt_lt _ _)]
  | false =>
    have hs : op.tb.isVec = false := hb.resolve_left (by rw [hv]; decide)
    have hbytes : houtBytes n op.tb.val = storeBytes n op.tb.word := by
      unfold houtBytes
      rw [hv, if_neg Bool.false_ne_true]
      unfold Tok.isVec Tok.word at *
      cases hval : op.tb.val with
      | scalar w => simp_all
      | vector ls m => simp_all
    refine ⟨by rw [hbytes, storeBytes, length_bytesOf]; rfl, fun _ => ?_, fun h => absurd h (by decide)⟩
    rw [hbytes, storeBytes, ofBytes_bytesOf, width_eight hf]

/-- Settles O28: both instructions come to the endpoint, which holds the transfer or turns it away. -/
theorem hostEndpoints : Obligations.HostEndpoints := by
  unfold Obligations.HostEndpoints
  intro s op n c t h hclean hs ha hb s1 hc hload hstore
  refine ⟨fun m ch hh hch hf i hmem => ?_, fun hh => ?_⟩
  · have hway : ¬ (12 ≤ ch ∨ (ch = 11 ∧ (s1.mtile m).mode? = some 2)) := by omega
    simp only [List.mem_cons, List.not_mem_nil, or_false] at hmem
    obtain rfl | rfl := hmem
    · rw [hin_leaves h hclean hs ha hload, toHome_tile hh hway, State.tileFault, memFault_of_tile hs hclean.unpoisoned]
    · rw [hout_leaves h hclean hs ha hc hb hstore, toHome_tile hh hway, State.tileFault,
        memFault_of_tile hs hclean.unpoisoned]
  · intro ep len asks turned
    have hin := hin_main h hclean hs ha hc hload hh
    have hout := hout_main h hclean hs ha hc hb hstore hh
    have hlen : hinLen op n = len := hinLen_of_tile hs
    have hturned (x : Nat) : s1.memFault op n op.place .system x op.ta.word 0 = turned x := by
      rw [memFault_of_tile hs hclean.unpoisoned, place_of_tile hs]
    refine ⟨fun e hep he hroom hnode => ?_, fun hbad => ?_⟩
    · have hcause : s1.endpointCause c ep 0 len = none := endpointCause_of_room hep he hroom hnode
      refine ⟨?_, fun hf => ?_⟩
      · rw [hin, hlen, hcause, State.sendHin]
        have hoff : s1.hinOffset op n ep = 0 := by simp only [State.hinOffset, hs]
        simp only [Ctx.endpoint?]
        rw [he]
        simp only [hs, hlen]
        rw [hoff]
        rfl
      · obtain ⟨hbl, hscalar, hlanes⟩ := houtBytes_spec hf hb
        refine ⟨houtBytes n op.tb.val, hbl, hscalar, hlanes, ?_⟩
        rw [hout, hbl, hcause, State.sendHout]
        simp only [Ctx.endpoint?]
        rw [he]
        simp only [hbl]
        rfl
    · have hcause : s1.endpointCause c ep 0 len = some 0x105 := endpointCause_of_missing hbad
      refine ⟨by rw [hin, hlen, hcause]; exact congrArg _ (hturned _), fun hf => ?_⟩
      rw [hout, (houtBytes_spec hf hb).1, hcause]
      exact congrArg _ (hturned _)

end Sys2Proof.Proofs
end

section

/-!
SUPPORT. The bytes that loads and stores of one element move (R113, R290, R324).
-/

namespace Sys2Proof.Proofs

open Sys2Proof Sys2Proof.Machine Sys2Proof.Claims

/-- Byte `i` of a number's bytes. -/
theorem getElem_bytesOf (k v i : Nat) (hi : i < (bytesOf k v).length) : (bytesOf k v)[i] = BitVec.ofNat 8 (v / 2 ^ (8 * i)) := by
  induction k generalizing v i with
  | zero => exact absurd hi (Nat.not_lt_zero i)
  | succ k ih =>
    cases i with
    | zero => simp [bytesOf]
    | succ i =>
      simp only [bytesOf, List.getElem_cons_succ, ih, Nat.div_div_eq_div_mul]
      rw [show 8 * (i + 1) = 8 + 8 * i from Nat.mul_succ .. |>.trans (Nat.add_comm ..), Nat.pow_add]

/-- A byte of a word by a shift. -/
theorem getElem_bytesOf_word (k i : Nat) (w : Word) (hi : i < (bytesOf k w.toNat).length) :
    (bytesOf k w.toNat)[i] = (w >>> (8 * i)).setWidth 8 := by
  rw [getElem_bytesOf]
  apply BitVec.eq_of_toNat_eq
  rw [BitVec.toNat_ofNat, BitVec.toNat_setWidth, BitVec.toNat_ushiftRight, Nat.shiftRight_eq_div_pow]

theorem ofBytes_zeros (k : Nat) : ofBytes (List.replicate k 0) = 0 := by
  induction k with
  | zero => rfl
  | succ k ih =>
    rw [List.replicate_succ, ofBytes, ih]
    rfl

theorem bytesOf_ofBytes (l : List Byte) : bytesOf l.length (ofBytes l) = l := by
  induction l with
  | nil => rfl
  | cons b l ih =>
    have hb := b.isLt
    rw [List.length_cons, bytesOf, ofBytes, show (b.toNat + 256 * ofBytes l) / 256 = ofBytes l by omega, ih]
    refine congrArg (· :: l) (BitVec.eq_of_toNat_eq ?_)
    rw [BitVec.toNat_ofNat]
    omega

theorem ofBytes_append_zeros (l : List Byte) (k : Nat) : ofBytes (l ++ List.replicate k 0) = ofBytes l := by
  induction l with
  | nil => exact ofBytes_zeros k
  | cons b l ih => rw [List.cons_append, ofBytes, ih, ofBytes]

/-- The value that LD forms is the element, extended as its format says (R290). -/
theorem loadValue_eq (n : Niw) (v : Nat) : loadValue n v = extended n.fmt v := by
  have hlow : BitVec.ofNat n.fmt.width (v % 2 ^ n.fmt.width) = BitVec.ofNat n.fmt.width v := by
    apply BitVec.eq_of_toNat_eq
    simp
  unfold loadValue extended
  cases n.fmt.signed with
  | true =>
    simp only [if_true]
    rw [signedOf_eq_toInt (width_pos _), hlow, wrapInt_eq_toNat, word_toNat, BitVec.signExtend]
  | false =>
    simp only [Bool.false_eq_true, if_false]
    apply BitVec.eq_of_toNat_eq
    rw [toNat_word, BitVec.toNat_setWidth, BitVec.toNat_ofNat]

theorem extended_zero (f : Fmt) : extended f 0 = 0 := by
  unfold extended
  split
  · simp [BitVec.signExtend]
  · simp

end Sys2Proof.Proofs
end

section

/-!
Loads and stores at memory tiles (R105 to R109): the way of each instruction to its tile, and what each mode of the tile does.
-/

namespace Sys2Proof.Proofs

open Sys2Proof Sys2Proof.Machine Sys2Proof.Claims

variable {s : State} {op : Issued} {n : Niw} {m t : TileId} {mode : Nat}

/-- The channel of a request that its tile serves (R105, R109). -/
theorem toHome_atTile {store : Bool} (hm : AtTile s op n store m mode) (tile : State → TileId → State)
    (main : State → State) : s.toHome op n tile main = tile s m := by
  obtain ⟨ch, hh, hch, hline⟩ := hm.home
  refine toHome_tile hh (fun h => ?_) _ _
  obtain h | ⟨h, hmode⟩ := h
  · omega
  · exact hline h (Option.some.inj (hm.mode.symm.trans hmode))

theorem homeScope_atTile {store : Bool} (hm : AtTile s op n store m mode) : s.homeScope op n = .tile := by
  obtain ⟨ch, hh, -⟩ := hm.home
  exact homeScope_tile hh

section Ways
variable (h : Issues s op n) (hclean : Clean op) (ha : op.ta.isVec = false)
include h hclean ha

theorem ld_atTile (hm : AtTile (after s op) op n false m mode) : exec (.ld n) s = .next ((after s op).ldTile op n m) := by
  obtain ⟨t, hs⟩ := hm.site
  show execLd n s = _
  rw [execLd, fireLoad_of_issues h, load_of_clear (ta_unpoisoned hclean.unpoisoned) ha (lowerDone_of_tile hs) hm.chain,
    toHome_atTile hm]

theorem st_atTile (hm : AtTile (after s op) op n true m mode) (hb : op.tb.isVec = false) :
    exec (.st n) s = .next ((after s op).stTile op n m) := by
  obtain ⟨t, hs⟩ := hm.site
  show execSt n s = _
  rw [execSt, fireStore_runs h, ifHeld_of_unheld (unheld_of_tile hs), sink_of_clean hclean, if_neg (by simp [ha, hb])]
  simp only [hs]
  rw [chained_of_mayPerform hm.chain, toHome_atTile hm]

theorem stv_atTile (hm : AtTile (after s op) op n true m mode) (hari : n.ari ≠ 3) :
    exec (.stv n) s = .next ((after s op).stvTile op n m) := by
  have hari : ¬ n.ari.toNat = 3 := fun h3 => hari (BitVec.eq_of_toNat_eq h3)
  show execStv n s = _
  rw [execStv, fireStore_runs h, sink_of_clean hclean, if_neg (by simp [ha, hari]), chained_of_mayPerform hm.chain,
    toHome_atTile hm]

/-- A request of a generator's channel goes to the tile as a start (R105, R106). -/
theorem ld_atChannel {ch : Nat} (hs : op.site = .tile t) (hh : (after s op).homeTile op n = some (m, ch)) (hch : 12 ≤ ch)
    (hmay : (after s op).mayPerform op false = true) :
    exec (.ld n) s = .next ((after s op).toMemTile { op with member := some op.node } m ch op.ta) := by
  show execLd n s = _
  rw [execLd, fireLoad_of_issues h, load_of_clear (ta_unpoisoned hclean.unpoisoned) ha (lowerDone_of_tile hs) hmay]
  simp only [State.toHome, hh, hch, true_or, if_true]

theorem st_atChannel {ch : Nat} (hs : op.site = .tile t) (hh : (after s op).homeTile op n = some (m, ch)) (hch : 12 ≤ ch)
    (hmay : (after s op).mayPerform op true = true) (hb : op.tb.isVec = false) :
    exec (.st n) s = .next ((after s op).toMemTile { op with member := some op.node } m ch op.ta) := by
  show execSt n s = _
  rw [execSt, fireStore_runs h, ifHeld_of_unheld (unheld_of_tile hs), sink_of_clean hclean, if_neg (by simp [ha, hb])]
  simp only [hs]
  rw [chained_of_mayPerform hmay]
  simp only [State.toHome, hh, hch, true_or, if_true, hs]

theorem aadd_atTile (hm : AtTile (after s op) op n true m mode) (hb : op.tb.isVec = false) (hc : op.c.any (·.isVec) = false)
    (hprd : n.prd ≠ .ift) :
    exec (.aadd n) s = .next ((after s op).atomicTile op n m fun w => some (w + op.tb.word)) := by
  obtain ⟨t, hs⟩ := hm.site
  show execAadd n s = _
  rw [execAadd, fireAtomic_of_issues h, State.atomic]
  simp only [hclean.preds, hclean.noNull, hclean.unpoisoned, foreignOrder, hprd, ha, hb, hc, hs]
  simp only [Bool.not_true, Bool.or_false, Bool.false_eq_true, if_false, decide_false, Bool.false_and]
  rw [chained_of_mayPerform hm.chain, toHome_atTile hm]

end Ways

/- Operand stores. -/

section Fill
variable (off : Nat) (bs : List Byte) (tag : Word)

theorem mtile_bufferFull : (s.bufferFull m tag).mtile m = { s.mtile m with
    full := (s.mtile m).full ++ [((s.mtile m).fill, tag)], fill := ((s.mtile m).fill + 1) % (s.mtile m).buffers } := by
  unfold State.bufferFull
  simp only
  split
  · exact State.mtile_setMtile_same ..
  · exact State.mtile_setMtile_same ..

theorem main_bufferFull : (s.bufferFull m tag).main = s.main := by
  unfold State.bufferFull
  simp only
  split <;> rfl

theorem mtile_writeBank : (s.writeBank m off bs).mtile m = { s.mtile m with
    banks := cellsPut (s.mtile m).banks off bs, heads := clearHeads (s.mtile m).heads off bs.length } :=
  State.mtile_setMtile_same ..

/-- One piece of bytes enters the buffer that is being filled (R108). -/
theorem fillBuffer_piece (hbs : bs ≠ []) : s.fillBuffer m tag [(off, bs)] =
    if off + bs.length = (s.mtile m).depth
      then (s.writeBank m ((s.mtile m).fill * (s.mtile m).depth + off) bs).bufferFull m tag
      else s.writeBank m ((s.mtile m).fill * (s.mtile m).depth + off) bs := by
  simp [State.fillBuffer, hbs]

/-- What the piece leaves in the tile (R108). -/
theorem mtile_fillBuffer (hbs : bs ≠ []) :
    let x := s.mtile m
    let u := s.fillBuffer m tag [(off, bs)]
    u.main = s.main ∧ (u.mtile m).banks = cellsPut x.banks (x.fill * x.depth + off) bs ∧
      (u.mtile m).full = x.full ++ (if off + bs.length = x.depth then [(x.fill, tag)] else []) ∧
      (u.mtile m).fill = if off + bs.length = x.depth then (x.fill + 1) % x.buffers else x.fill := by
  intro x u
  have hu : u = _ := fillBuffer_piece off bs tag hbs
  rw [hu]
  by_cases hend : off + bs.length = (s.mtile m).depth
  · rw [if_pos hend, main_bufferFull, mtile_bufferFull, mtile_writeBank, if_pos hend, if_pos hend]
    exact ⟨rfl, rfl, rfl, rfl⟩
  · rw [if_neg hend, mtile_writeBank, if_neg hend, if_neg hend, List.append_nil]
    exact ⟨rfl, rfl, rfl, rfl⟩

end Fill

/-- The bytes of a memory after a write, one by one. -/
theorem cellGet_cellsPut_word (l : List Host.Cell) (a k : Nat) (w : Word) (h : cellsWf l = true) (b : Nat) :
    cellGet (cellsPut l a (bytesOf k w.toNat)) b =
      if a ≤ b ∧ b < a + k then (w >>> (8 * (b - a))).setWidth 8 else cellGet l b := by
  have hlen := length_bytesOf k w.toNat
  split
  · obtain ⟨i, rfl⟩ : ∃ i, b = a + i := ⟨b - a, by omega⟩
    rw [cellGet_cellsPut_inside _ _ _ _ h (by omega), getElem_bytesOf_word, Nat.add_sub_cancel_left]
  · exact cellGet_cellsPut_outside _ _ _ _ h (by omega)

/- What each mode does. -/

section Modes

/-- A clean access that its tile refuses (R107). -/
theorem tileFault_clean (hs : op.site = .tile t) (hclean : Clean op) (cause : Nat) : s.tileFault op n m cause op.ta.word =
    (s.takeFault ⟨cause, .tile m, op.ctx, op.tag, op.ta.word, 0, false, false⟩).reply op n
      (.scalar (completion 1 .tile true cause)) false := by
  rw [State.tileFault, memFault_of_tile hs hclean.unpoisoned]

theorem ldTile_fifo {e : List Byte} {es : List (List Byte)} (hmode : (s.mtile m).mode? = some 1) (hsleep : (s.mtile m).asleep = false)
    (hw : (s.mtile m).elemBytes = 8) (hf : (s.mtile m).fifo = e :: es) (hp : op.poisoned = false) :
    s.ldTile op n m = (s.setMtile m { s.mtile m with fifo := es }).replyData op n (.scalar (extended n.fmt (ofBytes e))) false := by
  unfold State.ldTile
  simp only [hmode]
  rw [if_neg (by simp [hw]), if_neg (by simp [hsleep, hf])]
  simp only [State.fifoPop, hf, State.replyLoad, loadValue_eq, hp]
  rfl

theorem ldTile_line (hmode : (s.mtile m).mode? = some 2) (hsleep : (s.mtile m).asleep = false)
    (hend : op.ta.word.toNat + n.fmt.width / 8 ≤ ((s.mtile m).win + (s.mtile m).spec) * (s.mtile m).rowBytes)
    (hal : op.ta.word.toNat % (n.fmt.width / 8) = 0)
    (hrow : ((s.mtile m).line (op.ta.word.toNat / (s.mtile m).rowBytes)).written = false) (hp : op.poisoned = false) :
    s.ldTile op n m = s.replyData op n (.scalar 0) false := by
  unfold State.ldTile
  simp only [hmode]
  rw [if_neg (by omega), if_neg (by omega), hsleep, if_neg Bool.false_ne_true]
  simp only [State.readLine, hrow, Bool.false_eq_true, if_false, ofBytes_zeros, loadValue_eq, extended_zero, State.replyLoad, hp]

theorem ldTile_refused (hmode : (s.mtile m).mode? = some 0 ∨ (s.mtile m).mode? = some 3) :
    s.ldTile op n m = s.tileFault op n m 0x103 op.ta.word := by
  unfold State.ldTile
  obtain h | h := hmode <;> simp only [h]

theorem stTile_opstore (hmode : (s.mtile m).mode? = some 0) (hsleep : (s.mtile m).asleep = false)
    (hend : op.ta.word.toNat + n.fmt.width / 8 ≤ (s.mtile m).depth) (hal : op.ta.word.toNat % (n.fmt.width / 8) = 0)
    (hfull : (s.mtile m).isFull (s.mtile m).fill = false) :
    s.stTile op n m = storedTile (s.fillBuffer m op.tag [(op.ta.word.toNat, storeBytes n op.tb.word)]) op n := by
  unfold State.stTile
  simp only [hmode]
  rw [if_neg (by omega), if_neg (by omega), hsleep, hfull, if_neg (by decide)]
  rfl

theorem stTile_fifo (hmode : (s.mtile m).mode? = some 1) (hsleep : (s.mtile m).asleep = false)
    (hw : (s.mtile m).elemBytes = 8) (hroom : (s.mtile m).fifoRoom = true) : s.stTile op n m =
      storedTile (s.setMtile m { s.mtile m with fifo := (s.mtile m).fifo ++ [sizedTo 8 (storeBytes n op.tb.word)] }) op n := by
  unfold State.stTile
  simp only [hmode]
  rw [if_neg (by simp [hw]), if_neg (by simp [hsleep, hroom]), State.fifoPush, hw]
  rfl

theorem stTile_committed (hmode : (s.mtile m).mode? = some 2)
    (hend : op.ta.word.toNat + n.fmt.width / 8 ≤ ((s.mtile m).win + (s.mtile m).spec) * (s.mtile m).rowBytes)
    (hal : op.ta.word.toNat % (n.fmt.width / 8) = 0)
    (hrow : op.ta.word.toNat / (s.mtile m).rowBytes < (s.mtile m).win) :
    s.stTile op n m = s.tileFault op n m 0x103 op.ta.word := by
  unfold State.stTile
  simp only [hmode]
  rw [if_neg (by omega), if_neg (by omega), if_pos hrow]

theorem atomicTile_opstore (hmode : (s.mtile m).mode? = some 0) (hsleep : (s.mtile m).asleep = false)
    (hend : op.ta.word.toNat + 8 ≤ (s.mtile m).depth) (hal : op.ta.word.toNat % 8 = 0)
    (hfull : (s.mtile m).isFull (s.mtile m).fill = false) (f : Word → Word) :
    let old := word (ofBytes (s.readBank m ((s.mtile m).fill * (s.mtile m).depth + op.ta.word.toNat) 8))
    s.atomicTile op n m (fun w => some (f w)) =
      (s.fillBuffer m op.tag [(op.ta.word.toNat, bytesOf 8 (f old).toNat)]).reply op n (.scalar old) op.poisoned := by
  intro old
  unfold State.atomicTile
  simp only [hmode]
  rw [if_neg (by simp), if_neg (by omega), if_neg (by omega), hsleep, hfull, if_neg (by decide)]

end Modes

/-- Sixteen words by their bytes: a list of 128 bytes is that of its words. -/
theorem eq_flatMap_of_words (e : List Byte) (f : Nat → Word) (k : Nat) (hlen : e.length = 8 * k)
    (h : ∀ j, j < k → ofBytes ((e.drop (8 * j)).take 8) = (f j).toNat) :
    e = (List.range k).flatMap fun j => bytesOf 8 (f j).toNat := by
  induction k generalizing e with
  | zero => simpa using hlen
  | succ k ih =>
    have hinit := ih (e.take (8 * k)) (by simp; omega) fun j hj => by
      rw [List.drop_take, List.take_take, Nat.min_eq_left (by omega)]
      exact h j (by omega)
    have hlast : e.drop (8 * k) = bytesOf 8 (f k).toNat := by
      have hk := h k (by omega)
      rw [List.take_of_length_le (by simp; omega)] at hk
      have hk8 : (e.drop (8 * k)).length = 8 := by simp; omega
      have hl := bytesOf_ofBytes (e.drop (8 * k))
      rw [hk8, hk] at hl
      exact hl.symm
    rw [List.range_succ, List.flatMap_append, ← hinit]
    simp [← hlast]

theorem bytes_le_eight (f : Fmt) : f.width / 8 ≤ 8 := by
  cases f <;> decide

/-- A scalar as one element of a FIFO of 8-byte elements (R324). -/
theorem sizedTo_storeBytes (hf : n.fmt ≠ .t6) (w : Word) :
    ofBytes (sizedTo 8 (storeBytes n w)) = w.toNat % 2 ^ n.fmt.width ∧ (sizedTo 8 (storeBytes n w)).length = 8 := by
  have hlen : (storeBytes n w).length = n.fmt.width / 8 := length_bytesOf ..
  have hle := bytes_le_eight n.fmt
  have hall : (storeBytes n w ++ List.replicate (8 - (storeBytes n w).length) 0).length = 8 := by simp; omega
  rw [sizedTo, List.take_of_length_le (by omega)]
  exact ⟨by rw [ofBytes_append_zeros, storeBytes, ofBytes_bytesOf, width_eight hf], hall⟩

theorem sizedTo_full {k : Nat} {l : List Byte} (h : l.length = k) : sizedTo k l = l := by
  rw [sizedTo, h, Nat.sub_self, List.replicate_zero, List.append_nil, List.take_of_length_le (by omega)]

/-- STV's lanes as one element of a FIFO of 128-byte elements (R324, log 26). -/
theorem stvTile_fifo {e : List Byte} (hmode : (s.mtile m).mode? = some 1) (hsleep : (s.mtile m).asleep = false)
    (hw : (s.mtile m).elemBytes = 128) (hroom : (s.mtile m).fifoRoom = true) (hlen : e.length = 128)
    (he : ∀ j, j < 16 → ofBytes ((e.drop (8 * j)).take 8) = (rawLaneOf op.tb.val j).toNat) :
    s.stvTile op n m = storedTile (s.setMtile m { s.mtile m with fifo := (s.mtile m).fifo ++ [e] }) op n := by
  have hbytes := eq_flatMap_of_words e (rawLaneOf op.tb.val) 16 hlen he
  unfold State.stvTile
  simp only [hmode]
  rw [if_neg (by simp [hw]), if_neg (by simp [hsleep, hroom]), State.fifoPush, ← hbytes, hw, sizedTo_full hlen]
  rfl

/-- Settles O24: each instruction comes to its tile, and there the mode decides. -/
theorem tileAccesses : Obligations.TileAccesses := by
  unfold Obligations.TileAccesses
  intro s op n m h hinv ha hclean s1 x a w
  have hcells : cellsWf x.banks = true := by
    have hkept : x.banks = (s.mtile m).banks := (((kept_taken s).trans (kept_touch _ op)).tiles m).1
    rw [hkept]
    exact hinv.2 m
  have hpsn := hclean.unpoisoned
  have hbytes (hf : n.fmt ≠ .t6) : storeBytes n op.tb.word ≠ [] := by
    rw [← List.length_pos_iff, storeBytes, length_bytesOf]
    exact bytes_pos hf
  refine ⟨fun e es hm hw hfifo => ?_, fun hm hend hal hrow => ?_, fun hm => ?_, fun hm hb hend hal hfull => ?_,
    fun hm hb hw hroom => ?_, fun e hm hari hw hroom hlen he => ?_, fun t ch store hs hh hch hmay hf => ?_,
    fun hm hb hend hal hrow => ?_, fun hm hb hc hprd hend hal hfull => ?_⟩
  · refine repliesFused_of_replyData ?_
    rw [ld_atTile h hclean ha hm, ldTile_fifo hm.mode hm.awake hw hfifo hpsn]
  · refine repliesFused_of_replyData ?_
    rw [ld_atTile h hclean ha hm, ldTile_line hm.mode hm.awake hend hal hrow hpsn]
  · obtain hm | hm := hm <;> obtain ⟨t, hs⟩ := hm.site
    · rw [ld_atTile h hclean ha hm, ldTile_refused (.inl hm.mode), tileFault_clean hs hclean]
    · rw [ld_atTile h hclean ha hm, ldTile_refused (.inr hm.mode), tileFault_clean hs hclean]
  · have hlen : (storeBytes n op.tb.word).length = w := length_bytesOf ..
    obtain ⟨hmain, hbanks, hful, hfill⟩ := mtile_fillBuffer (s := s1) (m := m) a (storeBytes n op.tb.word) op.tag
      (hbytes hm.format)
    rw [hlen] at hful hfill
    refine ⟨_, by rw [st_atTile h hclean ha hm hb, stTile_opstore hm.mode hm.awake hend hal hfull], hmain, hful, hfill,
      fun k => ?_⟩
    rw [hbanks]
    exact cellGet_cellsPut_word _ _ _ _ hcells k
  · obtain ⟨hval, hlen⟩ := sizedTo_storeBytes hm.format op.tb.word
    exact ⟨_, by rw [st_atTile h hclean ha hm hb, stTile_fifo hm.mode hm.awake hw hroom], hval, hlen⟩
  · rw [stv_atTile h hclean ha hm hari, stvTile_fifo hm.mode hm.awake hw hroom hlen fun j hj => ?_]
    rw [he j hj]
    cases op.tb.val <;> rfl
  · refine ⟨fun hst => ?_, fun hst hb => ?_⟩
    · subst hst
      exact ld_atChannel h hclean ha hs hh hch hmay
    · subst hst
      exact st_atChannel h hclean ha hs hh hch hmay hb
  · obtain ⟨t, hs⟩ := hm.site
    rw [st_atTile h hclean ha hm hb, stTile_committed hm.mode hend hal hrow, tileFault_clean hs hclean]
  · intro old
    obtain ⟨hmain, hbanks, -, -⟩ := mtile_fillBuffer (s := s1) (m := m) a (bytesOf 8 (old + op.tb.word).toNat) op.tag
      (by simp [bytesOf])
    refine ⟨_, by rw [aadd_atTile h hclean ha hm hb hc hprd, atomicTile_opstore hm.mode hm.awake hend hal hfull, hpsn],
      hmain, ?_⟩
    rw [State.readBank, hbanks]
    have hread := cellsGet_cellsPut x.banks (x.fill * x.depth + a) (bytesOf 8 (old + op.tb.word).toNat) hcells
    rw [length_bytesOf] at hread
    rw [hread, ofBytes_bytesOf, Nat.mod_eq_of_lt (BitVec.isLt _), word_toNat]

end Sys2Proof.Proofs
end

section

/-!
SUPPORT. Accesses that are translated (R113, R119, R120, R122): one piece for an aligned element of any size, the words of a vector
access, and the elements of a gather.
-/

namespace Sys2Proof.Proofs

open Sys2Proof Sys2Proof.Machine Sys2Proof.Claims

variable {s : State} {op : Issued} {n : Niw} {need : Need} {va len pa : Nat}

/-- The bytes of an element (R86). -/
def ElemLen (len : Nat) : Prop := len = 1 ∨ len = 2 ∨ len = 4 ∨ len = 8

theorem elemLen_fmt (h : n.fmt ≠ .t6) : ElemLen (n.fmt.width / 8) := by
  unfold ElemLen
  revert h
  cases n.fmt <;> decide

theorem ElemLen.pos (h : ElemLen len) : 0 < len := by
  unfold ElemLen at h
  omega

theorem pieces_single (k : Nat) (hlen : 0 < len) (hend : len ≤ 8 - va % 8) : pieces (k + 2) va len = [(va, len)] := by
  have hmin : min len (8 - va % 8) = len := Nat.min_eq_left hend
  simp [pieces, hmin, Nat.pos_iff_ne_zero.1 hlen]

/-- An aligned element is one piece. -/
theorem piecesOf_aligned (hlen : ElemLen len) (h : va % len = 0) : piecesOf va len = [(va, len)] := by
  refine pieces_single _ hlen.pos ?_
  obtain rfl | rfl | rfl | rfl := hlen <;> omega

/-- No check of another alignment stops a legal access either. -/
theorem addrCause_legal_align {system : Bool} {align : Nat} (hpos : 0 < len) (h : Legal system va len) (hal : va % align = 0) :
    addrCause system va len align = none := by
  obtain ⟨-, ⟨hlow, hend, hwindow⟩ | ⟨hhigh, hend, hsystem⟩⟩ := h
  · have htop : bits va 55 9 = 0 := by simp only [bits]; omega
    simp only [addrCause, htop]
    rw [if_neg (by omega), if_neg (by omega), if_neg (by omega), if_neg (by omega), if_neg (by omega)]
  · have htop : bits va 55 9 = 511 := by simp only [bits]; omega
    simp only [addrCause, htop, hsystem]
    rw [if_neg (by omega), if_neg (by omega), if_neg (by omega), if_pos trivial, if_pos trivial]

theorem xlateAll_translated (h : Translated s op need va len pa) : s.xlateAll op need [(va, len)] = .ok [(pa, len)] := by
  obtain ⟨-, ⟨e, he, hpermits, rfl⟩, hfresh⟩ := h
  have hx : s.xlate op need va = .ok (leafBase e.leaf + (va - e.base)) := by
    simp only [State.xlate, hfresh, he, hpermits, if_true]
  simp only [State.xlateAll, hx, Res.bind]

/-- The one piece of a translated element of any size. -/
theorem range_of_translated (hlen : ElemLen len) (h : Translated s op need va len pa) :
    s.range op need va len len = .ok [(pa, len)] := by
  simp only [State.range, addrCause_legal hlen.pos h.legal, piecesOf_aligned hlen h.legal.1, xlateAll_translated h]

/-- The number in one piece. -/
theorem ofBytes_readPiece (s : State) (pa len : Nat) : ofBytes (s.readPieces [(pa, len)]) = numberAt s pa len := by
  rw [State.readPieces, List.flatMap_cons, List.flatMap_nil, List.append_nil, ofBytes_readMain]

/-- A word's number has 64 bits. -/
theorem numberAt_word_lt (s : State) (pa : Nat) : numberAt s pa 8 < 2 ^ 64 := by
  have htake : (s.readMain pa 8).take 8 = s.readMain pa 8 := List.take_of_length_le (by simp [State.readMain, cellsGet])
  rw [← ofBytes_readMain, ← htake, ofBytes_take]
  exact Nat.mod_lt _ (by decide)

/- The words of a vector access. -/

section Lanes
variable {a : Nat} {pas : Nat → Nat} {js : List Nat} (h : ∀ j ∈ js, Translated s op need (a + 8 * j) 8 (pas j))
include h

theorem lanePieces_translated : s.lanePieces op need a js = .ok (js.map fun j => (j, [(pas j, 8)])) := by
  induction js with
  | nil => rfl
  | cons j js ih =>
    obtain ⟨hj, hjs⟩ := List.forall_mem_cons.1 h
    simp only [State.lanePieces, range_of_translated (by unfold ElemLen; omega) hj, Res.bind, ih hjs, List.map_cons]

/-- The end of a vector's last lane lies in the half of its address (R119, R290). -/
theorem addrCause_lastLane {k : Nat} (hk : k ∈ js) (hk16 : k < 16) (ha : a < 2 ^ 55 ∨ 2 ^ 64 - 2 ^ 55 ≤ a) :
    addrCause (s.isSystem op.ctx) a (8 * k + 8) 8 = none ∨ addrCause (s.isSystem op.ctx) a (8 * k + 8) 8 = some 0x103 := by
  obtain ⟨hal, ⟨hlow, hend, -⟩ | ⟨hhigh, hend, hsystem⟩⟩ := (h k hk).legal
  · have htop : bits a 55 9 = 0 := by simp only [bits]; omega
    simp only [addrCause, htop]
    rw [if_neg (by omega), if_neg (by omega), if_neg (by omega), if_neg (by omega)]
    split
    · exact .inr rfl
    · exact .inl rfl
  · have htop : bits a 55 9 = 511 := by simp only [bits]; omega
    simp only [addrCause, htop, hsystem]
    rw [if_neg (by omega), if_neg (by omega), if_neg (by omega), if_pos trivial, if_pos trivial]
    exact .inl rfl

theorem laneCause_translated (h16 : ∀ j ∈ js, j < 16) (ha : a < 2 ^ 55 ∨ 2 ^ 64 - 2 ^ 55 ≤ a) :
    laneCause (s.isSystem op.ctx) a js = none := by
  have heach : js.findSome? (fun j => addrCause (s.isSystem op.ctx) (a + 8 * j) 8 8) = none :=
    List.findSome?_eq_none_iff.2 fun j hj => addrCause_legal (by decide) (h j hj).legal
  unfold laneCause
  split
  · rfl
  · next k hk =>
    have hk := List.mem_of_getLast? hk
    obtain hc | hc := addrCause_lastLane h hk (h16 k hk) ha <;> rw [hc] <;> exact heach

theorem laneRanges_translated (h16 : ∀ j ∈ js, j < 16) (ha : a < 2 ^ 55 ∨ 2 ^ 64 - 2 ^ 55 ≤ a) :
    s.laneRanges op need a js = .ok (js.map fun j => (j, [(pas j, 8)])) := by
  rw [State.laneRanges, laneCause_translated h h16 ha, lanePieces_translated h]

end Lanes

/-- Requests of which none meets a failed lane are performed (R184). -/
theorem overPort_clear {l : List Nat} (h : ∀ pa ∈ l, s.laneDown op (portLane op pa) pa = false ∧ s.replyDown op pa = false)
    (k : Issued → Niw → State → State) : s.overPort op n l k = k op n s := by
  have hdown : (l.any fun pa => s.laneDown op (portLane op pa) pa) = false :=
    List.any_eq_false.2 fun pa hpa => by simp [(h pa hpa).1]
  have hreply : l.any (s.replyDown op) = false := List.any_eq_false.2 fun pa hpa => by simp [(h pa hpa).2]
  simp [State.overPort, hdown, hreply]

/- The elements of a Carder operation. -/

section Elements
variable {a : Int} (hlen : ElemLen len) (ha : 0 ≤ a) (h : Translated s op need a.toNat len pa)
include hlen h

theorem toNat_lt_of_legal : a.toNat < 2 ^ 64 := by
  have := hlen.pos
  obtain ⟨-, ⟨-, hend, -⟩ | ⟨-, hend, -⟩⟩ := h.legal <;> omega

theorem elemRange_translated (k : Nat) : s.elemRange op need len k a = .ok [(pa, len)] := by
  rw [State.elemRange, piecesOf_aligned hlen h.legal.1, xlateAll_translated h]

include ha in
theorem elemCause_translated : s.elemCause op need len a = none := by
  have hlt := toNat_lt_of_legal hlen h
  obtain ⟨e, he, hpermits, -⟩ := h.cached
  have hpage : s.pageCause op need a.toNat = none := by
    simp only [State.pageCause, he, hpermits, if_true]
  rw [State.elemCause, if_neg (by omega), addrCause_legal_align hlen.pos h.legal (Nat.mod_one _),
    piecesOf_aligned hlen h.legal.1]
  simp [hpage, h.legal.1]

end Elements

section Gather
variable {pas : Nat → Nat} {es : List (Nat × Int)} (hlen : ElemLen len)
  (h : ∀ x ∈ es, 0 ≤ x.2 ∧ Translated s op need x.2.toNat len (pas x.1))
include hlen h

theorem elemPieces_translated : s.elemPieces op need len es = .ok (es.map fun x => (x.1, [(pas x.1, len)])) := by
  induction es with
  | nil => rfl
  | cons x es ih =>
    obtain ⟨hx, hes⟩ := List.forall_mem_cons.1 h
    obtain ⟨k, a⟩ := x
    simp only [State.elemPieces, elemRange_translated hlen hx.2, Res.bind, ih hes, List.map_cons]

theorem elemRanges_translated : s.elemRanges op need len es = .ok (es.map fun x => (x.1, [(pas x.1, len)])) := by
  have hcause : es.findSome? (fun x => (s.elemCause op need len x.2).map fun c => (c, x)) = none :=
    List.findSome?_eq_none_iff.2 fun x hx => by rw [elemCause_translated hlen (h x hx).1 (h x hx).2]; rfl
  rw [State.elemRanges, hcause, elemPieces_translated hlen h]

end Gather

end Sys2Proof.Proofs
end

section

/-!
Loads of main memory (R105, R113, R277, R290): LD with and without its lanes of the die bridge, LDV lane by lane, GTH element by
element.
-/

namespace Sys2Proof.Proofs

open Sys2Proof Sys2Proof.Machine Sys2Proof.Claims

variable {s : State} {op : Issued} {n : Niw} {pa : Nat}

/- LD. -/

/-- A block without held stores loads what memory holds (R44). -/
theorem overlay_of_empty {r bc k : Nat} {b : Block} (hs : op.site = .block r bc k) (hb : s.block? r bc = some b)
    (hstores : b.stores = []) : s.overlay op n = s := by
  have hbelow : heldBelow b (lsidOf n) = [] := by
    rw [heldBelow, hstores]
    rfl
  simp only [State.overlay, hs, hb, hbelow, List.foldl_nil]

/-- An LD that fires at main memory (R290). -/
theorem ld_main (h : Issues s op n) (ha : op.ta.isVec = false) (hp : op.ta.psn = false)
    (hm : AtMain (after s op) op n false ∨ BlockLoad (after s op) op n) :
    exec (.ld n) s = .next ((after s op).ldMain op n) := by
  show execLd n s = _
  rw [execLd, fireLoad_of_issues h]
  obtain ⟨⟨t, hs⟩, hhome, hchain, -⟩ | ⟨⟨r, bc, k, b, hs, -, -⟩, hlower, -⟩ := hm
  · rw [load_of_clear hp ha (lowerDone_of_tile hs) hchain, toHome_main hhome]
  · have hchain : (after s op).mayPerform op false = true := by simp only [State.mayPerform, hs]
    have hhome : (after s op).homeTile op n = none := by simp only [State.homeTile, hs]
    rw [load_of_clear hp ha hlower hchain, toHome_main hhome]

theorem overlay_of_load (hm : AtMain s op n false ∨ BlockLoad s op n) : s.overlay op n = s := by
  obtain ⟨⟨t, hs⟩, -, -, -⟩ | ⟨⟨r, bc, k, b, hs, hb, hstores⟩, -, -⟩ := hm
  · exact overlay_of_tile hs
  · exact overlay_of_empty hs hb hstores

/-- The request of a translated LD (R105, R184). -/
theorem ldMain_translated (hf : n.fmt ≠ .t6) (ht : Translated s op .read op.ta.word.toNat (n.fmt.width / 8) pa) :
    s.ldMain op n = s.overPort op n [pa] fun op n s => s.replyLoad op n
      (.scalar (loadValue n (ofBytes ((s.overlay op n).readPieces [(pa, n.fmt.width / 8)])))) := by
  rw [State.ldMain, range_of_translated (elemLen_fmt hf) ht]
  rfl

theorem overPort_lost (h : s.laneDown op (portLane op pa) pa = true) (k : Issued → Niw → State → State) :
    s.overPort op n [pa] k = s.bridgeLoss op := by
  simp [State.overPort, h]

/-- The die of the side that R184 names for a lost reply. -/
theorem otherSide_eq (d : Nat) : (if dieOf d = .w then Die.e else .w) = dieOf (1 - d) := by
  unfold dieOf
  rcases Nat.eq_zero_or_pos d with rfl | hd
  · rfl
  · have hsub : 1 - d = 0 := by omega
    rw [if_neg (Nat.pos_iff_ne_zero.1 hd), hsub]
    rfl

/-- A reply that a failed lane of the bridge loses (R184). -/
theorem overPort_unanswered (h : s.laneDown op (portLane op pa) pa = false) (hr : s.replyDown op pa = true)
    (k : Issued → Niw → State → State) : s.overPort op n [pa] k =
      (k op.unheard { n with t0 := none, t1 := none, t2 := none } s).takeFault
        ⟨0x2C0, .bridge (dieOf (1 - siteRegion op.site / 21)), 0, 0, 0, 0, false, false⟩ := by
  simp [State.overPort, h, hr, otherSide_eq]

/- LDV. -/

/-- An LDV that fires at main memory (R290). -/
theorem ldv_main (h : Issues s op n) (ha : op.ta.isVec = false) (hp : op.ta.psn = false) (hm : AtMain (after s op) op n false)
    {mask : BitVec 16} (htwo : n.ari = 2 → op.tb.isVec = false ∧ mask = op.tb.word.setWidth 16) (hall : n.ari ≠ 2 → mask = 0xFFFF) :
    exec (.ldv n) s = .next ((after s op).withPieces op n
      (((after s op).laneRanges op .read op.ta.word.toNat (maskLanes mask.toNat)).named op.ta.word) fun ls =>
        (after s op).overPort op n (ls.flatMap fun l => l.2.map (·.1)) fun op n s =>
          s.replyLoad op n (laneVector mask.toNat (ls.map fun l => (l.1, word (ofBytes (s.readPieces l.2)))))) := by
  obtain ⟨t, hs⟩ := hm.site
  show execLdv n s = _
  rw [execLdv, fireLoad_of_issues h, load_of_clear hp ha (lowerDone_of_tile hs) hm.chain]
  by_cases h2 : n.ari = 2
  · obtain ⟨hb, hmask⟩ := htwo h2
    have hari : n.ari.toNat = 2 := by rw [h2]; rfl
    have hbits : bits op.tb.word.toNat 0 16 = mask.toNat := by
      rw [hmask, BitVec.toNat_setWidth, bits, Nat.pow_zero, Nat.div_one]
    simp only [hari, hb, Bool.and_false, Bool.false_eq_true, if_false, if_true, hbits, toHome_main hm.home]
  · have hari : n.ari.toNat ≠ 2 := fun h => h2 (BitVec.eq_of_toNat_eq h)
    have hbits : (0xFFFF : Nat) = mask.toNat := by rw [hall h2]; rfl
    simp only [hari, decide_false, Bool.false_and, Bool.false_eq_true, if_false, hbits, toHome_main hm.home]

/-- A list whose entries are what a function makes of their keys. -/
theorem look_of_forall {κ α : Type} [DecidableEq κ] (f : κ → α) (k : κ) (l : List (κ × α)) (h : ∀ x ∈ l, x.2 = f x.1) :
    look k l = if k ∈ l.map (·.1) then some (f k) else none := by
  induction l with
  | nil => rfl
  | cons x l ih =>
    obtain ⟨hx, hl⟩ := List.forall_mem_cons.1 h
    obtain ⟨k', a⟩ := x
    by_cases hk : k' = k
    · subst hk
      simp only [look, if_true, List.map_cons, List.mem_cons, true_or]
      exact congrArg some hx
    · simp only [look, if_neg hk, ih hl, List.map_cons, List.mem_cons, Ne.symm hk, false_or]

theorem mem_maskLanes (mask : BitVec 16) (j : Nat) : j ∈ maskLanes mask.toNat ↔ j < 16 ∧ mask.getLsbD j = true := by
  rw [maskLanes, setBits, List.mem_filter, List.mem_range]
  rfl

/-- The lanes of a vector that a list gives by number. -/
theorem laneVector_lanes (mask : BitVec 16) (f : Nat → Word) (vs : List (Nat × Word)) (hf : ∀ x ∈ vs, x.2 = f x.1)
    (hkeys : vs.map (·.1) = maskLanes mask.toNat) {j : Nat} (hj : j < 16) :
    laneAt (laneVector mask.toNat vs) j = (if mask.getLsbD j then some (f j).toNat else none) ∧
    rawLane (laneVector mask.toNat vs) j = if mask.getLsbD j then f j else 0 := by
  have hraw : rawLane (laneVector mask.toNat vs) j = if mask.getLsbD j then f j else 0 := by
    rw [laneVector, rawLane_vector_range _ _ hj, look_of_forall f j vs hf, hkeys]
    simp only [mem_maskLanes, hj, true_and]
    split <;> rfl
  refine ⟨?_, hraw⟩
  rw [laneVector, laneAt_vector, ← laneVector, hraw, BitVec.ofNat_toNat, BitVec.setWidth_eq]
  split <;> rfl

/-- An LDV whose words are reached replies with them (R290). -/
theorem ldv_reached (h : Issues s op n) (ha : op.ta.isVec = false) (hp : op.ta.psn = false) (hm : AtMain (after s op) op n false)
    {mask : BitVec 16} (htwo : n.ari = 2 → op.tb.isVec = false ∧ mask = op.tb.word.setWidth 16) (hall : n.ari ≠ 2 → mask = 0xFFFF)
    (hhalf : op.ta.word.toNat < 2 ^ 55 ∨ 2 ^ 64 - 2 ^ 55 ≤ op.ta.word.toNat) {pas : Nat → Nat}
    (hr : ∀ j, j < 16 → mask.getLsbD j = true → Reaches (after s op) op .read (op.ta.word.toNat + 8 * j) 8 (pas j)) :
    exec (.ldv n) s = .next ((after s op).replyLoad op n (laneVector mask.toNat
      ((maskLanes mask.toNat).map fun j => (j, word (numberAt (after s op) (pas j) 8))))) := by
  have hlanes : ∀ j ∈ maskLanes mask.toNat, j < 16 ∧
      Reaches (after s op) op .read (op.ta.word.toNat + 8 * j) 8 (pas j) := by
    intro j hj
    obtain ⟨h16, hbit⟩ := (mem_maskLanes mask j).1 hj
    exact ⟨h16, hr j h16 hbit⟩
  have hranges := laneRanges_translated (fun j hj => (hlanes j hj).2.toTranslated) (fun j hj => (hlanes j hj).1) hhalf
  have hclear : ∀ pa ∈ ((maskLanes mask.toNat).map fun j => (j, [(pas j, 8)])).flatMap (fun l => l.2.map (·.1)),
      (after s op).laneDown op (portLane op pa) pa = false ∧ (after s op).replyDown op pa = false := by
    intro pa hpa
    obtain ⟨l, hl, hpa⟩ := List.mem_flatMap.1 hpa
    obtain ⟨j, hj, rfl⟩ := List.mem_map.1 hl
    obtain rfl : pa = pas j := by simpa using hpa
    exact ⟨(hlanes j hj).2.carried, (hlanes j hj).2.answered⟩
  rw [ldv_main h ha hp hm htwo hall, hranges]
  simp only [Res.named, State.withPieces, State.withParts, overPort_clear hclear, List.map_map, Function.comp_def, ofBytes_readPiece]

/- GTH. -/

/-- The index of each position (R277). -/
theorem indexList_get (v : Value) (k : Nat) : (indexList v)[k]? =
    if k < laneCount v then some ((laneAt v k).map fun l => (BitVec.ofNat 64 l).toInt) else none := by
  have hsigned (w : Word) : signedOf 64 w.toNat = (BitVec.ofNat 64 w.toNat).toInt := signedOf_eq_toInt (by decide) _
  cases v with
  | scalar w =>
    cases k with
    | zero => simp [indexList, laneCount, Value.isVec, laneAt, hsigned]
    | succ k => simp [indexList, laneCount, Value.isVec]
  | vector ls m =>
    simp only [indexList, laneCount, Value.isVec, if_true, List.getElem?_map, laneAt, hsigned]
    split
    · next hk =>
      rw [List.getElem?_range hk, Option.map_some]
      split <;> rfl
    · next hk => rw [List.getElem?_eq_none (by simpa using hk)]; rfl

/-- The elements of a gather: each position that takes part, with its address (R277). -/
def gatherElems (n : Niw) (op : Issued) : List (Nat × Int) :=
  ((indexList op.tb.val).zipIdx).filterMap fun x => x.1.map fun i => (x.2, elemAddr op.ta.word i (bits n.imm.toNat 0 6))

theorem mem_gatherElems (n : Niw) (op : Issued) (x : Nat × Int) : x ∈ gatherElems n op ↔ x.1 < laneCount op.tb.val ∧
    ∃ l, laneAt op.tb.val x.1 = some l ∧
      x.2 = (op.ta.word.toNat : Int) + (BitVec.ofNat 64 l).toInt * 2 ^ (n.imm.toNat % 64) := by
  have hsh : bits n.imm.toNat 0 6 = n.imm.toNat % 64 := by simp [bits]
  obtain ⟨k, a⟩ := x
  simp only [gatherElems, List.mem_filterMap, Prod.exists, List.mem_zipIdx_iff_getElem?, indexList_get, hsh, elemAddr]
  constructor
  · rintro ⟨i, k', hget, hx⟩
    split at hget
    · next hk =>
      obtain rfl := Option.some.inj hget
      cases hl : laneAt op.tb.val k' with
      | none => simp [hl] at hx
      | some l =>
        simp only [hl, Option.map_some, Option.some.injEq, Prod.mk.injEq] at hx
        obtain ⟨rfl, rfl⟩ := hx
        exact ⟨hk, l, hl, by push_cast; rfl⟩
    · cases hget
  · rintro ⟨hk, l, hl, rfl⟩
    exact ⟨_, k, by rw [if_pos hk, hl], by simp⟩

/-- A GTH that fires at main memory (R277). -/
theorem gth_main (h : Issues s op n) (ha : op.ta.isVec = false) (hm : AtMain (after s op) op n false) (hall : op.allTrue = true)
    (hpsn : op.poisoned = false) : exec (.gth n) s = .next ((after s op).withParts op n 0
      ((after s op).elemRanges op .read (n.fmt.width / 8) (gatherElems n op)) fun ls =>
        (after s op).overCarder op ls fun s => s.replyData op n
          (gatherVal n.fmt ((byLane ls).map fun l => (l.1, ofBytes (s.readPieces l.2)))) false) := by
  show execGth n s = _
  rw [execGth, fireLoad_of_issues h, if_neg (by simp [hall, hpsn]), if_neg (by simp [ha]), chained_of_mayPerform hm.chain,
    toHome_main hm.home, hpsn]
  rfl

/-- The Carder performs elements of which the bridge loses none (R184). -/
theorem overCarder_carried {ls : List (Nat × List (Nat × Nat))} (h : ∀ l ∈ ls, s.elemLost op l = false) (k : State → State) :
    s.overCarder op ls k = k s := by
  have hnone : ls.filter (s.elemLost op) = [] := List.filter_eq_nil_iff.2 fun l hl => by simp [h l hl]
  simp only [State.overCarder, hnone]

/-- A GTH whose elements are reached replies with what it read at each position (R277). -/
theorem gth_reached (h : Issues s op n) (ha : op.ta.isVec = false) (hm : AtMain (after s op) op n false) (hall : op.allTrue = true)
    (hpsn : op.poisoned = false) {pas : Nat → Nat}
    (hr : ∀ x ∈ gatherElems n op, 0 ≤ x.2 ∧ ByCarder (after s op) op .read x.2.toNat (n.fmt.width / 8) (pas x.1)) :
    ∃ es : List (Nat × Nat), exec (.gth n) s = .next ((after s op).replyData op n (gatherVal n.fmt es) false) ∧
      (∀ x ∈ es, x.2 = numberAt (after s op) (pas x.1) (n.fmt.width / 8)) ∧
      ∀ k, k ∈ es.map (·.1) ↔ k ∈ (gatherElems n op).map (·.1) := by
  have hlen := elemLen_fmt hm.format
  set ls := (gatherElems n op).map fun x => (x.1, [(pas x.1, n.fmt.width / 8)]) with hls
  have hranges := elemRanges_translated hlen fun x hx => ⟨(hr x hx).1, (hr x hx).2.toTranslated⟩
  have hlost : ∀ l ∈ ls, (after s op).elemLost op l = false := by
    intro l hl
    obtain ⟨x, hx, rfl⟩ := List.mem_map.1 hl
    simp [State.elemLost, (hr x hx).2.carried]
  have hperm : (byLane ls).Perm ls := perm_sortBy ..
  refine ⟨(byLane ls).map fun l => (l.1, ofBytes ((after s op).readPieces l.2)), ?_, ?_, fun k => ?_⟩
  · rw [gth_main h ha hm hall hpsn, hranges, State.withParts, overCarder_carried hlost]
  · intro y hy
    obtain ⟨l, hl, rfl⟩ := List.mem_map.1 hy
    obtain ⟨x, -, rfl⟩ := List.mem_map.1 (hperm.mem_iff.1 hl)
    exact ofBytes_readPiece ..
  · rw [List.map_map, (hperm.map _).mem_iff, hls, List.map_map]
    rfl

/-- The elements of a gathered value (R277, log 24). -/
theorem gatherVal_elems (f : Fmt) (es : List (Nat × Nat)) (g : Nat → Nat) (h : ∀ x ∈ es, x.2 = g x.1) {k : Nat} (hk : k < 16) :
    (k ∈ es.map (·.1) → elemAt f (rawLane (gatherVal f es) (k / f.perLane)).toNat (k % f.perLane) = BitVec.ofNat f.width (g k) ∧
      (laneAt (gatherVal f es) (k / f.perLane)).isSome = true) ∧
    (k ∉ es.map (·.1) → elemAt f (rawLane (gatherVal f es) (k / f.perLane)).toNat (k % f.perLane) = 0) := by
  have hper := perLane_pos f
  have hlane : k / f.perLane < 16 := Nat.lt_of_le_of_lt (Nat.div_le_self ..) hk
  obtain ⟨hsome, helem⟩ := packLanes_lanes f ((List.range 16).map fun k => look k es) hlane
  have hget : ((((List.range 16).map fun k => look k es)[k]?).getD none) = if k ∈ es.map (·.1) then some (g k) else none := by
    rw [List.getElem?_map, List.getElem?_range hk, ← look_of_forall g k es h]
    rfl
  have helem := helem (k % f.perLane) (Nat.mod_lt _ hper)
  rw [Nat.div_add_mod, hget] at helem
  constructor
  · intro hmem
    rw [if_pos hmem] at helem
    refine ⟨BitVec.eq_of_toNat_eq (helem.trans (BitVec.toNat_ofNat ..).symm), hsome.2 ⟨k, rfl, ?_⟩⟩
    rw [hget, if_pos hmem]
    rfl
  · intro hmem
    rw [if_neg hmem] at helem
    exact BitVec.eq_of_toNat_eq (helem.trans (Nat.zero_mod _))

/-- Settles O22, by the way of each load to its translated pieces and what stands in them. -/
theorem loadsFromMain : Obligations.LoadsFromMain := by
  intro s op n h ha hp
  refine ⟨fun pa hm hr => ?_, fun pa hm ht hdown => ?_, fun pa hm ht hup hdown => ?_, ?_, ?_⟩
  · have hf : n.fmt ≠ .t6 := hm.elim (·.format) (·.format)
    refine repliesFused_of_replyData ?_
    rw [ld_main h ha hp hm, ldMain_translated hf hr.toTranslated, overPort_reached hr, State.replyLoad,
      overlay_of_load hm, ofBytes_readPiece, loadValue_eq]
  · rw [ld_main h ha hp (.inl hm), ldMain_translated hm.format ht, overPort_lost hdown]
    rfl
  · refine ⟨_, fun x => ?_, by rw [ld_main h ha hp (.inl hm), ldMain_translated hm.format ht, overPort_unanswered hup hdown]⟩
    exact congrArg (fun m => cellGet m.1 x) (memOf_replyData ..)
  · intro mask pas hm htwo hall hhalf hr
    refine ⟨_, repliesFused_of_replyData (ldv_reached h ha hp hm htwo hall hhalf hr), rfl, fun j hj => ?_⟩
    obtain ⟨hlane, hraw⟩ := laneVector_lanes mask (fun j => word (numberAt (after s op) (pas j) 8))
      ((maskLanes mask.toNat).map fun j => (j, word (numberAt (after s op) (pas j) 8)))
      (fun x hx => by obtain ⟨i, -, rfl⟩ := List.mem_map.1 hx; rfl) (by simp [Function.comp_def]) hj
    refine ⟨fun hset => ?_, fun hclear => ?_⟩
    · rw [hlane, if_pos hset, toNat_word, Nat.mod_eq_of_lt (numberAt_word_lt ..)]
    · exact ⟨by rw [hlane, hclear]; rfl, by rw [hraw, hclear]; rfl⟩
  · intro pas hm hall hpsn address hr
    have hreach : ∀ x ∈ gatherElems n op, 0 ≤ x.2 ∧ ByCarder (after s op) op .read x.2.toNat (n.fmt.width / 8) (pas x.1) := by
      intro x hx
      obtain ⟨hk, l, hl, hx⟩ := (mem_gatherElems n op x).1 hx
      rw [hx]
      exact hr x.1 l hk hl
    obtain ⟨es, hexec, hval, hkeys⟩ := gth_reached h ha hm hall hpsn hreach
    refine ⟨_, repliesFused_of_replyData hexec, rfl, fun k hk => ?_⟩
    have h16 : k < 16 := Nat.lt_of_lt_of_le hk (by unfold laneCount; split <;> decide)
    obtain ⟨hin, hout⟩ := gatherVal_elems n.fmt es (fun k => numberAt (after s op) (pas k) (n.fmt.width / 8)) hval h16
    have hmem : k ∈ es.map (·.1) ↔ (laneAt op.tb.val k).isSome = true := by
      rw [hkeys, List.mem_map, Option.isSome_iff_exists]
      constructor
      · rintro ⟨x, hx, rfl⟩
        obtain ⟨-, l, hl, -⟩ := (mem_gatherElems n op x).1 hx
        exact ⟨l, hl⟩
      · rintro ⟨l, hl⟩
        exact ⟨(k, _), (mem_gatherElems n op (k, _)).2 ⟨hk, l, hl, rfl⟩, rfl⟩
    refine ⟨fun hl => hin (hmem.2 hl), fun hl => hout fun hk => ?_⟩
    have hsome := hmem.1 hk
    rw [hl] at hsome
    cases hsome

end Sys2Proof.Proofs
end

section

/-!
SUPPORT. The page table as a walk reads it and as the pager writes it (R120, R123).
-/

namespace Sys2Proof.Proofs

open Sys2Proof Sys2Proof.Machine Sys2Proof.Claims

variable {s u : State}

/- Walks. -/

/-- An entry of an upper level goes on to the next table (R120). -/
theorem walkEntry_table {level low va t : Nat} {w : Word} (hw : w.toNat = t + 1) (ht : t % 2 ^ 12 = 0 ∧ t < 2 ^ 39)
    (hl : level ≠ 0) : walkEntry s level low va w = .inr t := by
  obtain ⟨hal, hlt⟩ := ht
  have hbase : leafBase w = t := by simp only [leafBase, bits, hw]; omega
  have h0 : w.toNat.testBit 0 = true := by simp only [Nat.testBit_zero, hw, decide_eq_true_eq]; omega
  have h1 : w.toNat.testBit 1 = false := by
    simp only [Nat.testBit_eq_decide_div_mod_eq, hw, decide_eq_false_iff_not]; omega
  have h9 : w.toNat.testBit 9 = false := by
    simp only [Nat.testBit_eq_decide_div_mod_eq, hw, decide_eq_false_iff_not]; omega
  have hreserved : bits w.toNat 10 2 = 0 := by simp only [bits, hw]; omega
  have hrun : bits w.toNat 2 3 = 0 := by simp only [bits, hw]; omega
  simp [walkEntry, h0, h1, h9, hreserved, hrun, hbase, hl, runBad, inTier1]
  omega

theorem walkFrom_table {level low n va table t : Nat} {ls : List (Nat × Nat × Nat)}
    (hw : (s.wordAt (table + 8 * (va / 2 ^ low % 2 ^ n))).toNat = t + 1) (ht : t % 2 ^ 12 = 0 ∧ t < 2 ^ 39) (hl : level ≠ 0) :
    walkFrom s va ((level, low, n) :: ls) table = walkFrom s va ls t := by
  simp only [walkFrom, bits, walkEntry_table hw ht hl]

/-- A leaf of one page in tier 1 ends the walk (R120). -/
theorem walkEntry_leaf {va : Nat} {w : Word} (h : w.toNat % 2 ^ 5 = 3 ∧ w.toNat / 2 ^ 9 % 2 ^ 3 = 0 ∧ leafBase w + 4096 ≤ 2 ^ 39) :
    walkEntry s 0 12 va w = .inl (.page (va / 4096 * 4096) 4096 w) := by
  obtain ⟨hlow, hhigh, hbase⟩ := h
  have h0 : w.toNat.testBit 0 = true := by simp only [Nat.testBit_zero, decide_eq_true_eq]; omega
  have h1 : w.toNat.testBit 1 = true := by simp only [Nat.testBit_eq_decide_div_mod_eq, decide_eq_true_eq]; omega
  have h9 : w.toNat.testBit 9 = false := by simp only [Nat.testBit_eq_decide_div_mod_eq, decide_eq_false_iff_not]; omega
  have hreserved : bits w.toNat 10 2 = 0 := by simp only [bits]; omega
  have hrun : bits w.toNat 2 3 = 0 := by simp only [bits]; omega
  have hal : leafBase w % 4096 = 0 := by simp only [leafBase]; omega
  simp [walkEntry, h0, h1, h9, hreserved, hrun, runOf, hal]
  omega

/-- Five entries, of which the last is a leaf of one page (R120). -/
theorem walk_smallPage {root va : Nat} {leaf : Word} (h : SmallPage s root va leaf) :
    s.walk root va = .page (va / 4096 * 4096) 4096 leaf := by
  obtain ⟨hroot, ⟨t4, t3, t2, t1, h4, h3, h2, h1, h0, ht⟩, hleaf⟩ := h
  simp only [List.mem_cons, List.not_mem_nil, or_false, forall_eq_or_imp, forall_eq] at ht
  obtain ⟨ht4, ht3, ht2, ht1⟩ := ht
  have hin : inTier1 root = true := decide_eq_true hroot
  rw [State.walk, hin, Bool.not_true, if_neg Bool.false_ne_true, walkFrom_table h4 ht4 (by decide),
    walkFrom_table h3 ht3 (by decide), walkFrom_table h2 ht2 (by decide), walkFrom_table h1 ht1 (by decide)]
  simp only [walkFrom, bits, h0, walkEntry_leaf hleaf]

/- The words that the pager writes. -/

/-- The fields of a leaf that the pager makes present (R120, R123). -/
theorem leafWord_fields (w : Word) (tier2 : Bool) (frame : Nat) (h : w.toNat / 2 ^ 2 % 2 ^ 3 = 0) :
    let v := (leafWord w tier2 frame).toNat
    v % 4 = 3 ∧ v / 2 ^ 12 % 2 ^ 40 = frame / 4096 % 2 ^ 40 ∧
      v / 2 ^ 5 % 2 ^ 4 = w.toNat / 2 ^ 5 % 2 ^ 4 ∧ v.testBit 9 = tier2 := by
  have hv : (leafWord w tier2 frame).toNat = (w.toNat / 2 ^ 52 % 2 ^ 8 * 2 ^ 52 + frame / 4096 * 4096 + tier2.toNat * 2 ^ 9
      + w.toNat / 2 ^ 5 % 2 ^ 4 * 2 ^ 5 + 3) % 2 ^ 64 := by
    simp only [leafWord, toNat_word, bits, h, Nat.zero_mul, Nat.add_zero]
  simp only [hv, Nat.testBit_eq_decide_div_mod_eq]
  cases tier2 <;> simp only [Bool.toNat_true, Bool.toNat_false, decide_eq_true_eq, decide_eq_false_iff_not] <;>
    refine ⟨?_, ?_, ?_, ?_⟩ <;> omega

/-- The fields of a leaf of a page in transit (R120, R123). -/
theorem transitWord_fields (w : Word) : let v := (transitWord w).toNat
    v % 2 = 0 ∧ v / 2 ^ 60 = 2 ∧ ∀ i, 1 ≤ i → i < 60 → v.testBit i = w.getLsbD i := by
  have hv : (transitWord w).toNat = w.toNat / 2 ^ 1 % 2 ^ 59 * 2 + 2 ^ 61 := by
    rw [transitWord, toNat_word, bits, Nat.mod_eq_of_lt (by omega)]
  simp only [hv]
  refine ⟨by omega, by omega, fun i h1 h60 => ?_⟩
  obtain ⟨j, rfl⟩ : ∃ j, i = j + 1 := ⟨i - 1, by omega⟩
  have hsum : w.toNat / 2 ^ 1 % 2 ^ 59 * 2 + 2 ^ 61 = 2 * (w.toNat / 2 ^ 1 % 2 ^ 59 + 2 ^ 60) := by omega
  have hhigh : (2 ^ 60 : Nat) = 2 ^ 59 * 2 := by decide
  rw [hsum, Nat.testBit_succ, Nat.mul_div_cancel_left _ (by decide), BitVec.getLsbD, Nat.testBit_succ, Nat.pow_one]
  generalize w.toNat / 2 = y
  rw [hhigh, Nat.add_comm, Nat.mul_comm, Nat.mul_comm, Nat.testBit_two_pow_mul_add _ (Nat.mod_lt _ (by decide)), if_pos (by omega),
    Nat.testBit_mod_two_pow, decide_eq_true (by omega), Bool.true_and]

theorem byteAt_of_main (h : u.main = s.main) (x : Nat) : u.byteAt x = s.byteAt x := by
  rw [State.byteAt, h]
  rfl

theorem wordAt_of_main (h : u.main = s.main) (x : Nat) : u.wordAt x = s.wordAt x := by
  rw [State.wordAt, State.readMain, h]
  rfl

/-- The word that a write of its eight bytes leaves. -/
theorem wordAt_written {pa : Nat} (w : Word) (hwf : cellsWf s.main.cells = true)
    (hu : u.main.cells = cellsPut s.main.cells pa (bytesOf 8 w.toNat)) : u.wordAt pa = w := by
  have hlen : (bytesOf 8 w.toNat).length = 8 := length_bytesOf ..
  have hread : u.readMain pa 8 = bytesOf 8 w.toNat := by
    have hget := cellsGet_cellsPut s.main.cells pa (bytesOf 8 w.toNat) hwf
    rw [hlen] at hget
    rw [State.readMain, hu, hget]
  rw [State.wordAt, hread, ofBytes_bytesOf, Nat.mod_eq_of_lt (by simpa using w.isLt), word_toNat]

/-- Every other byte stays. -/
theorem byteAt_outside {pa x : Nat} (w : Word) (hwf : cellsWf s.main.cells = true)
    (hu : u.main.cells = cellsPut s.main.cells pa (bytesOf 8 w.toNat)) (hx : x < pa ∨ pa + 8 ≤ x) : u.byteAt x = s.byteAt x := by
  rw [State.byteAt, hu, cellGet_cellsPut_outside _ _ _ _ hwf (by rw [length_bytesOf]; exact hx)]
  rfl

/-- A leaf of one entry is written where it stands (R120). -/
theorem cells_writeLeaf {pa : Nat} (h : pa % 8 = 0) (w : Word) :
    (s.writeLeaf pa 1 w).main.cells = cellsPut s.main.cells pa (bytesOf 8 w.toNat) := by
  simp [State.writeLeaf, List.range_succ, Nat.div_mul_cancel (Nat.dvd_of_mod_eq_zero h)]

end Sys2Proof.Proofs
end

section

/-!
Invalidation (R125, R339): XLINV takes translations out of the caches of the regions that it names, and nothing else changes
where no generator of its context stands.
-/

namespace Sys2Proof.Proofs

open Sys2Proof Sys2Proof.Machine Sys2Proof.Claims

variable {s : State} {op : Issued} {n : Niw}

/- The caches. -/

/-- The state without the translations of a context over a range in the caches of some regions. -/
def withoutPages (s : State) (num base len : Nat) (rs : List Nat) : State :=
  rs.foldl (fun s r => s.invalidate r num base len) s

/-- Nothing but the caches changes. -/
theorem withoutPages_eq (num base len : Nat) (rs : List Nat) : ∀ s : State,
    withoutPages s num base len rs = { s with regions := (withoutPages s num base len rs).regions } := by
  induction rs with
  | nil => exact fun _ => rfl
  | cons r rs ih => exact fun s => ih (s.invalidate r num base len)

theorem pager_withoutPages (num base len : Nat) (rs : List Nat) : (withoutPages s num base len rs).pager = s.pager := by
  rw [withoutPages_eq]

theorem main_withoutPages (num base len : Nat) (rs : List Nat) : (withoutPages s num base len rs).main = s.main := by
  rw [withoutPages_eq]

theorem tc_invalidate (r k num base len : Nat) (e : TcEntry) : e ∈ ((s.invalidate r num base len).region k).tc ↔
    e ∈ (s.region k).tc ∧ (k = r → ¬ (e.ctx = num ∧ e.base < base + len ∧ base < e.base + e.size)) := by
  rw [State.invalidate, State.region_setRegion]
  split
  · next h =>
    subst h
    simp only [List.mem_filter, spansMeet, Bool.not_eq_true', Bool.and_eq_false_iff, decide_eq_false_iff_not, forall_const]
    tauto
  · next h => simp [h]

/-- The caches that a region keeps, by region. -/
theorem tc_withoutPages (k num base len : Nat) (e : TcEntry) (rs : List Nat) : ∀ s : State,
    (e ∈ ((withoutPages s num base len rs).region k).tc ↔
      e ∈ (s.region k).tc ∧ (k ∈ rs → ¬ (e.ctx = num ∧ e.base < base + len ∧ base < e.base + e.size))) := by
  induction rs with
  | nil => intro s; simp [withoutPages]
  | cons r rs ih =>
    intro s
    rw [withoutPages, List.foldl_cons, ← withoutPages, ih, tc_invalidate, List.mem_cons, and_assoc, or_imp]

/-- What has not been performed yet is told without the caches (R125, R136). -/
theorem unperformed_withoutPages (num base len : Nat) (rs ps : List Nat) :
    (withoutPages s num base len rs).unperformed num base len ps = s.unperformed num base len ps := by
  rw [withoutPages_eq]
  rfl

/- Generators. -/

/-- A key's value stands in the list. -/
theorem mem_of_look {κ α : Type} [DecidableEq κ] {k : κ} {a : α} {l : List (κ × α)} (h : look k l = some a) : (k, a) ∈ l := by
  induction l with
  | nil => cases h
  | cons x l ih =>
    obtain ⟨k', b⟩ := x
    by_cases hk : k' = k
    · simp_all [look]
    · exact List.mem_cons_of_mem _ (ih (by simpa [look, hk] using h))

/-- No memory tile has a plane of the context. -/
def Unplanned (s : State) (num : Nat) : Prop :=
  ∀ t p, (s.mtile t).active = some p ∨ (s.mtile t).shadow = some p → p.ctx ≠ num

theorem unplanned_of_listed {num : Nat} (h : ∀ m ∈ s.mtiles, ∀ p, m.2.active = some p ∨ m.2.shadow = some p → p.ctx ≠ num) :
    Unplanned s num := by
  intro t p hp
  cases hm : look t s.mtiles with
  | none => simp [State.mtile, lookD, hm, MTile.reset] at hp
  | some m =>
    refine h (t, m) (mem_of_look hm) p ?_
    simpa [State.mtile, lookD, hm] using hp

theorem unplanned_of_mtiles {u : State} {num : Nat} (hu : u.mtiles = s.mtiles) (h : Unplanned s num) : Unplanned u num := by
  intro t
  have := h t
  rwa [State.mtile, ← hu] at this

theorem unplanned_withoutPages {num k : Nat} (base len : Nat) (rs : List Nat) (h : Unplanned s k) :
    Unplanned (withoutPages s num base len rs) k := by
  rw [withoutPages_eq]
  exact h

theorem repatchActive_unplanned {c : Ctx} (h : Unplanned s c.num) (t : TileId) (base len : Nat) :
    s.repatchActive c t base len = (none, s) := by
  have hany : (s.mtile t).active.any (·.ctx = c.num) = false := by
    cases hp : (s.mtile t).active with
    | none => rfl
    | some p => simpa using h t p (.inl hp)
  simp only [State.repatchActive, hany, Bool.false_eq_true, if_false]

theorem repatchShadow_unplanned {c : Ctx} (h : Unplanned s c.num) (t : TileId) (base len : Nat) :
    s.repatchShadow c t base len = (none, s) := by
  cases hp : (s.mtile t).shadow with
  | none => simp only [State.repatchShadow, hp]
  | some p => simp only [State.repatchShadow, hp, if_pos (h t p (.inr hp))]

theorem repatchRegion_unplanned {c : Ctx} (h : Unplanned s c.num) (r base len : Nat) :
    s.repatchRegion c r base len = (none, s) := by
  unfold State.repatchRegion
  induction tilesOf r with
  | nil => rfl
  | cons t ts ih =>
    rw [List.foldl_cons]
    simp only [repatchActive_unplanned h, repatchShadow_unplanned h]
    exact ih

/-- A context without memory planes has no generator to patch (R125). -/
theorem repatchAll_unplanned {c : Ctx} (h : Unplanned s c.num) (base len : Nat) (rs : List Nat) :
    s.repatchAll c base len rs = (none, s) := by
  induction rs with
  | nil => rfl
  | cons r rs ih =>
    simp only [State.repatchAll, repatchRegion_unplanned h, ih]
    rfl

/-- The generators of a context number over a range, patched again, where the context is there (R125). -/
def patched (s : State) (num base len : Nat) (rs : List Nat) : Option Nat × State :=
  match s.ctx? num with
  | some c => s.repatchAll c base len rs
  | none => (none, s)

theorem patched_unplanned {num : Nat} (h : Unplanned s num) (base len : Nat) (rs : List Nat) :
    patched s num base len rs = (none, s) := by
  unfold patched
  split
  · next c hctx =>
    obtain ⟨⟨hnum, -⟩, -⟩ : (c.num = num ∧ _) ∧ _ := by simpa using List.find?_some hctx
    exact repatchAll_unplanned (hnum ▸ h) base len rs
  · rfl

/- XLINV. -/

/-- Without a scatter none goes on (R318). -/
theorem resumeScatters_of_none (h : s.scatters = []) (num base len : Nat) : s.resumeScatters num base len = s := by
  have hsame : { s with scatters := [] } = s := by rw [← h]
  simp only [State.resumeScatters, h, List.filter_nil, List.foldl_nil, hsame]

section
variable (h : Issues s op n) (ha : op.ta.isVec = false) (hb : op.tb.isVec = false) (hc : op.tc.isVec = false)
include h ha hb hc

theorem xlinv_refused {cause : Nat} (hcause : (after s op).xlinvCause op = some cause) : Faults (.xlinv n) s op cause := by
  show execXlinv n s = _
  rw [execXlinv, fire_of_issues h, scalars_of_all (by simp [ha, hb, hc])]
  simp only [hcause]

/-- An XLINV that is not refused takes translations out, patches, and then waits or completes (R125). -/
theorem xlinv_taken (hcause : (after s op).xlinvCause op = none) :
    let num := op.tc.word.toNat / 2 ^ 52
    let base := op.ta.word.toNat
    let len := op.tb.word.toNat
    let rs := regionsOf (op.tc.word.toNat % 2 ^ 42)
    let r := patched (withoutPages (after s op) num base len rs) num base len rs
    exec (.xlinv n) s = .next (if r.1.isSome || r.2.unperformed num base len rs then r.2.hold op .transit
      else (r.2.resumeScatters num base len).emitWord op n (completion 1 .whole false 0) true) := by
  have hnum : bits op.tc.word.toNat 52 12 = op.tc.word.toNat / 2 ^ 52 := bits_high _ 52 (by decide)
  have hset : bits op.tc.word.toNat 0 42 = op.tc.word.toNat % 2 ^ 42 := bits_zero ..
  show execXlinv n s = _
  rw [execXlinv, fire_of_issues h, scalars_of_all (by simp [ha, hb, hc])]
  simp only [hcause, hnum, hset]
  rfl

/-- That of a context without memory planes (R125). -/
theorem xlinv_unplanned (hcause : (after s op).xlinvCause op = none)
    (hplane : Unplanned (after s op) (op.tc.word.toNat / 2 ^ 52)) (hscat : (after s op).scatters = []) :
    let num := op.tc.word.toNat / 2 ^ 52
    let base := op.ta.word.toNat
    let len := op.tb.word.toNat
    let rs := regionsOf (op.tc.word.toNat % 2 ^ 42)
    let v := withoutPages (after s op) num base len rs
    exec (.xlinv n) s = .next (if (after s op).unperformed num base len rs then v.hold op .transit
      else emitsWord v op n (word (1 + 3 * 2 ^ 32)) true) := by
  intro num base len rs v
  have hv : v.scatters = [] := by
    show (withoutPages ..).scatters = []
    rw [withoutPages_eq]
    exact hscat
  rw [xlinv_taken h ha hb hc hcause, patched_unplanned (unplanned_withoutPages base len rs hplane), unperformed_withoutPages,
    resumeScatters_of_none hv]
  rfl

end

/-- What refuses an XLINV over a range of the low half (R339). -/
theorem xlinvCause_low (hset : op.tc.word.toNat % 2 ^ 42 ≠ 0) (hlen : 0 < op.tb.word.toNat)
    (hmiddle : op.tc.word.toNat / 2 ^ 42 % 2 ^ 10 = 0) (hend : op.ta.word.toNat + op.tb.word.toNat ≤ 2 ^ 55) :
    s.xlinvCause op = if op.tc.word.toNat / 2 ^ 52 ≠ op.ctx ∧ s.isSystem op.ctx = false then some 0x103 else none := by
  have hnum : bits op.tc.word.toNat 52 12 = op.tc.word.toNat / 2 ^ 52 := bits_high _ 52 (by decide)
  have htop : bits op.ta.word.toNat 55 9 = 0 := by simp only [bits]; omega
  have hfirst : ¬ (op.tc.word.toNat / 2 ^ 42 % 2 ^ 10 ≠ 0 ∨ op.tc.word.toNat % 2 ^ 42 = 0 ∨ op.tb.word.toNat = 0) := by omega
  simp only [State.xlinvCause, htop, hnum]
  simp only [bits, Nat.pow_zero, Nat.div_one, if_neg hfirst]
  rw [if_neg (by omega), if_neg (by omega)]
  simp

theorem xlinvCause_shape (h : op.tc.word.toNat % 2 ^ 42 = 0 ∨ op.tb.word.toNat = 0 ∨ op.tc.word.toNat / 2 ^ 42 % 2 ^ 10 ≠ 0) :
    s.xlinvCause op = some 0x041 := by
  have hfirst : op.tc.word.toNat / 2 ^ 42 % 2 ^ 10 ≠ 0 ∨ op.tc.word.toNat % 2 ^ 42 = 0 ∨ op.tb.word.toNat = 0 := by omega
  simp only [State.xlinvCause, bits, Nat.pow_zero, Nat.div_one, if_pos hfirst]

/-- No access of the context waits (R125, R136). -/
theorem unperformed_of_none {num : Nat} (hreds : ∀ r ∈ s.reds, ∀ l ∈ r.leaves, l.op.ctx ≠ num)
    (hreaders : ∀ r ∈ s.main.readers, r.2.ctx ≠ num) (base len : Nat) (rs : List Nat) : s.unperformed num base len rs = false := by
  unfold State.unperformed
  split
  · rfl
  · simp only [Bool.or_eq_false_iff, List.any_eq_false]
    refine ⟨fun r hr => ?_, fun r hr => by simp [hreaders r hr]⟩
    simp only [Bool.and_eq_true, not_and, List.any_eq_true, not_exists]
    intro _ l hl
    simp [hreds r hr l hl]

theorem invalidation : Claims.Invalidation := by
  intro s op n h ha hb hc
  refine ⟨fun hshape => xlinv_refused h ha hb hc (xlinvCause_shape hshape), fun hset hlen hmiddle hend =>
    ⟨fun hnum hsys => ?_, fun hmay hplane hscat => ?_⟩⟩
  · exact xlinv_refused h ha hb hc ((xlinvCause_low hset hlen hmiddle hend).trans (if_pos ⟨hnum, hsys⟩))
  · have hcause : (after s op).xlinvCause op = none := by
      rw [xlinvCause_low hset hlen hmiddle hend, if_neg]
      rintro ⟨hnum, hsys⟩
      obtain heq | hsystem := hmay
      · exact hnum heq
      · exact absurd hsystem (by simp [hsys])
    have hexec := xlinv_unplanned h ha hb hc hcause (unplanned_of_listed hplane) hscat
    refine ⟨withoutPages (after s op) (op.tc.word.toNat / 2 ^ 52) op.ta.word.toNat op.tb.word.toNat
      (regionsOf (op.tc.word.toNat % 2 ^ 42)), fun hreds hreaders => ?_, fun hwait => ?_, fun r e hr => ?_, ?_⟩
    · rw [hexec, unperformed_of_none hreds hreaders, if_neg Bool.false_ne_true]
    · exact hexec.trans (congrArg _ (if_pos hwait))
    · rw [tc_withoutPages, mem_regionsOf]
      simp only [hr, true_and]
    · rw [withoutPages_eq]
      exact ⟨rfl, rfl, rfl⟩

end Sys2Proof.Proofs
end

section

/-!
The region memory ports on a miss (R120, R122): the walk of the first access that missed, and the parked access that issues again.
-/

namespace Sys2Proof.Proofs

open Sys2Proof Sys2Proof.Machine Sys2Proof.Claims

variable {s : State} {op : Issued} {r va : Nat} {rest : List (Issued × Nat)} {c : Ctx}

/- PAGE_WALK. -/

/-- The state in which the first access that missed has left its queue. -/
def walkTaken (s : State) (r : Nat) (rest : List (Issued × Nat)) : State := s.setRegion r { s.region r with walks := rest }

section
variable (hidle : s.issue = none) (hwalks : (s.region r).walks = (op, va) :: rest) (hctx : s.ctx? op.ctx = some c)
include hidle hwalks hctx

/-- An access whose page the table gives runs again, its translation in the cache (R120, R122). -/
theorem pageWalk_page {base size : Nat} {leaf : Word} (hw : s.walk c.root va = .page base size leaf) :
    exec (.pageWalk r) s = .next { (walkTaken s r rest).tcFill r op.ctx base size leaf with issue := some op } := by
  have htaken : (walkTaken s r rest).walk c.root va = .page base size leaf := hw
  show execPageWalk r s = _
  rw [walkTaken] at htaken ⊢
  simp only [execPageWalk, hidle, hwalks, State.setRegion_ctx_opt, hctx, htaken]

/-- An access that the table refuses runs again with the fault (R120, R122). -/
theorem pageWalk_fault {k : Nat} (hw : s.walk c.root va = .fault k) :
    exec (.pageWalk r) s = .next { walkTaken s r rest with issue := some { op with walk := some (k, va) } } := by
  have htaken : (walkTaken s r rest).walk c.root va = .fault k := hw
  show execPageWalk r s = _
  rw [walkTaken] at htaken ⊢
  simp only [execPageWalk, hidle, hwalks, State.setRegion_ctx_opt, hctx, htaken]

/-- An access whose page is not present parks (R122). -/
theorem pageWalk_park (hw : s.walk c.root va = .park) : exec (.pageWalk r) s = .next ((walkTaken s r rest).parkOp r op va) := by
  have htaken : (walkTaken s r rest).walk c.root va = .park := hw
  show execPageWalk r s = _
  rw [walkTaken] at htaken ⊢
  simp only [execPageWalk, hidle, hwalks, State.setRegion_ctx_opt, hctx, htaken]

end

/-- The translation stands in the cache once it is filled (R122). -/
theorem tcFill_eq (s : State) (r ctx base size : Nat) (leaf : Word) : ∃ l : List TcEntry,
    s.tcFill r ctx base size leaf = s.setRegion r { s.region r with tc := l ++ [⟨ctx, base, size, leaf⟩] } := ⟨_, rfl⟩

/-- A flit of one word group, to a corner of a die, is one flit that names it (R70, R122). -/
theorem flit_toPager (d : Die) (data : BitVec 256) (cargo : Cargo) :
    Flit.typ ⟨flitCtl ⟨d, 0, 0⟩ 0 0 0 4, data, cargo⟩ = 4 ∧ Flit.dst ⟨flitCtl ⟨d, 0, 0⟩ 0 0 0 4, data, cargo⟩ = ⟨d, 0, 0⟩ := by
  simp only [Flit.typ, Flit.dst]
  cases d <;> decide

/-- A fault flit sets out for the pager corner, where none is under way for the page (R122). -/
theorem askPager_new {ctx : Nat} (h : ∀ f ∈ s.pageFaults, f.ctx = ctx → f.va ≠ va) : ∃ data : BitVec 256,
    s.askPager ctx va r = s.setCtile (firstTile r) { s.ctile (firstTile r) with
      inject := (s.ctile (firstTile r)).inject ++
        [⟨flitCtl ⟨dieOf (r / 21), 0, 0⟩ 0 0 0 4, data, .fault ⟨ctx, va, r, false⟩⟩] } := by
  have hnone : (s.pageFaults.any fun f => f.ctx = ctx && f.va = va) = false :=
    List.any_eq_false.2 fun f hf => by simpa using h f hf
  refine ⟨BitVec.ofNat 256 (ofBytes (wordBytes [word (ctx + r * 2 ^ 16), word va])), ?_⟩
  rw [State.askPager, hnone, if_neg Bool.false_ne_true]
  rfl

/-- An instruction of a block parks without an entry (R122). -/
theorem parkOp_block {q bc k : Nat} (hs : op.site = .block q bc k) : s.parkOp r op va =
    (s.setRegion r { s.region r with parked := (s.region r).parked ++ [⟨op, va, false⟩] }).askPager op.ctx va r := by
  simp only [State.parkOp, State.reenter, hs]

theorem die_of_region (h : r < 42) : dieOf (r / 21) = if r < 21 then .w else .e := by
  unfold dieOf
  by_cases hr : r < 21
  · rw [if_pos (by omega), if_pos hr]
  · rw [if_neg (by omega), if_neg hr]

/- PARKED_ACCESS_REISSUE. -/

theorem mem_of_leastBy {α : Type} {lt : α → α → Bool} {b : α} (l : List α) (h : leastBy lt l = some b) : b ∈ l := by
  induction l generalizing b with
  | nil => cases h
  | cons a l ih =>
    rw [leastBy] at h
    cases hl : leastBy lt l with
    | none =>
      simp only [hl, Option.some.injEq] at h
      exact h ▸ List.mem_cons_self
    | some x =>
      simp only [hl] at h
      split at h
      · exact List.mem_cons_of_mem _ (Option.some.inj h ▸ ih hl)
      · exact Option.some.inj h ▸ List.mem_cons_self

/-- The element that comes before every other is the least. -/
theorem leastBy_of_before {α : Type} {lt : α → α → Bool} {x : α} {r : List α} (l : List α)
    (h : ∀ y ∈ l ++ r, lt x y = true ∧ lt y x = false) : leastBy lt (l ++ x :: r) = some x := by
  induction l with
  | nil =>
    rw [List.nil_append, leastBy]
    cases hr : leastBy lt r with
    | none => rfl
    | some b =>
      obtain ⟨-, hb⟩ := h b (mem_of_leastBy r hr)
      simp only [hb, Bool.false_eq_true, if_false]
  | cons a l ih =>
    obtain ⟨⟨ha, -⟩, hl⟩ := List.forall_mem_cons.1 h
    rw [List.cons_append, leastBy, ih hl]
    simp only [ha, if_true]

/-- The least element that meets a test leaves a list in which it stands before every other one that meets it. -/
theorem takeLeast_of_before {α : Type} [DecidableEq α] {lt : α → α → Bool} {p : α → Bool} {x : α} {l l' : List α} (hx : p x = true)
    (h : ∀ y ∈ l ++ l', p y = true → lt x y = true ∧ lt y x = false) : takeLeast lt p (l ++ x :: l') = some (x, l ++ l') := by
  have hleast : leastBy lt ((l ++ x :: l').filter p) = some x := by
    rw [List.filter_append, List.filter_cons_of_pos hx]
    refine leastBy_of_before _ fun y hy => ?_
    rw [← List.filter_append, List.mem_filter] at hy
    exact h y hy.1 hy.2
  have hother : ∀ y ∈ l, decide (y = x) = false := by
    intro y hy
    rw [decide_eq_false_iff_not]
    rintro rfl
    obtain ⟨hlt, hge⟩ := h y (List.mem_append_left _ hy) hx
    rw [hlt] at hge
    cases hge
  rw [takeLeast, hleast, Option.bind_some, takeFirst_append hother (decide_eq_true rfl)]

/-- Tag order, then the order of nodes (R26). -/
theorem issuedLt_of_before {x y : Issued} (h : tagLt x.tag y.tag = true ∨ (x.tag = y.tag ∧ x.node < y.node)) :
    issuedLt x y = true ∧ issuedLt y x = false := by
  simp only [issuedLt, tagLt] at h ⊢
  obtain h | ⟨htag, hnode⟩ := h
  · have hlt := of_decide_eq_true h
    have hne : y.tag ≠ x.tag := fun he => by rw [he] at hlt; exact Nat.lt_irrefl _ hlt
    simp only [hlt, decide_true, Bool.true_or, hne, decide_false, Bool.false_and, Bool.or_false, decide_eq_false_iff_not, true_and]
    exact Nat.lt_asymm hlt
  · simp [htag, hnode, Nat.le_of_lt hnode]

/-- The first in tag order of the answered accesses of blocks issues again (R122). -/
theorem parkedAccessReissue_eq {x : ParkedAcc} {l l' : List ParkedAcc} (hidle : s.issue = none)
    (hparked : (s.region r).parked = l ++ x :: l')
    (hfirst : ∀ y ∈ l ++ l', y.answered = true → tagLt x.op.tag y.op.tag = true ∨ (x.op.tag = y.op.tag ∧ x.op.node < y.op.node))
    (hx : x.answered = true) {q bc k : Nat} (hs : x.op.site = .block q bc k) : exec (.parkedAccessReissue r) s =
      .next { s.setRegion r { s.region r with parked := l ++ l' } with issue := some x.op } := by
  have hleast : takeLeast (fun (x y : ParkedAcc) => issuedLt x.op y.op) (fun (p : ParkedAcc) => p.answered && !(s.frozenOp p.op))
      (s.region r).parked = some (x, l ++ l') := by
    rw [hparked]
    refine takeLeast_of_before (by simp [hx, State.frozenOp, hs]) fun y hy hp => issuedLt_of_before (hfirst y hy ?_)
    exact (Bool.and_eq_true _ _ ▸ hp).1
  show execParkedAccessReissue r s = _
  simp only [execParkedAccessReissue, hidle, hleast, State.unparkEntry, hs]

end Sys2Proof.Proofs
end

section

/-!
The pager corner (R118, R123, R125): frames, the answer for a page, and the two steps of a migration.
-/

namespace Sys2Proof.Proofs

open Sys2Proof Sys2Proof.Machine Sys2Proof.Claims

variable {s : State} {c : Ctx} {size : Nat}

/- Frames. -/

/-- An aligned frame that is the whole first range of a pool leaves the others (log 43). -/
theorem takeFrame_first {frame : Nat} (l : List (Nat × Nat)) (hsize : 0 < size) (h : frame % size = 0) :
    takeFrame size ((frame, size) :: l) = some (frame, l) := by
  obtain ⟨k, rfl⟩ := Nat.dvd_of_mod_eq_zero h
  have hup : (size * k + size - 1) / size * size = size * k := by
    have hdiv : (size * k + size - 1) / size = k := by
      rw [Nat.add_sub_assoc hsize, Nat.mul_add_div hsize, Nat.div_eq_of_lt (by omega), Nat.add_zero]
    rw [hdiv, Nat.mul_comm]
  simp [takeFrame, hup]

/-- A leaf without a run code is one page (R120). -/
theorem runSize_single {w : Word} (h : w.toNat / 2 ^ 2 % 2 ^ 3 = 0) : runSize 0 12 w = (1, 4096) := by
  have hrun : bits w.toNat 2 3 = 0 := h
  simp [runSize, hrun, runOf]

theorem outside_page {page va : Nat} : outside (page / 4096 * 4096) 4096 va = !decide (va / 4096 = page / 4096) := by
  rw [outside, ← decide_not, ← Bool.decide_or]
  exact decide_eq_decide.2 (by omega)

/- The answer for a page. -/

/-- No memory tile has a generator under way. -/
def NoGens (s : State) : Prop := ∀ t, (s.mtile t).gens = []

theorem noGens_of_mtiles {u : State} (hu : u.mtiles = s.mtiles) (h : NoGens s) : NoGens u := by
  intro t
  have := h t
  rwa [State.mtile, ← hu] at this

theorem gen_of_noGens (h : NoGens s) (t : TileId) (g : Nat) : (s.mtile t).gen g = Gen.idle := by
  rw [MTile.gen, h t]
  rfl

/-- Without generators none goes on (R125). -/
theorem resumeGens_of_noGens (h : NoGens s) (c : Ctx) : s.resumeGens c = s := by
  have hpaused (t : TileId) (g : Nat) : ((s.mtile t).gen g).paused = false := by rw [gen_of_noGens h]; rfl
  have hinner (t : TileId) (gs : List Nat) :
      gs.foldl (fun s g => if ((s.mtile t).gen g).paused then (s.repatch c t g).2 else s) s = s := by
    induction gs with
    | nil => rfl
    | cons g gs ih => rw [List.foldl_cons, hpaused, if_neg Bool.false_ne_true, ih]
  unfold State.resumeGens
  induction s.mtiles.filter fun (m : TileId × MTile) => m.2.active.any (·.ctx = c.num) with
  | nil => rfl
  | cons m ms ih => rw [List.foldl_cons, hinner, ih]

/-- A parked access that an answer for a page releases (R122). -/
def released (c : Ctx) (base size : Nat) (p : ParkedAcc) : ParkedAcc :=
  if p.op.ctx = c.num && !(outside base size p.va) then { p with answered := true } else p

/-- The pager's faults and the parked accesses as the answer for a page leaves them (R122, R123). -/
def pageAnswered (s : State) (c : Ctx) (base size : Nat) : State :=
  { s with
    pager := { s.pager with faults := s.pager.faults.filter fun f => !(f.2.ctx = c.num && !(outside base size f.2.va)) }
    regions := s.regions.map fun (g : Nat × Region) => (g.1, { g.2 with parked := g.2.parked.map (released c base size) }) }

/-- The answer changes them alone. -/
theorem answerPage_of_noGens (h : NoGens s) (c : Ctx) (base size : Nat) :
    s.answerPage c base size = pageAnswered s c base size := by
  have hanswer : s.answerPage c base size = (pageAnswered s c base size).resumeGens c := rfl
  have hidle : NoGens (pageAnswered s c base size) := h
  exact hanswer.trans (resumeGens_of_noGens hidle c)

/-- Every parked access of the page is released. -/
theorem parked_pageAnswered {page r : Nat} {x : ParkedAcc}
    (hx : x ∈ ((pageAnswered s c (page / 4096 * 4096) 4096).region r).parked) (hctx : x.op.ctx = c.num)
    (hva : x.va / 4096 = page / 4096) : x.answered = true := by
  have hlook := look_map (fun _ (g : Region) => { g with parked := g.parked.map (released c (page / 4096 * 4096) 4096) })
    r s.regions
  simp only [pageAnswered, State.region, lookD, hlook] at hx
  cases hr : look r s.regions with
  | none => simp [hr, Region.reset] at hx
  | some g =>
    simp only [hr, Option.map_some, Option.getD_some, List.mem_map] at hx
    obtain ⟨p, -, rfl⟩ := hx
    have hkept : (released c (page / 4096 * 4096) 4096 p).op = p.op ∧ (released c (page / 4096 * 4096) 4096 p).va = p.va := by
      unfold released
      split <;> exact ⟨rfl, rfl⟩
    rw [hkept.1] at hctx
    rw [hkept.2] at hva
    rw [released, outside_page, if_pos (by simp [hctx, hva])]

/- PAGER_FAULT_SERVICE. -/

/-- A frame of tier 1, zeroed, with the leaf that names it. -/
def placed (s : State) (pa frame : Nat) (w : Word) (free : List (Nat × Nat)) : State :=
  ({ s with
    pager := { s.pager with free1 := free }
    main := s.main.zeroFrame frame 4096 } : State).writeLeaf pa 1 (leafWord w false frame)

/-- The pager gives a page that is not present the first frame of tier 1 (R123). -/
theorem servePage_placed {f : PageFault} {pa frame : Nat} {w : Word} {free : List (Nat × Nat)} (d : Die)
    (hctx : s.ctx? f.ctx = some c) (hwalk : s.walk c.root f.va = .park) (hleaf : s.leafAt c.root f.va = some (pa, 0, 12, w))
    (hpst : w.toNat / 2 ^ 60 = 1) (hrun : w.toNat / 2 ^ 2 % 2 ^ 3 = 0) (hframe : frame % 4096 = 0)
    (hfree : s.pager.free1 = (frame, 4096) :: free) :
    s.servePage d f = some ((placed s pa frame w free).answerPage c (f.va / 4096 * 4096) 4096) := by
  have hbits : bits w.toNat 60 4 = 1 := (bits_high w 60 (by decide)).trans hpst
  have halloc : s.allocFrame 4096 = some (false, frame, { s with pager := { s.pager with free1 := free } }) := by
    rw [State.allocFrame, hfree, takeFrame_first free (by decide) hframe]
  simp only [State.servePage, hctx, hleaf, runSize_single hrun, hwalk, hbits, halloc, ne_eq, not_true, if_false]
  rfl

/-- A die's only fault flit is served (R123). -/
theorem pagerFaultService_eq {d : Die} {f : PageFault} {u : State} (hf : s.pager.faults = [(d, f)]) (h : s.servePage d f = some u) :
    exec (.pagerFaultService d) s = .next u := by
  show execPagerFaultService d s = _
  have hfirst : s.pager.faults.findSome? (fun x => if x.1 = d then s.servePage d x.2 else none) = some u := by
    simp [hf, h]
  simp only [execPagerFaultService, hfirst]

/- Moved pages. -/

/-- What stands in a canonical memory is read there. -/
theorem cellGet_of_mem {l : List Host.Cell} (hwf : cellsWf l = true) {x : Host.Cell} (hx : x ∈ l) : cellGet l x.1 = x.2 := by
  induction l with
  | nil => cases hx
  | cons y l ih =>
    obtain ⟨a, b⟩ := y
    obtain ⟨-, ha, hl⟩ := (cellsWf_cons a b l).1 hwf
    obtain rfl | hx := List.mem_cons.1 hx
    · simp [cellGet]
    · rw [cellGet, if_neg (Nat.ne_of_lt (ha x hx)), ih hl hx]

theorem cellGet_of_absent {l : List Host.Cell} {k : Nat} (h : ∀ x ∈ l, x.1 ≠ k) : cellGet l k = unlisted := by
  induction l with
  | nil => rfl
  | cons y l ih =>
    obtain ⟨hy, hl⟩ := List.forall_mem_cons.1 h
    rw [cellGet, if_neg hy, ih hl]

/-- Bytes written one by one, each where a function puts it: one at which all that go there agree. -/
theorem cellGet_foldl_cellPut (f : Nat → Nat) (x : Nat) (v : Byte) (l : List Host.Cell) (h : ∀ y ∈ l, f y.1 = x → y.2 = v) :
    ∀ m : List Host.Cell, cellsWf m = true → cellGet (l.foldl (fun b y => cellPut b (f y.1) y.2) m) x =
      if ∃ y ∈ l, f y.1 = x then v else cellGet m x := by
  induction l with
  | nil => intro m _; simp
  | cons y l ih =>
    intro m hm
    obtain ⟨hy, hl⟩ := List.forall_mem_cons.1 h
    rw [List.foldl_cons, ih hl _ (cellsWf_cellPut _ _ _ hm), cellGet_cellPut _ _ _ _ hm]
    by_cases hx : f y.1 = x
    · have hsome : ∃ z ∈ y :: l, f z.1 = x := ⟨y, List.mem_cons_self, hx⟩
      rw [if_pos hx.symm, hy hx, if_pos hsome, ite_self]
    · have hrest : (∃ z ∈ l, f z.1 = x) ↔ ∃ z ∈ y :: l, f z.1 = x := by simp only [List.exists_mem_cons_iff, hx, false_or]
      rw [if_neg (Ne.symm hx)]
      exact if_congr hrest rfl rfl

/-- Memory after a page has moved to a frame that it does not meet (R123). -/
theorem cellGet_movePage {m : Main} {old new : Nat} (hwf : cellsWf m.cells = true) (hapart : old + size ≤ new ∨ new + size ≤ old)
    (x : Nat) : cellGet (m.movePage old new size).cells x = if new ≤ x ∧ x < new + size then cellGet m.cells (old + (x - new))
      else if old ≤ x ∧ x < old + size then unlisted else cellGet m.cells x := by
  have hin (y : Host.Cell) (hy : y ∈ m.cells.filter fun c => !(outside old size c.1)) :
      y ∈ m.cells ∧ old ≤ y.1 ∧ y.1 < old + size ∧ (if outside old size y.1 then y.1 else y.1 - old + new) = y.1 - old + new := by
    obtain ⟨hmem, hin⟩ := List.mem_filter.1 hy
    have hout : outside old size y.1 = false := by simpa using hin
    have hrange : ¬ (y.1 < old ∨ old + size ≤ y.1) := by simpa [outside] using hout
    exact ⟨hmem, by omega, by omega, by rw [hout, if_neg Bool.false_ne_true]⟩
  have hrest := cellsWf_cellsZero _ old size (cellsWf_cellsZero _ new size hwf)
  rw [Main.movePage, cellGet_foldl_cellPut (fun a => if outside old size a then a else a - old + new) x
    (cellGet m.cells (old + (x - new))) _ ?agree _ hrest, cellGet_cellsZero, cellGet_cellsZero]
  case agree =>
    intro y hy hyx
    obtain ⟨hmem, hlow, hhigh, hto⟩ := hin y hy
    have hyx : y.1 - old + new = x := hto.symm.trans hyx
    have hkey : old + (x - new) = y.1 := by omega
    rw [hkey, cellGet_of_mem hwf hmem]
  by_cases hx : new ≤ x ∧ x < new + size
  · rw [if_pos hx, if_pos hx, if_neg (by omega : ¬ (old ≤ x ∧ x < old + size))]
    split
    · rfl
    · next hnone =>
      refine (cellGet_of_absent fun y hy hkey => hnone ⟨y, List.mem_filter.2 ⟨hy, ?_⟩, ?_⟩).symm
      · have hrange : ¬ (y.1 < old ∨ old + size ≤ y.1) := by omega
        simpa [outside] using hrange
      · have hout : outside old size y.1 = false := by
          have hrange : ¬ (y.1 < old ∨ old + size ≤ y.1) := by omega
          simpa [outside] using hrange
        rw [hout, if_neg Bool.false_ne_true]
        omega
  · rw [if_neg hx, if_neg hx, if_neg]
    rintro ⟨y, hy, hyx⟩
    obtain ⟨-, hlow, hhigh, hto⟩ := hin y hy
    have hyx : y.1 - old + new = x := hto.symm.trans hyx
    omega

/- PAGE_MIGRATION. -/

/-- A frame of tier 2 is taken for a page of tier 1, whose leaf says that it is in transit. -/
def departing (s : State) (num page pa new : Nat) (w : Word) (free : List (Nat × Nat)) : State :=
  ({ s with pager := { s.pager with free2 := free, moving := s.pager.moving ++ [⟨num, page, 4096, new⟩] } } : State).writeLeaf pa 1
    (transitWord w)

/-- The pager's XLINV of a page of a context without memory planes (R123, R125). -/
theorem pagerXlinv_unplanned (h : Unplanned s c.num) (base size : Nat) :
    s.pagerXlinv c base size = withoutPages s c.num base size (regionsOf (2 ^ 42 - 1)) := by
  rw [State.pagerXlinv]
  generalize regionsOf (2 ^ 42 - 1) = rs
  exact congrArg Prod.snd (repatchAll_unplanned (unplanned_withoutPages base size rs h) base size rs)

/-- The first step of a migration out of tier 1 (R123, R125). -/
theorem beginMove_eq {page pa new : Nat} {w : Word} {free : List (Nat × Nat)} (hplane : Unplanned s c.num)
    (h9 : w.getLsbD 9 = false) (hfeature : s.hasFeature 0 = true) (hfree : s.pager.free2 = (new, 4096) :: free)
    (hnew : new % 4096 = 0) : s.beginMove c page 4096 pa 1 w =
      withoutPages (departing s c.num page pa new w free) c.num page 4096 (regionsOf (2 ^ 42 - 1)) := by
  have hplane : Unplanned (departing s c.num page pa new w free) c.num := hplane
  rw [← pagerXlinv_unplanned hplane]
  simp only [State.beginMove, h9, hfeature, hfree, takeFrame_first free (by decide) hnew, Bool.not_false, Bool.not_true,
    Bool.and_false, Bool.false_eq_true, if_false, if_true]
  rfl

/-- A page has arrived in its new frame, which its leaf names; its old frame is free (R123). -/
def migrated (s : State) (x : PageMove) (pa : Nat) (w : Word) : State :=
  (({ s with
    pager := { s.pager with moving := s.pager.moving.filter (· ≠ x) }
    main := s.main.movePage (leafBase w) x.frame x.size
    reds := s.reds.map (Reduction.rebase (leafBase w) x.frame x.size) } : State).writeLeaf pa 1
      (leafWord w (!(inTier1 x.frame)) x.frame)).freeFrame (leafBase w) x.size

theorem mtiles_migrated (s : State) (x : PageMove) (pa : Nat) (w : Word) : (migrated s x pa w).mtiles = s.mtiles := by
  simp only [migrated, State.freeFrame]
  rfl

theorem main_freeFrame (s : State) (base size : Nat) : (s.freeFrame base size).main = s.main := rfl

theorem cells_migrated {x : PageMove} {pa : Nat} (h : pa % 8 = 0) (w : Word) : (migrated s x pa w).main.cells =
    cellsPut (s.main.movePage (leafBase w) x.frame x.size).cells pa
      (bytesOf 8 (leafWord w (!(inTier1 x.frame)) x.frame).toNat) := by
  rw [migrated, main_freeFrame, cells_writeLeaf h]

theorem moving_freeFrame (s : State) (base size : Nat) : (s.freeFrame base size).pager.moving = s.pager.moving := by
  unfold State.freeFrame
  split <;> rfl

theorem moving_migrated (x : PageMove) (pa : Nat) (w : Word) :
    (migrated s x pa w).pager.moving = s.pager.moving.filter (· ≠ x) := by
  rw [migrated, moving_freeFrame]
  rfl

theorem scatters_migrated (s : State) (x : PageMove) (pa : Nat) (w : Word) : (migrated s x pa w).scatters = s.scatters := by
  simp only [migrated, State.freeFrame]
  rfl

/-- The last step of a migration (R123, R318). -/
theorem endMove_eq {x : PageMove} {pa : Nat} {w : Word} (hgens : NoGens s) (hplane : Unplanned s c.num) (hscat : s.scatters = [])
    (hleaf : s.leafAt c.root x.base = some (pa, 0, 12, w)) (hrun : w.toNat / 2 ^ 2 % 2 ^ 3 = 0) (h0 : w.getLsbD 0 = false)
    (hpst : w.toNat / 2 ^ 60 = 2) : s.endMove c x = (migrated s x pa w).answerPage c x.base x.size := by
  have hbits : bits w.toNat 60 4 = 2 := (bits_high w 60 (by decide)).trans hpst
  have hleaf : ({ s with pager := { s.pager with moving := s.pager.moving.filter (· ≠ x) } } : State).leafAt c.root x.base =
      some (pa, 0, 12, w) := hleaf
  have hmtiles := mtiles_migrated s x pa w
  have hscat : (pageAnswered (migrated s x pa w) c x.base x.size).scatters = [] := (scatters_migrated s x pa w).trans hscat
  have hplane : Unplanned (pageAnswered (migrated s x pa w) c x.base x.size) c.num := unplanned_of_mtiles hmtiles hplane
  have hend : s.endMove c x = (((migrated s x pa w).answerPage c x.base x.size).repatchAll c x.base x.size
      (regionsOf (2 ^ 42 - 1))).2.resumeScatters c.num x.base x.size := by
    rw [State.endMove]
    simp only [hleaf, h0, hbits, runSize_single hrun, Bool.false_or, ne_eq, not_true, decide_false, Bool.false_eq_true, if_false]
    rfl
  rw [hend, answerPage_of_noGens (noGens_of_mtiles hmtiles hgens), repatchAll_unplanned hplane, resumeScatters_of_none hscat]

end Sys2Proof.Proofs
end

section

/-!
Paging (R110, R120, R122, R123): what the ports and the pager corner do, clause by clause.
-/

namespace Sys2Proof.Proofs

open Sys2Proof Sys2Proof.Machine Sys2Proof.Claims

variable {s : State} {c : Ctx} {r : Nat}

/- Ports. -/

/-- A block's access to a page that is not present parks, and a fault flit sets out (R122). -/
theorem parkOp_asks {op : Issued} {va q bc k : Nat} {rest : List (Issued × Nat)} (hs : op.site = .block q bc k)
    (hnew : ∀ f ∈ s.pageFaults, f.ctx = op.ctx → f.va ≠ va) (hr : r < 42) : ∃ f : Flit,
    let u := (walkTaken s r rest).parkOp r op va
    (u.region r).parked = (s.region r).parked ++ [⟨op, va, false⟩] ∧ (u.region r).walks = rest ∧
      (u.ctile (firstTile r)).inject = (s.ctile (firstTile r)).inject ++ [f] ∧ f.typ = 4 ∧
      f.dst = ⟨if r < 21 then .w else .e, 0, 0⟩ ∧ f.cargo = .fault ⟨op.ctx, va, r, false⟩ := by
  obtain ⟨data, hask⟩ := askPager_new (r := r) (s := (walkTaken s r rest).setRegion r { (walkTaken s r rest).region r with
    parked := ((walkTaken s r rest).region r).parked ++ [⟨op, va, false⟩] }) (ctx := op.ctx) hnew
  obtain ⟨htyp, hdst⟩ := flit_toPager (dieOf (r / 21)) data (.fault ⟨op.ctx, va, r, false⟩)
  have hdst := hdst.trans (congrArg (TileId.mk · 0 0) (die_of_region hr))
  refine ⟨⟨flitCtl ⟨dieOf (r / 21), 0, 0⟩ 0 0 0 4, data, .fault ⟨op.ctx, va, r, false⟩⟩, ?_⟩
  rw [parkOp_block hs, hask]
  refine ⟨?_, ?_, ?_, htyp, hdst, rfl⟩
  · rw [State.setCtile_region, State.region_setRegion_same, walkTaken, State.region_setRegion_same]
  · rw [State.setCtile_region, State.region_setRegion_same, walkTaken, State.region_setRegion_same]
  · rw [State.ctile_setCtile_same, State.setRegion_ctile, walkTaken, State.setRegion_ctile]

/- The pager corner. -/

theorem faults_pageAnswered {d : Die} {f : PageFault} {page : Nat} (hf : s.pager.faults = [(d, f)]) (hctx : f.ctx = c.num)
    (hva : f.va / 4096 = page / 4096) : (pageAnswered s c (page / 4096 * 4096) 4096).pager.faults = [] := by
  simp [pageAnswered, hf, hctx, outside_page, hva]

/-- A page that is given a frame (R118, R123). -/
theorem placed_spec {pa frame : Nat} (w : Word) (free : List (Nat × Nat)) (hinv : MemoryInv s) (hpa : pa % 8 = 0)
    (hrun : w.toNat / 2 ^ 2 % 2 ^ 3 = 0) (hapart : pa + 8 ≤ frame ∨ frame + 4096 ≤ pa) : let u := placed s pa frame w free
    (∀ x, frame ≤ x → x < frame + 4096 → u.byteAt x = 0) ∧
    (let v := (u.wordAt pa).toNat
     v % 4 = 3 ∧ v / 2 ^ 12 % 2 ^ 40 = frame / 4096 % 2 ^ 40 ∧ v / 2 ^ 5 % 2 ^ 4 = w.toNat / 2 ^ 5 % 2 ^ 4 ∧ v.testBit 9 = false) ∧
    ∀ x, (x < frame ∨ frame + 4096 ≤ x) → (x < pa ∨ pa + 8 ≤ x) → u.byteAt x = s.byteAt x := by
  have hcells : (placed s pa frame w free).main.cells =
      cellsPut (cellsZero s.main.cells frame 4096) pa (bytesOf 8 (leafWord w false frame).toNat) := cells_writeLeaf hpa _
  have hzeroed (x : Nat) (hx : x < pa ∨ pa + 8 ≤ x) : (placed s pa frame w free).byteAt x =
      if frame ≤ x ∧ x < frame + 4096 then 0 else s.byteAt x := by
    rw [State.byteAt, hcells, cellGet_cellsPut_outside _ _ _ _ (cellsWf_cellsZero _ _ _ hinv.1) (by rw [length_bytesOf]; exact hx),
      cellGet_cellsZero]
    rfl
  have hword := wordAt_written (s := { s with main := s.main.zeroFrame frame 4096 }) (leafWord w false frame)
    (cellsWf_cellsZero _ _ _ hinv.1) hcells
  refine ⟨fun x hlow hhigh => ?_, ?_, fun x hx hx' => ?_⟩
  · rw [hzeroed x (by omega), if_pos ⟨hlow, hhigh⟩]
  · rw [hword]
    exact leafWord_fields w false frame hrun
  · rw [hzeroed x hx', if_neg (by omega)]

/-- A migration that begins (R123). -/
theorem departing_spec {page pa new : Nat} (w : Word) (free : List (Nat × Nat)) (hinv : MemoryInv s) (hpa : pa % 8 = 0) :
    let u := departing s c.num page pa new w free
    (let v := (u.wordAt pa).toNat; v % 2 = 0 ∧ v / 2 ^ 60 = 2 ∧ ∀ i, 1 ≤ i → i < 60 → v.testBit i = w.getLsbD i) ∧
    ∀ x, (x < pa ∨ pa + 8 ≤ x) → u.byteAt x = s.byteAt x := by
  have hcells : (departing s c.num page pa new w free).main.cells = cellsPut s.main.cells pa (bytesOf 8 (transitWord w).toNat) :=
    cells_writeLeaf hpa _
  refine ⟨?_, fun x hx => byteAt_outside _ hinv.1 hcells hx⟩
  rw [wordAt_written _ hinv.1 hcells]
  exact transitWord_fields w

/-- A page that has arrived (R123). -/
theorem migrated_spec {page pa new : Nat} (w : Word) (hinv : MemoryInv s) (hpa : pa % 8 = 0) (hrun : w.toNat / 2 ^ 2 % 2 ^ 3 = 0)
    (hnew : 2 ^ 39 ≤ new) (hframes : leafBase w + 4096 ≤ new ∨ new + 4096 ≤ leafBase w)
    (hto : pa + 8 ≤ new ∨ new + 4096 ≤ pa) :
    let u := migrated s ⟨c.num, page, 4096, new⟩ pa w
    (∀ i, i < 4096 → u.byteAt (new + i) = s.byteAt (leafBase w + i)) ∧
    (let v := (u.wordAt pa).toNat
     v % 4 = 3 ∧ v / 2 ^ 12 % 2 ^ 40 = new / 4096 % 2 ^ 40 ∧ v.testBit 9 = true ∧ v / 2 ^ 5 % 2 ^ 4 = w.toNat / 2 ^ 5 % 2 ^ 4) ∧
    ∀ x, (x < leafBase w ∨ leafBase w + 4096 ≤ x) → (x < new ∨ new + 4096 ≤ x) → (x < pa ∨ pa + 8 ≤ x) →
      u.byteAt x = s.byteAt x := by
  have htier : (!(inTier1 new)) = true := by simp [inTier1]; omega
  have hwf := cellsWf_movePage s.main (leafBase w) new 4096 hinv.1
  have hcells : (migrated s ⟨c.num, page, 4096, new⟩ pa w).main.cells =
      cellsPut (s.main.movePage (leafBase w) new 4096).cells pa (bytesOf 8 (leafWord w true new).toNat) :=
    (cells_migrated hpa w).trans (by rw [htier])
  have hbyte (x : Nat) (hx : x < pa ∨ pa + 8 ≤ x) : (migrated s ⟨c.num, page, 4096, new⟩ pa w).byteAt x =
      cellGet (s.main.movePage (leafBase w) new 4096).cells x := by
    rw [State.byteAt, hcells, cellGet_cellsPut_outside _ _ _ _ hwf (by rw [length_bytesOf]; exact hx)]
  have hword := wordAt_written (s := { s with main := s.main.movePage (leafBase w) new 4096 }) (leafWord w true new) hwf hcells
  obtain ⟨hlow, hframe, hmode, h9⟩ := leafWord_fields w true new hrun
  refine ⟨fun i hi => ?_, ?_, fun x hx hx' hx'' => ?_⟩
  · rw [hbyte _ (by omega), cellGet_movePage hinv.1 hframes, if_pos (by omega), Nat.add_sub_cancel_left]
    rfl
  · rw [hword]
    exact ⟨hlow, hframe, h9, hmode⟩
  · rw [hbyte x hx'', cellGet_movePage hinv.1 hframes, if_neg (by omega), if_neg (by omega)]
    rfl

/-- A present page begins to move (R123). -/
theorem pageMigration_begins {num page pa : Nat} {w leaf : Word} (hctx : s.ctx? num = some c) (hleaf : s.leafAt c.root page =
    some (pa, 0, 12, w)) (hrun : w.toNat / 2 ^ 2 % 2 ^ 3 = 0) (hwalk : s.walk c.root page = .page page 4096 leaf)
    (hstill : ∀ x ∈ s.pager.moving, x.ctx = num → x.base + x.size ≤ page ∨ page < x.base) :
    exec (.pageMigration num page) s = .next (s.beginMove c page 4096 pa 1 w) := by
  have hfind : (s.pager.moving.find? fun x => x.ctx = num && spansMeet x.base x.size page 1) = none := by
    refine List.find?_eq_none.2 fun x hx => ?_
    simp only [spansMeet, Bool.and_eq_true, decide_eq_true_eq, not_and]
    intro hnum hmeet
    have := hstill x hx hnum
    omega
  show execPageMigration num page s = _
  simp only [execPageMigration, hctx, hfind, hleaf, hwalk, runSize_single hrun]

/-- A page in transit arrives (R123). -/
theorem pageMigration_ends {num page new : Nat} (hctx : s.ctx? num = some c) (hmoving : s.pager.moving = [⟨num, page, 4096, new⟩])
    (hwaits : s.moveWaits ⟨num, page, 4096, new⟩ = false) :
    exec (.pageMigration num page) s = .next (s.endMove c ⟨num, page, 4096, new⟩) := by
  have hfind : (s.pager.moving.find? fun x => x.ctx = num && spansMeet x.base x.size page 1) = some ⟨num, page, 4096, new⟩ := by
    rw [hmoving, List.find?_singleton, if_pos]
    simp [spansMeet]
  show execPageMigration num page s = _
  simp only [execPageMigration, hctx, hfind, hwaits, Bool.false_eq_true, if_false]

theorem mem_everyRegion {r : Nat} (hr : r < 42) : r ∈ regionsOf (2 ^ 42 - 1) :=
  mem_regionsOf.2 ⟨hr, by rw [Nat.testBit_two_pow_sub_one, decide_eq_true hr]⟩

/-- The port's answers to the first access that missed, a clause of Claims.Paging. -/
theorem walkAnswers {op : Issued} {va : Nat} {rest : List (Issued × Nat)} (hidle : s.issue = none)
    (hwalks : (s.region r).walks = (op, va) :: rest) (hctx : s.ctx? op.ctx = some c) {base size : Nat} {leaf : Word}
    (hw : s.walk c.root va = .page base size leaf) : ∃ u : State, exec (.pageWalk r) s = .next u ∧ u.issue = some op ∧
      (u.region r).walks = rest ∧ ⟨op.ctx, base, size, leaf⟩ ∈ (u.region r).tc ∧ u.main = s.main ∧ u.mtiles = s.mtiles := by
  obtain ⟨l, hfill⟩ := tcFill_eq (walkTaken s r rest) r op.ctx base size leaf
  have hregion : (((walkTaken s r rest).tcFill r op.ctx base size leaf).region r) =
      { (walkTaken s r rest).region r with tc := l ++ [⟨op.ctx, base, size, leaf⟩] } := by
    rw [hfill, State.region_setRegion_same]
  have hwalks' : ((walkTaken s r rest).region r).walks = rest := by rw [walkTaken, State.region_setRegion_same]
  refine ⟨_, pageWalk_page hidle hwalks hctx hw, rfl, ?_, ?_, rfl, rfl⟩
  · exact (congrArg Region.walks hregion).trans hwalks'
  · exact (congrArg Region.tc hregion) ▸ List.mem_append_right _ (List.mem_singleton.2 rfl)

/-- The pager serves a page that is not present, a clause of Claims.Paging. -/
theorem pageServed {d : Die} {f : PageFault} {pa frame : Nat} {w : Word} {free : List (Nat × Nat)} (hinv : MemoryInv s)
    (hfaults : s.pager.faults = [(d, f)]) (hctx : s.ctx? f.ctx = some c) (hnum : c.num = f.ctx) (hwalk : s.walk c.root f.va = .park)
    (hleaf : s.leafAt c.root f.va = some (pa, 0, 12, w)) (hpst : w.toNat / 2 ^ 60 = 1) (hrun : w.toNat / 2 ^ 2 % 2 ^ 3 = 0)
    (hframe : frame % 4096 = 0) (hfree : s.pager.free1 = (frame, 4096) :: free) (hpa : pa % 8 = 0)
    (hapart : pa + 8 ≤ frame ∨ frame + 4096 ≤ pa) (hgens : NoGens s) : ∃ u : State,
    exec (.pagerFaultService d) s = .next u ∧ u.pager.faults = [] ∧ u.pager.free1 = free ∧
      (∀ x, frame ≤ x → x < frame + 4096 → u.byteAt x = 0) ∧
      (let v := (u.wordAt pa).toNat
       v % 4 = 3 ∧ v / 2 ^ 12 % 2 ^ 40 = frame / 4096 % 2 ^ 40 ∧ v / 2 ^ 5 % 2 ^ 4 = w.toNat / 2 ^ 5 % 2 ^ 4 ∧ v.testBit 9 = false) ∧
      (∀ x, (x < frame ∨ frame + 4096 ≤ x) → (x < pa ∨ pa + 8 ≤ x) → u.byteAt x = s.byteAt x) ∧
      ∀ r x, x ∈ (u.region r).parked → x.op.ctx = c.num → x.va / 4096 = f.va / 4096 → x.answered = true := by
  have hgens : NoGens (placed s pa frame w free) := hgens
  have hserved : s.servePage d f = some (pageAnswered (placed s pa frame w free) c (f.va / 4096 * 4096) 4096) := by
    rw [servePage_placed d hctx hwalk hleaf hpst hrun hframe hfree, answerPage_of_noGens hgens]
  obtain ⟨hzero, hword, hother⟩ := placed_spec w free hinv hpa hrun hapart
  exact ⟨_, pagerFaultService_eq hfaults hserved, faults_pageAnswered (s := placed s pa frame w free) hfaults hnum.symm rfl, rfl,
    hzero, hword, hother, fun r x hx => parked_pageAnswered hx⟩

section
variable {page pa new : Nat} {w : Word} (hinv : MemoryInv s) (hctx : s.ctx? c.num = some c) (hpa : pa % 8 = 0)
  (hleaf : s.leafAt c.root page = some (pa, 0, 12, w)) (hrun : w.toNat / 2 ^ 2 % 2 ^ 3 = 0) (h9 : w.getLsbD 9 = false)
include hinv hctx hpa hleaf hrun

include h9 in
/-- A page is first in transit, a clause of Claims.Paging. -/
theorem moveBegins {leaf : Word} {free : List (Nat × Nat)} (hplane : Unplanned s c.num)
    (hwalk : s.walk c.root page = .page page 4096 leaf) (hfeature : s.hasFeature 0 = true)
    (hfree : s.pager.free2 = (new, 4096) :: free) (hnew : new % 4096 = 0)
    (hstill : ∀ x ∈ s.pager.moving, x.ctx = c.num → x.base + x.size ≤ page ∨ page < x.base) : ∃ u : State,
    exec (.pageMigration c.num page) s = .next u ∧ u.pager.free2 = free ∧
      u.pager.moving = s.pager.moving ++ [⟨c.num, page, 4096, new⟩] ∧
      (let v := (u.wordAt pa).toNat; v % 2 = 0 ∧ v / 2 ^ 60 = 2 ∧ ∀ i, 1 ≤ i → i < 60 → v.testBit i = w.getLsbD i) ∧
      (∀ r e, r < 42 → e ∈ (u.region r).tc → e.ctx = c.num → ¬ (e.base < page + 4096 ∧ page < e.base + e.size)) ∧
      ∀ x, (x < pa ∨ pa + 8 ≤ x) → u.byteAt x = s.byteAt x := by
  have hexec := pageMigration_begins hctx hleaf hrun hwalk hstill
  rw [beginMove_eq hplane h9 hfeature hfree hnew] at hexec
  have hevery (r : Nat) (hr : r < 42) : r ∈ regionsOf (2 ^ 42 - 1) := mem_everyRegion hr
  generalize regionsOf (2 ^ 42 - 1) = rs at hexec hevery
  obtain ⟨hword, hother⟩ := departing_spec (c := c) (page := page) (new := new) w free hinv hpa
  have hmain := main_withoutPages (s := departing s c.num page pa new w free) c.num page 4096 rs
  have hpager := pager_withoutPages (s := departing s c.num page pa new w free) c.num page 4096 rs
  refine ⟨_, hexec, congrArg Pager.free2 hpager, congrArg Pager.moving hpager, ?_, fun r e hr he hc hmeet => ?_, fun x hx => ?_⟩
  · rw [wordAt_of_main hmain]
    exact hword
  · exact ((tc_withoutPages ..).1 he).2 (hevery r hr) ⟨hc, hmeet⟩
  · exact (byteAt_of_main hmain x).trans (hother x hx)

/-- Then it arrives with its contents, a clause of Claims.Paging. -/
theorem moveEnds (hpage : page % 4096 = 0) (hgens : NoGens s) (hplane : Unplanned s c.num)
    (hmoving : s.pager.moving = [⟨c.num, page, 4096, new⟩]) (h0 : w.getLsbD 0 = false) (hpst : w.toNat / 2 ^ 60 = 2)
    (hnew : 2 ^ 39 ≤ new) (hwaits : s.moveWaits ⟨c.num, page, 4096, new⟩ = false) (hscat : s.scatters = [])
    (hframes : leafBase w + 4096 ≤ new ∨ new + 4096 ≤ leafBase w) (hto : pa + 8 ≤ new ∨ new + 4096 ≤ pa) : ∃ u : State,
    exec (.pageMigration c.num page) s = .next u ∧ u.pager.moving = [] ∧
      (∀ i, i < 4096 → u.byteAt (new + i) = s.byteAt (leafBase w + i)) ∧
      (let v := (u.wordAt pa).toNat
       v % 4 = 3 ∧ v / 2 ^ 12 % 2 ^ 40 = new / 4096 % 2 ^ 40 ∧ v.testBit 9 = true ∧ v / 2 ^ 5 % 2 ^ 4 = w.toNat / 2 ^ 5 % 2 ^ 4) ∧
      (∀ r x, x ∈ (u.region r).parked → x.op.ctx = c.num → x.va / 4096 = page / 4096 → x.answered = true) ∧
      ∀ x, (x < leafBase w ∨ leafBase w + 4096 ≤ x) → (x < new ∨ new + 4096 ≤ x) → (x < pa ∨ pa + 8 ≤ x) →
        u.byteAt x = s.byteAt x := by
  have hexec := pageMigration_ends hctx hmoving hwaits
  rw [endMove_eq (x := ⟨c.num, page, 4096, new⟩) hgens hplane hscat hleaf hrun h0 hpst] at hexec
  obtain ⟨hmoved, hword, hother⟩ := migrated_spec (c := c) (page := page) w hinv hpa hrun hnew hframes hto
  have hmove := moving_migrated (s := s) ⟨c.num, page, 4096, new⟩ pa w
  have hgens : NoGens (migrated s ⟨c.num, page, 4096, new⟩ pa w) := noGens_of_mtiles (mtiles_migrated ..) hgens
  generalize migrated s ⟨c.num, page, 4096, new⟩ pa w = u at hexec hmove hgens hmoved hword hother
  have hbase : page / 4096 * 4096 = page := Nat.div_mul_cancel (Nat.dvd_of_mod_eq_zero hpage)
  rw [answerPage_of_noGens hgens] at hexec
  refine ⟨_, hexec, ?_, hmoved, hword, fun r x hx => parked_pageAnswered (hbase.symm ▸ hx), hother⟩
  exact hmove.trans (by simp [hmoving])

end

theorem paging : Claims.Paging := by
  refine ⟨fun s root va leaf _ h => walk_smallPage h, fun s r op va rest c hidle hwalks hctx => ⟨fun base size leaf hw =>
    walkAnswers hidle hwalks hctx hw, fun k hw => pageWalk_fault hidle hwalks hctx hw, fun q bc k hs hw hnew hr => ?_⟩,
    fun s r x l l' hidle hparked hfirst hx ⟨q, bc, k, hs⟩ => parkedAccessReissue_eq hidle hparked hfirst hx hs, ?_, ?_⟩
  · obtain ⟨f, hpark⟩ := parkOp_asks (rest := rest) hs hnew hr
    exact ⟨_, f, pageWalk_park hidle hwalks hctx hw, hpark⟩
  · intro s d f c pa low w frame free hinv hfaults hctx hnum hwalk hleaf hlow hpst hrun hframe hfree hpa hapart _ hgens
    subst hlow
    exact pageServed hinv hfaults hctx hnum hwalk hleaf hpst hrun hframe hfree hpa hapart hgens
  · intro s c page pa new w leaf free hinv hctx hpage hpa hleaf hrun h9 hidle _
    have hgens : NoGens s := fun t => (hidle t).1
    have hplane : Unplanned s c.num := by
      intro t p hp
      obtain ⟨-, hactive, hshadow⟩ := hidle t
      simp [hactive, hshadow] at hp
    exact ⟨fun hwalk hfeature hfree hnew hstill =>
        moveBegins hinv hctx hpa hleaf hrun h9 hplane hwalk hfeature hfree hnew hstill,
      fun hmoving h0 hpst hnew hwaits hscat hframes _ hto =>
        moveEnds hinv hctx hpa hleaf hrun hpage hgens hplane hmoving h0 hpst hnew hwaits hscat hframes hto⟩

/-- Settles O49, by what XLINV takes out and by what the ports and the pager corner do. -/
theorem translation : Obligations.Translation := ⟨invalidation, paging⟩

end Sys2Proof.Proofs
end
